-- ==== Sys2Proof/Word.lean ====
section
/-!
DEFINITION. The words of the QM-840: bytes, 32-bit registers, 64-bit values (R3), and the two operand
records that instruction words use everywhere: the predicate guard (R48) and the vector-or-scalar operand (R50).
-/
namespace Sys2Proof

abbrev Byte := BitVec 8
abbrev Half := BitVec 16
abbrev Word := BitVec 32
abbrev DWord := BitVec 64

/-- The predicate field of every instruction word (R48): bit 55 (negate) and bits 54:52 (index). -/
structure Guard where
  neg : Bool
  p   : BitVec 3
deriving DecidableEq, Repr

/-- A vector-or-scalar operand (R50): its file bit and its register number. -/
structure VS where
  sc : Bool
  n  : BitVec 8
deriving DecidableEq, Repr

end Sys2Proof
end

