-- ==== Sys2Proof/Config.lean ====
section
/-!
DEFINITION. What one implementation fixes, and the free values: constants without a body for what the spec leaves open.
Nothing can be proved of a free value, so a statement about one holds for every value it may take.
-/
namespace Sys2Proof.Config

/-- A byte of device memory whose contents the spec leaves undefined (R13): by the count of undefining events and address. -/
opaque freeByte : Nat → Nat → Byte

/-- A byte that a peer answers (R10), whose memory is not this device's: by the count of steps and address. -/
opaque freePeer : Nat → Nat → Byte

/-- Which entry a broken 64 KiB group translates through (R179): by the count of steps and the address translated. -/
opaque freeContEntry : Nat → Nat → Nat

/-- Whether an access uses an entry that its core's TLB keeps, and not the one that the tables now hold (R180): by the count of steps and the address.
-/
opaque freeOldEntry : Nat → Nat → Bool

/-- What the module was given at manufacture for its serial number (R383). -/
opaque deviceSerial : DWord

/-- The serial number: any value but 0 (R383). -/
def serialNumber : DWord := if deviceSerial == 0#64 then 1#64 else deviceSerial

/-- The digest, fused in the package, of the key under which firmware must verify (R388). -/
opaque fusedKey : List Byte

/-- The version that a firmware image holds (R388), at a place that the spec does not give. -/
opaque imageVersion : List Byte → Word

/-- Where the first slot of a launch's save buffer in reserved device memory is wanted (R389): by node. -/
opaque reservedSlot : Nat → Nat

/-- How many 2,048-byte units, above one, a save slot in reserved device memory has (R389): by node. -/
opaque reservedUnits : Nat → Nat

/-- A value the spec leaves open, by the count of steps and its place among the open values of its step. -/
opaque freeWord : Nat → Nat → Word

/-- Contents the spec leaves open of a certificate, measurement or signature (R388): by request kind and the count of steps. -/
opaque freeReply : Nat → Nat → List Byte

end Sys2Proof.Config
end

