-- ==== Sys2Proof/Machine/Codes.lean ====
section
/-!
DEFINITION. The cause codes of R362, by the spec's own names.
-/
namespace Sys2Proof.Machine

abbrev Code.ILLEGAL_OP : Nat := 0x01
abbrev Code.ILLEGAL_TARGET : Nat := 0x02
abbrev Code.REGIDX : Nat := 0x03
abbrev Code.PRIV : Nat := 0x04
abbrev Code.TRAP : Nat := 0x05
abbrev Code.BREAK : Nat := 0x06
abbrev Code.STOP : Nat := 0x07
abbrev Code.PREEMPT : Nat := 0x08
abbrev Code.RESUME : Nat := 0x09
abbrev Code.DOUBLE_FAULT : Nat := 0x0A
abbrev Code.ABORTED : Nat := 0x0B
abbrev Code.VIOLATION : Nat := 0x0C
abbrev Code.JOIN_BUSY : Nat := 0x0D
abbrev Code.REGRP_SPLIT : Nat := 0x0E
abbrev Code.REGRP_MISMATCH : Nat := 0x0F
abbrev Code.REGRP_NEST : Nat := 0x10
abbrev Code.XACQ_SIZE : Nat := 0x11
abbrev Code.XACQ_DEADLOCK : Nat := 0x12
abbrev Code.STACKLIM : Nat := 0x13
abbrev Code.MISALIGN : Nat := 0x14
abbrev Code.XLATE_BAD : Nat := 0x15
abbrev Code.XLATE_MISS : Nat := 0x16
abbrev Code.XLATE_PROT : Nat := 0x17
abbrev Code.PHYS_HOLE : Nat := 0x18
abbrev Code.WINDOW_NONE : Nat := 0x19
abbrev Code.SCR_RANGE : Nat := 0x1A
abbrev Code.BARRIER_CLOBBER : Nat := 0x1B
abbrev Code.BAR_MISMATCH : Nat := 0x1C
abbrev Code.BARRIER_BUSY : Nat := 0x1D
abbrev Code.BARRIER_NONE : Nat := 0x1E
abbrev Code.BARRIER_OVER : Nat := 0x1F
abbrev Code.CHAIN_DESC : Nat := 0x20
abbrev Code.CHAIN_OVERLAP : Nat := 0x21
abbrev Code.RING_EMPTY : Nat := 0x22
abbrev Code.RING_BAD : Nat := 0x23
abbrev Code.ASYNC_ARGS : Nat := 0x24
abbrev Code.KICK_CARD : Nat := 0x25
abbrev Code.HANDLE_BAD : Nat := 0x26
abbrev Code.HANDLE_FULL : Nat := 0x27
abbrev Code.GATH_HANDLE : Nat := 0x28
abbrev Code.GATH_RANGE : Nat := 0x29
abbrev Code.GATH_BLOCK : Nat := 0x2A
abbrev Code.FABRIC_LOST : Nat := 0x2B
abbrev Code.ACC_FULL : Nat := 0x2C
abbrev Code.ACC_TYPE : Nat := 0x2D
abbrev Code.MMA_MISMATCH : Nat := 0x2E
abbrev Code.MMA_LOST : Nat := 0x2F
abbrev Code.MLOOP_ARGS : Nat := 0x30
abbrev Code.MLOOP_FAULT : Nat := 0x31
abbrev Code.MSKETCH_TILE : Nat := 0x32
abbrev Code.MDRAINC_JOB : Nat := 0x33
abbrev Code.TWIN_NONE : Nat := 0x34
abbrev Code.TWIN_LOST : Nat := 0x35
abbrev Code.MGUIDE_SHAPE : Nat := 0x36
abbrev Code.MSTATE_BAD : Nat := 0x37
abbrev Code.TILE_BAD : Nat := 0x38
abbrev Code.TILE_KIND : Nat := 0x39
abbrev Code.TILE_SHAPE : Nat := 0x3A
abbrev Code.HEAP_BAD : Nat := 0x3B
abbrev Code.HEAP_FULL : Nat := 0x3C
abbrev Code.RANKCAP : Nat := 0x3D
abbrev Code.DEADLINE_MISS : Nat := 0x3E
abbrev Code.COL_ARGS : Nat := 0x3F
abbrev Code.COL_TEAM : Nat := 0x40
abbrev Code.COL_FULL : Nat := 0x41
abbrev Code.COL_SLOT : Nat := 0x42
abbrev Code.COL_ENTRY : Nat := 0x43
abbrev Code.WORK_FULL : Nat := 0x44
abbrev Code.SIGNAL_NONE : Nat := 0x45
abbrev Code.COL_MISMATCH : Nat := 0x46
abbrev Code.GRAPH_DESC : Nat := 0x47
abbrev Code.GRAPH_FULL : Nat := 0x48
abbrev Code.GRAPH_NODE : Nat := 0x49
abbrev Code.GRAPH_WAIT : Nat := 0x4A
abbrev Code.LAUNCH_BAD : Nat := 0x4B
abbrev Code.DIGEST_MISMATCH : Nat := 0x4C
abbrev Code.DET_OFF : Nat := 0x4D

end Sys2Proof.Machine
end

