-- ==== Sys2Proof/Syntax.lean ====
section
/-!
DEFINITION. The instructions and hardware steps of the QM-840: one constructor for each row of the opcode table.
An instruction carries its guard and the operand fields its encoding gives it (R48 to R57). A row that is a step of
the hardware or of its host (a timeout, a packet, a host command) has no encoding and no field: what it acts on (its Subject:
a core c, a physical group p, an engine or slot number, the bytes that arrive from outside) stands in the state, where the
step that is about to run puts it, as it does for the core and group whose instruction issues.
-/
namespace Sys2Proof

inductive Instr where
  /-- NOP, R89: Occupies its issue slot and has no other effect. -/
  | nop (g : Guard)
  /-- BRA, R71: Sends the Active lanes to the target; the other lanes fall through, splitting the entry. -/
  | bra (g : Guard) (hint : Bool) (ofs : BitVec 32)
  /-- BRX, R72: Sends each Active lane to the 64-bit address held in its register pair. -/
  | brx (g : Guard) (a : VS)
  /-- CALL, R73: Writes the return address into the link pair and then branches as BRA does. -/
  | call (g : Guard) (hint : Bool) (a : VS) (ofs : BitVec 32)
  /-- CALLX, R73: Writes the return address into the link pair and then branches as BRX does. -/
  | callx (g : Guard) (d : VS) (a : VS)
  /-- RET, R73: Transfers through the link pair as BRX does. -/
  | ret (g : Guard) (a : VS)
  /-- EXIT, R74: Ends the Active lanes and removes them from entries and from the expected masks of rejoin registers. -/
  | exit (g : Guard)
  /-- LOOP, R75: Decrements the counter and sends the lanes whose new count is nonzero to the target. -/
  | loop (g : Guard) (hint : Bool) (a : VS) (ofs : BitVec 32)
  /-- ITER, R76: Tests convergence, the task deadline and the cap, counts the pass, and loops or falls through with a status. -/
  | iter (g : Guard) (hint : Bool) (f64 : Bool) (st : BitVec 3) (a : VS) (ofs : BitVec 32)
  /-- JARM, R78: Arms a rejoin register from a scalar mask and a scalar timeout. -/
  | jarm (g : Guard) (j : BitVec 8) (sa : BitVec 8) (sb : BitVec 8) (ns : Bool)
  /-- JARM_LITERAL, R78: Arms a rejoin register from a literal mask and a timeout code. -/
  | jarmL (g : Guard) (j : BitVec 8) (mask : BitVec 32) (c : BitVec 3)
  /-- JWAIT, R79: Parks the expected Active lanes at a rejoin register, or lets them pass with the flag set. -/
  | jwait (g : Guard) (pd : BitVec 8) (j : BitVec 8)
  /-- JDROP, R81: Removes the Active lanes from a rejoin register's expected mask, which can release or disarm it. -/
  | jdrop (g : Guard) (j : BitVec 8)
  /-- JQRY, R82: Reads one field of a rejoin register into a scalar register. -/
  | jqry (g : Guard) (sd : BitVec 8) (j : BitVec 8) (sel : BitVec 2)
  /-- REGRP, R84: Parks the group until every participant arrives, then deals their lanes to groups with the true lanes first. -/
  | regrp (g : Guard) (sa : BitVec 8) (pb : BitVec 8)
  /-- UNGRP, R85: Parks the lanes until every participant's lanes have arrived, then returns each lane to its original group. -/
  | ungrp (g : Guard) (sa : BitVec 8)
  /-- YIELD, R87: Acts as if every fairness count of the group had reached CTL_FAIR. -/
  | yield (g : Guard)
  /-- SLEEP, R88: Makes the entry ineligible for a count of cycles or nanoseconds taken from a scalar register. -/
  | sleep (g : Guard) (sa : BitVec 8) (ns : Bool)
  /-- SLEEP_LITERAL, R88: Makes the entry ineligible for a literal count of cycles or nanoseconds. -/
  | sleepL (g : Guard) (n : BitVec 32) (ns : Bool)
  /-- IADD, R97: 32-bit add, wrapping or saturating, with register operands. -/
  | iadd (g : Guard) (d : VS) (a : VS) (b : VS) (sat : Bool) (u : Bool)
  /-- IADD_LITERAL, R97: 32-bit add with a literal operand. -/
  | iaddL (g : Guard) (s : Bool) (d : BitVec 8) (a : BitVec 8) (lit : BitVec 32) (sat : Bool) (u : Bool)
  /-- ISUB, R97: 32-bit subtract, wrapping or saturating, with register operands. -/
  | isub (g : Guard) (d : VS) (a : VS) (b : VS) (sat : Bool) (u : Bool)
  /-- ISUB_LITERAL, R97: 32-bit subtract with a literal operand. -/
  | isubL (g : Guard) (s : Bool) (d : BitVec 8) (a : BitVec 8) (lit : BitVec 32) (sat : Bool) (u : Bool)
  /-- IMUL, R97: Low 32 bits of the product, with register operands. -/
  | imul (g : Guard) (d : VS) (a : VS) (b : VS)
  /-- IMUL_LITERAL, R97: Low 32 bits of the product, with a literal operand. -/
  | imulL (g : Guard) (s : Bool) (d : BitVec 8) (a : BitVec 8) (lit : BitVec 32)
  /-- IMULH, R97: High 32 bits of the signed or unsigned product. -/
  | imulh (g : Guard) (d : VS) (a : VS) (b : VS) (u : Bool)
  /-- IMAD, R97: Wrapped 32-bit multiply-add. -/
  | imad (g : Guard) (d : VS) (a : VS) (b : VS) (c : VS)
  /-- IADD64, R98: 64-bit add on register pairs. -/
  | iadd64 (g : Guard) (d : VS) (a : VS) (b : VS)
  /-- IADD64_LITERAL, R98: 64-bit add of a register pair and a sign-extended literal. -/
  | iadd64L (g : Guard) (s : Bool) (d : BitVec 8) (a : BitVec 8) (lit : BitVec 32)
  /-- ISUB64, R98: 64-bit subtract on register pairs. -/
  | isub64 (g : Guard) (d : VS) (a : VS) (b : VS)
  /-- IMAD64, R98: 32 by 32 multiply to 64 bits, plus a 64-bit pair. -/
  | imad64 (g : Guard) (d : VS) (a : VS) (b : VS) (c : VS) (u : Bool)
  /-- ICMP, R99: 32-bit compare of register operands into a predicate. -/
  | icmp (g : Guard) (p : BitVec 8) (a : VS) (b : VS) (cc : BitVec 4)
  /-- ICMP_LITERAL, R99: 32-bit compare with a literal into a predicate. -/
  | icmpL (g : Guard) (s : Bool) (p : BitVec 8) (a : BitVec 8) (lit : BitVec 32) (cc : BitVec 3)
  /-- ICMP64, R99: 64-bit compare of register pairs into a predicate. -/
  | icmp64 (g : Guard) (p : BitVec 8) (a : VS) (b : VS) (cc : BitVec 4)
  /-- ICMP64_LITERAL, R99: 64-bit compare with a sign-extended literal into a predicate. -/
  | icmp64L (g : Guard) (s : Bool) (p : BitVec 8) (a : BitVec 8) (lit : BitVec 32) (cc : BitVec 3)
  /-- IMIN, R97: Signed or unsigned minimum of register operands. -/
  | imin (g : Guard) (d : VS) (a : VS) (b : VS) (u : Bool)
  /-- IMIN_LITERAL, R97: Minimum with a literal operand. -/
  | iminL (g : Guard) (s : Bool) (d : BitVec 8) (a : BitVec 8) (lit : BitVec 32) (u : Bool)
  /-- IMAX, R97: Signed or unsigned maximum of register operands. -/
  | imax (g : Guard) (d : VS) (a : VS) (b : VS) (u : Bool)
  /-- IMAX_LITERAL, R97: Maximum with a literal operand. -/
  | imaxL (g : Guard) (s : Bool) (d : BitVec 8) (a : BitVec 8) (lit : BitVec 32) (u : Bool)
  /-- IABS, R97: Absolute value, optionally saturating. -/
  | iabs (g : Guard) (d : VS) (a : VS) (sat : Bool)
  /-- IADDMIN, R97: Saturating add followed by a minimum. -/
  | iaddmin (g : Guard) (d : VS) (a : VS) (b : VS) (c : VS) (u : Bool)
  /-- AND, R100: Bitwise and of register operands. -/
  | and (g : Guard) (d : VS) (a : VS) (b : VS)
  /-- AND_LITERAL, R100: Bitwise and with a literal. -/
  | andL (g : Guard) (s : Bool) (d : BitVec 8) (a : BitVec 8) (lit : BitVec 32)
  /-- OR, R100: Bitwise or of register operands. -/
  | or (g : Guard) (d : VS) (a : VS) (b : VS)
  /-- OR_LITERAL, R100: Bitwise or with a literal. -/
  | orL (g : Guard) (s : Bool) (d : BitVec 8) (a : BitVec 8) (lit : BitVec 32)
  /-- XOR, R100: Bitwise exclusive-or of register operands. -/
  | xor (g : Guard) (d : VS) (a : VS) (b : VS)
  /-- XOR_LITERAL, R100: Bitwise exclusive-or with a literal. -/
  | xorL (g : Guard) (s : Bool) (d : BitVec 8) (a : BitVec 8) (lit : BitVec 32)
  /-- ANDN, R100: a AND NOT b with register operands. -/
  | andn (g : Guard) (d : VS) (a : VS) (b : VS)
  /-- ANDN_LITERAL, R100: a AND NOT a literal. -/
  | andnL (g : Guard) (s : Bool) (d : BitVec 8) (a : BitVec 8) (lit : BitVec 32)
  /-- NOT, R100: Bitwise complement. -/
  | not (g : Guard) (d : VS) (a : VS)
  /-- SHL, R100: Logical left shift by a register count. -/
  | shl (g : Guard) (d : VS) (a : VS) (b : VS)
  /-- SHL_LITERAL, R100: Logical left shift by a literal count. -/
  | shlL (g : Guard) (s : Bool) (d : BitVec 8) (a : BitVec 8) (lit : BitVec 32)
  /-- SHR, R100: Logical right shift by a register count. -/
  | shr (g : Guard) (d : VS) (a : VS) (b : VS)
  /-- SHR_LITERAL, R100: Logical right shift by a literal count. -/
  | shrL (g : Guard) (s : Bool) (d : BitVec 8) (a : BitVec 8) (lit : BitVec 32)
  /-- SAR, R100: Arithmetic right shift by a register count. -/
  | sar (g : Guard) (d : VS) (a : VS) (b : VS)
  /-- SAR_LITERAL, R100: Arithmetic right shift by a literal count. -/
  | sarL (g : Guard) (s : Bool) (d : BitVec 8) (a : BitVec 8) (lit : BitVec 32)
  /-- SHL64, R100: 64-bit left shift of a pair by a register count. -/
  | shl64 (g : Guard) (d : VS) (a : VS) (b : VS)
  /-- SHL64_LITERAL, R100: 64-bit left shift of a pair by a literal count. -/
  | shl64L (g : Guard) (s : Bool) (d : BitVec 8) (a : BitVec 8) (lit : BitVec 32)
  /-- SHR64, R100: 64-bit logical right shift of a pair by a register count. -/
  | shr64 (g : Guard) (d : VS) (a : VS) (b : VS)
  /-- SHR64_LITERAL, R100: 64-bit logical right shift of a pair by a literal count. -/
  | shr64L (g : Guard) (s : Bool) (d : BitVec 8) (a : BitVec 8) (lit : BitVec 32)
  /-- BFE, R101: Extracts a bit field and zero- or sign-extends it. -/
  | bfe (g : Guard) (d : VS) (a : VS) (b : VS) (c : VS) (u : Bool)
  /-- BFI, R101: Inserts a bit field into a base value. -/
  | bfi (g : Guard) (d : VS) (a : VS) (b : VS) (c : VS)
  /-- POPC, R101: Counts the one bits. -/
  | popc (g : Guard) (d : VS) (a : VS)
  /-- CLZ, R101: Counts the leading zero bits. -/
  | clz (g : Guard) (d : VS) (a : VS)
  /-- BREV, R101: Reverses the order of the 32 bits. -/
  | brev (g : Guard) (d : VS) (a : VS)
  /-- SEL, R102: Selects a or b per lane by a predicate. -/
  | sel (g : Guard) (d : BitVec 8) (a : VS) (b : VS) (pc : BitVec 8)
  /-- MOV, R102: Copies a register or a register pair. -/
  | mov (g : Guard) (d : VS) (a : VS) (b64 : Bool)
  /-- MOV_LITERAL, R102: Writes a 32-bit literal. -/
  | movL (g : Guard) (s : Bool) (d : BitVec 8) (lit : BitVec 32)
  /-- PLOP, R102: Combines three predicates through a truth table. -/
  | plop (g : Guard) (pd : BitVec 8) (pa : BitVec 8) (pb : BitVec 8) (pc : BitVec 8) (lut : BitVec 8)
  /-- QSWP, R109: Exchanges values within a quad, with helper lanes supplying values. -/
  | qswp (g : Guard) (d : BitVec 8) (a : BitVec 8) (k : BitVec 2) (b64 : Bool) (f : Bool) (c : VS)
  /-- QBCST, R109: Broadcasts one lane of each quad to the whole quad. -/
  | qbcst (g : Guard) (d : BitVec 8) (a : BitVec 8) (k : BitVec 2) (b64 : Bool) (f : Bool) (c : VS)
  /-- SHFL, R109: Indexed or xor shuffle within segments, with a register index. -/
  | shfl (g : Guard) (d : BitVec 8) (a : BitVec 8) (b : VS) (w : BitVec 3) (x : Bool) (b64 : Bool) (f : Bool) (c : VS)
  /-- SHFL_LITERAL, R109: Indexed or xor shuffle with a literal index. -/
  | shflL (g : Guard) (d : BitVec 8) (a : BitVec 8) (n : BitVec 5) (x : Bool) (w : BitVec 3)
  /-- LSHF, R109: Shifts values up or down lanes within segments by a register count, with a fill. -/
  | lshf (g : Guard) (d : BitVec 8) (a : BitVec 8) (b : VS) (w : BitVec 3) (dn : Bool) (b64 : Bool) (f : Bool) (c : VS)
  /-- LSHF_LITERAL, R109: Shifts values up or down lanes by a literal count. -/
  | lshfL (g : Guard) (d : BitVec 8) (a : BitVec 8) (n : BitVec 6) (dn : Bool) (w : BitVec 3)
  /-- VOTE, R110: Any, all or uniform vote over the live Active lanes into a predicate. -/
  | vote (g : Guard) (pd : BitVec 8) (pa : BitVec 8) (v : BitVec 2)
  /-- BALLOT, R110: Writes the predicate mask of the live Active lanes to a scalar register. -/
  | ballot (g : Guard) (sd : BitVec 8) (pa : BitVec 8)
  /-- MATCH, R111: Writes to each lane the mask of live lanes holding an equal value. -/
  | matchLanes (g : Guard) (d : BitVec 8) (a : BitVec 8) (b64 : Bool)
  /-- LCOMP, R113: Renumbers the virtual lanes so that predicate-true lanes come first, or restores the order. -/
  | lcomp (g : Guard) (sd : BitVec 8) (pa : BitVec 8) (id : Bool)
  /-- LPFX, R112: Inclusive or exclusive running add, minimum or maximum across lanes. -/
  | lpfx (g : Guard) (d : BitVec 8) (a : BitVec 8) (op : BitVec 2) (excl : Bool) (f32 : Bool)
  /-- SEGADD, R112: Segmented inclusive sum across lanes. -/
  | segadd (g : Guard) (d : BitVec 8) (a : BitVec 8) (pb : BitVec 8) (f32 : Bool)
  /-- RDLANE, R109: Reads one lane, named by a scalar register, into a scalar register. -/
  | rdlane (g : Guard) (sd : BitVec 8) (a : BitVec 8) (sb : BitVec 8) (b64 : Bool) (f : Bool) (c : VS)
  /-- RDLANE_LITERAL, R109: Reads one lane, named by a literal, into a scalar register. -/
  | rdlaneL (g : Guard) (sd : BitVec 8) (a : BitVec 8) (n : BitVec 5)
  /-- FADD, R124: Floating-point add on register operands. -/
  | fadd (g : Guard) (d : VS) (a : VS) (b : VS) (ty : BitVec 2) (rm : BitVec 2) (na : Bool) (nb : Bool)
  /-- FADD_LITERAL, R124: FP32 add with a literal. -/
  | faddL (g : Guard) (s : Bool) (d : BitVec 8) (a : BitVec 8) (lit : BitVec 32) (rm : BitVec 2)
  /-- FMUL, R124: Floating-point multiply on register operands. -/
  | fmul (g : Guard) (d : VS) (a : VS) (b : VS) (ty : BitVec 2) (rm : BitVec 2) (na : Bool) (nb : Bool)
  /-- FMUL_LITERAL, R124: FP32 multiply with a literal. -/
  | fmulL (g : Guard) (s : Bool) (d : BitVec 8) (a : BitVec 8) (lit : BitVec 32) (rm : BitVec 2)
  /-- FFMA, R124: Fused multiply-add with one rounding. -/
  | ffma (g : Guard) (d : VS) (a : VS) (b : VS) (c : VS) (ty : BitVec 2) (rm : BitVec 2) (na : Bool) (nb : Bool) (nc : Bool)
  /-- FMIN, R125: Floating-point minimum of register operands. -/
  | fmin (g : Guard) (d : VS) (a : VS) (b : VS) (ty : BitVec 2)
  /-- FMIN_LITERAL, R125: FP32 minimum with a literal. -/
  | fminL (g : Guard) (s : Bool) (d : BitVec 8) (a : BitVec 8) (lit : BitVec 32)
  /-- FMAX, R125: Floating-point maximum of register operands. -/
  | fmax (g : Guard) (d : VS) (a : VS) (b : VS) (ty : BitVec 2)
  /-- FMAX_LITERAL, R125: FP32 maximum with a literal. -/
  | fmaxL (g : Guard) (s : Bool) (d : BitVec 8) (a : BitVec 8) (lit : BitVec 32)
  /-- FCMP, R126: Floating-point compare of register operands into a predicate. -/
  | fcmp (g : Guard) (p : BitVec 8) (a : VS) (b : VS) (ty : BitVec 2) (cc : BitVec 3)
  /-- FCMP_LITERAL, R126: FP32 compare with a literal into a predicate. -/
  | fcmpL (g : Guard) (s : Bool) (p : BitVec 8) (a : BitVec 8) (lit : BitVec 32) (cc : BitVec 3)
  /-- FCLASS, R127: Writes a one-hot class mask of the operand. -/
  | fclass (g : Guard) (d : VS) (a : VS) (ty : BitVec 2)
  /-- FRND, R128: Rounds to an integral value of the same type. -/
  | frnd (g : Guard) (d : VS) (a : VS) (ty : BitVec 2) (rm : BitVec 2)
  /-- FSCALE, R129: Multiplies by a power of two given as an integer. -/
  | fscale (g : Guard) (d : VS) (a : VS) (b : VS) (ty : BitVec 2) (rm : BitVec 2)
  /-- FDOT2, R130: Two-element 16-bit dot product plus an FP32 addend, rounded once. -/
  | fdot2 (g : Guard) (d : VS) (a : VS) (b : VS) (c : VS) (ty : BitVec 2) (rm : BitVec 2) (na : Bool) (nb : Bool) (nc : Bool)
  /-- SRCP, R133: Table-based reciprocal on the SFU. -/
  | srcp (g : Guard) (d : VS) (a : VS)
  /-- SRSQ, R133: Table-based reciprocal square root on the SFU. -/
  | srsq (g : Guard) (d : VS) (a : VS)
  /-- SSQRT, R133: Table-based square root on the SFU. -/
  | ssqrt (g : Guard) (d : VS) (a : VS)
  /-- SEXP2, R133: Table-based base-2 exponential on the SFU. -/
  | sexp2 (g : Guard) (d : VS) (a : VS)
  /-- SLOG2, R133: Table-based base-2 logarithm on the SFU. -/
  | slog2 (g : Guard) (d : VS) (a : VS)
  /-- SSIN, R133: Table-based sin(pi x) on the SFU. -/
  | ssin (g : Guard) (d : VS) (a : VS)
  /-- SCOS, R133: Table-based cos(pi x) on the SFU. -/
  | scos (g : Guard) (d : VS) (a : VS)
  /-- STANH, R133: Table-based hyperbolic tangent on the SFU. -/
  | stanh (g : Guard) (d : VS) (a : VS)
  /-- CVF, R137: Converts between two float formats. -/
  | cvf (g : Guard) (d : VS) (a : VS) (df : BitVec 4) (sf : BitVec 4) (rm : BitVec 2) (sat : Bool) (sp : BitVec 2) (dp : BitVec 2)
  /-- CVN, R139: Narrows with error feedback through a residue register. -/
  | cvn (g : Guard) (d : BitVec 8) (a : BitVec 8) (q : BitVec 8) (df : BitVec 4) (sf : BitVec 4) (rm : BitVec 2) (sat : Bool) (dp : BitVec 2)
  /-- CVI, R138: Converts between a float and an integer. -/
  | cvi (g : Guard) (d : VS) (a : VS) (df : BitVec 4) (sf : BitVec 4) (rm : BitVec 2) (sp : BitVec 2) (dp : BitVec 2)
  /-- CVSH, R141: Encodes a scaled FP32 value as an SH8 byte. -/
  | cvsh (g : Guard) (d : VS) (a : VS) (b : VS) (dp : BitVec 2)
  /-- DCSH, R142: Decodes an SH8 byte times a scale to FP32. -/
  | dcsh (g : Guard) (d : VS) (a : VS) (b : VS) (sp : BitVec 2)
  /-- QCLR, R140: Clears the named residue registers. -/
  | qclr (g : Guard) (nn : BitVec 8)
  /-- QMOV, R140: Copies between a vector register and a residue register. -/
  | qmov (g : Guard) (x : BitVec 8) (y : BitVec 8) (dir : Bool)
  /-- VCHAIN, R145: Starts a chain that streams elements from memory through up to eight operations back to memory. -/
  | vchain (g : Guard) (sd : BitVec 8) (sa : BitVec 8)
  /-- HRING, R161: Loads and checks a ring table and derives its maps, ahead of the slot commit. -/
  | hring (g : Guard) (sa : BitVec 8) (k : BitVec 2) (ofs : BitVec 25)
  /-- HFROM, R162: Writes the hatch mask of the element holding a float value. -/
  | hfrom (g : Guard) (d : VS) (a : VS) (k : BitVec 2) (f64 : Bool)
  /-- HTOF, R163: Writes the binary32 bounds of a hatch mask. -/
  | htof (g : Guard) (d : VS) (a : VS) (k : BitVec 2)
  /-- HADD, R164: Hatch-set addition by table lookup. -/
  | hadd (g : Guard) (d : VS) (a : VS) (b : VS) (k : BitVec 2)
  /-- HSUB, R164: Hatch-set subtraction by table lookup. -/
  | hsub (g : Guard) (d : VS) (a : VS) (b : VS) (k : BitVec 2)
  /-- HMUL, R164: Hatch-set multiplication by table lookup. -/
  | hmul (g : Guard) (d : VS) (a : VS) (b : VS) (k : BitVec 2)
  /-- HDIV, R164: Hatch-set division by table lookup. -/
  | hdiv (g : Guard) (d : VS) (a : VS) (b : VS) (k : BitVec 2)
  /-- HNEG, R164: Hatch-set negation. -/
  | hneg (g : Guard) (d : VS) (a : VS) (k : BitVec 2)
  /-- HRCP, R164: Hatch-set reciprocal. -/
  | hrcp (g : Guard) (d : VS) (a : VS) (k : BitVec 2)
  /-- HSQ, R164: Hatch-set square. -/
  | hsq (g : Guard) (d : VS) (a : VS) (k : BitVec 2)
  /-- HUNI, R164: Union of two hatch masks. -/
  | huni (g : Guard) (d : VS) (a : VS) (b : VS)
  /-- HCAP, R164: Intersection of two hatch masks. -/
  | hcap (g : Guard) (d : VS) (a : VS) (b : VS)
  /-- HIN_FLT, R165: Tests whether a float value lies in a hatch set. -/
  | hinFlt (g : Guard) (p : BitVec 8) (a : VS) (b : VS) (k : BitVec 2) (f64 : Bool)
  /-- HIN_SUB, R165: Tests whether one hatch set is a subset of another. -/
  | hinSub (g : Guard) (p : BitVec 8) (a : VS) (b : VS)
  /-- HARC, R166: Compresses a HATCH16 mask to a HATCH8 byte. -/
  | harc (g : Guard) (d : VS) (a : VS)
  /-- HEXP, R166: Expands a HATCH8 byte to a HATCH16 mask. -/
  | hexp (g : Guard) (d : VS) (a : VS)
  /-- HCNT, R167: Counts the bits or the cyclic runs of a hatch mask. -/
  | hcnt (g : Guard) (d : VS) (a : VS) (runs : Bool)
  /-- LD, R186: Loads from translated memory, per element, including window decode with width x. -/
  | ld (g : Guard) (data : BitVec 8) (base : BitVec 8) (idx : BitVec 8) (form : BitVec 2) (width : BitVec 4) (nl1 : BitVec 2) (ofs : BitVec 14)
  /-- ST, R186: Stores to translated memory, per element. -/
  | st (g : Guard) (data : BitVec 8) (base : BitVec 8) (idx : BitVec 8) (form : BitVec 2) (width : BitVec 4) (nl1 : BitVec 2) (ofs : BitVec 14)
  /-- LDS, R187: Loads from the block's scratchpad slice. -/
  | lds (g : Guard) (data : BitVec 8) (base : BitVec 8) (form : BitVec 2) (width : BitVec 4) (ofs : BitVec 14)
  /-- STS, R187: Stores to the block's scratchpad slice. -/
  | sts (g : Guard) (data : BitVec 8) (base : BitVec 8) (form : BitVec 2) (width : BitVec 4) (ofs : BitVec 14)
  /-- LDP, R177: Loads a word of each lane's own window, with the stack-limit check. -/
  | ldp (g : Guard) (data : BitVec 8) (base : BitVec 8) (form : BitVec 2) (ofs : BitVec 14)
  /-- STP, R177: Stores a word of each lane's own window, with the stack-limit check. -/
  | stp (g : Guard) (data : BitVec 8) (base : BitVec 8) (form : BitVec 2) (ofs : BitVec 14)
  /-- LDK, R188: Loads once for the group into a scalar register. -/
  | ldk (g : Guard) (data : BitVec 8) (base : BitVec 8) (width : BitVec 4) (ofs : BitVec 14)
  /-- ATOM, R190: Performs an atomic read-modify-write per lane at the location's home. -/
  | atom (g : Guard) (dst : BitVec 8) (base : BitVec 8) (opd : BitVec 8) (cmp : BitVec 8) (form : BitVec 2) (aop : BitVec 4) (scope : BitVec 3) (w64 : Bool) (ofs : BitVec 10)
  /-- ATOMS, R190: Performs an atomic read-modify-write per lane on the scratchpad. -/
  | atoms (g : Guard) (dst : BitVec 8) (base : BitVec 8) (opd : BitVec 8) (cmp : BitVec 8) (form : BitVec 2) (aop : BitVec 4) (scope : BitVec 3) (w64 : Bool) (ofs : BitVec 10)
  /-- PREF, R188: Requests a line into L1 or the LLC without faulting. -/
  | pref (g : Guard) (base : BitVec 8) (idx : BitVec 8) (form : BitVec 2) (llc : BitVec 2) (ofs : BitVec 14)
  /-- XLAT, R182: Reports the translation of an address without faulting. -/
  | xlat (g : Guard) (d : VS) (a : VS)
  /-- XACQ, R172: Requests extended register blocks from the reserve, granting, failing or waiting. -/
  | xacq (g : Guard) (sd : BitVec 8) (sa : BitVec 8) (tr : Bool)
  /-- XREL, R173: Releases the most recently granted register blocks. -/
  | xrel (g : Guard) (sa : BitVec 8)
  /-- FENCE, R220: Performs a release and an acquire at a scope and waits for both. -/
  | fence (g : Guard) (scope : BitVec 3)
  /-- REL, R220: Performs a release at a scope while the entry runs on. -/
  | rel (g : Guard) (scope : BitVec 3)
  /-- ACQ, R220: Performs an acquire at a scope. -/
  | acq (g : Guard) (scope : BitVec 3)
  /-- BAR, R221: Arrives at a named block barrier, optionally waiting for its phase. -/
  | bar (g : Guard) (a : VS) (n : BitVec 4) (sync : Bool) (cnt : Bool)
  /-- BOINIT, R223: Tags and initialises a barrier object, or removes its tag. -/
  | boinit (g : Guard) (sa : BitVec 8) (b : VS) (inv : Bool)
  /-- BOARR, R223: Arrives on a barrier object, optionally adding expected bytes. -/
  | boarr (g : Guard) (sd : BitVec 8) (sa : BitVec 8) (b : VS) (tx : Bool)
  /-- BOWAIT, R223: Waits until the barrier object's phase differs from the given parity. -/
  | bowait (g : Guard) (sa : BitVec 8) (sb : BitVec 8)
  /-- BOTRY, R223: Tests the barrier object's phase without waiting. -/
  | botry (g : Guard) (sd : BitVec 8) (sa : BitVec 8) (sb : BitVec 8)
  /-- FWAIT, R224: Waits until a memory or scratchpad word meets a comparison, or a timeout passes. -/
  | fwait (g : Guard) (sd : BitVec 8) (sa : BitVec 8) (sb : BitVec 8) (sc : BitVec 8) (cc : BitVec 4) (slice : Bool)
  /-- DTIME, R225: Reads device time, optionally after earlier accesses complete. -/
  | dtime (g : Guard) (sd : BitVec 8) (ord : Bool)
  /-- WCT, R225: Reads the group's write-completion time after its stores are acknowledged. -/
  | wct (g : Guard) (sd : BitVec 8)
  /-- ACOPY, R232: Starts an asynchronous byte copy with a token. -/
  | acopy (g : Guard) (sd : BitVec 8) (sa : BitVec 8) (sb : BitVec 8) (sc : BitVec 8) (sp : BitVec 2)
  /-- ACOPYT, R232: Starts an asynchronous strided copy with a token. -/
  | acopyt (g : Guard) (sd : BitVec 8) (sa : BitVec 8) (sb : BitVec 8) (sc : BitVec 8) (sp : BitVec 2)
  /-- ASTO, R232: Starts an asynchronous store of vector registers to memory with a token. -/
  | asto (g : Guard) (sd : BitVec 8) (sa : BitVec 8) (vb : BitVec 8) (sc : BitVec 8)
  /-- KICK, R236: Checks and queues a batch of job cards to the request engine. -/
  | kick (g : Guard) (sa : BitVec 8) (sb : BitVec 8)
  /-- KSTAT, R237: Reads and optionally clears the block's card fault status. -/
  | kstat (g : Guard) (sd : BitVec 8) (clr : Bool)
  /-- GHND, R241: Reads a descriptor and creates a stipple-unit handle. -/
  | ghnd (g : Guard) (sd : BitVec 8) (sa : BitVec 8)
  /-- GHND_FREE, R241: Frees a stipple-unit handle. -/
  | ghndFree (g : Guard) (sa : BitVec 8)
  /-- GATH, R243: Gathers one element per lane through a handle and the stipple unit. -/
  | gath (g : Guard) (d : BitVec 8) (sa : BitVec 8) (vb : BitVec 8) (c : VS) (nf : Bool) (bs : Bool)
  /-- SCAT, R243: Scatters one element per lane through a RAW handle. -/
  | scat (g : Guard) (sa : BitVec 8) (vb : BitVec 8) (vc : BitVec 8) (nf : Bool)
  /-- GCMR, R244: Reads sr.gmask or the stopping fault code of the last no-fault gather. -/
  | gcmr (g : Guard) (sd : BitVec 8) (code : Bool)
  /-- GCMW, R244: Writes sr.gmask. -/
  | gcmw (g : Guard) (sa : BitVec 8)
  /-- MBQ, R257: Records the group's MMA set and its B quarter registers. -/
  | mbq (g : Guard) (vq : BitVec 8) (sa : BitVec 8)
  /-- MLOOP, R259: Starts a loop of K-steps from memory into an accumulator. -/
  | mloop (g : Guard) (m : BitVec 8) (sa : BitVec 8) (sb : BitVec 8) (sc : BitVec 8) (ta : BitVec 3) (tb : BitVec 3) (msk : Bool)
  /-- MMA, R258: Waits for the set's participants and queues one K-step from registers for each. -/
  | mma (g : Guard) (m : BitVec 8) (va : BitVec 8) (ta : BitVec 3) (tb : BitVec 3)
  /-- MZERO, R256: Binds and zeroes an accumulator and clears its fault record. -/
  | mzero (g : Guard) (m : BitVec 8) (f64 : Bool)
  /-- MDRAIN, R264: Copies a chunk of an accumulator into vector registers. -/
  | mdrain (g : Guard) (d : BitVec 8) (m : BitVec 8) (sb : BitVec 8) (bf16 : Bool) (rel : Bool)
  /-- MDRAIN_S, R264: Copies a chunk of an accumulator into scratchpad. -/
  | mdrainS (g : Guard) (sd : BitVec 8) (m : BitVec 8) (sb : BitVec 8) (bf16 : Bool) (rel : Bool)
  /-- MDRAINC, R265: Sends an accumulator chunk as contribution to a posted reduction. -/
  | mdrainc (g : Guard) (m : BitVec 8) (sb : BitVec 8) (sc : BitVec 8) (rel : Bool)
  /-- MGUIDE, R268: Unbinds the twin pair, waits for both accumulators, and drains u + g(c - u). -/
  | mguide (g : Guard) (d : VS) (m : BitVec 8) (sb : BitVec 8) (sc : BitVec 8) (bf16 : Bool) (rel : Bool)
  /-- MTWIN, R267: Waits for the partner and binds the twin pair. -/
  | mtwin (g : Guard)
  /-- MSKETCH, R262: Computes a row mask from a low-rank predictor tile and scratchpad inputs. -/
  | msketch (g : Guard) (sd : BitVec 8) (t : BitVec 8) (sb : BitVec 8) (sc : BitVec 8)
  /-- MMASK, R263: Copies mask bits from scratchpad into the sequencer. -/
  | mmask (g : Guard) (sa : BitVec 8) (sb : BitVec 8)
  /-- MSTAT, R270: Reads an accumulator's status, optionally clearing its fault record. -/
  | mstat (g : Guard) (sd : BitVec 8) (m : BitVec 8) (clr : Bool)
  /-- MSAVE, R271: Suspends an accumulator's loop and writes its image to memory. -/
  | msave (g : Guard) (sa : BitVec 8) (m : BitVec 8) (rel : Bool)
  /-- MRSTR, R272: Checks and restores an accumulator image, resuming its loop. -/
  | mrstr (g : Guard) (m : BitVec 8) (sa : BitVec 8)
  /-- TDESC, R290: Writes a descriptor image into a tile register, optionally with a record. -/
  | tdesc (g : Guard) (t : BitVec 8) (sa : BitVec 8) (b : VS) (rcd : Bool)
  /-- TDESC_RD, R290: Reads a tile descriptor image into a scalar pair. -/
  | tdescRd (g : Guard) (sd : BitVec 8) (t : BitVec 8)
  /-- TLD, R292: Loads a dense tile from memory. -/
  | tld (g : Guard) (t : BitVec 8) (sa : BitVec 8) (sb : BitVec 8)
  /-- TLD_HEAP, R293: Restores the block's heap slice and map from memory. -/
  | tldHeap (g : Guard) (sa : BitVec 8)
  /-- TLDF, R292: Loads low-rank factors from memory. -/
  | tldf (g : Guard) (t : BitVec 8) (sa : BitVec 8) (sb : BitVec 8)
  /-- TST_D, R292: Stores a tile's value as a dense image. -/
  | tstD (g : Guard) (sa : BitVec 8) (t : BitVec 8) (sc : BitVec 8)
  /-- TST_F, R292: Stores a low-rank tile's factors. -/
  | tstF (g : Guard) (sa : BitVec 8) (t : BitVec 8)
  /-- TST_HEAP, R293: Stores the block's heap slice and map to memory. -/
  | tstHeap (g : Guard) (sa : BitVec 8)
  /-- TZERO, R291: Makes a tile ZERO, keeping its storage. -/
  | tzero (g : Guard) (t : BitVec 8)
  /-- TADD, R294: Adds two tiles. -/
  | tadd (g : Guard) (t : BitVec 8) (ta : BitVec 8) (tb : BitVec 8)
  /-- TSCL, R295: Scales a tile. -/
  | tscl (g : Guard) (t : BitVec 8) (ta : BitVec 8) (sb : BitVec 8)
  /-- TMUL, R296: Multiplies two tiles. -/
  | tmul (g : Guard) (t : BitVec 8) (ta : BitVec 8) (tb : BitVec 8)
  /-- TMULV, R298: Multiplies a tile by a vector held in registers. -/
  | tmulv (g : Guard) (d : BitVec 8) (ta : BitVec 8) (vb : BitVec 8)
  /-- TRND, R300: Burnishes a low-rank tile down to a tolerance. -/
  | trnd (g : Guard) (t : BitVec 8) (ta : BitVec 8) (b : VS) (st : Bool) (abs : Bool)
  /-- TRANK, R286: Reads a tile's kind, rank and fault record, optionally clearing the record. -/
  | trank (g : Guard) (sd : BitVec 8) (ta : BitVec 8) (clr : Bool)
  /-- TTOD, R299: Expands a tile to DENSE. -/
  | ttod (g : Guard) (t : BitVec 8) (ta : BitVec 8)
  /-- TTOL, R299: Burnishes a dense tile into a low-rank tile. -/
  | ttol (g : Guard) (t : BitVec 8) (ta : BitVec 8)
  /-- TPOTRF, R305: Cholesky-factors a dense square tile. -/
  | tpotrf (g : Guard) (t : BitVec 8) (ta : BitVec 8)
  /-- TTRSM, R306: Solves with a dense triangular tile from the left or right. -/
  | ttrsm (g : Guard) (t : BitVec 8) (ta : BitVec 8) (tb : BitVec 8) (rgt : Bool) (tr : Bool) (up : Bool) (un : Bool)
  /-- TUPD, R297: Forms tD minus tA times tB transposed into tD. -/
  | tupd (g : Guard) (t : BitVec 8) (ta : BitVec 8) (tb : BitVec 8)
  /-- THALC, R291: Allocates heap granules for a descriptor. -/
  | thalc (g : Guard) (t : BitVec 8)
  /-- THFRE, R291: Frees a descriptor's heap granules. -/
  | thfre (g : Guard) (t : BitVec 8)
  /-- QPOST, R329: Posts a collective to a slot and sends POST to the coordinator. -/
  | qpost (g : Guard) (sd : BitVec 8) (sa : BitVec 8)
  /-- QTICK, R330: Waits for and reads a slot's ticket. -/
  | qtick (g : Guard) (sd : BitVec 8) (sa : BitVec 8) (tr : Bool)
  /-- PUT, R315: Builds a put work entry. -/
  | put (g : Guard) (sd : BitVec 8) (sa : BitVec 8)
  /-- PUTS, R315: Builds a put-with-signal work entry. -/
  | puts (g : Guard) (sd : BitVec 8) (sa : BitVec 8)
  /-- PUTR, R315: Builds a write-with-reduce work entry. -/
  | putr (g : Guard) (sd : BitVec 8) (sa : BitVec 8)
  /-- GET, R315: Builds a get work entry. -/
  | get (g : Guard) (sd : BitVec 8) (sa : BitVec 8)
  /-- QARM, R316: Arms a built work entry on a trigger counter and threshold. -/
  | qarm (g : Guard) (sa : BitVec 8) (sb : BitVec 8) (sc : BitVec 8)
  /-- TCNT, R319: Reads, adds to or sets a trigger counter. -/
  | tcnt (g : Guard) (sd : BitVec 8) (sa : BitVec 8) (b : VS) (op : BitVec 2)
  /-- QRING, R331: Reads a team's rank, size, successor and coordinator. -/
  | qring (g : Guard) (sd : BitVec 8) (sa : BitVec 8)
  /-- QCOMP, R330: Waits for a slot to end, reads its completion and optionally frees it. -/
  | qcomp (g : Guard) (sd : BitVec 8) (sa : BitVec 8) (nw : Bool) (fre : Bool)
  /-- QCANCEL, R330: Sends a cancel for a POSTED slot. -/
  | qcancel (g : Guard) (sd : BitVec 8) (sa : BitVec 8)
  /-- QSTAT, R331: Reads slot counts, routes, queue-pair state or the lowest failed entry. -/
  | qstat (g : Guard) (sd : BitVec 8) (sa : BitVec 8) (sel : BitVec 2) (rst : Bool)
  /-- GNODE, R349: Copies a node descriptor into a FREE node and sets it BUILT. -/
  | gnode (g : Guard) (sd : BitVec 8) (sa : BitVec 8)
  /-- GEDGE, R349: Adds an explicit edge between two nodes. -/
  | gedge (g : Guard) (sa : BitVec 8) (sb : BitVec 8)
  /-- GSUB, R349: Performs a system-scope release and submits a built node, deriving its edges. -/
  | gsub (g : Guard) (sa : BitVec 8)
  /-- GWAIT, R350: Waits for a node to end, reads its status and digest and frees it. -/
  | gwait (g : Guard) (sd : BitVec 8) (sa : BitVec 8) (tr : Bool)
  /-- LAUNCH, R349: Builds a kernel node, adds an edge from the launcher, and submits it. -/
  | launch (g : Guard) (sd : BitVec 8) (sa : BitVec 8)
  /-- DLINE, R351: Sets or removes a node's deadline. -/
  | dline (g : Guard) (sa : BitVec 8) (sb : BitVec 8)
  /-- DGST, R352: Reads the group's digest after its stores are acknowledged. -/
  | dgst (g : Guard) (sd : BitVec 8)
  /-- DGCHK, R352: Compares the group's digest with a value and faults on a mismatch. -/
  | dgchk (g : Guard) (sa : BitVec 8)
  /-- TRAP, R370: Enters the handler with code TRAP and an optional detail. -/
  | trap (g : Guard) (a : VS)
  /-- RTE, R371: Checks the frame and restores the group from it, or yields the group under pre-emption. -/
  | rte (g : Guard) (yld : Bool)
  /-- SAVELIVE, R368: Saves the live registers to a memory area. -/
  | savelive (g : Guard) (sd : BitVec 8) (sa : BitVec 8)
  /-- RESTLIVE, R368: Restores the registers that a saved area names. -/
  | restlive (g : Guard) (sa : BitVec 8)
  /-- SRD, R372: Copies a special register to a register. -/
  | srd (g : Guard) (d : VS) (n : BitVec 8)
  /-- SWR, R372: Writes a writable special register. -/
  | swr (g : Guard) (n : BitVec 8) (sa : BitVec 8)
  /-- BKPT, R374: Takes BREAK as kind A with an id. -/
  | bkpt (g : Guard) (id : BitVec 16)
  /-- PMARK, R375: Writes a record to the core's trace ring. -/
  | pmark (g : Guard) (id : BitVec 16)
  /-- HALTB, R374: Stops every group of the block, or aborts the launch. -/
  | haltb (g : Guard) (sa : BitVec 8) (abt : Bool)
  /-- RDBARO, R377: Reads a barometer counter, optionally clearing the partition's counters. -/
  | rdbaro (g : Guard) (sd : BitVec 8) (sa : BitVec 8) (clr : Bool)
  /-- JOIN_TIMEOUT, R80: When LEFT reaches zero, the parked lanes continue with the flag set and the register disarms. Subject: c, p, j. -/
  | joinTimeout
  /-- SLEEP_EXPIRY, R88: The sleep delay passes and the entry becomes eligible again. Subject: c, p. -/
  | sleepExpiry
  /-- FAIRNESS_ROTATION, R67: A fairness count reaches CTL_FAIR and the next eligible entry receives one quantum on that port. Subject: c, p, cls. -/
  | fairnessRotation
  /-- CLAUSE_FETCH, R391: A clause start that misses the fetch buffer or slot fetches the clause's lines through L1, the LLC or HBM. Subject: c, p,
  addr. -/
  | clauseFetch
  /-- CHAIN_COMPLETION, R147: The chain ends or stops on a fault and its token is written. Subject: c, part. -/
  | chainCompletion
  /-- RING_SLOT_COMMIT, R157: The checked ring table replaces the slot's contents whole. Subject: c, k. -/
  | ringSlotCommit
  /-- RELEASE_COMPLETION, R202: A pending release completes once its accesses are performed and acknowledged and device time has passed their
  completion time. Subject: id. -/
  | releaseCompletion
  /-- FWAIT_REREAD, R224: The waited word is read again after a write to it or after at most 128 ns. Subject: c, p. -/
  | fwaitReread
  /-- HOME_REQUEST, R208: A line's home serves a miss, lease request, store or atomic and fixes its write-completion time. Subject: id. -/
  | homeRequest
  /-- LOAD_DATA_WRITTEN, R61: A load's data arrive and its destination register is written. Subject: id. -/
  | loadDataWritten
  /-- STORE_ACKNOWLEDGEMENT, R201: The home's acknowledgement arrives, updating the L1 copy and raising sr.wct. Subject: id. -/
  | storeAcknowledgement
  /-- TAKING_A_PIN, R209: A narrow-scope atomic's pin is taken once device time passes the line's write-completion time. Subject: id. -/
  | takingAPin
  /-- RETRY, R210: An access refused by a pinned line is repeated every 64 cycles. Subject: id. -/
  | retry
  /-- PIN_TIMEOUT, R211: A pinned line that has refused outside accesses for 16,384 cycles is unpinned. Subject: line. -/
  | pinTimeout
  /-- ASYNC_COMPLETION, R230: An asynchronous copy finishes or stops on a fault and its token is written. Subject: id. -/
  | asyncCompletion
  /-- CARD_COMPLETION, R236: A card's last byte is counted down and it arrives on its barrier object if ARR is set. Subject: id. -/
  | cardCompletion
  /-- GATH_SETTLED, R245: Every element of a remote gather has arrived, been lost or faulted, and FABRIC_LOST is raised if any was lost. Subject: c,
  p. -/
  | gathSettled
  /-- K_STEP, R251: The sequencer completes one K-step into an accumulator in fixed order, or stops a loop on a fault. Subject: c, job. -/
  | kStep
  /-- TWIN_HOLD_TIMEOUT, R266: A twin's MLOOP held for 4,096 cycles unbinds the pair and starts alone. Subject: c, p. -/
  | twinHoldTimeout
  /-- BURNISHER_PHASE_BOUNDARY, R307: The burnisher reaches a phase boundary and abandons the instruction if the deadline has passed. Subject: c. -/
  | burnisherPhaseBoundary
  /-- BURNISHER_COMMIT, R287: The burnisher commits a result into its descriptor, growing or relocating it by policy, and starts the next instruction.
  Subject: c. -/
  | burnisherCommit
  /-- ENTRY_COMPLETION, R317: A fired entry's last answer arrives; it adds to its completion counter and becomes FREE, or becomes FAILED. Subject: e. -/
  | entryCompletion
  /-- PUT_PACKET, R317: Put data arrive at the peer and are written. Subject: src, tag, addr, bytes. -/
  | putPacket
  /-- PUT_WITH_SIGNAL, R317: The peer applies a barrier-object or counter signal after the queue pair's earlier writes. Subject: src, tag, target,
  size. -/
  | putWithSignal
  /-- WRITE_WITH_REDUCE, R317: The peer adds each 4-byte element indivisibly at its home. Subject: src, tag, addr, s32, bytes. -/
  | writeWithReduce
  /-- GET_REQUEST, R317: The peer reads the requested bytes and answers with get data. Subject: src, tag, addr, n. -/
  | getRequest
  /-- ACKNOWLEDGEMENT, R313: An answer packet acknowledging a remote write arrives. Subject: src, tag, refused. -/
  | acknowledgement
  /-- GET_DATA, R317: Get data arrive and are written locally. Subject: src, tag, bytes. -/
  | getData
  /-- REMOTE_DEVICE_ACCESS, R214: A core load or store to the remote-device window is performed at the peer's home. Subject: id, bytes. -/
  | remoteDeviceAccess
  /-- PACKET_TIMEOUT, R311: No answer 50,000 ns after sending loses the packet. Subject: pkt. -/
  | packetTimeout
  /-- LINK_DOWN, R311: A port reports its link down, switching routes or marking them DOWN and losing packets in flight. Subject: port. -/
  | linkDown
  /-- ROUTE_SWITCH, R311: Once the old port's packets are acknowledged or lost, packets leave by the new port. Subject: fid. -/
  | routeSwitch
  /-- POST_MESSAGE, R321: The coordinator matches posts and issues a ticket or a mismatch once all members have posted. Subject: team, rank, num, op,
  ty, count, clk. -/
  | postMessage
  /-- TICKET_MESSAGE, R321: A member receives a ticket, advances its clock and moves the slot to TICKETED. Subject: team, num, ticket. -/
  | ticketMessage
  /-- MISMATCH_MESSAGE, R323: A member receives MISMATCH and the slot ends FAILED. Subject: team, num. -/
  | mismatchMessage
  /-- CANCEL_MESSAGE, R323: The coordinator receives a cancel and cancels a record still collecting. Subject: team, rank, num. -/
  | cancelMessage
  /-- CANCELLED_MESSAGE, R323: A member receives CANCELLED and the slot ends CANCELLED. Subject: team, num. -/
  | cancelledMessage
  /-- POST_TIMEOUT, R323: Timeout T passes with no ticket and the slot sends a cancel. Subject: slot. -/
  | postTimeout
  /-- COLLECTIVE_START, R322: A device starts its least-ticket collective once earlier posts cannot precede it and resources are free. Subject: slot. -/
  | collectiveStart
  /-- FOLD_CHUNK, R324: A fold chunk arrives, the rank adds its contribution and forwards it. Subject: ticket, chunk, first, count, partl, elems. -/
  | foldChunk
  /-- RESULT_CHUNK, R326: A result chunk arrives, is written and sent on. Subject: ticket, chunk, rank, count, partl, elems. -/
  | resultChunk
  /-- CREDIT, R313: A credit from the receiving sequencer lets a chunk move. Subject: ticket, n. -/
  | credit
  /-- COLLECTIVE_TIMEOUT, R327: Timeout T passes and the device starts incomplete folds for missing chunks. Subject: slot. -/
  | collectiveTimeout
  /-- COLLECTIVE_RESULT_TIMEOUT, R327: At 2T missing result chunks are counted missing and uncredited chunks dropped. Subject: slot. -/
  | collectiveResultTimeout
  /-- COLLECTIVE_END, R327: Every chunk is settled and the collective ends DONE orPARTIAL, adding to its completion counter. Subject: slot. -/
  | collectiveEnd
  /-- NODE_DISPATCH, R343: The command processor dispatches a READY node by priority and submission order, reading its body. Subject: n. -/
  | nodeDispatch
  /-- BLOCK_PLACEMENT, R344: The command processor places a block on a core, restoring a pre-empted block's state if it has one. Subject: n, c. -/
  | blockPlacement
  /-- NODE_COMPLETION, R339: A node completes, takes its final state, readies or cancels dependents, and re-executes on a digest mismatch. Subject: n.
  -/
  | nodeCompletion
  /-- DEADLINE_PASSED, R347: Device time passes a node's deadline, stopping or ending the node and its work. Subject: n. -/
  | deadlinePassed
  /-- GROUP_END, R74: A group with no live lane and no pending write ends and frees its registers, pins and banks. Subject: c, p. -/
  | groupEnd
  /-- TRAP_ENTRY, R356: A group stops its entries, settles pending writes, writes its frame and enters its handler. Subject: c, p. -/
  | trapEntry
  /-- SUBMIT, R386: Host command that builds and submits a node owned by no launch. Subject: q. -/
  | submit
  /-- WAIT, R386: Host command that waits for a node to end and reports its state. Subject: q. -/
  | wait
  /-- INVAL, R386: Host command that drops TLB entries and walks of the queue's context in a range. Subject: q. -/
  | inval
  /-- PREEMPT, R365: Host command that makes every resident group of a launch take PREEMPT and save to a buffer. Subject: q. -/
  | preempt
  /-- RELEASE, R386: Host command that unfreezes a frozen core or engine instance. Subject: q. -/
  | release
  /-- RESYNC, R387: Host command that writes a 4 KiB summary of device state. Subject: q. -/
  | resync
  /-- CHECKPOINT, R389: Host command that quiesces the device and streams device memory to a safe tier. Subject: q. -/
  | checkpoint
  /-- RESTORE, R389: Host command that streams an image back and resumes every launch. Subject: q. -/
  | restore
  /-- TRACE, R386: Host command that configures or removes a core's trace ring. Subject: q. -/
  | trace
  /-- CHECKPOINT_STREAM_COMPLETE, R389: The checkpoint or restore stream finishes, the device returns to READY and the record is written. Subject:
  image. -/
  | checkpointStreamComplete
  /-- Q_TAIL_WRITE, R385: The host writes a queue's TAIL, revealing commands for the command processor. Subject: q, v. -/
  | qTailWrite
  /-- LPLACE_WRITE, R13: A write to a local-placement register takes effect only if its conditions hold, making the range's memory undefined. Subject:
  n, v. -/
  | lplaceWrite
  /-- FWIN_WRITE, R183: A write to a format-window register takes effect only if its conditions hold, and the LLC drops the window's lines. Subject:
  n, k, v. -/
  | fwinWrite
  /-- STAGE_WRITE, R325: A write to a staging register locks or releases LLC ways when no collective is started. Subject: d, v. -/
  | stageWrite
  /-- PROUTE_WRITE, R311: A write to a route register repairs or changes the ports for a FID. Subject: n, v. -/
  | prouteWrite
  /-- TEAM_CFG_WRITE, R320: A write to a team configuration takes effect only while no slot names the team. Subject: n, v. -/
  | teamCfgWrite
  /-- DEV_FID_WRITE, R383: A write to the fabric identifier takes effect only while no queue is enabled and no team is in force. Subject: v. -/
  | devFidWrite
  /-- QUEUE_CONTEXT_WRITE, R384: A write to a queue's base, configuration or context registers takes effect only while the queue is idle. Subject: q,
  k, v. -/
  | queueContextWrite
  /-- CONTROL_REGISTER_WRITE, R383: A write to a control-space register with no behaviour of its own sets its fields. Subject: ofs, size, v. -/
  | controlRegisterWrite
  /-- CXL_MEM_ACCESS, R382: A host read or write of device memory over CXL.mem is served by the line's home LLC slice. Subject: wr, addr, bytes. -/
  | cxlMemAccess
  /-- POWER_ON_RESET, R388: Reset puts the device in RESET, zeroes device time and clears state. -/
  | powerOnReset
  /-- FIRMWARE_VERIFY, R388: Bring-up verifies the firmware image and enters READY, or FAILED. Subject: key, signature, image. -/
  | firmwareVerify
  /-- VERSION, R388: SPDM version request on the DOE mailbox. -/
  | version
  /-- CAPABILITIES, R388: SPDM capabilities request on the DOE mailbox. -/
  | capabilities
  /-- ALGORITHM_NEGOTIATION, R388: SPDM algorithm negotiation request on the DOE mailbox. -/
  | algorithmNegotiation
  /-- DIGESTS, R388: SPDM digests request on the DOE mailbox. -/
  | digests
  /-- CERTIFICATES, R388: SPDM certificate request on the DOE mailbox. -/
  | certificates
  /-- CHALLENGE, R388: SPDM challenge request on the DOE mailbox. -/
  | challenge
  /-- MEASUREMENTS, R388: SPDM measurements request on the DOE mailbox. -/
  | measurements
  /-- POWER_WITHHOLD, R21: Near its power or temperature limit the power controller withholds VEC and MTX issue cycles. Subject: on. -/
  | powerWithhold
  /-- THERMAL_TRIP, R390: The die reaches 105 degrees C, every master is frozen and the device becomes FAILED. -/
  | thermalTrip
  /-- LINK_UP, R311: A port's link starts working again, so packets for a FID whose primary port it is leave by PRI again instead of ALT, and ALTU
  changes. Subject: port. -/
  | linkUp
  /-- FLIT_RESEND, R312: A flit that fails its check code on a Perip link is resent by the link layer, costing time and never changing data. Subject:
  port. -/
  | flitResend
  /-- PACKET_FORWARDING, R311: A packet that arrives for another device's FID is forwarded by the port logic through this device's route registers,
  without a core. Subject: port, dst. -/
  | packetForwarding
deriving DecidableEq, Repr

end Sys2Proof
end

