-- ==== Sys2Proof/WellFormed.lean ====
section
/-!
DEFINITION. Which instructions an encoding may carry: the operand rules of R50, the format rules of R52 and R54, and the
reserved codes that each instruction's own rule names. A hardware step has no encoding and no check.
-/
namespace Sys2Proof

/-- An even register number, as a 64-bit operand needs (R50). -/
def even (n : BitVec 8) : Bool := !n.getLsbD 0

/-- Predicate index 7 with negate is illegal (R48). -/
def Guard.ok (g : Guard) : Bool := !(g.neg && g.p == 7#3)

/-- The guard that selects every lane: index 7, no negate (R48). -/
def Guard.always (g : Guard) : Bool := !g.neg && g.p == 7#3

/-- A scalar register number lies in 0 to 127 (R50). -/
def sOk (n : BitVec 8) : Bool := n.toNat < 128

/-- A scalar pair: in range and even (R50). -/
def sOk2 (n : BitVec 8) : Bool := n.toNat < 128 && even n

def sOkIf (n : BitVec 8) (pair : Bool) : Bool := n.toNat < 128 && (!pair || even n)

def VS.ok (x : VS) : Bool := !x.sc || x.n.toNat < 128

def VS.ok2 (x : VS) : Bool := (!x.sc || x.n.toNat < 128) && even x.n

def VS.okIf (x : VS) (pair : Bool) : Bool := (!x.sc || x.n.toNat < 128) && (!pair || even x.n)

/-- A scalar destination takes no vector source (R50, R91). -/
def scalarDest (d : VS) (srcs : List VS) : Bool := !d.sc || srcs.all (·.sc)

/-- Position field of a conversion (R136): any for 8-bit formats, even for 16-bit formats, zero for the others. -/
def posOk (fmt : BitVec 4) (p : BitVec 2) : Bool :=
  if fmt == 4#4 || fmt == 5#4 then true
  else if fmt == 2#4 || fmt == 3#4 then !p.getLsbD 0
  else p == 0#2

/-- The 64-bit formats of R136: f64, s64 and u64, whose values are pairs. -/
def fmt64 (f : BitVec 4) : Bool := f == 0#4 || f == 8#4 || f == 9#4

/-- DATA is even for b64 and a multiple of 4 for b128 (R54). -/
def dataOk (data : BitVec 8) (width : BitVec 4) : Bool :=
  if width == 5#4 then even data else if width == 6#4 then data.extractLsb' 0 2 == 0#2 else true

/-- The widths a store may name (R186): b8, b16, b32, b64 and b128. -/
def storeWidth (w : BitVec 4) : Bool := w == 0#4 || w == 2#4 || w == 4#4 || w == 5#4 || w == 6#4

/-- BASE and IDX of the forms that `LD`, `ST` and `PREF` allow (R54): a scalar pair, a scalar pair with a vector index,
or a vector pair; an unused field is zero. -/
def memBaseOk (form : BitVec 2) (base idx : BitVec 8) : Bool :=
  if form == 0#2 then sOk2 base && idx == 0#8
  else if form == 1#2 then sOk2 base
  else if form == 2#2 then even base && idx == 0#8
  else false

/-- BASE of the two forms that pool and window accesses allow (R54): one vector register, or none. -/
def poolBaseOk (form : BitVec 2) (base : BitVec 8) : Bool := form == 2#2 || (form == 3#2 && base == 0#8)

/-- Register fields of an atomic (R189): pairs with W64, and CMP zero but for `.cas`. -/
def atomRegsOk (dst opd cmp : BitVec 8) (aop : BitVec 4) (w64 : Bool) : Bool :=
  (!w64 || (even dst && even opd && even cmp)) && (aop == 9#4 || cmp == 0#8)

/-- The type pairs of `MMA` (R255); codes 5 and 7 belong to `MLOOP` only. -/
def mmaTypes (ta tb : BitVec 3) : Bool :=
  (ta == 0#3 && tb == 0#3) || (ta == 1#3 && tb == 1#3) ||
  ((ta == 2#3 || ta == 3#3) && (tb == 2#3 || tb == 3#3)) || (ta == 4#3 && tb == 4#3)

/-- The type pairs of `MLOOP` (R255). -/
def loopTypes (ta tb : BitVec 3) : Bool :=
  mmaTypes ta tb || (ta == 0#3 && tb == 5#3) || (tb == 7#3 && (ta == 0#3 || ta == 2#3 || ta == 3#3))

/-- The special registers `SRD` may name (R372); a per-lane one needs a vector destination. -/
def srdOk (n : BitVec 8) (sc : Bool) : Bool :=
  (n.toNat <= 0x16 || (0x18 <= n.toNat && n.toNat <= 0x1D) || (0x20 <= n.toNat && n.toNat <= 0x24)) &&
  !(sc && (n == 0#8 || n == 1#8 || n == 0x10#8 || n == 0x11#8))

/-- The special registers `SWR` may name (R372). -/
def swrOk (n : BitVec 8) : Bool := 0x18 <= n.toNat && n.toNat <= 0x1D

/-- What the encoding of an instruction must satisfy: R50, R52, R54 and the reserved codes of its own rule. -/
def wellFormed : Instr → Bool
  | .nop g => g.ok
  | .bra g _ _ => g.ok
  | .brx g a => g.ok && a.ok2
  | .call g _ a _ => g.ok && a.ok2
  | .callx g d a => g.ok && d.ok2 && a.ok2
  | .ret g a => g.ok && a.ok2
  | .exit g => g.ok
  | .loop g _ a _ => g.ok && a.ok
  | .iter g _ f64 _ a _ => g.ok && a.ok && (!f64 || even a.n) && (!a.sc || a.n.toNat + (if f64 then 5 else 3) < 128)
  | .jarm g j sa sb _ => g.ok && j.toNat < 16 && sOk sa && sOk sb
  | .jarmL g j _ _ => g.ok && j.toNat < 16
  | .jwait g pd j => g.ok && pd.toNat < 8 && j.toNat < 16
  | .jdrop g j => g.ok && j.toNat < 16
  | .jqry g sd j _ => g.ok && sOk sd && j.toNat < 16
  | .regrp g sa pb => g.ok && sOk sa && pb.toNat < 8 && g.always
  | .ungrp g sa => g.ok && sOk sa && g.always
  | .yield g => g.ok
  | .sleep g sa _ => g.ok && sOk sa
  | .sleepL g _ _ => g.ok
  | .iadd g d a b sat u => g.ok && d.ok && a.ok && b.ok && scalarDest d [a, b] && (!u || sat)
  | .iaddL g s d a _ sat u => g.ok && (!s || sOk d) && (!s || sOk a) && (!u || sat)
  | .isub g d a b sat u => g.ok && d.ok && a.ok && b.ok && scalarDest d [a, b] && (!u || sat)
  | .isubL g s d a _ sat u => g.ok && (!s || sOk d) && (!s || sOk a) && (!u || sat)
  | .imul g d a b => g.ok && d.ok && a.ok && b.ok && scalarDest d [a, b]
  | .imulL g s d a _ => g.ok && (!s || sOk d) && (!s || sOk a)
  | .imulh g d a b _ => g.ok && d.ok && a.ok && b.ok && scalarDest d [a, b]
  | .imad g d a b c => g.ok && d.ok && a.ok && b.ok && c.ok && scalarDest d [a, b, c]
  | .iadd64 g d a b => g.ok && d.ok2 && a.ok2 && b.ok2 && scalarDest d [a, b]
  | .iadd64L g s d a _ => g.ok && (!s || sOk d) && even d && (!s || sOk a) && even a
  | .isub64 g d a b => g.ok && d.ok2 && a.ok2 && b.ok2 && scalarDest d [a, b]
  | .imad64 g d a b c _ => g.ok && d.ok2 && a.ok && b.ok && c.ok2 && scalarDest d [a, b, c]
  | .icmp g p a b cc => g.ok && p.toNat < 8 && a.ok && b.ok && cc.toNat < 10
  | .icmpL g s p a _ _ => g.ok && p.toNat < 8 && (!s || sOk a)
  | .icmp64 g p a b cc => g.ok && p.toNat < 8 && a.ok2 && b.ok2 && cc.toNat < 10
  | .icmp64L g s p a _ _ => g.ok && p.toNat < 8 && (!s || sOk a) && even a
  | .imin g d a b _ => g.ok && d.ok && a.ok && b.ok && scalarDest d [a, b]
  | .iminL g s d a _ _ => g.ok && (!s || sOk d) && (!s || sOk a)
  | .imax g d a b _ => g.ok && d.ok && a.ok && b.ok && scalarDest d [a, b]
  | .imaxL g s d a _ _ => g.ok && (!s || sOk d) && (!s || sOk a)
  | .iabs g d a _ => g.ok && d.ok && a.ok && scalarDest d [a]
  | .iaddmin g d a b c _ => g.ok && d.ok && a.ok && b.ok && c.ok && scalarDest d [a, b, c]
  | .and g d a b => g.ok && d.ok && a.ok && b.ok && scalarDest d [a, b]
  | .andL g s d a _ => g.ok && (!s || sOk d) && (!s || sOk a)
  | .or g d a b => g.ok && d.ok && a.ok && b.ok && scalarDest d [a, b]
  | .orL g s d a _ => g.ok && (!s || sOk d) && (!s || sOk a)
  | .xor g d a b => g.ok && d.ok && a.ok && b.ok && scalarDest d [a, b]
  | .xorL g s d a _ => g.ok && (!s || sOk d) && (!s || sOk a)
  | .andn g d a b => g.ok && d.ok && a.ok && b.ok && scalarDest d [a, b]
  | .andnL g s d a _ => g.ok && (!s || sOk d) && (!s || sOk a)
  | .not g d a => g.ok && d.ok && a.ok && scalarDest d [a]
  | .shl g d a b => g.ok && d.ok && a.ok && b.ok && scalarDest d [a, b]
  | .shlL g s d a _ => g.ok && (!s || sOk d) && (!s || sOk a)
  | .shr g d a b => g.ok && d.ok && a.ok && b.ok && scalarDest d [a, b]
  | .shrL g s d a _ => g.ok && (!s || sOk d) && (!s || sOk a)
  | .sar g d a b => g.ok && d.ok && a.ok && b.ok && scalarDest d [a, b]
  | .sarL g s d a _ => g.ok && (!s || sOk d) && (!s || sOk a)
  | .shl64 g d a b => g.ok && d.ok2 && a.ok2 && b.ok && scalarDest d [a, b]
  | .shl64L g s d a _ => g.ok && (!s || sOk d) && even d && (!s || sOk a) && even a
  | .shr64 g d a b => g.ok && d.ok2 && a.ok2 && b.ok && scalarDest d [a, b]
  | .shr64L g s d a _ => g.ok && (!s || sOk d) && even d && (!s || sOk a) && even a
  | .bfe g d a b c _ => g.ok && d.ok && a.ok && b.ok && c.ok && scalarDest d [a, b, c]
  | .bfi g d a b c => g.ok && d.ok && a.ok && b.ok && c.ok && scalarDest d [a, b, c]
  | .popc g d a => g.ok && d.ok && a.ok && scalarDest d [a]
  | .clz g d a => g.ok && d.ok && a.ok && scalarDest d [a]
  | .brev g d a => g.ok && d.ok && a.ok && scalarDest d [a]
  | .sel g _ a b pc => g.ok && a.ok && b.ok && pc.toNat < 8
  | .mov g d a b64 => g.ok && d.okIf (b64) && a.okIf (b64) && scalarDest d [a]
  | .movL g s d _ => g.ok && (!s || sOk d)
  | .plop g pd pa pb pc _ => g.ok && pd.toNat < 8 && pa.toNat < 8 && pb.toNat < 8 && pc.toNat < 8
  | .qswp g d a k b64 f c => g.ok && (!(b64) || even d) && (!(b64) || even a) && c.okIf (b64) && k != 0#2 && (f || (!c.sc && c.n == 0#8))
  | .qbcst g d a _ b64 f c => g.ok && (!(b64) || even d) && (!(b64) || even a) && c.okIf (b64) && (f || (!c.sc && c.n == 0#8))
  | .shfl g d a b w _ b64 f c => g.ok && (!(b64) || even d) && (!(b64) || even a) && b.ok && c.okIf (b64) && w.toNat < 5 && (f || (!c.sc && c.n == 0#8))
  | .shflL g _ _ _ _ w => g.ok && w.toNat < 5
  | .lshf g d a b w _ b64 f c => g.ok && (!(b64) || even d) && (!(b64) || even a) && b.ok && c.okIf (b64) && w.toNat < 5 && (f || (!c.sc && c.n == 0#8))
  | .lshfL g _ _ n _ w => g.ok && w.toNat < 5 && n.toNat < 33
  | .vote g pd pa v => g.ok && pd.toNat < 8 && pa.toNat < 8 && v != 3#2
  | .ballot g sd pa => g.ok && sOk sd && pa.toNat < 8
  | .matchLanes g _ a b64 => g.ok && (!(b64) || even a)
  | .lcomp g sd pa id => g.ok && sOk sd && pa.toNat < 8 && g.always && (!id || pa == 7#8)
  | .lpfx g _ _ op _ f32 => g.ok && op != 3#2 && (!f32 || op == 0#2)
  | .segadd g _ _ pb _ => g.ok && pb.toNat < 8
  | .rdlane g sd a sb b64 f c => g.ok && sOkIf sd (b64) && (!(b64) || even a) && sOk sb && c.okIf (b64) && (if f then c.sc else (!c.sc && c.n == 0#8))
  | .rdlaneL g sd _ _ => g.ok && sOk sd
  | .fadd g d a b ty _ _ _ => g.ok && d.okIf ((ty==0#2)) && a.okIf ((ty==0#2)) && b.okIf ((ty==0#2)) && scalarDest d [a, b]
  | .faddL g s d a _ _ => g.ok && (!s || sOk d) && (!s || sOk a)
  | .fmul g d a b ty _ _ _ => g.ok && d.okIf ((ty==0#2)) && a.okIf ((ty==0#2)) && b.okIf ((ty==0#2)) && scalarDest d [a, b]
  | .fmulL g s d a _ _ => g.ok && (!s || sOk d) && (!s || sOk a)
  | .ffma g d a b c ty _ _ _ _ => g.ok && d.okIf ((ty==0#2)) && a.okIf ((ty==0#2)) && b.okIf ((ty==0#2)) && c.okIf ((ty==0#2)) && scalarDest d [a, b, c]
  | .fmin g d a b ty => g.ok && d.okIf ((ty==0#2)) && a.okIf ((ty==0#2)) && b.okIf ((ty==0#2)) && scalarDest d [a, b]
  | .fminL g s d a _ => g.ok && (!s || sOk d) && (!s || sOk a)
  | .fmax g d a b ty => g.ok && d.okIf ((ty==0#2)) && a.okIf ((ty==0#2)) && b.okIf ((ty==0#2)) && scalarDest d [a, b]
  | .fmaxL g s d a _ => g.ok && (!s || sOk d) && (!s || sOk a)
  | .fcmp g p a b ty _ => g.ok && p.toNat < 8 && a.okIf ((ty==0#2)) && b.okIf ((ty==0#2)) && ty.toNat < 2
  | .fcmpL g s p a _ _ => g.ok && p.toNat < 8 && (!s || sOk a)
  | .fclass g d a ty => g.ok && d.ok && a.okIf ((ty==0#2)) && scalarDest d [a]
  | .frnd g d a ty _ => g.ok && d.okIf ((ty==0#2)) && a.okIf ((ty==0#2)) && scalarDest d [a]
  | .fscale g d a b ty _ => g.ok && d.okIf ((ty==0#2)) && a.okIf ((ty==0#2)) && b.ok && scalarDest d [a, b] && ty.toNat < 2
  | .fdot2 g d a b c ty _ _ _ _ => g.ok && d.ok && a.ok && b.ok && c.ok && scalarDest d [a, b, c] && 1 < ty.toNat
  | .srcp g d a => g.ok && d.ok && a.ok && scalarDest d [a]
  | .srsq g d a => g.ok && d.ok && a.ok && scalarDest d [a]
  | .ssqrt g d a => g.ok && d.ok && a.ok && scalarDest d [a]
  | .sexp2 g d a => g.ok && d.ok && a.ok && scalarDest d [a]
  | .slog2 g d a => g.ok && d.ok && a.ok && scalarDest d [a]
  | .ssin g d a => g.ok && d.ok && a.ok && scalarDest d [a]
  | .scos g d a => g.ok && d.ok && a.ok && scalarDest d [a]
  | .stanh g d a => g.ok && d.ok && a.ok && scalarDest d [a]
  | .cvf g d a df sf _ _ sp dp => g.ok && d.okIf ((fmt64 df)) && a.okIf ((fmt64 sf)) && scalarDest d [a] && df.toNat < 6 && sf.toNat < 6 && df != sf && posOk sf sp && posOk df dp
  | .cvn g _ a q df sf _ _ dp => g.ok && (!((fmt64 sf)) || even a) && q.toNat < 8 && sf.toNat < 2 && 2 <= df.toNat && df.toNat < 6 && posOk df dp
  | .cvi g d a df sf _ sp dp => g.ok && d.okIf ((fmt64 df)) && a.okIf ((fmt64 sf)) && scalarDest d [a] && df.toNat < 10 && sf.toNat < 10 && (decide (6 <= df.toNat) != decide (6 <= sf.toNat)) && posOk sf sp && posOk df dp
  | .cvsh g d a b _ => g.ok && !d.sc && !a.sc && b.ok
  | .dcsh g d a b _ => g.ok && !d.sc && !a.sc && b.ok
  | .qclr g _ => g.ok
  | .qmov g x y dir => g.ok && (if dir then y.toNat < 8 else x.toNat < 8)
  | .vchain g sd sa => g.ok && sOk sd && sOk2 sa
  | .hring g sa _ _ => g.ok && sOk2 sa
  | .hfrom g d a _ f64 => g.ok && d.ok && a.okIf (f64) && scalarDest d [a]
  | .htof g d a _ => g.ok && d.ok2 && a.ok && scalarDest d [a]
  | .hadd g d a b _ => g.ok && d.ok && a.ok && b.ok && scalarDest d [a, b]
  | .hsub g d a b _ => g.ok && d.ok && a.ok && b.ok && scalarDest d [a, b]
  | .hmul g d a b _ => g.ok && d.ok && a.ok && b.ok && scalarDest d [a, b]
  | .hdiv g d a b _ => g.ok && d.ok && a.ok && b.ok && scalarDest d [a, b]
  | .hneg g d a _ => g.ok && d.ok && a.ok && scalarDest d [a]
  | .hrcp g d a _ => g.ok && d.ok && a.ok && scalarDest d [a]
  | .hsq g d a _ => g.ok && d.ok && a.ok && scalarDest d [a]
  | .huni g d a b => g.ok && d.ok && a.ok && b.ok && scalarDest d [a, b]
  | .hcap g d a b => g.ok && d.ok && a.ok && b.ok && scalarDest d [a, b]
  | .hinFlt g p a b _ f64 => g.ok && p.toNat < 8 && a.ok && b.okIf (f64)
  | .hinSub g p a b => g.ok && p.toNat < 8 && a.ok && b.ok
  | .harc g d a => g.ok && d.ok && a.ok && scalarDest d [a]
  | .hexp g d a => g.ok && d.ok && a.ok && scalarDest d [a]
  | .hcnt g d a _ => g.ok && d.ok && a.ok && scalarDest d [a]
  | .ld g data base idx form width nl1 _ => g.ok && form != 3#2 && width.toNat < 8 && nl1.toNat < 2 && dataOk data width && memBaseOk form base idx
  | .st g data base idx form width nl1 _ => g.ok && form != 3#2 && storeWidth width && nl1.toNat < 2 && dataOk data width && memBaseOk form base idx
  | .lds g data base form width _ => g.ok && width.toNat < 7 && dataOk data width && poolBaseOk form base
  | .sts g data base form width _ => g.ok && storeWidth width && dataOk data width && poolBaseOk form base
  | .ldp g _ base form _ => g.ok && poolBaseOk form base
  | .stp g _ base form _ => g.ok && poolBaseOk form base
  | .ldk g data base width _ => g.ok && width.toNat < 7 && dataOk data width && data.toNat < 128 && base.toNat < 128 && even base
  | .atom g dst base opd cmp form aop scope w64 _ => g.ok && (form == 0#2 || form == 2#2) && aop.toNat < 11 && scope != 0#3 && atomRegsOk dst opd cmp aop w64 && (if form == 0#2 then base.toNat < 128 && even base else even base)
  | .atoms g dst base opd cmp form aop scope w64 _ => g.ok && (form == 2#2 || (form == 3#2 && base == 0#8)) && aop.toNat < 11 && (scope == 1#3 || scope == 2#3) && atomRegsOk dst opd cmp aop w64
  | .pref g base idx form llc _ => g.ok && form != 3#2 && llc.toNat < 2 && memBaseOk form base idx
  | .xlat g d a => g.ok && d.ok2 && a.ok2 && d.sc == a.sc
  | .xacq g sd sa _ => g.ok && sOk sd && sOk sa
  | .xrel g sa => g.ok && sOk sa
  | .fence g scope => g.ok && scope != 0#3
  | .rel g scope => g.ok && scope != 0#3
  | .acq g scope => g.ok && scope != 0#3
  | .bar g a _ _ cnt => g.ok && a.ok && (if cnt then a.sc else (!a.sc && a.n == 0#8))
  | .boinit g sa b inv => g.ok && sOk sa && b.ok && (if inv then (!b.sc && b.n == 0#8) else b.sc)
  | .boarr g sd sa b tx => g.ok && sOk sd && sOk sa && b.ok && (if tx then b.sc else (!b.sc && b.n == 0#8))
  | .bowait g sa sb => g.ok && sOk sa && sOk sb
  | .botry g sd sa sb => g.ok && sOk sd && sOk sa && sOk sb
  | .fwait g sd sa sb sc cc slice => g.ok && sOk sd && sOk sa && sOk sb && sOk sc && cc.toNat < 10 && (slice || even sa)
  | .dtime g sd _ => g.ok && sOk2 sd
  | .wct g sd => g.ok && sOk2 sd
  | .acopy g sd sa sb sc sp => g.ok && sOk sd && sOk sa && sOk sb && sOk sc && (sp.getLsbD 0 || even sa) && (sp.getLsbD 1 || even sb)
  | .acopyt g sd sa sb sc sp => g.ok && sOk sd && sOk sa && sOk sb && sOk sc && (sp.getLsbD 0 || even sa) && (sp.getLsbD 1 || even sb) && sc.toNat + 3 < 128
  | .asto g sd sa _ sc => g.ok && sOk sd && sOk2 sa && sOk sc
  | .kick g sa sb => g.ok && sOk sa && sOk sb
  | .kstat g sd _ => g.ok && sOk sd
  | .ghnd g sd sa => g.ok && sOk sd && sOk2 sa
  | .ghndFree g sa => g.ok && sOk sa
  | .gath g _ sa _ c _ bs => g.ok && sOk sa && c.ok && (if bs then c.sc else (!c.sc && c.n == 0#8))
  | .scat g sa _ _ _ => g.ok && sOk sa
  | .gcmr g sd _ => g.ok && sOk sd
  | .gcmw g sa => g.ok && sOk sa
  | .mbq g _ sa => g.ok && sOk sa
  | .mloop g m sa sb sc ta tb _ => g.ok && m.toNat < 4 && sOk2 sa && sOk2 sb && sOk sc && loopTypes ta tb && sc.toNat + 4 < 128
  | .mma g m va ta tb => g.ok && m.toNat < 4 && (!((ta==4#3)) || even va) && mmaTypes ta tb
  | .mzero g m _ => g.ok && m.toNat < 4
  | .mdrain g _ m sb _ _ => g.ok && m.toNat < 4 && sOk sb
  | .mdrainS g sd m sb _ _ => g.ok && sOk sd && m.toNat < 4 && sOk sb
  | .mdrainc g m sb sc _ => g.ok && m.toNat < 4 && sOk sb && sOk sc
  | .mguide g d m sb sc _ _ => g.ok && d.ok && m.toNat < 4 && sOk sb && sOk sc
  | .mtwin g => g.ok
  | .msketch g sd t sb sc => g.ok && sOk sd && t.toNat < 16 && sOk sb && sOk sc
  | .mmask g sa sb => g.ok && sOk sa && sOk sb
  | .mstat g sd m _ => g.ok && sOk sd && m.toNat < 4
  | .msave g sa m _ => g.ok && sOk2 sa && m.toNat < 4
  | .mrstr g m sa => g.ok && m.toNat < 4 && sOk2 sa
  | .tdesc g t sa b rcd => g.ok && t.toNat < 16 && sOk2 sa && b.ok && (if rcd then b.sc else (!b.sc && b.n == 0#8))
  | .tdescRd g sd t => g.ok && sOk2 sd && t.toNat < 16
  | .tld g t sa sb => g.ok && t.toNat < 16 && sOk2 sa && sOk sb
  | .tldHeap g sa => g.ok && sOk2 sa
  | .tldf g t sa sb => g.ok && t.toNat < 16 && sOk2 sa && sOk sb
  | .tstD g sa t sc => g.ok && sOk2 sa && t.toNat < 16 && sOk sc
  | .tstF g sa t => g.ok && sOk2 sa && t.toNat < 16
  | .tstHeap g sa => g.ok && sOk2 sa
  | .tzero g t => g.ok && t.toNat < 16
  | .tadd g t ta tb => g.ok && t.toNat < 16 && ta.toNat < 16 && tb.toNat < 16
  | .tscl g t ta sb => g.ok && t.toNat < 16 && ta.toNat < 16 && sOk sb
  | .tmul g t ta tb => g.ok && t.toNat < 16 && ta.toNat < 16 && tb.toNat < 16
  | .tmulv g _ ta _ => g.ok && ta.toNat < 16
  | .trnd g t ta b st abs => g.ok && t.toNat < 16 && ta.toNat < 16 && b.ok && (if st then b.sc else (!b.sc && b.n == 0#8)) && (!abs || st)
  | .trank g sd ta _ => g.ok && sOk sd && ta.toNat < 16
  | .ttod g t ta => g.ok && t.toNat < 16 && ta.toNat < 16
  | .ttol g t ta => g.ok && t.toNat < 16 && ta.toNat < 16
  | .tpotrf g t ta => g.ok && t.toNat < 16 && ta.toNat < 16
  | .ttrsm g t ta tb _ _ _ _ => g.ok && t.toNat < 16 && ta.toNat < 16 && tb.toNat < 16
  | .tupd g t ta tb => g.ok && t.toNat < 16 && ta.toNat < 16 && tb.toNat < 16
  | .thalc g t => g.ok && t.toNat < 16
  | .thfre g t => g.ok && t.toNat < 16
  | .qpost g sd sa => g.ok && sOk sd && sOk sa && even sa && sa.toNat + 7 < 128
  | .qtick g sd sa _ => g.ok && sOk2 sd && sOk sa
  | .put g sd sa => g.ok && sOk sd && sOk sa && even sa && sa.toNat + 7 < 128
  | .puts g sd sa => g.ok && sOk sd && sOk sa && even sa && sa.toNat + 7 < 128
  | .putr g sd sa => g.ok && sOk sd && sOk sa && even sa && sa.toNat + 7 < 128
  | .get g sd sa => g.ok && sOk sd && sOk sa && even sa && sa.toNat + 7 < 128
  | .qarm g sa sb sc => g.ok && sOk sa && sOk sb && sOk sc
  | .tcnt g sd sa b op => g.ok && sOk sd && sOk sa && b.ok && op != 3#2 && (if op == 0#2 then (!b.sc && b.n == 0#8) else b.sc)
  | .qring g sd sa => g.ok && sOk sd && sOk sa
  | .qcomp g sd sa _ _ => g.ok && sOk sd && even sd && sOk sa && sd.toNat + 3 < 128
  | .qcancel g sd sa => g.ok && sOk sd && sOk sa
  | .qstat g sd sa _ _ => g.ok && sOk sd && sOk sa
  | .gnode g sd sa => g.ok && sOk sd && sOk2 sa
  | .gedge g sa sb => g.ok && sOk sa && sOk sb
  | .gsub g sa => g.ok && sOk sa
  | .gwait g sd sa _ => g.ok && sOk sd && sOk sa && sd.toNat + 2 < 128
  | .launch g sd sa => g.ok && sOk sd && sOk2 sa
  | .dline g sa sb => g.ok && sOk sa && sOk2 sb
  | .dgst g sd => g.ok && sOk2 sd
  | .dgchk g sa => g.ok && sOk2 sa
  | .trap g a => g.ok && a.ok && (a.sc || a.n == 0#8)
  | .rte g _ => g.ok
  | .savelive g sd sa => g.ok && sOk sd && sOk2 sa
  | .restlive g sa => g.ok && sOk2 sa
  | .srd g d n => g.ok && d.ok && scalarDest d [] && srdOk n d.sc
  | .swr g n sa => g.ok && sOk sa && swrOk n
  | .bkpt g _ => g.ok
  | .pmark g _ => g.ok
  | .haltb g sa _ => g.ok && sOk sa
  | .rdbaro g sd sa _ => g.ok && sOk2 sd && sOk sa
  | .joinTimeout | .sleepExpiry | .fairnessRotation | .clauseFetch | .chainCompletion | .ringSlotCommit
    | .releaseCompletion | .fwaitReread | .homeRequest | .loadDataWritten | .storeAcknowledgement
    | .takingAPin | .retry | .pinTimeout => true
  | .asyncCompletion | .cardCompletion | .gathSettled | .kStep | .twinHoldTimeout | .burnisherPhaseBoundary
    | .burnisherCommit | .entryCompletion => true
  | .putPacket | .putWithSignal | .writeWithReduce | .getRequest | .acknowledgement | .getData
    | .remoteDeviceAccess | .packetTimeout | .linkDown | .routeSwitch => true
  | .postMessage | .ticketMessage | .mismatchMessage | .cancelMessage | .cancelledMessage | .postTimeout
    | .collectiveStart | .foldChunk | .resultChunk | .credit | .collectiveTimeout | .collectiveResultTimeout
    | .collectiveEnd => true
  | .nodeDispatch | .blockPlacement | .nodeCompletion | .deadlinePassed | .groupEnd | .trapEntry => true
  | .submit | .wait | .inval | .preempt | .release | .resync | .checkpoint | .restore | .trace
    | .checkpointStreamComplete => true
  | .qTailWrite | .lplaceWrite | .fwinWrite | .stageWrite | .prouteWrite | .teamCfgWrite | .devFidWrite
    | .queueContextWrite | .controlRegisterWrite | .cxlMemAccess => true
  | .powerOnReset | .firmwareVerify | .version | .capabilities | .algorithmNegotiation | .digests
    | .certificates | .challenge | .measurements | .powerWithhold | .thermalTrip | .linkUp | .flitResend
    | .packetForwarding => true

end Sys2Proof
end

