-- ==== Sys2Proof/Decode.lean ====
section
/-!
DEFINITION. Instruction words (R48 to R58): the five formats as records with their packing and unpacking, the encoder, the
decoder, and the opcode map. A word decodes to an instruction only when its operands are well formed and the instruction's
own encoding is that word, so a nonzero reserved bit or an unused field that is not zero is refused (R50, R58).
-/
namespace Sys2Proof

/-- Format G (R49). -/
structure FormatG where
  op : BitVec 8
  g : Guard
  d : BitVec 8
  a : BitVec 8
  b : BitVec 8
  c : BitVec 8
  fd : Bool
  fa : Bool
  fb : Bool
  fc : Bool
  mod : BitVec 16
deriving DecidableEq, Repr

/-- Format L (R52). -/
structure FormatL where
  op : BitVec 8
  g : Guard
  d : BitVec 8
  a : BitVec 8
  s : Bool
  mod : BitVec 3
  lit : BitVec 32
deriving DecidableEq, Repr

/-- Format M (R54). -/
structure FormatM where
  op : BitVec 8
  g : Guard
  data : BitVec 8
  base : BitVec 8
  idx : BitVec 8
  form : BitVec 2
  width : BitVec 4
  mod : BitVec 8
  ofs : BitVec 14
deriving DecidableEq, Repr

/-- Format A (R54). -/
structure FormatA where
  op : BitVec 8
  g : Guard
  dst : BitVec 8
  base : BitVec 8
  opd : BitVec 8
  cmp : BitVec 8
  form : BitVec 2
  aop : BitVec 4
  scope : BitVec 3
  w64 : Bool
  ofs : BitVec 10
deriving DecidableEq, Repr

/-- Format B (R54); bits 35:32 are reserved. -/
structure FormatB where
  op : BitVec 8
  g : Guard
  hint : Bool
  fa : Bool
  mod : BitVec 6
  a : BitVec 8
  ofs : BitVec 32
deriving DecidableEq, Repr

def packG (r : FormatG) : DWord :=
  r.op ++ BitVec.ofBool r.g.neg ++ r.g.p ++ r.d ++ r.a ++ r.b ++ r.c ++
    BitVec.ofBool r.fd ++ BitVec.ofBool r.fa ++ BitVec.ofBool r.fb ++ BitVec.ofBool r.fc ++ r.mod

def packL (r : FormatL) : DWord :=
  r.op ++ BitVec.ofBool r.g.neg ++ r.g.p ++ r.d ++ r.a ++ BitVec.ofBool r.s ++ r.mod ++ r.lit

def packM (r : FormatM) : DWord :=
  r.op ++ BitVec.ofBool r.g.neg ++ r.g.p ++ r.data ++ r.base ++ r.idx ++ r.form ++ r.width ++ r.mod ++ r.ofs

def packA (r : FormatA) : DWord :=
  r.op ++ BitVec.ofBool r.g.neg ++ r.g.p ++ r.dst ++ r.base ++ r.opd ++ r.cmp ++ r.form ++ r.aop ++ r.scope ++
    BitVec.ofBool r.w64 ++ r.ofs

def packB (r : FormatB) : DWord :=
  r.op ++ BitVec.ofBool r.g.neg ++ r.g.p ++ BitVec.ofBool r.hint ++ BitVec.ofBool r.fa ++ r.mod ++ r.a ++ 0#4 ++ r.ofs

def opcodeOf (w : DWord) : BitVec 8 := w.extractLsb' 56 8

def guardOf (w : DWord) : Guard := ⟨w.getLsbD 55, w.extractLsb' 52 3⟩

def unpackG (w : DWord) : FormatG :=
  ⟨opcodeOf w, guardOf w, w.extractLsb' 44 8, w.extractLsb' 36 8, w.extractLsb' 28 8, w.extractLsb' 20 8,
    w.getLsbD 19, w.getLsbD 18, w.getLsbD 17, w.getLsbD 16, w.extractLsb' 0 16⟩

def unpackL (w : DWord) : FormatL :=
  ⟨opcodeOf w, guardOf w, w.extractLsb' 44 8, w.extractLsb' 36 8, w.getLsbD 35, w.extractLsb' 32 3, w.extractLsb' 0 32⟩

def unpackM (w : DWord) : FormatM :=
  ⟨opcodeOf w, guardOf w, w.extractLsb' 44 8, w.extractLsb' 36 8, w.extractLsb' 28 8, w.extractLsb' 26 2,
    w.extractLsb' 22 4, w.extractLsb' 14 8, w.extractLsb' 0 14⟩

def unpackA (w : DWord) : FormatA :=
  ⟨opcodeOf w, guardOf w, w.extractLsb' 44 8, w.extractLsb' 36 8, w.extractLsb' 28 8, w.extractLsb' 20 8,
    w.extractLsb' 18 2, w.extractLsb' 14 4, w.extractLsb' 11 3, w.getLsbD 10, w.extractLsb' 0 10⟩

def unpackB (w : DWord) : FormatB :=
  ⟨opcodeOf w, guardOf w, w.getLsbD 51, w.getLsbD 50, w.extractLsb' 44 6, w.extractLsb' 36 8, w.extractLsb' 0 32⟩

/-- Why a word is not an instruction (R57, R58). A word that no rule lets issue raises ILLEGAL_OP whichever the reason. -/
inductive DecodeError where
  /-- Fewer bytes than a word. -/
  | short
  /-- The opcode map leaves the opcode unassigned. -/
  | unassigned
  /-- An opcode the map never assigns: 0x00 and 0xC0 to 0xCF. -/
  | neverAssigned
  /-- A reserved bit or code, or an operand that R50 forbids. -/
  | illegalEncoding
deriving DecidableEq, Repr

/-- The word of an instruction (none for a hardware step, which has no encoding). -/
def encode : Instr → Option DWord
  | .nop g => some (packG ⟨0x01#8, g, 0#8, 0#8, 0#8, 0#8, false, false, false, false, 0x0#16⟩)
  | .bra g hint ofs => some (packB ⟨0x02#8, g, hint, false, 0#6, 0#8, ofs⟩)
  | .brx g a => some (packG ⟨0x03#8, g, 0#8, a.n, 0#8, 0#8, false, a.sc, false, false, 0x0#16⟩)
  | .call g hint a ofs => some (packB ⟨0x04#8, g, hint, a.sc, 0#6, a.n, ofs⟩)
  | .callx g d a => some (packG ⟨0x05#8, g, d.n, a.n, 0#8, 0#8, d.sc, a.sc, false, false, 0x0#16⟩)
  | .ret g a => some (packG ⟨0x06#8, g, 0#8, a.n, 0#8, 0#8, false, a.sc, false, false, 0x0#16⟩)
  | .exit g => some (packG ⟨0x07#8, g, 0#8, 0#8, 0#8, 0#8, false, false, false, false, 0x0#16⟩)
  | .loop g hint a ofs => some (packB ⟨0x08#8, g, hint, a.sc, 0#6, a.n, ofs⟩)
  | .iter g hint f64 st a ofs => some (packB ⟨0x09#8, g, hint, a.sc, 0#2 ++ BitVec.ofBool f64 ++ st, a.n, ofs⟩)
  | .jarm g j sa sb ns => some (packG ⟨0x0A#8, g, j, sa, sb, 0#8, false, true, true, false, 0#15 ++ BitVec.ofBool ns⟩)
  | .jarmL g j mask c => some (packL ⟨0x0B#8, g, j, 0#8, false, c, mask⟩)
  | .jwait g pd j => some (packG ⟨0x0C#8, g, pd, j, 0#8, 0#8, false, false, false, false, 0x0#16⟩)
  | .jdrop g j => some (packG ⟨0x0D#8, g, 0#8, j, 0#8, 0#8, false, false, false, false, 0x0#16⟩)
  | .jqry g sd j sel => some (packG ⟨0x0E#8, g, sd, j, 0#8, 0#8, true, false, false, false, 0#14 ++ sel⟩)
  | .regrp g sa pb => some (packG ⟨0x0F#8, g, 0#8, sa, pb, 0#8, false, true, false, false, 0x0#16⟩)
  | .ungrp g sa => some (packG ⟨0x10#8, g, 0#8, sa, 0#8, 0#8, false, true, false, false, 0x0#16⟩)
  | .yield g => some (packG ⟨0x11#8, g, 0#8, 0#8, 0#8, 0#8, false, false, false, false, 0x0#16⟩)
  | .sleep g sa ns => some (packG ⟨0x12#8, g, 0#8, sa, 0#8, 0#8, false, true, false, false, 0#15 ++ BitVec.ofBool ns⟩)
  | .sleepL g n ns => some (packL ⟨0x13#8, g, 0#8, 0#8, false, 0#2 ++ BitVec.ofBool ns, n⟩)
  | .iadd g d a b sat u => some (packG ⟨0x18#8, g, d.n, a.n, b.n, 0#8, d.sc, a.sc, b.sc, false, BitVec.ofBool u ++ BitVec.ofBool sat ++ 0#14⟩)
  | .iaddL g s d a lit sat u => some (packL ⟨0x38#8, g, d, a, s, BitVec.ofBool sat ++ BitVec.ofBool u ++ 0#1, lit⟩)
  | .isub g d a b sat u => some (packG ⟨0x19#8, g, d.n, a.n, b.n, 0#8, d.sc, a.sc, b.sc, false, BitVec.ofBool u ++ BitVec.ofBool sat ++ 0#14⟩)
  | .isubL g s d a lit sat u => some (packL ⟨0x39#8, g, d, a, s, BitVec.ofBool sat ++ BitVec.ofBool u ++ 0#1, lit⟩)
  | .imul g d a b => some (packG ⟨0x1A#8, g, d.n, a.n, b.n, 0#8, d.sc, a.sc, b.sc, false, 0x0#16⟩)
  | .imulL g s d a lit => some (packL ⟨0x3A#8, g, d, a, s, 0#3, lit⟩)
  | .imulh g d a b u => some (packG ⟨0x1B#8, g, d.n, a.n, b.n, 0#8, d.sc, a.sc, b.sc, false, BitVec.ofBool u ++ 0#15⟩)
  | .imad g d a b c => some (packG ⟨0x1C#8, g, d.n, a.n, b.n, c.n, d.sc, a.sc, b.sc, c.sc, 0x0#16⟩)
  | .iadd64 g d a b => some (packG ⟨0x1D#8, g, d.n, a.n, b.n, 0#8, d.sc, a.sc, b.sc, false, 0x0#16⟩)
  | .iadd64L g s d a lit => some (packL ⟨0x3B#8, g, d, a, s, 0#3, lit⟩)
  | .isub64 g d a b => some (packG ⟨0x1E#8, g, d.n, a.n, b.n, 0#8, d.sc, a.sc, b.sc, false, 0x0#16⟩)
  | .imad64 g d a b c u => some (packG ⟨0x1F#8, g, d.n, a.n, b.n, c.n, d.sc, a.sc, b.sc, c.sc, BitVec.ofBool u ++ 0#15⟩)
  | .icmp g p a b cc => some (packG ⟨0x20#8, g, p, a.n, b.n, 0#8, false, a.sc, b.sc, false, 0#12 ++ cc⟩)
  | .icmpL g s p a lit cc => some (packL ⟨0x3C#8, g, p, a, s, cc, lit⟩)
  | .icmp64 g p a b cc => some (packG ⟨0x21#8, g, p, a.n, b.n, 0#8, false, a.sc, b.sc, false, 0#12 ++ cc⟩)
  | .icmp64L g s p a lit cc => some (packL ⟨0x3D#8, g, p, a, s, cc, lit⟩)
  | .imin g d a b u => some (packG ⟨0x22#8, g, d.n, a.n, b.n, 0#8, d.sc, a.sc, b.sc, false, BitVec.ofBool u ++ 0#15⟩)
  | .iminL g s d a lit u => some (packL ⟨0x3E#8, g, d, a, s, 0#1 ++ BitVec.ofBool u ++ 0#1, lit⟩)
  | .imax g d a b u => some (packG ⟨0x23#8, g, d.n, a.n, b.n, 0#8, d.sc, a.sc, b.sc, false, BitVec.ofBool u ++ 0#15⟩)
  | .imaxL g s d a lit u => some (packL ⟨0x3F#8, g, d, a, s, 0#1 ++ BitVec.ofBool u ++ 0#1, lit⟩)
  | .iabs g d a sat => some (packG ⟨0x24#8, g, d.n, a.n, 0#8, 0#8, d.sc, a.sc, false, false, 0#1 ++ BitVec.ofBool sat ++ 0#14⟩)
  | .iaddmin g d a b c u => some (packG ⟨0x25#8, g, d.n, a.n, b.n, c.n, d.sc, a.sc, b.sc, c.sc, BitVec.ofBool u ++ 0#15⟩)
  | .and g d a b => some (packG ⟨0x26#8, g, d.n, a.n, b.n, 0#8, d.sc, a.sc, b.sc, false, 0x0#16⟩)
  | .andL g s d a lit => some (packL ⟨0x40#8, g, d, a, s, 0#3, lit⟩)
  | .or g d a b => some (packG ⟨0x27#8, g, d.n, a.n, b.n, 0#8, d.sc, a.sc, b.sc, false, 0x0#16⟩)
  | .orL g s d a lit => some (packL ⟨0x41#8, g, d, a, s, 0#3, lit⟩)
  | .xor g d a b => some (packG ⟨0x28#8, g, d.n, a.n, b.n, 0#8, d.sc, a.sc, b.sc, false, 0x0#16⟩)
  | .xorL g s d a lit => some (packL ⟨0x42#8, g, d, a, s, 0#3, lit⟩)
  | .andn g d a b => some (packG ⟨0x29#8, g, d.n, a.n, b.n, 0#8, d.sc, a.sc, b.sc, false, 0x0#16⟩)
  | .andnL g s d a lit => some (packL ⟨0x43#8, g, d, a, s, 0#3, lit⟩)
  | .not g d a => some (packG ⟨0x2A#8, g, d.n, a.n, 0#8, 0#8, d.sc, a.sc, false, false, 0x0#16⟩)
  | .shl g d a b => some (packG ⟨0x2B#8, g, d.n, a.n, b.n, 0#8, d.sc, a.sc, b.sc, false, 0x0#16⟩)
  | .shlL g s d a lit => some (packL ⟨0x44#8, g, d, a, s, 0#3, lit⟩)
  | .shr g d a b => some (packG ⟨0x2C#8, g, d.n, a.n, b.n, 0#8, d.sc, a.sc, b.sc, false, 0x0#16⟩)
  | .shrL g s d a lit => some (packL ⟨0x45#8, g, d, a, s, 0#3, lit⟩)
  | .sar g d a b => some (packG ⟨0x2D#8, g, d.n, a.n, b.n, 0#8, d.sc, a.sc, b.sc, false, 0x0#16⟩)
  | .sarL g s d a lit => some (packL ⟨0x46#8, g, d, a, s, 0#3, lit⟩)
  | .shl64 g d a b => some (packG ⟨0x2E#8, g, d.n, a.n, b.n, 0#8, d.sc, a.sc, b.sc, false, 0x0#16⟩)
  | .shl64L g s d a lit => some (packL ⟨0x47#8, g, d, a, s, 0#3, lit⟩)
  | .shr64 g d a b => some (packG ⟨0x2F#8, g, d.n, a.n, b.n, 0#8, d.sc, a.sc, b.sc, false, 0x0#16⟩)
  | .shr64L g s d a lit => some (packL ⟨0x48#8, g, d, a, s, 0#3, lit⟩)
  | .bfe g d a b c u => some (packG ⟨0x30#8, g, d.n, a.n, b.n, c.n, d.sc, a.sc, b.sc, c.sc, BitVec.ofBool u ++ 0#15⟩)
  | .bfi g d a b c => some (packG ⟨0x31#8, g, d.n, a.n, b.n, c.n, d.sc, a.sc, b.sc, c.sc, 0x0#16⟩)
  | .popc g d a => some (packG ⟨0x32#8, g, d.n, a.n, 0#8, 0#8, d.sc, a.sc, false, false, 0x0#16⟩)
  | .clz g d a => some (packG ⟨0x33#8, g, d.n, a.n, 0#8, 0#8, d.sc, a.sc, false, false, 0x0#16⟩)
  | .brev g d a => some (packG ⟨0x34#8, g, d.n, a.n, 0#8, 0#8, d.sc, a.sc, false, false, 0x0#16⟩)
  | .sel g d a b pc => some (packG ⟨0x35#8, g, d, a.n, b.n, pc, false, a.sc, b.sc, false, 0x0#16⟩)
  | .mov g d a b64 => some (packG ⟨0x36#8, g, d.n, a.n, 0#8, 0#8, d.sc, a.sc, false, false, 0#11 ++ BitVec.ofBool b64 ++ 0#4⟩)
  | .movL g s d lit => some (packL ⟨0x49#8, g, d, 0#8, s, 0#3, lit⟩)
  | .plop g pd pa pb pc lut => some (packG ⟨0x37#8, g, pd, pa, pb, pc, false, false, false, false, 0#8 ++ lut⟩)
  | .qswp g d a k b64 f c => some (packG ⟨0x4A#8, g, d, a, 0#8, c.n, false, false, false, c.sc, 0#11 ++ BitVec.ofBool b64 ++ BitVec.ofBool f ++ 0#1 ++ k⟩)
  | .qbcst g d a k b64 f c => some (packG ⟨0x4B#8, g, d, a, 0#8, c.n, false, false, false, c.sc, 0#11 ++ BitVec.ofBool b64 ++ BitVec.ofBool f ++ 0#1 ++ k⟩)
  | .shfl g d a b w x b64 f c => some (packG ⟨0x4C#8, g, d, a, b.n, c.n, false, false, b.sc, c.sc, 0#9 ++ BitVec.ofBool x ++ 0#1 ++ BitVec.ofBool b64 ++ BitVec.ofBool f ++ w⟩)
  | .shflL g d a n x w => some (packL ⟨0x55#8, g, d, a, false, w, 0#23 ++ BitVec.ofBool x ++ 0#3 ++ n⟩)
  | .lshf g d a b w dn b64 f c => some (packG ⟨0x4D#8, g, d, a, b.n, c.n, false, false, b.sc, c.sc, 0#9 ++ BitVec.ofBool dn ++ 0#1 ++ BitVec.ofBool b64 ++ BitVec.ofBool f ++ w⟩)
  | .lshfL g d a n dn w => some (packL ⟨0x56#8, g, d, a, false, w, 0#23 ++ BitVec.ofBool dn ++ 0#2 ++ n⟩)
  | .vote g pd pa v => some (packG ⟨0x4E#8, g, pd, pa, 0#8, 0#8, false, false, false, false, 0#14 ++ v⟩)
  | .ballot g sd pa => some (packG ⟨0x4F#8, g, sd, pa, 0#8, 0#8, true, false, false, false, 0x0#16⟩)
  | .matchLanes g d a b64 => some (packG ⟨0x50#8, g, d, a, 0#8, 0#8, false, false, false, false, 0#11 ++ BitVec.ofBool b64 ++ 0#4⟩)
  | .lcomp g sd pa id => some (packG ⟨0x51#8, g, sd, pa, 0#8, 0#8, true, false, false, false, 0#15 ++ BitVec.ofBool id⟩)
  | .lpfx g d a op excl f32 => some (packG ⟨0x52#8, g, d, a, 0#8, 0#8, false, false, false, false, 0#10 ++ BitVec.ofBool f32 ++ 0#2 ++ BitVec.ofBool excl ++ op⟩)
  | .segadd g d a pb f32 => some (packG ⟨0x53#8, g, d, a, pb, 0#8, false, false, false, false, 0#10 ++ BitVec.ofBool f32 ++ 0#5⟩)
  | .rdlane g sd a sb b64 f c => some (packG ⟨0x54#8, g, sd, a, sb, c.n, true, false, true, c.sc, 0#11 ++ BitVec.ofBool b64 ++ BitVec.ofBool f ++ 0#3⟩)
  | .rdlaneL g sd a n => some (packL ⟨0x57#8, g, sd, a, false, 0#3, 0#27 ++ n⟩)
  | .fadd g d a b ty rm na nb => some (packG ⟨0x58#8, g, d.n, a.n, b.n, 0#8, d.sc, a.sc, b.sc, false, ty ++ rm ++ 0#10 ++ BitVec.ofBool nb ++ BitVec.ofBool na⟩)
  | .faddL g s d a lit rm => some (packL ⟨0x62#8, g, d, a, s, rm ++ 0#1, lit⟩)
  | .fmul g d a b ty rm na nb => some (packG ⟨0x59#8, g, d.n, a.n, b.n, 0#8, d.sc, a.sc, b.sc, false, ty ++ rm ++ 0#10 ++ BitVec.ofBool nb ++ BitVec.ofBool na⟩)
  | .fmulL g s d a lit rm => some (packL ⟨0x63#8, g, d, a, s, rm ++ 0#1, lit⟩)
  | .ffma g d a b c ty rm na nb nc => some (packG ⟨0x5A#8, g, d.n, a.n, b.n, c.n, d.sc, a.sc, b.sc, c.sc, ty ++ rm ++ 0#9 ++ BitVec.ofBool nc ++ BitVec.ofBool nb ++ BitVec.ofBool na⟩)
  | .fmin g d a b ty => some (packG ⟨0x5B#8, g, d.n, a.n, b.n, 0#8, d.sc, a.sc, b.sc, false, ty ++ 0#14⟩)
  | .fminL g s d a lit => some (packL ⟨0x64#8, g, d, a, s, 0#3, lit⟩)
  | .fmax g d a b ty => some (packG ⟨0x5C#8, g, d.n, a.n, b.n, 0#8, d.sc, a.sc, b.sc, false, ty ++ 0#14⟩)
  | .fmaxL g s d a lit => some (packL ⟨0x65#8, g, d, a, s, 0#3, lit⟩)
  | .fcmp g p a b ty cc => some (packG ⟨0x5D#8, g, p, a.n, b.n, 0#8, false, a.sc, b.sc, false, ty ++ 0#2 ++ cc ++ 0#9⟩)
  | .fcmpL g s p a lit cc => some (packL ⟨0x66#8, g, p, a, s, cc, lit⟩)
  | .fclass g d a ty => some (packG ⟨0x5E#8, g, d.n, a.n, 0#8, 0#8, d.sc, a.sc, false, false, ty ++ 0#14⟩)
  | .frnd g d a ty rm => some (packG ⟨0x5F#8, g, d.n, a.n, 0#8, 0#8, d.sc, a.sc, false, false, ty ++ rm ++ 0#12⟩)
  | .fscale g d a b ty rm => some (packG ⟨0x60#8, g, d.n, a.n, b.n, 0#8, d.sc, a.sc, b.sc, false, ty ++ rm ++ 0#12⟩)
  | .fdot2 g d a b c ty rm na nb nc => some (packG ⟨0x61#8, g, d.n, a.n, b.n, c.n, d.sc, a.sc, b.sc, c.sc, ty ++ rm ++ 0#9 ++ BitVec.ofBool nc ++ BitVec.ofBool nb ++ BitVec.ofBool na⟩)
  | .srcp g d a => some (packG ⟨0x67#8, g, d.n, a.n, 0#8, 0#8, d.sc, a.sc, false, false, 0x4000#16⟩)
  | .srsq g d a => some (packG ⟨0x68#8, g, d.n, a.n, 0#8, 0#8, d.sc, a.sc, false, false, 0x4000#16⟩)
  | .ssqrt g d a => some (packG ⟨0x69#8, g, d.n, a.n, 0#8, 0#8, d.sc, a.sc, false, false, 0x4000#16⟩)
  | .sexp2 g d a => some (packG ⟨0x6A#8, g, d.n, a.n, 0#8, 0#8, d.sc, a.sc, false, false, 0x4000#16⟩)
  | .slog2 g d a => some (packG ⟨0x6B#8, g, d.n, a.n, 0#8, 0#8, d.sc, a.sc, false, false, 0x4000#16⟩)
  | .ssin g d a => some (packG ⟨0x6C#8, g, d.n, a.n, 0#8, 0#8, d.sc, a.sc, false, false, 0x4000#16⟩)
  | .scos g d a => some (packG ⟨0x6D#8, g, d.n, a.n, 0#8, 0#8, d.sc, a.sc, false, false, 0x4000#16⟩)
  | .stanh g d a => some (packG ⟨0x6E#8, g, d.n, a.n, 0#8, 0#8, d.sc, a.sc, false, false, 0x4000#16⟩)
  | .cvf g d a df sf rm sat sp dp => some (packG ⟨0x6F#8, g, d.n, a.n, 0#8, 0#8, d.sc, a.sc, false, false, df ++ sf ++ rm ++ BitVec.ofBool sat ++ 0#1 ++ sp ++ dp⟩)
  | .cvn g d a q df sf rm sat dp => some (packG ⟨0x70#8, g, d, a, 0#8, q, false, false, false, false, df ++ sf ++ rm ++ BitVec.ofBool sat ++ 0#3 ++ dp⟩)
  | .cvi g d a df sf rm sp dp => some (packG ⟨0x71#8, g, d.n, a.n, 0#8, 0#8, d.sc, a.sc, false, false, df ++ sf ++ rm ++ 0#2 ++ sp ++ dp⟩)
  | .cvsh g d a b dp => some (packG ⟨0x72#8, g, d.n, a.n, b.n, 0#8, d.sc, a.sc, b.sc, false, 0#14 ++ dp⟩)
  | .dcsh g d a b sp => some (packG ⟨0x73#8, g, d.n, a.n, b.n, 0#8, d.sc, a.sc, b.sc, false, 0#12 ++ sp ++ 0#2⟩)
  | .qclr g nn => some (packG ⟨0x74#8, g, 0#8, 0#8, 0#8, 0#8, false, false, false, false, 0#8 ++ nn⟩)
  | .qmov g x y dir => some (packG ⟨0x75#8, g, x, y, 0#8, 0#8, false, false, false, false, 0#15 ++ BitVec.ofBool dir⟩)
  | .vchain g sd sa => some (packG ⟨0x76#8, g, sd, sa, 0#8, 0#8, true, true, false, false, 0x0#16⟩)
  | .hring g sa k ofs => some (packL ⟨0x77#8, g, 0#8, sa, true, 0#3, ofs ++ 0#5 ++ k⟩)
  | .hfrom g d a k f64 => some (packG ⟨0x78#8, g, d.n, a.n, 0#8, 0#8, d.sc, a.sc, false, false, k ++ BitVec.ofBool f64 ++ 0#13⟩)
  | .htof g d a k => some (packG ⟨0x79#8, g, d.n, a.n, 0#8, 0#8, d.sc, a.sc, false, false, k ++ 0#14⟩)
  | .hadd g d a b k => some (packG ⟨0x7A#8, g, d.n, a.n, b.n, 0#8, d.sc, a.sc, b.sc, false, k ++ 0#14⟩)
  | .hsub g d a b k => some (packG ⟨0x7B#8, g, d.n, a.n, b.n, 0#8, d.sc, a.sc, b.sc, false, k ++ 0#14⟩)
  | .hmul g d a b k => some (packG ⟨0x7C#8, g, d.n, a.n, b.n, 0#8, d.sc, a.sc, b.sc, false, k ++ 0#14⟩)
  | .hdiv g d a b k => some (packG ⟨0x7D#8, g, d.n, a.n, b.n, 0#8, d.sc, a.sc, b.sc, false, k ++ 0#14⟩)
  | .hneg g d a k => some (packG ⟨0x7E#8, g, d.n, a.n, 0#8, 0#8, d.sc, a.sc, false, false, k ++ 0#14⟩)
  | .hrcp g d a k => some (packG ⟨0x7F#8, g, d.n, a.n, 0#8, 0#8, d.sc, a.sc, false, false, k ++ 0#14⟩)
  | .hsq g d a k => some (packG ⟨0x80#8, g, d.n, a.n, 0#8, 0#8, d.sc, a.sc, false, false, k ++ 0#14⟩)
  | .huni g d a b => some (packG ⟨0x81#8, g, d.n, a.n, b.n, 0#8, d.sc, a.sc, b.sc, false, 0x0#16⟩)
  | .hcap g d a b => some (packG ⟨0x82#8, g, d.n, a.n, b.n, 0#8, d.sc, a.sc, b.sc, false, 0x0#16⟩)
  | .hinFlt g p a b k f64 => some (packG ⟨0x83#8, g, p, a.n, b.n, 0#8, false, a.sc, b.sc, false, k ++ BitVec.ofBool f64 ++ 0#13⟩)
  | .hinSub g p a b => some (packG ⟨0x83#8, g, p, a.n, b.n, 0#8, false, a.sc, b.sc, false, 0x1#16⟩)
  | .harc g d a => some (packG ⟨0x84#8, g, d.n, a.n, 0#8, 0#8, d.sc, a.sc, false, false, 0x0#16⟩)
  | .hexp g d a => some (packG ⟨0x85#8, g, d.n, a.n, 0#8, 0#8, d.sc, a.sc, false, false, 0x0#16⟩)
  | .hcnt g d a runs => some (packG ⟨0x86#8, g, d.n, a.n, 0#8, 0#8, d.sc, a.sc, false, false, 0#15 ++ BitVec.ofBool runs⟩)
  | .ld g data base idx form width nl1 ofs => some (packM ⟨0x88#8, g, data, base, idx, form, width, nl1 ++ 0#6, ofs⟩)
  | .st g data base idx form width nl1 ofs => some (packM ⟨0x89#8, g, data, base, idx, form, width, nl1 ++ 0#6, ofs⟩)
  | .lds g data base form width ofs => some (packM ⟨0x8A#8, g, data, base, 0#8, form, width, 0#8, ofs⟩)
  | .sts g data base form width ofs => some (packM ⟨0x8B#8, g, data, base, 0#8, form, width, 0#8, ofs⟩)
  | .ldp g data base form ofs => some (packM ⟨0x8C#8, g, data, base, 0#8, form, 4#4, 0#8, ofs⟩)
  | .stp g data base form ofs => some (packM ⟨0x8D#8, g, data, base, 0#8, form, 4#4, 0#8, ofs⟩)
  | .ldk g data base width ofs => some (packM ⟨0x8E#8, g, data, base, 0#8, 0#2, width, 0#8, ofs⟩)
  | .atom g dst base opd cmp form aop scope w64 ofs => some (packA ⟨0x8F#8, g, dst, base, opd, cmp, form, aop, scope, w64, ofs⟩)
  | .atoms g dst base opd cmp form aop scope w64 ofs => some (packA ⟨0x90#8, g, dst, base, opd, cmp, form, aop, scope, w64, ofs⟩)
  | .pref g base idx form llc ofs => some (packM ⟨0x91#8, g, 0#8, base, idx, form, 0#4, llc ++ 0#6, ofs⟩)
  | .xlat g d a => some (packG ⟨0x92#8, g, d.n, a.n, 0#8, 0#8, d.sc, a.sc, false, false, 0x0#16⟩)
  | .xacq g sd sa tr => some (packG ⟨0x93#8, g, sd, sa, 0#8, 0#8, true, true, false, false, 0#15 ++ BitVec.ofBool tr⟩)
  | .xrel g sa => some (packG ⟨0x94#8, g, 0#8, sa, 0#8, 0#8, false, true, false, false, 0x0#16⟩)
  | .fence g scope => some (packG ⟨0x95#8, g, 0#8, 0#8, 0#8, 0#8, false, false, false, false, 0#13 ++ scope⟩)
  | .rel g scope => some (packG ⟨0x96#8, g, 0#8, 0#8, 0#8, 0#8, false, false, false, false, 0#13 ++ scope⟩)
  | .acq g scope => some (packG ⟨0x97#8, g, 0#8, 0#8, 0#8, 0#8, false, false, false, false, 0#13 ++ scope⟩)
  | .bar g a n sync cnt => some (packG ⟨0x98#8, g, 0#8, a.n, 0#8, 0#8, false, a.sc, false, false, 0#10 ++ BitVec.ofBool cnt ++ BitVec.ofBool sync ++ n⟩)
  | .boinit g sa b inv => some (packG ⟨0x99#8, g, 0#8, sa, b.n, 0#8, false, true, b.sc, false, 0#15 ++ BitVec.ofBool inv⟩)
  | .boarr g sd sa b tx => some (packG ⟨0x9A#8, g, sd, sa, b.n, 0#8, true, true, b.sc, false, 0#15 ++ BitVec.ofBool tx⟩)
  | .bowait g sa sb => some (packG ⟨0x9B#8, g, 0#8, sa, sb, 0#8, false, true, true, false, 0x0#16⟩)
  | .botry g sd sa sb => some (packG ⟨0x9C#8, g, sd, sa, sb, 0#8, true, true, true, false, 0x0#16⟩)
  | .fwait g sd sa sb sc cc slice => some (packG ⟨0x9D#8, g, sd, sa, sb, sc, true, true, true, true, 0#11 ++ BitVec.ofBool slice ++ cc⟩)
  | .dtime g sd ord => some (packG ⟨0x9E#8, g, sd, 0#8, 0#8, 0#8, true, false, false, false, 0#15 ++ BitVec.ofBool ord⟩)
  | .wct g sd => some (packG ⟨0x9F#8, g, sd, 0#8, 0#8, 0#8, true, false, false, false, 0x0#16⟩)
  | .acopy g sd sa sb sc sp => some (packG ⟨0xA0#8, g, sd, sa, sb, sc, true, true, true, true, 0#14 ++ sp⟩)
  | .acopyt g sd sa sb sc sp => some (packG ⟨0xA1#8, g, sd, sa, sb, sc, true, true, true, true, 0#14 ++ sp⟩)
  | .asto g sd sa vb sc => some (packG ⟨0xA2#8, g, sd, sa, vb, sc, true, true, false, true, 0x0#16⟩)
  | .kick g sa sb => some (packG ⟨0xA3#8, g, 0#8, sa, sb, 0#8, false, true, true, false, 0x0#16⟩)
  | .kstat g sd clr => some (packG ⟨0xA4#8, g, sd, 0#8, 0#8, 0#8, true, false, false, false, 0#15 ++ BitVec.ofBool clr⟩)
  | .ghnd g sd sa => some (packG ⟨0xA5#8, g, sd, sa, 0#8, 0#8, true, true, false, false, 0x0#16⟩)
  | .ghndFree g sa => some (packG ⟨0xA5#8, g, 0#8, sa, 0#8, 0#8, false, true, false, false, 0x1#16⟩)
  | .gath g d sa vb c nf bs => some (packG ⟨0xA6#8, g, d, sa, vb, c.n, false, true, false, c.sc, 0#14 ++ BitVec.ofBool bs ++ BitVec.ofBool nf⟩)
  | .scat g sa vb vc nf => some (packG ⟨0xA7#8, g, 0#8, sa, vb, vc, false, true, false, false, 0#15 ++ BitVec.ofBool nf⟩)
  | .gcmr g sd code => some (packG ⟨0xA8#8, g, sd, 0#8, 0#8, 0#8, true, false, false, false, 0#15 ++ BitVec.ofBool code⟩)
  | .gcmw g sa => some (packG ⟨0xA9#8, g, 0#8, sa, 0#8, 0#8, false, true, false, false, 0x0#16⟩)
  | .mbq g vq sa => some (packG ⟨0xB0#8, g, vq, sa, 0#8, 0#8, false, true, false, false, 0x0#16⟩)
  | .mloop g m sa sb sc ta tb msk => some (packG ⟨0xB1#8, g, m, sa, sb, sc, false, true, true, true, ta ++ tb ++ BitVec.ofBool msk ++ 0#9⟩)
  | .mma g m va ta tb => some (packG ⟨0xB2#8, g, m, va, 0#8, 0#8, false, false, false, false, ta ++ tb ++ 0#10⟩)
  | .mzero g m f64 => some (packG ⟨0xB3#8, g, m, 0#8, 0#8, 0#8, false, false, false, false, 0#15 ++ BitVec.ofBool f64⟩)
  | .mdrain g d m sb bf16 rel => some (packG ⟨0xB4#8, g, d, m, sb, 0#8, false, false, true, false, 0#14 ++ BitVec.ofBool rel ++ BitVec.ofBool bf16⟩)
  | .mdrainS g sd m sb bf16 rel => some (packG ⟨0xB4#8, g, sd, m, sb, 0#8, true, false, true, false, 0#14 ++ BitVec.ofBool rel ++ BitVec.ofBool bf16⟩)
  | .mdrainc g m sb sc rel => some (packG ⟨0xB5#8, g, 0#8, m, sb, sc, false, false, true, true, 0#14 ++ BitVec.ofBool rel ++ 0#1⟩)
  | .mguide g d m sb sc bf16 rel => some (packG ⟨0xB6#8, g, d.n, m, sb, sc, d.sc, false, true, true, 0#14 ++ BitVec.ofBool rel ++ BitVec.ofBool bf16⟩)
  | .mtwin g => some (packG ⟨0xB7#8, g, 0#8, 0#8, 0#8, 0#8, false, false, false, false, 0x0#16⟩)
  | .msketch g sd t sb sc => some (packG ⟨0xB8#8, g, sd, t, sb, sc, true, false, true, true, 0x0#16⟩)
  | .mmask g sa sb => some (packG ⟨0xB9#8, g, 0#8, sa, sb, 0#8, false, true, true, false, 0x0#16⟩)
  | .mstat g sd m clr => some (packG ⟨0xBA#8, g, sd, m, 0#8, 0#8, true, false, false, false, 0#15 ++ BitVec.ofBool clr⟩)
  | .msave g sa m rel => some (packG ⟨0xBB#8, g, 0#8, sa, m, 0#8, false, true, false, false, 0#14 ++ BitVec.ofBool rel ++ 0#1⟩)
  | .mrstr g m sa => some (packG ⟨0xBC#8, g, m, sa, 0#8, 0#8, false, true, false, false, 0x0#16⟩)
  | .tdesc g t sa b rcd => some (packG ⟨0xD0#8, g, t, sa, b.n, 0#8, false, true, b.sc, false, 0#14 ++ BitVec.ofBool rcd ++ 0#1⟩)
  | .tdescRd g sd t => some (packG ⟨0xD0#8, g, sd, t, 0#8, 0#8, true, false, false, false, 0x1#16⟩)
  | .tld g t sa sb => some (packG ⟨0xD1#8, g, t, sa, sb, 0#8, false, true, true, false, 0x0#16⟩)
  | .tldHeap g sa => some (packG ⟨0xD1#8, g, 0#8, sa, 0#8, 0#8, false, true, false, false, 0x1#16⟩)
  | .tldf g t sa sb => some (packG ⟨0xD2#8, g, t, sa, sb, 0#8, false, true, true, false, 0x0#16⟩)
  | .tstD g sa t sc => some (packG ⟨0xD3#8, g, 0#8, sa, t, sc, false, true, false, true, 0x0#16⟩)
  | .tstF g sa t => some (packG ⟨0xD3#8, g, 0#8, sa, t, 0#8, false, true, false, false, 0x1#16⟩)
  | .tstHeap g sa => some (packG ⟨0xD3#8, g, 0#8, sa, 0#8, 0#8, false, true, false, false, 0x2#16⟩)
  | .tzero g t => some (packG ⟨0xD4#8, g, t, 0#8, 0#8, 0#8, false, false, false, false, 0x0#16⟩)
  | .tadd g t ta tb => some (packG ⟨0xD5#8, g, t, ta, tb, 0#8, false, false, false, false, 0x0#16⟩)
  | .tscl g t ta sb => some (packG ⟨0xD6#8, g, t, ta, sb, 0#8, false, false, true, false, 0x0#16⟩)
  | .tmul g t ta tb => some (packG ⟨0xD7#8, g, t, ta, tb, 0#8, false, false, false, false, 0x0#16⟩)
  | .tmulv g d ta vb => some (packG ⟨0xD8#8, g, d, ta, vb, 0#8, false, false, false, false, 0x0#16⟩)
  | .trnd g t ta b st abs => some (packG ⟨0xD9#8, g, t, ta, b.n, 0#8, false, false, b.sc, false, 0#14 ++ BitVec.ofBool abs ++ BitVec.ofBool st⟩)
  | .trank g sd ta clr => some (packG ⟨0xDA#8, g, sd, ta, 0#8, 0#8, true, false, false, false, 0#15 ++ BitVec.ofBool clr⟩)
  | .ttod g t ta => some (packG ⟨0xDB#8, g, t, ta, 0#8, 0#8, false, false, false, false, 0x0#16⟩)
  | .ttol g t ta => some (packG ⟨0xDC#8, g, t, ta, 0#8, 0#8, false, false, false, false, 0x0#16⟩)
  | .tpotrf g t ta => some (packG ⟨0xDD#8, g, t, ta, 0#8, 0#8, false, false, false, false, 0x0#16⟩)
  | .ttrsm g t ta tb rgt tr up un => some (packG ⟨0xDE#8, g, t, ta, tb, 0#8, false, false, false, false, 0#12 ++ BitVec.ofBool un ++ BitVec.ofBool up ++ BitVec.ofBool tr ++ BitVec.ofBool rgt⟩)
  | .tupd g t ta tb => some (packG ⟨0xDF#8, g, t, ta, tb, 0#8, false, false, false, false, 0x0#16⟩)
  | .thalc g t => some (packG ⟨0xE0#8, g, t, 0#8, 0#8, 0#8, false, false, false, false, 0x0#16⟩)
  | .thfre g t => some (packG ⟨0xE1#8, g, t, 0#8, 0#8, 0#8, false, false, false, false, 0x0#16⟩)
  | .qpost g sd sa => some (packG ⟨0xE2#8, g, sd, sa, 0#8, 0#8, true, true, false, false, 0x0#16⟩)
  | .qtick g sd sa tr => some (packG ⟨0xE3#8, g, sd, sa, 0#8, 0#8, true, true, false, false, 0#15 ++ BitVec.ofBool tr⟩)
  | .put g sd sa => some (packG ⟨0xE4#8, g, sd, sa, 0#8, 0#8, true, true, false, false, 0x0#16⟩)
  | .puts g sd sa => some (packG ⟨0xE5#8, g, sd, sa, 0#8, 0#8, true, true, false, false, 0x0#16⟩)
  | .putr g sd sa => some (packG ⟨0xE6#8, g, sd, sa, 0#8, 0#8, true, true, false, false, 0x0#16⟩)
  | .get g sd sa => some (packG ⟨0xE7#8, g, sd, sa, 0#8, 0#8, true, true, false, false, 0x0#16⟩)
  | .qarm g sa sb sc => some (packG ⟨0xE8#8, g, 0#8, sa, sb, sc, false, true, true, true, 0x0#16⟩)
  | .tcnt g sd sa b op => some (packG ⟨0xE9#8, g, sd, sa, b.n, 0#8, true, true, b.sc, false, 0#14 ++ op⟩)
  | .qring g sd sa => some (packG ⟨0xEA#8, g, sd, sa, 0#8, 0#8, true, true, false, false, 0x0#16⟩)
  | .qcomp g sd sa nw fre => some (packG ⟨0xEB#8, g, sd, sa, 0#8, 0#8, true, true, false, false, 0#14 ++ BitVec.ofBool fre ++ BitVec.ofBool nw⟩)
  | .qcancel g sd sa => some (packG ⟨0xEC#8, g, sd, sa, 0#8, 0#8, true, true, false, false, 0x0#16⟩)
  | .qstat g sd sa sel rst => some (packG ⟨0xED#8, g, sd, sa, 0#8, 0#8, true, true, false, false, 0#13 ++ BitVec.ofBool rst ++ sel⟩)
  | .gnode g sd sa => some (packG ⟨0xEE#8, g, sd, sa, 0#8, 0#8, true, true, false, false, 0x0#16⟩)
  | .gedge g sa sb => some (packG ⟨0xEF#8, g, 0#8, sa, sb, 0#8, false, true, true, false, 0x0#16⟩)
  | .gsub g sa => some (packG ⟨0xF0#8, g, 0#8, sa, 0#8, 0#8, false, true, false, false, 0x0#16⟩)
  | .gwait g sd sa tr => some (packG ⟨0xF1#8, g, sd, sa, 0#8, 0#8, true, true, false, false, 0#15 ++ BitVec.ofBool tr⟩)
  | .launch g sd sa => some (packG ⟨0xF2#8, g, sd, sa, 0#8, 0#8, true, true, false, false, 0x0#16⟩)
  | .dline g sa sb => some (packG ⟨0xF3#8, g, 0#8, sa, sb, 0#8, false, true, true, false, 0x0#16⟩)
  | .dgst g sd => some (packG ⟨0xF4#8, g, sd, 0#8, 0#8, 0#8, true, false, false, false, 0x0#16⟩)
  | .dgchk g sa => some (packG ⟨0xF5#8, g, 0#8, sa, 0#8, 0#8, false, true, false, false, 0x0#16⟩)
  | .trap g a => some (packG ⟨0xF6#8, g, 0#8, a.n, 0#8, 0#8, false, a.sc, false, false, 0x0#16⟩)
  | .rte g yld => some (packG ⟨0xF7#8, g, 0#8, 0#8, 0#8, 0#8, false, false, false, false, 0#15 ++ BitVec.ofBool yld⟩)
  | .savelive g sd sa => some (packG ⟨0xF8#8, g, sd, sa, 0#8, 0#8, true, true, false, false, 0x0#16⟩)
  | .restlive g sa => some (packG ⟨0xF9#8, g, 0#8, sa, 0#8, 0#8, false, true, false, false, 0x0#16⟩)
  | .srd g d n => some (packG ⟨0xFA#8, g, d.n, n, 0#8, 0#8, d.sc, false, false, false, 0x0#16⟩)
  | .swr g n sa => some (packG ⟨0xFB#8, g, n, sa, 0#8, 0#8, false, true, false, false, 0x0#16⟩)
  | .bkpt g id => some (packG ⟨0xFC#8, g, 0#8, 0#8, 0#8, 0#8, false, false, false, false, id⟩)
  | .pmark g id => some (packG ⟨0xFD#8, g, 0#8, 0#8, 0#8, 0#8, false, false, false, false, id⟩)
  | .haltb g sa abt => some (packG ⟨0xFE#8, g, 0#8, sa, 0#8, 0#8, false, true, false, false, 0#15 ++ BitVec.ofBool abt⟩)
  | .rdbaro g sd sa clr => some (packG ⟨0xFF#8, g, sd, sa, 0#8, 0#8, true, true, false, false, 0#15 ++ BitVec.ofBool clr⟩)
  | .joinTimeout | .sleepExpiry | .fairnessRotation | .clauseFetch | .chainCompletion | .ringSlotCommit
    | .releaseCompletion | .fwaitReread | .homeRequest | .loadDataWritten | .storeAcknowledgement
    | .takingAPin | .retry | .pinTimeout => none
  | .asyncCompletion | .cardCompletion | .gathSettled | .kStep | .twinHoldTimeout | .burnisherPhaseBoundary
    | .burnisherCommit | .entryCompletion => none
  | .putPacket | .putWithSignal | .writeWithReduce | .getRequest | .acknowledgement | .getData
    | .remoteDeviceAccess | .packetTimeout | .linkDown | .routeSwitch => none
  | .postMessage | .ticketMessage | .mismatchMessage | .cancelMessage | .cancelledMessage | .postTimeout
    | .collectiveStart | .foldChunk | .resultChunk | .credit | .collectiveTimeout | .collectiveResultTimeout
    | .collectiveEnd => none
  | .nodeDispatch | .blockPlacement | .nodeCompletion | .deadlinePassed | .groupEnd | .trapEntry => none
  | .submit | .wait | .inval | .preempt | .release | .resync | .checkpoint | .restore | .trace
    | .checkpointStreamComplete => none
  | .qTailWrite | .lplaceWrite | .fwinWrite | .stageWrite | .prouteWrite | .teamCfgWrite | .devFidWrite
    | .queueContextWrite | .controlRegisterWrite | .cxlMemAccess => none
  | .powerOnReset | .firmwareVerify | .version | .capabilities | .algorithmNegotiation | .digests
    | .certificates | .challenge | .measurements | .powerWithhold | .thermalTrip | .linkUp | .flitResend
    | .packetForwarding => none

/-- The instruction that the fields of a word name, read by its opcode (R57); what it may not hold is checked by `decodeWord`. -/
def candidate (w : DWord) : Option Instr :=
  match (opcodeOf w).toNat with
  | 1 => some (let r := unpackG w; .nop r.g)
  | 2 => some (let r := unpackB w; .bra r.g r.hint r.ofs)
  | 3 => some (let r := unpackG w; .brx r.g ⟨r.fa, r.a⟩)
  | 4 => some (let r := unpackB w; .call r.g r.hint ⟨r.fa, r.a⟩ r.ofs)
  | 5 => some (let r := unpackG w; .callx r.g ⟨r.fd, r.d⟩ ⟨r.fa, r.a⟩)
  | 6 => some (let r := unpackG w; .ret r.g ⟨r.fa, r.a⟩)
  | 7 => some (let r := unpackG w; .exit r.g)
  | 8 => some (let r := unpackB w; .loop r.g r.hint ⟨r.fa, r.a⟩ r.ofs)
  | 9 => some (let r := unpackB w; .iter r.g r.hint (r.mod.getLsbD 3) (r.mod.extractLsb' 0 3) ⟨r.fa, r.a⟩ r.ofs)
  | 10 => some (let r := unpackG w; .jarm r.g r.d r.a r.b (r.mod.getLsbD 0))
  | 11 => some (let r := unpackL w; .jarmL r.g r.d r.lit (r.mod.extractLsb' 0 3))
  | 12 => some (let r := unpackG w; .jwait r.g r.d r.a)
  | 13 => some (let r := unpackG w; .jdrop r.g r.a)
  | 14 => some (let r := unpackG w; .jqry r.g r.d r.a (r.mod.extractLsb' 0 2))
  | 15 => some (let r := unpackG w; .regrp r.g r.a r.b)
  | 16 => some (let r := unpackG w; .ungrp r.g r.a)
  | 17 => some (let r := unpackG w; .yield r.g)
  | 18 => some (let r := unpackG w; .sleep r.g r.a (r.mod.getLsbD 0))
  | 19 => some (let r := unpackL w; .sleepL r.g r.lit (r.mod.getLsbD 0))
  | 24 => some (let r := unpackG w; .iadd r.g ⟨r.fd, r.d⟩ ⟨r.fa, r.a⟩ ⟨r.fb, r.b⟩ (r.mod.getLsbD 14) (r.mod.getLsbD 15))
  | 25 => some (let r := unpackG w; .isub r.g ⟨r.fd, r.d⟩ ⟨r.fa, r.a⟩ ⟨r.fb, r.b⟩ (r.mod.getLsbD 14) (r.mod.getLsbD 15))
  | 26 => some (let r := unpackG w; .imul r.g ⟨r.fd, r.d⟩ ⟨r.fa, r.a⟩ ⟨r.fb, r.b⟩)
  | 27 => some (let r := unpackG w; .imulh r.g ⟨r.fd, r.d⟩ ⟨r.fa, r.a⟩ ⟨r.fb, r.b⟩ (r.mod.getLsbD 15))
  | 28 => some (let r := unpackG w; .imad r.g ⟨r.fd, r.d⟩ ⟨r.fa, r.a⟩ ⟨r.fb, r.b⟩ ⟨r.fc, r.c⟩)
  | 29 => some (let r := unpackG w; .iadd64 r.g ⟨r.fd, r.d⟩ ⟨r.fa, r.a⟩ ⟨r.fb, r.b⟩)
  | 30 => some (let r := unpackG w; .isub64 r.g ⟨r.fd, r.d⟩ ⟨r.fa, r.a⟩ ⟨r.fb, r.b⟩)
  | 31 => some (let r := unpackG w; .imad64 r.g ⟨r.fd, r.d⟩ ⟨r.fa, r.a⟩ ⟨r.fb, r.b⟩ ⟨r.fc, r.c⟩ (r.mod.getLsbD 15))
  | 32 => some (let r := unpackG w; .icmp r.g r.d ⟨r.fa, r.a⟩ ⟨r.fb, r.b⟩ (r.mod.extractLsb' 0 4))
  | 33 => some (let r := unpackG w; .icmp64 r.g r.d ⟨r.fa, r.a⟩ ⟨r.fb, r.b⟩ (r.mod.extractLsb' 0 4))
  | 34 => some (let r := unpackG w; .imin r.g ⟨r.fd, r.d⟩ ⟨r.fa, r.a⟩ ⟨r.fb, r.b⟩ (r.mod.getLsbD 15))
  | 35 => some (let r := unpackG w; .imax r.g ⟨r.fd, r.d⟩ ⟨r.fa, r.a⟩ ⟨r.fb, r.b⟩ (r.mod.getLsbD 15))
  | 36 => some (let r := unpackG w; .iabs r.g ⟨r.fd, r.d⟩ ⟨r.fa, r.a⟩ (r.mod.getLsbD 14))
  | 37 => some (let r := unpackG w; .iaddmin r.g ⟨r.fd, r.d⟩ ⟨r.fa, r.a⟩ ⟨r.fb, r.b⟩ ⟨r.fc, r.c⟩ (r.mod.getLsbD 15))
  | 38 => some (let r := unpackG w; .and r.g ⟨r.fd, r.d⟩ ⟨r.fa, r.a⟩ ⟨r.fb, r.b⟩)
  | 39 => some (let r := unpackG w; .or r.g ⟨r.fd, r.d⟩ ⟨r.fa, r.a⟩ ⟨r.fb, r.b⟩)
  | 40 => some (let r := unpackG w; .xor r.g ⟨r.fd, r.d⟩ ⟨r.fa, r.a⟩ ⟨r.fb, r.b⟩)
  | 41 => some (let r := unpackG w; .andn r.g ⟨r.fd, r.d⟩ ⟨r.fa, r.a⟩ ⟨r.fb, r.b⟩)
  | 42 => some (let r := unpackG w; .not r.g ⟨r.fd, r.d⟩ ⟨r.fa, r.a⟩)
  | 43 => some (let r := unpackG w; .shl r.g ⟨r.fd, r.d⟩ ⟨r.fa, r.a⟩ ⟨r.fb, r.b⟩)
  | 44 => some (let r := unpackG w; .shr r.g ⟨r.fd, r.d⟩ ⟨r.fa, r.a⟩ ⟨r.fb, r.b⟩)
  | 45 => some (let r := unpackG w; .sar r.g ⟨r.fd, r.d⟩ ⟨r.fa, r.a⟩ ⟨r.fb, r.b⟩)
  | 46 => some (let r := unpackG w; .shl64 r.g ⟨r.fd, r.d⟩ ⟨r.fa, r.a⟩ ⟨r.fb, r.b⟩)
  | 47 => some (let r := unpackG w; .shr64 r.g ⟨r.fd, r.d⟩ ⟨r.fa, r.a⟩ ⟨r.fb, r.b⟩)
  | 48 => some (let r := unpackG w; .bfe r.g ⟨r.fd, r.d⟩ ⟨r.fa, r.a⟩ ⟨r.fb, r.b⟩ ⟨r.fc, r.c⟩ (r.mod.getLsbD 15))
  | 49 => some (let r := unpackG w; .bfi r.g ⟨r.fd, r.d⟩ ⟨r.fa, r.a⟩ ⟨r.fb, r.b⟩ ⟨r.fc, r.c⟩)
  | 50 => some (let r := unpackG w; .popc r.g ⟨r.fd, r.d⟩ ⟨r.fa, r.a⟩)
  | 51 => some (let r := unpackG w; .clz r.g ⟨r.fd, r.d⟩ ⟨r.fa, r.a⟩)
  | 52 => some (let r := unpackG w; .brev r.g ⟨r.fd, r.d⟩ ⟨r.fa, r.a⟩)
  | 53 => some (let r := unpackG w; .sel r.g r.d ⟨r.fa, r.a⟩ ⟨r.fb, r.b⟩ r.c)
  | 54 => some (let r := unpackG w; .mov r.g ⟨r.fd, r.d⟩ ⟨r.fa, r.a⟩ (r.mod.getLsbD 4))
  | 55 => some (let r := unpackG w; .plop r.g r.d r.a r.b r.c (r.mod.extractLsb' 0 8))
  | 56 => some (let r := unpackL w; .iaddL r.g r.s r.d r.a r.lit (r.mod.getLsbD 2) (r.mod.getLsbD 1))
  | 57 => some (let r := unpackL w; .isubL r.g r.s r.d r.a r.lit (r.mod.getLsbD 2) (r.mod.getLsbD 1))
  | 58 => some (let r := unpackL w; .imulL r.g r.s r.d r.a r.lit)
  | 59 => some (let r := unpackL w; .iadd64L r.g r.s r.d r.a r.lit)
  | 60 => some (let r := unpackL w; .icmpL r.g r.s r.d r.a r.lit (r.mod.extractLsb' 0 3))
  | 61 => some (let r := unpackL w; .icmp64L r.g r.s r.d r.a r.lit (r.mod.extractLsb' 0 3))
  | 62 => some (let r := unpackL w; .iminL r.g r.s r.d r.a r.lit (r.mod.getLsbD 1))
  | 63 => some (let r := unpackL w; .imaxL r.g r.s r.d r.a r.lit (r.mod.getLsbD 1))
  | 64 => some (let r := unpackL w; .andL r.g r.s r.d r.a r.lit)
  | 65 => some (let r := unpackL w; .orL r.g r.s r.d r.a r.lit)
  | 66 => some (let r := unpackL w; .xorL r.g r.s r.d r.a r.lit)
  | 67 => some (let r := unpackL w; .andnL r.g r.s r.d r.a r.lit)
  | 68 => some (let r := unpackL w; .shlL r.g r.s r.d r.a r.lit)
  | 69 => some (let r := unpackL w; .shrL r.g r.s r.d r.a r.lit)
  | 70 => some (let r := unpackL w; .sarL r.g r.s r.d r.a r.lit)
  | 71 => some (let r := unpackL w; .shl64L r.g r.s r.d r.a r.lit)
  | 72 => some (let r := unpackL w; .shr64L r.g r.s r.d r.a r.lit)
  | 73 => some (let r := unpackL w; .movL r.g r.s r.d r.lit)
  | 74 => some (let r := unpackG w; .qswp r.g r.d r.a (r.mod.extractLsb' 0 2) (r.mod.getLsbD 4) (r.mod.getLsbD 3) ⟨r.fc, r.c⟩)
  | 75 => some (let r := unpackG w; .qbcst r.g r.d r.a (r.mod.extractLsb' 0 2) (r.mod.getLsbD 4) (r.mod.getLsbD 3) ⟨r.fc, r.c⟩)
  | 76 => some (let r := unpackG w; .shfl r.g r.d r.a ⟨r.fb, r.b⟩ (r.mod.extractLsb' 0 3) (r.mod.getLsbD 6) (r.mod.getLsbD 4) (r.mod.getLsbD 3) ⟨r.fc, r.c⟩)
  | 77 => some (let r := unpackG w; .lshf r.g r.d r.a ⟨r.fb, r.b⟩ (r.mod.extractLsb' 0 3) (r.mod.getLsbD 6) (r.mod.getLsbD 4) (r.mod.getLsbD 3) ⟨r.fc, r.c⟩)
  | 78 => some (let r := unpackG w; .vote r.g r.d r.a (r.mod.extractLsb' 0 2))
  | 79 => some (let r := unpackG w; .ballot r.g r.d r.a)
  | 80 => some (let r := unpackG w; .matchLanes r.g r.d r.a (r.mod.getLsbD 4))
  | 81 => some (let r := unpackG w; .lcomp r.g r.d r.a (r.mod.getLsbD 0))
  | 82 => some (let r := unpackG w; .lpfx r.g r.d r.a (r.mod.extractLsb' 0 2) (r.mod.getLsbD 2) (r.mod.getLsbD 5))
  | 83 => some (let r := unpackG w; .segadd r.g r.d r.a r.b (r.mod.getLsbD 5))
  | 84 => some (let r := unpackG w; .rdlane r.g r.d r.a r.b (r.mod.getLsbD 4) (r.mod.getLsbD 3) ⟨r.fc, r.c⟩)
  | 85 => some (let r := unpackL w; .shflL r.g r.d r.a (r.lit.extractLsb' 0 5) (r.lit.getLsbD 8) (r.mod.extractLsb' 0 3))
  | 86 => some (let r := unpackL w; .lshfL r.g r.d r.a (r.lit.extractLsb' 0 6) (r.lit.getLsbD 8) (r.mod.extractLsb' 0 3))
  | 87 => some (let r := unpackL w; .rdlaneL r.g r.d r.a (r.lit.extractLsb' 0 5))
  | 88 => some (let r := unpackG w; .fadd r.g ⟨r.fd, r.d⟩ ⟨r.fa, r.a⟩ ⟨r.fb, r.b⟩ (r.mod.extractLsb' 14 2) (r.mod.extractLsb' 12 2) (r.mod.getLsbD 0) (r.mod.getLsbD 1))
  | 89 => some (let r := unpackG w; .fmul r.g ⟨r.fd, r.d⟩ ⟨r.fa, r.a⟩ ⟨r.fb, r.b⟩ (r.mod.extractLsb' 14 2) (r.mod.extractLsb' 12 2) (r.mod.getLsbD 0) (r.mod.getLsbD 1))
  | 90 => some (let r := unpackG w; .ffma r.g ⟨r.fd, r.d⟩ ⟨r.fa, r.a⟩ ⟨r.fb, r.b⟩ ⟨r.fc, r.c⟩ (r.mod.extractLsb' 14 2) (r.mod.extractLsb' 12 2) (r.mod.getLsbD 0) (r.mod.getLsbD 1) (r.mod.getLsbD 2))
  | 91 => some (let r := unpackG w; .fmin r.g ⟨r.fd, r.d⟩ ⟨r.fa, r.a⟩ ⟨r.fb, r.b⟩ (r.mod.extractLsb' 14 2))
  | 92 => some (let r := unpackG w; .fmax r.g ⟨r.fd, r.d⟩ ⟨r.fa, r.a⟩ ⟨r.fb, r.b⟩ (r.mod.extractLsb' 14 2))
  | 93 => some (let r := unpackG w; .fcmp r.g r.d ⟨r.fa, r.a⟩ ⟨r.fb, r.b⟩ (r.mod.extractLsb' 14 2) (r.mod.extractLsb' 9 3))
  | 94 => some (let r := unpackG w; .fclass r.g ⟨r.fd, r.d⟩ ⟨r.fa, r.a⟩ (r.mod.extractLsb' 14 2))
  | 95 => some (let r := unpackG w; .frnd r.g ⟨r.fd, r.d⟩ ⟨r.fa, r.a⟩ (r.mod.extractLsb' 14 2) (r.mod.extractLsb' 12 2))
  | 96 => some (let r := unpackG w; .fscale r.g ⟨r.fd, r.d⟩ ⟨r.fa, r.a⟩ ⟨r.fb, r.b⟩ (r.mod.extractLsb' 14 2) (r.mod.extractLsb' 12 2))
  | 97 => some (let r := unpackG w; .fdot2 r.g ⟨r.fd, r.d⟩ ⟨r.fa, r.a⟩ ⟨r.fb, r.b⟩ ⟨r.fc, r.c⟩ (r.mod.extractLsb' 14 2) (r.mod.extractLsb' 12 2) (r.mod.getLsbD 0) (r.mod.getLsbD 1) (r.mod.getLsbD 2))
  | 98 => some (let r := unpackL w; .faddL r.g r.s r.d r.a r.lit (r.mod.extractLsb' 1 2))
  | 99 => some (let r := unpackL w; .fmulL r.g r.s r.d r.a r.lit (r.mod.extractLsb' 1 2))
  | 100 => some (let r := unpackL w; .fminL r.g r.s r.d r.a r.lit)
  | 101 => some (let r := unpackL w; .fmaxL r.g r.s r.d r.a r.lit)
  | 102 => some (let r := unpackL w; .fcmpL r.g r.s r.d r.a r.lit (r.mod.extractLsb' 0 3))
  | 103 => some (let r := unpackG w; .srcp r.g ⟨r.fd, r.d⟩ ⟨r.fa, r.a⟩)
  | 104 => some (let r := unpackG w; .srsq r.g ⟨r.fd, r.d⟩ ⟨r.fa, r.a⟩)
  | 105 => some (let r := unpackG w; .ssqrt r.g ⟨r.fd, r.d⟩ ⟨r.fa, r.a⟩)
  | 106 => some (let r := unpackG w; .sexp2 r.g ⟨r.fd, r.d⟩ ⟨r.fa, r.a⟩)
  | 107 => some (let r := unpackG w; .slog2 r.g ⟨r.fd, r.d⟩ ⟨r.fa, r.a⟩)
  | 108 => some (let r := unpackG w; .ssin r.g ⟨r.fd, r.d⟩ ⟨r.fa, r.a⟩)
  | 109 => some (let r := unpackG w; .scos r.g ⟨r.fd, r.d⟩ ⟨r.fa, r.a⟩)
  | 110 => some (let r := unpackG w; .stanh r.g ⟨r.fd, r.d⟩ ⟨r.fa, r.a⟩)
  | 111 => some (let r := unpackG w; .cvf r.g ⟨r.fd, r.d⟩ ⟨r.fa, r.a⟩ (r.mod.extractLsb' 12 4) (r.mod.extractLsb' 8 4) (r.mod.extractLsb' 6 2) (r.mod.getLsbD 5) (r.mod.extractLsb' 2 2) (r.mod.extractLsb' 0 2))
  | 112 => some (let r := unpackG w; .cvn r.g r.d r.a r.c (r.mod.extractLsb' 12 4) (r.mod.extractLsb' 8 4) (r.mod.extractLsb' 6 2) (r.mod.getLsbD 5) (r.mod.extractLsb' 0 2))
  | 113 => some (let r := unpackG w; .cvi r.g ⟨r.fd, r.d⟩ ⟨r.fa, r.a⟩ (r.mod.extractLsb' 12 4) (r.mod.extractLsb' 8 4) (r.mod.extractLsb' 6 2) (r.mod.extractLsb' 2 2) (r.mod.extractLsb' 0 2))
  | 114 => some (let r := unpackG w; .cvsh r.g ⟨r.fd, r.d⟩ ⟨r.fa, r.a⟩ ⟨r.fb, r.b⟩ (r.mod.extractLsb' 0 2))
  | 115 => some (let r := unpackG w; .dcsh r.g ⟨r.fd, r.d⟩ ⟨r.fa, r.a⟩ ⟨r.fb, r.b⟩ (r.mod.extractLsb' 2 2))
  | 116 => some (let r := unpackG w; .qclr r.g (r.mod.extractLsb' 0 8))
  | 117 => some (let r := unpackG w; .qmov r.g r.d r.a (r.mod.getLsbD 0))
  | 118 => some (let r := unpackG w; .vchain r.g r.d r.a)
  | 119 => some (let r := unpackL w; .hring r.g r.a (r.lit.extractLsb' 0 2) (r.lit.extractLsb' 7 25))
  | 120 => some (let r := unpackG w; .hfrom r.g ⟨r.fd, r.d⟩ ⟨r.fa, r.a⟩ (r.mod.extractLsb' 14 2) (r.mod.getLsbD 13))
  | 121 => some (let r := unpackG w; .htof r.g ⟨r.fd, r.d⟩ ⟨r.fa, r.a⟩ (r.mod.extractLsb' 14 2))
  | 122 => some (let r := unpackG w; .hadd r.g ⟨r.fd, r.d⟩ ⟨r.fa, r.a⟩ ⟨r.fb, r.b⟩ (r.mod.extractLsb' 14 2))
  | 123 => some (let r := unpackG w; .hsub r.g ⟨r.fd, r.d⟩ ⟨r.fa, r.a⟩ ⟨r.fb, r.b⟩ (r.mod.extractLsb' 14 2))
  | 124 => some (let r := unpackG w; .hmul r.g ⟨r.fd, r.d⟩ ⟨r.fa, r.a⟩ ⟨r.fb, r.b⟩ (r.mod.extractLsb' 14 2))
  | 125 => some (let r := unpackG w; .hdiv r.g ⟨r.fd, r.d⟩ ⟨r.fa, r.a⟩ ⟨r.fb, r.b⟩ (r.mod.extractLsb' 14 2))
  | 126 => some (let r := unpackG w; .hneg r.g ⟨r.fd, r.d⟩ ⟨r.fa, r.a⟩ (r.mod.extractLsb' 14 2))
  | 127 => some (let r := unpackG w; .hrcp r.g ⟨r.fd, r.d⟩ ⟨r.fa, r.a⟩ (r.mod.extractLsb' 14 2))
  | 128 => some (let r := unpackG w; .hsq r.g ⟨r.fd, r.d⟩ ⟨r.fa, r.a⟩ (r.mod.extractLsb' 14 2))
  | 129 => some (let r := unpackG w; .huni r.g ⟨r.fd, r.d⟩ ⟨r.fa, r.a⟩ ⟨r.fb, r.b⟩)
  | 130 => some (let r := unpackG w; .hcap r.g ⟨r.fd, r.d⟩ ⟨r.fa, r.a⟩ ⟨r.fb, r.b⟩)
  | 131 => if (unpackG w).mod.getLsbD 0 then some (let r := unpackG w; .hinSub r.g r.d ⟨r.fa, r.a⟩ ⟨r.fb, r.b⟩) else some (let r := unpackG w; .hinFlt r.g r.d ⟨r.fa, r.a⟩ ⟨r.fb, r.b⟩ (r.mod.extractLsb' 14 2) (r.mod.getLsbD 13))
  | 132 => some (let r := unpackG w; .harc r.g ⟨r.fd, r.d⟩ ⟨r.fa, r.a⟩)
  | 133 => some (let r := unpackG w; .hexp r.g ⟨r.fd, r.d⟩ ⟨r.fa, r.a⟩)
  | 134 => some (let r := unpackG w; .hcnt r.g ⟨r.fd, r.d⟩ ⟨r.fa, r.a⟩ (r.mod.getLsbD 0))
  | 136 => some (let r := unpackM w; .ld r.g r.data r.base r.idx r.form r.width (r.mod.extractLsb' 6 2) r.ofs)
  | 137 => some (let r := unpackM w; .st r.g r.data r.base r.idx r.form r.width (r.mod.extractLsb' 6 2) r.ofs)
  | 138 => some (let r := unpackM w; .lds r.g r.data r.base r.form r.width r.ofs)
  | 139 => some (let r := unpackM w; .sts r.g r.data r.base r.form r.width r.ofs)
  | 140 => some (let r := unpackM w; .ldp r.g r.data r.base r.form r.ofs)
  | 141 => some (let r := unpackM w; .stp r.g r.data r.base r.form r.ofs)
  | 142 => some (let r := unpackM w; .ldk r.g r.data r.base r.width r.ofs)
  | 143 => some (let r := unpackA w; .atom r.g r.dst r.base r.opd r.cmp r.form r.aop r.scope r.w64 r.ofs)
  | 144 => some (let r := unpackA w; .atoms r.g r.dst r.base r.opd r.cmp r.form r.aop r.scope r.w64 r.ofs)
  | 145 => some (let r := unpackM w; .pref r.g r.base r.idx r.form (r.mod.extractLsb' 6 2) r.ofs)
  | 146 => some (let r := unpackG w; .xlat r.g ⟨r.fd, r.d⟩ ⟨r.fa, r.a⟩)
  | 147 => some (let r := unpackG w; .xacq r.g r.d r.a (r.mod.getLsbD 0))
  | 148 => some (let r := unpackG w; .xrel r.g r.a)
  | 149 => some (let r := unpackG w; .fence r.g (r.mod.extractLsb' 0 3))
  | 150 => some (let r := unpackG w; .rel r.g (r.mod.extractLsb' 0 3))
  | 151 => some (let r := unpackG w; .acq r.g (r.mod.extractLsb' 0 3))
  | 152 => some (let r := unpackG w; .bar r.g ⟨r.fa, r.a⟩ (r.mod.extractLsb' 0 4) (r.mod.getLsbD 4) (r.mod.getLsbD 5))
  | 153 => some (let r := unpackG w; .boinit r.g r.a ⟨r.fb, r.b⟩ (r.mod.getLsbD 0))
  | 154 => some (let r := unpackG w; .boarr r.g r.d r.a ⟨r.fb, r.b⟩ (r.mod.getLsbD 0))
  | 155 => some (let r := unpackG w; .bowait r.g r.a r.b)
  | 156 => some (let r := unpackG w; .botry r.g r.d r.a r.b)
  | 157 => some (let r := unpackG w; .fwait r.g r.d r.a r.b r.c (r.mod.extractLsb' 0 4) (r.mod.getLsbD 4))
  | 158 => some (let r := unpackG w; .dtime r.g r.d (r.mod.getLsbD 0))
  | 159 => some (let r := unpackG w; .wct r.g r.d)
  | 160 => some (let r := unpackG w; .acopy r.g r.d r.a r.b r.c (r.mod.extractLsb' 0 2))
  | 161 => some (let r := unpackG w; .acopyt r.g r.d r.a r.b r.c (r.mod.extractLsb' 0 2))
  | 162 => some (let r := unpackG w; .asto r.g r.d r.a r.b r.c)
  | 163 => some (let r := unpackG w; .kick r.g r.a r.b)
  | 164 => some (let r := unpackG w; .kstat r.g r.d (r.mod.getLsbD 0))
  | 165 => if (unpackG w).mod.getLsbD 0 then some (let r := unpackG w; .ghndFree r.g r.a) else some (let r := unpackG w; .ghnd r.g r.d r.a)
  | 166 => some (let r := unpackG w; .gath r.g r.d r.a r.b ⟨r.fc, r.c⟩ (r.mod.getLsbD 0) (r.mod.getLsbD 1))
  | 167 => some (let r := unpackG w; .scat r.g r.a r.b r.c (r.mod.getLsbD 0))
  | 168 => some (let r := unpackG w; .gcmr r.g r.d (r.mod.getLsbD 0))
  | 169 => some (let r := unpackG w; .gcmw r.g r.a)
  | 176 => some (let r := unpackG w; .mbq r.g r.d r.a)
  | 177 => some (let r := unpackG w; .mloop r.g r.d r.a r.b r.c (r.mod.extractLsb' 13 3) (r.mod.extractLsb' 10 3) (r.mod.getLsbD 9))
  | 178 => some (let r := unpackG w; .mma r.g r.d r.a (r.mod.extractLsb' 13 3) (r.mod.extractLsb' 10 3))
  | 179 => some (let r := unpackG w; .mzero r.g r.d (r.mod.getLsbD 0))
  | 180 => if (unpackG w).fd then some (let r := unpackG w; .mdrainS r.g r.d r.a r.b (r.mod.getLsbD 0) (r.mod.getLsbD 1)) else some (let r := unpackG w; .mdrain r.g r.d r.a r.b (r.mod.getLsbD 0) (r.mod.getLsbD 1))
  | 181 => some (let r := unpackG w; .mdrainc r.g r.a r.b r.c (r.mod.getLsbD 1))
  | 182 => some (let r := unpackG w; .mguide r.g ⟨r.fd, r.d⟩ r.a r.b r.c (r.mod.getLsbD 0) (r.mod.getLsbD 1))
  | 183 => some (let r := unpackG w; .mtwin r.g)
  | 184 => some (let r := unpackG w; .msketch r.g r.d r.a r.b r.c)
  | 185 => some (let r := unpackG w; .mmask r.g r.a r.b)
  | 186 => some (let r := unpackG w; .mstat r.g r.d r.a (r.mod.getLsbD 0))
  | 187 => some (let r := unpackG w; .msave r.g r.a r.b (r.mod.getLsbD 1))
  | 188 => some (let r := unpackG w; .mrstr r.g r.d r.a)
  | 208 => if (unpackG w).mod.getLsbD 0 then some (let r := unpackG w; .tdescRd r.g r.d r.a) else some (let r := unpackG w; .tdesc r.g r.d r.a ⟨r.fb, r.b⟩ (r.mod.getLsbD 1))
  | 209 => if (unpackG w).mod.getLsbD 0 then some (let r := unpackG w; .tldHeap r.g r.a) else some (let r := unpackG w; .tld r.g r.d r.a r.b)
  | 210 => some (let r := unpackG w; .tldf r.g r.d r.a r.b)
  | 211 => if (unpackG w).mod.getLsbD 0 then some (let r := unpackG w; .tstF r.g r.a r.b) else if (unpackG w).mod.getLsbD 1 then some (let r := unpackG w; .tstHeap r.g r.a) else some (let r := unpackG w; .tstD r.g r.a r.b r.c)
  | 212 => some (let r := unpackG w; .tzero r.g r.d)
  | 213 => some (let r := unpackG w; .tadd r.g r.d r.a r.b)
  | 214 => some (let r := unpackG w; .tscl r.g r.d r.a r.b)
  | 215 => some (let r := unpackG w; .tmul r.g r.d r.a r.b)
  | 216 => some (let r := unpackG w; .tmulv r.g r.d r.a r.b)
  | 217 => some (let r := unpackG w; .trnd r.g r.d r.a ⟨r.fb, r.b⟩ (r.mod.getLsbD 0) (r.mod.getLsbD 1))
  | 218 => some (let r := unpackG w; .trank r.g r.d r.a (r.mod.getLsbD 0))
  | 219 => some (let r := unpackG w; .ttod r.g r.d r.a)
  | 220 => some (let r := unpackG w; .ttol r.g r.d r.a)
  | 221 => some (let r := unpackG w; .tpotrf r.g r.d r.a)
  | 222 => some (let r := unpackG w; .ttrsm r.g r.d r.a r.b (r.mod.getLsbD 0) (r.mod.getLsbD 1) (r.mod.getLsbD 2) (r.mod.getLsbD 3))
  | 223 => some (let r := unpackG w; .tupd r.g r.d r.a r.b)
  | 224 => some (let r := unpackG w; .thalc r.g r.d)
  | 225 => some (let r := unpackG w; .thfre r.g r.d)
  | 226 => some (let r := unpackG w; .qpost r.g r.d r.a)
  | 227 => some (let r := unpackG w; .qtick r.g r.d r.a (r.mod.getLsbD 0))
  | 228 => some (let r := unpackG w; .put r.g r.d r.a)
  | 229 => some (let r := unpackG w; .puts r.g r.d r.a)
  | 230 => some (let r := unpackG w; .putr r.g r.d r.a)
  | 231 => some (let r := unpackG w; .get r.g r.d r.a)
  | 232 => some (let r := unpackG w; .qarm r.g r.a r.b r.c)
  | 233 => some (let r := unpackG w; .tcnt r.g r.d r.a ⟨r.fb, r.b⟩ (r.mod.extractLsb' 0 2))
  | 234 => some (let r := unpackG w; .qring r.g r.d r.a)
  | 235 => some (let r := unpackG w; .qcomp r.g r.d r.a (r.mod.getLsbD 0) (r.mod.getLsbD 1))
  | 236 => some (let r := unpackG w; .qcancel r.g r.d r.a)
  | 237 => some (let r := unpackG w; .qstat r.g r.d r.a (r.mod.extractLsb' 0 2) (r.mod.getLsbD 2))
  | 238 => some (let r := unpackG w; .gnode r.g r.d r.a)
  | 239 => some (let r := unpackG w; .gedge r.g r.a r.b)
  | 240 => some (let r := unpackG w; .gsub r.g r.a)
  | 241 => some (let r := unpackG w; .gwait r.g r.d r.a (r.mod.getLsbD 0))
  | 242 => some (let r := unpackG w; .launch r.g r.d r.a)
  | 243 => some (let r := unpackG w; .dline r.g r.a r.b)
  | 244 => some (let r := unpackG w; .dgst r.g r.d)
  | 245 => some (let r := unpackG w; .dgchk r.g r.a)
  | 246 => some (let r := unpackG w; .trap r.g ⟨r.fa, r.a⟩)
  | 247 => some (let r := unpackG w; .rte r.g (r.mod.getLsbD 0))
  | 248 => some (let r := unpackG w; .savelive r.g r.d r.a)
  | 249 => some (let r := unpackG w; .restlive r.g r.a)
  | 250 => some (let r := unpackG w; .srd r.g ⟨r.fd, r.d⟩ r.a)
  | 251 => some (let r := unpackG w; .swr r.g r.d r.a)
  | 252 => some (let r := unpackG w; .bkpt r.g (r.mod.extractLsb' 0 16))
  | 253 => some (let r := unpackG w; .pmark r.g (r.mod.extractLsb' 0 16))
  | 254 => some (let r := unpackG w; .haltb r.g r.a (r.mod.getLsbD 0))
  | 255 => some (let r := unpackG w; .rdbaro r.g r.d r.a (r.mod.getLsbD 0))
  | _ => none

def neverAssigned (op : BitVec 8) : Bool := op == 0#8 || op.extractLsb' 4 4 == 0xC#4

/-- Decoding one instruction word (R58). -/
def decodeWord (w : DWord) : Except DecodeError Instr :=
  match candidate w with
  | none => .error (if neverAssigned (opcodeOf w) then .neverAssigned else .unassigned)
  | some i => if wellFormed i && encode i == some w then .ok i else .error .illegalEncoding

/-- A 64-bit word from its eight bytes, least significant first (R3). -/
def wordOfBytes (b0 b1 b2 b3 b4 b5 b6 b7 : Byte) : DWord := b7 ++ b6 ++ b5 ++ b4 ++ b3 ++ b2 ++ b1 ++ b0

/-- Decoding the first instruction of a list of bytes. -/
def decode : List Byte → Except DecodeError (Instr × List Byte)
  | b0 :: b1 :: b2 :: b3 :: b4 :: b5 :: b6 :: b7 :: rest =>
    match decodeWord (wordOfBytes b0 b1 b2 b3 b4 b5 b6 b7) with
    | .ok i => .ok (i, rest)
    | .error e => .error e
  | _ => .error .short

/-- The eight bytes of a word, least significant first. -/
def bytesOfWord (w : DWord) : List Byte :=
  [w.extractLsb' 0 8, w.extractLsb' 8 8, w.extractLsb' 16 8, w.extractLsb' 24 8,
   w.extractLsb' 32 8, w.extractLsb' 40 8, w.extractLsb' 48 8, w.extractLsb' 56 8]

/-- The instruction read from the table's numbering of bits: the word's bits are w, those at or above nbits are zero. -/
def decodeTableWord (nbits w : Nat) : Option Instr :=
  match decode (bytesOfWord (BitVec.ofNat 64 (w % 2 ^ nbits))) with
  | .ok (i, _) => some i
  | .error _ => none

/-- The engine classes of R20, by their codes. -/
inductive Class where
  | CTL | VEC | MEM | ASY | MTX | RNK | COL | SYS
deriving DecidableEq, Repr

def Class.ofCode (c : BitVec 3) : Class :=
  match c.toNat with
  | 0 => .CTL
  | 1 => .VEC
  | 2 => .MEM
  | 3 => .ASY
  | 4 => .MTX
  | 5 => .RNK
  | 6 => .COL
  | _ => .SYS

def Class.code : Class → Nat
  | .CTL => 0
  | .VEC => 1
  | .MEM => 2
  | .ASY => 3
  | .MTX => 4
  | .RNK => 5
  | .COL => 6
  | .SYS => 7

/-- The class of an opcode (R57). -/
def classOf (op : BitVec 8) : Class :=
  let n := op.toNat
  if n < 0x14 then .CTL
  else if n < 0x87 then .VEC
  else if n < 0xA0 then .MEM
  else if n < 0xB0 then .ASY
  else if n < 0xC0 then .MTX
  else if n < 0xE2 then .RNK
  else if n < 0xEE then .COL
  else .SYS

/-- The class of an instruction (none for a hardware step). -/
def Instr.class? (i : Instr) : Option Class := (encode i).map fun w => classOf (opcodeOf w)

/-- Whether the row is a step of the hardware or its host: it has no encoding. -/
def Instr.isStep (i : Instr) : Bool := (encode i).isNone

/-- A control-transfer instruction ends its clause (R45). -/
def Instr.isTransfer (i : Instr) : Bool :=
  match i with
  | .bra .. | .brx .. | .call .. | .callx .. | .ret .. | .exit .. | .loop .. | .iter .. | .rte .. => true
  | _ => false

/-- The clause header's fields (R38, R40). -/
structure Header where
  cls    : BitVec 3
  count  : BitVec 4
  prio   : BitVec 8
  fscope : BitVec 3
  midle  : Bool
  tokw   : Bool
  barw   : Bool
  barid  : BitVec 4
deriving DecidableEq, Repr

/-- A word is a header when its marker is 0xC (R46). -/
def isHeader (w : DWord) : Bool := w.extractLsb' 60 4 == 0xC#4

/-- The fields of a header; none where R39 makes the header raise ILLEGAL_OP. -/
def decodeHeader (w : DWord) : Option Header :=
  let h : Header := ⟨w.extractLsb' 57 3, w.extractLsb' 53 4, w.extractLsb' 45 8, w.extractLsb' 42 3,
    w.getLsbD 41, w.getLsbD 40, w.getLsbD 39, w.extractLsb' 35 4⟩
  if isHeader w && w.extractLsb' 0 35 == 0#35 && (h.barw || h.barid == 0#4) then some h else none

/-- The word of a header. -/
def encodeHeader (h : Header) : DWord :=
  0xC#4 ++ h.cls ++ h.count ++ h.prio ++ h.fscope ++ BitVec.ofBool h.midle ++ BitVec.ofBool h.tokw ++
    BitVec.ofBool h.barw ++ h.barid ++ 0#35

end Sys2Proof
end

