-- ==== Sys2Proof/Machine/Fields.lean ====
section
/-!
DEFINITION. The registers that the fields of an instruction name, for the register-count check of R51 and the scoreboard of R60.
-/
namespace Sys2Proof.Machine

/-- A register, or both registers of a pair. -/
def pv (n : BitVec 8) (pair : Bool) : List Nat := if pair then [n.toNat, n.toNat + 1] else [n.toNat]

/-- The scalar registers of a field: one, or a pair. -/
def ps (n : BitVec 8) (pair : Bool) : List Nat := pv n pair

/-- The registers a data field of a width touches (R186): one, two for b64, four for b128. -/
def pvw (n : BitVec 8) (width : BitVec 4) : List Nat :=
  if width == 5#4 then pv n true else if width == 6#4 then List.range' n.toNat 4 else [n.toNat]

def psw (n : BitVec 8) (width : BitVec 4) : List Nat := pvw n width

/-- The vector registers of a vector-or-scalar operand. -/
def vsv (x : VS) (pair : Bool) : List Nat := if x.sc then [] else pv x.n pair

/-- The scalar registers of a vector-or-scalar operand. -/
def vss (x : VS) (pair : Bool) : List Nat := if x.sc then pv x.n pair else []

/-- The vector registers of a format L field, whose file is S. -/
def lv (s : Bool) (n : BitVec 8) (pair : Bool) : List Nat := if s then [] else pv n pair

def ls (s : Bool) (n : BitVec 8) (pair : Bool) : List Nat := if s then pv n pair else []

/-- The vector registers that form an address (R54). -/
def addrV (form : BitVec 2) (base idx : BitVec 8) : List Nat :=
  if form == 1#2 then [idx.toNat] else if form == 2#2 then pv base true else []

def addrS (form : BitVec 2) (base : BitVec 8) : List Nat :=
  if form == 0#2 || form == 1#2 then pv base true else []

/-- The vector register that forms a pool address (R54). -/
def poolV (form : BitVec 2) (base : BitVec 8) : List Nat := if form == 2#2 then [base.toNat] else []

/-- The registers of a block that begins at an operand (R76). -/
def blockV (a : VS) (n : Nat) : List Nat := if a.sc then [] else List.range' a.n.toNat n

def blockS (a : VS) (n : Nat) : List Nat := if a.sc then List.range' a.n.toNat n else []

/-- The vector registers an instruction's fields name (R51). -/
def vregs : Instr → List Nat
  | .nop _ => []
  | .bra _ _ _ => []
  | .brx _ a => vsv a true
  | .call _ _ a _ => vsv a true
  | .callx _ d a => vsv d true ++ vsv a true
  | .ret _ a => vsv a true
  | .exit _ => []
  | .loop _ _ a _ => vsv a false
  | .iter _ _ f64 _ a _ => blockV a (if f64 then 6 else 4)
  | .jarm _ _ _ _ _ => []
  | .jarmL _ _ _ _ => []
  | .jwait _ _ _ => []
  | .jdrop _ _ => []
  | .jqry _ _ _ _ => []
  | .regrp _ _ _ => []
  | .ungrp _ _ => []
  | .yield _ => []
  | .sleep _ _ _ => []
  | .sleepL _ _ _ => []
  | .iadd _ d a b _ _ => vsv d false ++ vsv a false ++ vsv b false
  | .iaddL _ s d a _ _ _ => lv s d false ++ lv s a false
  | .isub _ d a b _ _ => vsv d false ++ vsv a false ++ vsv b false
  | .isubL _ s d a _ _ _ => lv s d false ++ lv s a false
  | .imul _ d a b => vsv d false ++ vsv a false ++ vsv b false
  | .imulL _ s d a _ => lv s d false ++ lv s a false
  | .imulh _ d a b _ => vsv d false ++ vsv a false ++ vsv b false
  | .imad _ d a b c => vsv d false ++ vsv a false ++ vsv b false ++ vsv c false
  | .iadd64 _ d a b => vsv d true ++ vsv a true ++ vsv b true
  | .iadd64L _ s d a _ => lv s d true ++ lv s a true
  | .isub64 _ d a b => vsv d true ++ vsv a true ++ vsv b true
  | .imad64 _ d a b c _ => vsv d true ++ vsv a false ++ vsv b false ++ vsv c true
  | .icmp _ _ a b _ => vsv a false ++ vsv b false
  | .icmpL _ s _ a _ _ => lv s a false
  | .icmp64 _ _ a b _ => vsv a true ++ vsv b true
  | .icmp64L _ s _ a _ _ => lv s a true
  | .imin _ d a b _ => vsv d false ++ vsv a false ++ vsv b false
  | .iminL _ s d a _ _ => lv s d false ++ lv s a false
  | .imax _ d a b _ => vsv d false ++ vsv a false ++ vsv b false
  | .imaxL _ s d a _ _ => lv s d false ++ lv s a false
  | .iabs _ d a _ => vsv d false ++ vsv a false
  | .iaddmin _ d a b c _ => vsv d false ++ vsv a false ++ vsv b false ++ vsv c false
  | .and _ d a b => vsv d false ++ vsv a false ++ vsv b false
  | .andL _ s d a _ => lv s d false ++ lv s a false
  | .or _ d a b => vsv d false ++ vsv a false ++ vsv b false
  | .orL _ s d a _ => lv s d false ++ lv s a false
  | .xor _ d a b => vsv d false ++ vsv a false ++ vsv b false
  | .xorL _ s d a _ => lv s d false ++ lv s a false
  | .andn _ d a b => vsv d false ++ vsv a false ++ vsv b false
  | .andnL _ s d a _ => lv s d false ++ lv s a false
  | .not _ d a => vsv d false ++ vsv a false
  | .shl _ d a b => vsv d false ++ vsv a false ++ vsv b false
  | .shlL _ s d a _ => lv s d false ++ lv s a false
  | .shr _ d a b => vsv d false ++ vsv a false ++ vsv b false
  | .shrL _ s d a _ => lv s d false ++ lv s a false
  | .sar _ d a b => vsv d false ++ vsv a false ++ vsv b false
  | .sarL _ s d a _ => lv s d false ++ lv s a false
  | .shl64 _ d a b => vsv d true ++ vsv a true ++ vsv b false
  | .shl64L _ s d a _ => lv s d true ++ lv s a true
  | .shr64 _ d a b => vsv d true ++ vsv a true ++ vsv b false
  | .shr64L _ s d a _ => lv s d true ++ lv s a true
  | .bfe _ d a b c _ => vsv d false ++ vsv a false ++ vsv b false ++ vsv c false
  | .bfi _ d a b c => vsv d false ++ vsv a false ++ vsv b false ++ vsv c false
  | .popc _ d a => vsv d false ++ vsv a false
  | .clz _ d a => vsv d false ++ vsv a false
  | .brev _ d a => vsv d false ++ vsv a false
  | .sel _ d a b _ => [d.toNat] ++ vsv a false ++ vsv b false
  | .mov _ d a b64 => vsv d (b64) ++ vsv a (b64)
  | .movL _ s d _ => lv s d false
  | .plop _ _ _ _ _ _ => []
  | .qswp _ d a _ b64 f c => pv d b64 ++ pv a b64 ++ (if f then vsv c b64 else [])
  | .qbcst _ d a _ b64 f c => pv d b64 ++ pv a b64 ++ (if f then vsv c b64 else [])
  | .shfl _ d a b _ _ b64 f c => pv d b64 ++ pv a b64 ++ vsv b false ++ (if f then vsv c b64 else [])
  | .shflL _ d a _ _ _ => [d.toNat] ++ [a.toNat]
  | .lshf _ d a b _ _ b64 f c => pv d b64 ++ pv a b64 ++ vsv b false ++ (if f then vsv c b64 else [])
  | .lshfL _ d a _ _ _ => [d.toNat] ++ [a.toNat]
  | .vote _ _ _ _ => []
  | .ballot _ _ _ => []
  | .matchLanes _ d a b64 => [d.toNat] ++ pv a (b64)
  | .lcomp _ _ _ _ => []
  | .lpfx _ d a _ _ _ => [d.toNat] ++ [a.toNat]
  | .segadd _ d a _ _ => [d.toNat] ++ [a.toNat]
  | .rdlane _ _ a _ b64 _ _ => pv a b64
  | .rdlaneL _ _ a _ => [a.toNat]
  | .fadd _ d a b ty _ _ _ => vsv d ((ty==0#2)) ++ vsv a ((ty==0#2)) ++ vsv b ((ty==0#2))
  | .faddL _ s d a _ _ => lv s d false ++ lv s a false
  | .fmul _ d a b ty _ _ _ => vsv d ((ty==0#2)) ++ vsv a ((ty==0#2)) ++ vsv b ((ty==0#2))
  | .fmulL _ s d a _ _ => lv s d false ++ lv s a false
  | .ffma _ d a b c ty _ _ _ _ => vsv d ((ty==0#2)) ++ vsv a ((ty==0#2)) ++ vsv b ((ty==0#2)) ++ vsv c ((ty==0#2))
  | .fmin _ d a b ty => vsv d ((ty==0#2)) ++ vsv a ((ty==0#2)) ++ vsv b ((ty==0#2))
  | .fminL _ s d a _ => lv s d false ++ lv s a false
  | .fmax _ d a b ty => vsv d ((ty==0#2)) ++ vsv a ((ty==0#2)) ++ vsv b ((ty==0#2))
  | .fmaxL _ s d a _ => lv s d false ++ lv s a false
  | .fcmp _ _ a b ty _ => vsv a ((ty==0#2)) ++ vsv b ((ty==0#2))
  | .fcmpL _ s _ a _ _ => lv s a false
  | .fclass _ d a ty => vsv d false ++ vsv a ((ty==0#2))
  | .frnd _ d a ty _ => vsv d ((ty==0#2)) ++ vsv a ((ty==0#2))
  | .fscale _ d a b ty _ => vsv d ((ty==0#2)) ++ vsv a ((ty==0#2)) ++ vsv b false
  | .fdot2 _ d a b c _ _ _ _ _ => vsv d false ++ vsv a false ++ vsv b false ++ vsv c false
  | .srcp _ d a => vsv d false ++ vsv a false
  | .srsq _ d a => vsv d false ++ vsv a false
  | .ssqrt _ d a => vsv d false ++ vsv a false
  | .sexp2 _ d a => vsv d false ++ vsv a false
  | .slog2 _ d a => vsv d false ++ vsv a false
  | .ssin _ d a => vsv d false ++ vsv a false
  | .scos _ d a => vsv d false ++ vsv a false
  | .stanh _ d a => vsv d false ++ vsv a false
  | .cvf _ d a df sf _ _ _ _ => vsv d ((fmt64 df)) ++ vsv a ((fmt64 sf))
  | .cvn _ d a _ _ sf _ _ _ => [d.toNat] ++ pv a ((fmt64 sf))
  | .cvi _ d a df sf _ _ _ => vsv d ((fmt64 df)) ++ vsv a ((fmt64 sf))
  | .cvsh _ d a b _ => vsv d false ++ vsv a false ++ vsv b false
  | .dcsh _ d a b _ => vsv d false ++ vsv a false ++ vsv b false
  | .qclr _ _ => []
  | .qmov _ x y dir => [if dir then x.toNat else y.toNat]
  | .vchain _ _ _ => []
  | .hring _ _ _ _ => []
  | .hfrom _ d a _ f64 => vsv d false ++ vsv a (f64)
  | .htof _ d a _ => vsv d true ++ vsv a false
  | .hadd _ d a b _ => vsv d false ++ vsv a false ++ vsv b false
  | .hsub _ d a b _ => vsv d false ++ vsv a false ++ vsv b false
  | .hmul _ d a b _ => vsv d false ++ vsv a false ++ vsv b false
  | .hdiv _ d a b _ => vsv d false ++ vsv a false ++ vsv b false
  | .hneg _ d a _ => vsv d false ++ vsv a false
  | .hrcp _ d a _ => vsv d false ++ vsv a false
  | .hsq _ d a _ => vsv d false ++ vsv a false
  | .huni _ d a b => vsv d false ++ vsv a false ++ vsv b false
  | .hcap _ d a b => vsv d false ++ vsv a false ++ vsv b false
  | .hinFlt _ _ a b _ f64 => vsv a false ++ vsv b (f64)
  | .hinSub _ _ a b => vsv a false ++ vsv b false
  | .harc _ d a => vsv d false ++ vsv a false
  | .hexp _ d a => vsv d false ++ vsv a false
  | .hcnt _ d a _ => vsv d false ++ vsv a false
  | .ld _ data base idx form width _ _ => pvw data width ++ addrV form base idx
  | .st _ data base idx form width _ _ => pvw data width ++ addrV form base idx
  | .lds _ data base form width _ => pvw data width ++ poolV form base
  | .sts _ data base form width _ => pvw data width ++ poolV form base
  | .ldp _ data base form _ => [data.toNat] ++ poolV form base
  | .stp _ data base form _ => [data.toNat] ++ poolV form base
  | .ldk _ _ _ _ _ => []
  | .atom _ dst base opd cmp form aop _ w64 _ => pv dst w64 ++ pv opd w64 ++ (if aop == 9#4 then pv cmp w64 else []) ++ (if form == 2#2 then pv base true else [])
  | .atoms _ dst base opd cmp form aop _ w64 _ => pv dst w64 ++ pv opd w64 ++ (if aop == 9#4 then pv cmp w64 else []) ++ (if form == 2#2 then [base.toNat] else [])
  | .pref _ base idx form _ _ => addrV form base idx
  | .xlat _ d a => vsv d true ++ vsv a true
  | .xacq _ _ _ _ => []
  | .xrel _ _ => []
  | .fence _ _ => []
  | .rel _ _ => []
  | .acq _ _ => []
  | .bar _ _ _ _ _ => []
  | .boinit _ _ _ _ => []
  | .boarr _ _ _ _ _ => []
  | .bowait _ _ _ => []
  | .botry _ _ _ _ => []
  | .fwait _ _ _ _ _ _ _ => []
  | .dtime _ _ _ => []
  | .wct _ _ => []
  | .acopy _ _ _ _ _ _ => []
  | .acopyt _ _ _ _ _ _ => []
  | .asto _ _ _ _ _ => []
  | .kick _ _ _ => []
  | .kstat _ _ _ => []
  | .ghnd _ _ _ => []
  | .ghndFree _ _ => []
  | .gath _ d _ vb _ _ _ => [d.toNat, vb.toNat]
  | .scat _ _ vb vc _ => [vb.toNat] ++ [vc.toNat]
  | .gcmr _ _ _ => []
  | .gcmw _ _ => []
  | .mbq _ _ _ => []
  | .mloop _ _ _ _ _ _ _ _ => []
  | .mma _ _ va ta _ => List.range' va.toNat (if ta == 4#3 then 32 else 16)
  | .mzero _ _ _ => []
  | .mdrain _ d _ _ bf16 _ => List.range' d.toNat (if bf16 then 16 else 32)
  | .mdrainS _ _ _ _ _ _ => []
  | .mdrainc _ _ _ _ _ => []
  | .mguide _ d _ _ _ bf16 _ => if d.sc then [] else List.range' d.n.toNat (if bf16 then 16 else 32)
  | .mtwin _ => []
  | .msketch _ _ _ _ _ => []
  | .mmask _ _ _ => []
  | .mstat _ _ _ _ => []
  | .msave _ _ _ _ => []
  | .mrstr _ _ _ => []
  | .tdesc _ _ _ _ _ => []
  | .tdescRd _ _ _ => []
  | .tld _ _ _ _ => []
  | .tldHeap _ _ => []
  | .tldf _ _ _ _ => []
  | .tstD _ _ _ _ => []
  | .tstF _ _ _ => []
  | .tstHeap _ _ => []
  | .tzero _ _ => []
  | .tadd _ _ _ _ => []
  | .tscl _ _ _ _ => []
  | .tmul _ _ _ _ => []
  | .tmulv _ _ _ _ => []
  | .trnd _ _ _ _ _ _ => []
  | .trank _ _ _ _ => []
  | .ttod _ _ _ => []
  | .ttol _ _ _ => []
  | .tpotrf _ _ _ => []
  | .ttrsm _ _ _ _ _ _ _ _ => []
  | .tupd _ _ _ _ => []
  | .thalc _ _ => []
  | .thfre _ _ => []
  | .qpost _ _ _ => []
  | .qtick _ _ _ _ => []
  | .put _ _ _ => []
  | .puts _ _ _ => []
  | .putr _ _ _ => []
  | .get _ _ _ => []
  | .qarm _ _ _ _ => []
  | .tcnt _ _ _ _ _ => []
  | .qring _ _ _ => []
  | .qcomp _ _ _ _ _ => []
  | .qcancel _ _ _ => []
  | .qstat _ _ _ _ _ => []
  | .gnode _ _ _ => []
  | .gedge _ _ _ => []
  | .gsub _ _ => []
  | .gwait _ _ _ _ => []
  | .launch _ _ _ => []
  | .dline _ _ _ => []
  | .dgst _ _ => []
  | .dgchk _ _ => []
  | .trap _ _ => []
  | .rte _ _ => []
  | .savelive _ _ _ => []
  | .restlive _ _ => []
  | .srd _ d _ => vsv d false
  | .swr _ _ _ => []
  | .bkpt _ _ => []
  | .pmark _ _ => []
  | .haltb _ _ _ => []
  | .rdbaro _ _ _ _ => []
  | .joinTimeout | .sleepExpiry | .fairnessRotation | .clauseFetch | .chainCompletion | .ringSlotCommit
    | .releaseCompletion | .fwaitReread | .homeRequest | .loadDataWritten | .storeAcknowledgement
    | .takingAPin | .retry | .pinTimeout => []
  | .asyncCompletion | .cardCompletion | .gathSettled | .kStep | .twinHoldTimeout | .burnisherPhaseBoundary
    | .burnisherCommit | .entryCompletion => []
  | .putPacket | .putWithSignal | .writeWithReduce | .getRequest | .acknowledgement | .getData
    | .remoteDeviceAccess | .packetTimeout | .linkDown | .routeSwitch => []
  | .postMessage | .ticketMessage | .mismatchMessage | .cancelMessage | .cancelledMessage | .postTimeout
    | .collectiveStart | .foldChunk | .resultChunk | .credit | .collectiveTimeout | .collectiveResultTimeout
    | .collectiveEnd => []
  | .nodeDispatch | .blockPlacement | .nodeCompletion | .deadlinePassed | .groupEnd | .trapEntry => []
  | .submit | .wait | .inval | .preempt | .release | .resync | .checkpoint | .restore | .trace
    | .checkpointStreamComplete => []
  | .qTailWrite | .lplaceWrite | .fwinWrite | .stageWrite | .prouteWrite | .teamCfgWrite | .devFidWrite
    | .queueContextWrite | .controlRegisterWrite | .cxlMemAccess => []
  | .powerOnReset | .firmwareVerify | .version | .capabilities | .algorithmNegotiation | .digests
    | .certificates | .challenge | .measurements | .powerWithhold | .thermalTrip | .linkUp | .flitResend
    | .packetForwarding => []

/-- The scalar registers an instruction's fields name (R60). -/
def sregs : Instr → List Nat
  | .nop _ => []
  | .bra _ _ _ => []
  | .brx _ a => vss a true
  | .call _ _ a _ => vss a true
  | .callx _ d a => vss d true ++ vss a true
  | .ret _ a => vss a true
  | .exit _ => []
  | .loop _ _ a _ => vss a false
  | .iter _ _ f64 _ a _ => blockS a (if f64 then 6 else 4)
  | .jarm _ _ sa sb _ => ps sa false ++ ps sb false
  | .jarmL _ _ _ _ => []
  | .jwait _ _ _ => []
  | .jdrop _ _ => []
  | .jqry _ sd _ _ => ps sd false
  | .regrp _ sa _ => ps sa false
  | .ungrp _ sa => ps sa false
  | .yield _ => []
  | .sleep _ sa _ => ps sa false
  | .sleepL _ _ _ => []
  | .iadd _ d a b _ _ => vss d false ++ vss a false ++ vss b false
  | .iaddL _ s d a _ _ _ => ls s d false ++ ls s a false
  | .isub _ d a b _ _ => vss d false ++ vss a false ++ vss b false
  | .isubL _ s d a _ _ _ => ls s d false ++ ls s a false
  | .imul _ d a b => vss d false ++ vss a false ++ vss b false
  | .imulL _ s d a _ => ls s d false ++ ls s a false
  | .imulh _ d a b _ => vss d false ++ vss a false ++ vss b false
  | .imad _ d a b c => vss d false ++ vss a false ++ vss b false ++ vss c false
  | .iadd64 _ d a b => vss d true ++ vss a true ++ vss b true
  | .iadd64L _ s d a _ => ls s d true ++ ls s a true
  | .isub64 _ d a b => vss d true ++ vss a true ++ vss b true
  | .imad64 _ d a b c _ => vss d true ++ vss a false ++ vss b false ++ vss c true
  | .icmp _ _ a b _ => vss a false ++ vss b false
  | .icmpL _ s _ a _ _ => ls s a false
  | .icmp64 _ _ a b _ => vss a true ++ vss b true
  | .icmp64L _ s _ a _ _ => ls s a true
  | .imin _ d a b _ => vss d false ++ vss a false ++ vss b false
  | .iminL _ s d a _ _ => ls s d false ++ ls s a false
  | .imax _ d a b _ => vss d false ++ vss a false ++ vss b false
  | .imaxL _ s d a _ _ => ls s d false ++ ls s a false
  | .iabs _ d a _ => vss d false ++ vss a false
  | .iaddmin _ d a b c _ => vss d false ++ vss a false ++ vss b false ++ vss c false
  | .and _ d a b => vss d false ++ vss a false ++ vss b false
  | .andL _ s d a _ => ls s d false ++ ls s a false
  | .or _ d a b => vss d false ++ vss a false ++ vss b false
  | .orL _ s d a _ => ls s d false ++ ls s a false
  | .xor _ d a b => vss d false ++ vss a false ++ vss b false
  | .xorL _ s d a _ => ls s d false ++ ls s a false
  | .andn _ d a b => vss d false ++ vss a false ++ vss b false
  | .andnL _ s d a _ => ls s d false ++ ls s a false
  | .not _ d a => vss d false ++ vss a false
  | .shl _ d a b => vss d false ++ vss a false ++ vss b false
  | .shlL _ s d a _ => ls s d false ++ ls s a false
  | .shr _ d a b => vss d false ++ vss a false ++ vss b false
  | .shrL _ s d a _ => ls s d false ++ ls s a false
  | .sar _ d a b => vss d false ++ vss a false ++ vss b false
  | .sarL _ s d a _ => ls s d false ++ ls s a false
  | .shl64 _ d a b => vss d true ++ vss a true ++ vss b false
  | .shl64L _ s d a _ => ls s d true ++ ls s a true
  | .shr64 _ d a b => vss d true ++ vss a true ++ vss b false
  | .shr64L _ s d a _ => ls s d true ++ ls s a true
  | .bfe _ d a b c _ => vss d false ++ vss a false ++ vss b false ++ vss c false
  | .bfi _ d a b c => vss d false ++ vss a false ++ vss b false ++ vss c false
  | .popc _ d a => vss d false ++ vss a false
  | .clz _ d a => vss d false ++ vss a false
  | .brev _ d a => vss d false ++ vss a false
  | .sel _ _ a b _ => vss a false ++ vss b false
  | .mov _ d a b64 => vss d (b64) ++ vss a (b64)
  | .movL _ s d _ => ls s d false
  | .plop _ _ _ _ _ _ => []
  | .qswp _ _ _ _ b64 _ c => vss c (b64)
  | .qbcst _ _ _ _ b64 _ c => vss c (b64)
  | .shfl _ _ _ b _ _ b64 _ c => vss b false ++ vss c (b64)
  | .shflL _ _ _ _ _ _ => []
  | .lshf _ _ _ b _ _ b64 _ c => vss b false ++ vss c (b64)
  | .lshfL _ _ _ _ _ _ => []
  | .vote _ _ _ _ => []
  | .ballot _ sd _ => ps sd false
  | .matchLanes _ _ _ _ => []
  | .lcomp _ sd _ _ => ps sd false
  | .lpfx _ _ _ _ _ _ => []
  | .segadd _ _ _ _ _ => []
  | .rdlane _ sd _ sb b64 f c => ps sd b64 ++ ps sb false ++ (if f then ps c.n b64 else [])
  | .rdlaneL _ sd _ _ => ps sd false
  | .fadd _ d a b ty _ _ _ => vss d ((ty==0#2)) ++ vss a ((ty==0#2)) ++ vss b ((ty==0#2))
  | .faddL _ s d a _ _ => ls s d false ++ ls s a false
  | .fmul _ d a b ty _ _ _ => vss d ((ty==0#2)) ++ vss a ((ty==0#2)) ++ vss b ((ty==0#2))
  | .fmulL _ s d a _ _ => ls s d false ++ ls s a false
  | .ffma _ d a b c ty _ _ _ _ => vss d ((ty==0#2)) ++ vss a ((ty==0#2)) ++ vss b ((ty==0#2)) ++ vss c ((ty==0#2))
  | .fmin _ d a b ty => vss d ((ty==0#2)) ++ vss a ((ty==0#2)) ++ vss b ((ty==0#2))
  | .fminL _ s d a _ => ls s d false ++ ls s a false
  | .fmax _ d a b ty => vss d ((ty==0#2)) ++ vss a ((ty==0#2)) ++ vss b ((ty==0#2))
  | .fmaxL _ s d a _ => ls s d false ++ ls s a false
  | .fcmp _ _ a b ty _ => vss a ((ty==0#2)) ++ vss b ((ty==0#2))
  | .fcmpL _ s _ a _ _ => ls s a false
  | .fclass _ d a ty => vss d false ++ vss a ((ty==0#2))
  | .frnd _ d a ty _ => vss d ((ty==0#2)) ++ vss a ((ty==0#2))
  | .fscale _ d a b ty _ => vss d ((ty==0#2)) ++ vss a ((ty==0#2)) ++ vss b false
  | .fdot2 _ d a b c _ _ _ _ _ => vss d false ++ vss a false ++ vss b false ++ vss c false
  | .srcp _ d a => vss d false ++ vss a false
  | .srsq _ d a => vss d false ++ vss a false
  | .ssqrt _ d a => vss d false ++ vss a false
  | .sexp2 _ d a => vss d false ++ vss a false
  | .slog2 _ d a => vss d false ++ vss a false
  | .ssin _ d a => vss d false ++ vss a false
  | .scos _ d a => vss d false ++ vss a false
  | .stanh _ d a => vss d false ++ vss a false
  | .cvf _ d a df sf _ _ _ _ => vss d ((fmt64 df)) ++ vss a ((fmt64 sf))
  | .cvn _ _ _ _ _ _ _ _ _ => []
  | .cvi _ d a df sf _ _ _ => vss d ((fmt64 df)) ++ vss a ((fmt64 sf))
  | .cvsh _ d a b _ => vss d false ++ vss a false ++ vss b false
  | .dcsh _ d a b _ => vss d false ++ vss a false ++ vss b false
  | .qclr _ _ => []
  | .qmov _ _ _ _ => []
  | .vchain _ sd sa => ps sd false ++ ps sa true
  | .hring _ sa _ _ => ps sa true
  | .hfrom _ d a _ f64 => vss d false ++ vss a (f64)
  | .htof _ d a _ => vss d true ++ vss a false
  | .hadd _ d a b _ => vss d false ++ vss a false ++ vss b false
  | .hsub _ d a b _ => vss d false ++ vss a false ++ vss b false
  | .hmul _ d a b _ => vss d false ++ vss a false ++ vss b false
  | .hdiv _ d a b _ => vss d false ++ vss a false ++ vss b false
  | .hneg _ d a _ => vss d false ++ vss a false
  | .hrcp _ d a _ => vss d false ++ vss a false
  | .hsq _ d a _ => vss d false ++ vss a false
  | .huni _ d a b => vss d false ++ vss a false ++ vss b false
  | .hcap _ d a b => vss d false ++ vss a false ++ vss b false
  | .hinFlt _ _ a b _ f64 => vss a false ++ vss b (f64)
  | .hinSub _ _ a b => vss a false ++ vss b false
  | .harc _ d a => vss d false ++ vss a false
  | .hexp _ d a => vss d false ++ vss a false
  | .hcnt _ d a _ => vss d false ++ vss a false
  | .ld _ _ base _ form _ _ _ => addrS form base
  | .st _ _ base _ form _ _ _ => addrS form base
  | .lds _ _ _ _ _ _ => []
  | .sts _ _ _ _ _ _ => []
  | .ldp _ _ _ _ _ => []
  | .stp _ _ _ _ _ => []
  | .ldk _ data base width _ => psw data width ++ ps base true
  | .atom _ _ base _ _ form _ _ _ _ => (if form == 0#2 then ps base true else [])
  | .atoms _ _ _ _ _ _ _ _ _ _ => []
  | .pref _ base _ form _ _ => addrS form base
  | .xlat _ d a => vss d true ++ vss a true
  | .xacq _ sd sa _ => ps sd false ++ ps sa false
  | .xrel _ sa => ps sa false
  | .fence _ _ => []
  | .rel _ _ => []
  | .acq _ _ => []
  | .bar _ a _ _ cnt => (if cnt then ps a.n false else [])
  | .boinit _ sa b inv => ps sa false ++ (if inv then [] else ps b.n false)
  | .boarr _ sd sa b tx => ps sd false ++ ps sa false ++ (if tx then ps b.n false else [])
  | .bowait _ sa sb => ps sa false ++ ps sb false
  | .botry _ sd sa sb => ps sd false ++ ps sa false ++ ps sb false
  | .fwait _ sd sa sb sc _ slice => ps sd false ++ ps sa (!slice) ++ ps sb false ++ ps sc false
  | .dtime _ sd _ => ps sd true
  | .wct _ sd => ps sd true
  | .acopy _ sd sa sb sc sp => ps sd false ++ ps sa (!sp.getLsbD 0) ++ ps sb (!sp.getLsbD 1) ++ ps sc false
  | .acopyt _ sd sa sb sc sp => ps sd false ++ ps sa (!sp.getLsbD 0) ++ ps sb (!sp.getLsbD 1) ++ List.range' sc.toNat 4
  | .asto _ sd sa _ sc => ps sd false ++ ps sa true ++ ps sc false
  | .kick _ sa sb => ps sa false ++ ps sb false
  | .kstat _ sd _ => ps sd false
  | .ghnd _ sd sa => ps sd false ++ ps sa true
  | .ghndFree _ sa => ps sa false
  | .gath _ _ sa _ c _ bs => ps sa false ++ (if bs then ps c.n false else [])
  | .scat _ sa _ _ _ => ps sa false
  | .gcmr _ sd _ => ps sd false
  | .gcmw _ sa => ps sa false
  | .mbq _ _ sa => ps sa false
  | .mloop _ _ sa sb sc _ _ _ => ps sa true ++ ps sb true ++ List.range' sc.toNat 5
  | .mma _ _ _ _ _ => []
  | .mzero _ _ _ => []
  | .mdrain _ _ _ sb _ _ => ps sb false
  | .mdrainS _ sd _ sb _ _ => ps sd false ++ ps sb false
  | .mdrainc _ _ sb sc _ => ps sb false ++ ps sc false
  | .mguide _ d _ sb sc _ _ => (if d.sc then ps d.n false else []) ++ ps sb false ++ ps sc false
  | .mtwin _ => []
  | .msketch _ sd _ sb sc => ps sd false ++ ps sb false ++ ps sc false
  | .mmask _ sa sb => ps sa false ++ ps sb false
  | .mstat _ sd _ _ => ps sd false
  | .msave _ sa _ _ => ps sa true
  | .mrstr _ _ sa => ps sa true
  | .tdesc _ _ sa b rcd => ps sa true ++ (if rcd then ps b.n false else [])
  | .tdescRd _ sd _ => ps sd true
  | .tld _ _ sa sb => ps sa true ++ ps sb false
  | .tldHeap _ sa => ps sa true
  | .tldf _ _ sa sb => ps sa true ++ ps sb false
  | .tstD _ sa _ sc => ps sa true ++ ps sc false
  | .tstF _ sa _ => ps sa true
  | .tstHeap _ sa => ps sa true
  | .tzero _ _ => []
  | .tadd _ _ _ _ => []
  | .tscl _ _ _ sb => ps sb false
  | .tmul _ _ _ _ => []
  | .tmulv _ _ _ _ => []
  | .trnd _ _ _ b st _ => (if st then ps b.n false else [])
  | .trank _ sd _ _ => ps sd false
  | .ttod _ _ _ => []
  | .ttol _ _ _ => []
  | .tpotrf _ _ _ => []
  | .ttrsm _ _ _ _ _ _ _ _ => []
  | .tupd _ _ _ _ => []
  | .thalc _ _ => []
  | .thfre _ _ => []
  | .qpost _ sd sa => ps sd false ++ List.range' sa.toNat 8
  | .qtick _ sd sa _ => ps sd true ++ ps sa false
  | .put _ sd sa => ps sd false ++ List.range' sa.toNat 8
  | .puts _ sd sa => ps sd false ++ List.range' sa.toNat 8
  | .putr _ sd sa => ps sd false ++ List.range' sa.toNat 8
  | .get _ sd sa => ps sd false ++ List.range' sa.toNat 8
  | .qarm _ sa sb sc => ps sa false ++ ps sb false ++ ps sc false
  | .tcnt _ sd sa b op => ps sd false ++ ps sa false ++ (if op == 0#2 then [] else ps b.n false)
  | .qring _ sd sa => ps sd false ++ ps sa false
  | .qcomp _ sd sa _ _ => List.range' sd.toNat 4 ++ ps sa false
  | .qcancel _ sd sa => ps sd false ++ ps sa false
  | .qstat _ sd sa _ _ => ps sd false ++ ps sa false
  | .gnode _ sd sa => ps sd false ++ ps sa true
  | .gedge _ sa sb => ps sa false ++ ps sb false
  | .gsub _ sa => ps sa false
  | .gwait _ sd sa _ => List.range' sd.toNat 3 ++ ps sa false
  | .launch _ sd sa => ps sd false ++ ps sa true
  | .dline _ sa sb => ps sa false ++ ps sb true
  | .dgst _ sd => ps sd true
  | .dgchk _ sa => ps sa true
  | .trap _ a => (if a.sc then ps a.n false else [])
  | .rte _ _ => []
  | .savelive _ sd sa => ps sd false ++ ps sa true
  | .restlive _ sa => ps sa true
  | .srd _ d _ => vss d false
  | .swr _ _ sa => ps sa false
  | .bkpt _ _ => []
  | .pmark _ _ => []
  | .haltb _ sa _ => ps sa false
  | .rdbaro _ sd sa _ => ps sd true ++ ps sa false
  | .joinTimeout | .sleepExpiry | .fairnessRotation | .clauseFetch | .chainCompletion | .ringSlotCommit
    | .releaseCompletion | .fwaitReread | .homeRequest | .loadDataWritten | .storeAcknowledgement
    | .takingAPin | .retry | .pinTimeout => []
  | .asyncCompletion | .cardCompletion | .gathSettled | .kStep | .twinHoldTimeout | .burnisherPhaseBoundary
    | .burnisherCommit | .entryCompletion => []
  | .putPacket | .putWithSignal | .writeWithReduce | .getRequest | .acknowledgement | .getData
    | .remoteDeviceAccess | .packetTimeout | .linkDown | .routeSwitch => []
  | .postMessage | .ticketMessage | .mismatchMessage | .cancelMessage | .cancelledMessage | .postTimeout
    | .collectiveStart | .foldChunk | .resultChunk | .credit | .collectiveTimeout | .collectiveResultTimeout
    | .collectiveEnd => []
  | .nodeDispatch | .blockPlacement | .nodeCompletion | .deadlinePassed | .groupEnd | .trapEntry => []
  | .submit | .wait | .inval | .preempt | .release | .resync | .checkpoint | .restore | .trace
    | .checkpointStreamComplete => []
  | .qTailWrite | .lplaceWrite | .fwinWrite | .stageWrite | .prouteWrite | .teamCfgWrite | .devFidWrite
    | .queueContextWrite | .controlRegisterWrite | .cxlMemAccess => []
  | .powerOnReset | .firmwareVerify | .version | .capabilities | .algorithmNegotiation | .digests
    | .certificates | .challenge | .measurements | .powerWithhold | .thermalTrip | .linkUp | .flitResend
    | .packetForwarding => []

end Sys2Proof.Machine
end

