-- ==== Sys2Proof/Machine/Bits.lean ====
section
/-!
DEFINITION. Finite maps kept as sorted lists, and the bit-field and byte-order helpers that the whole machine uses.
A map lists only the keys whose value differs from its default, in rising order of key, so equal maps are equal lists.
-/
namespace Sys2Proof.Machine

/-- A finite map from numbers: sorted by key, no entry equal to the default. -/
abbrev AMap (α : Type) := List (Nat × α)

/-- The value at a key: the default where the key is not listed. -/
def aget (d : α) : List (Nat × α) → Nat → α
  | [], _ => d
  | (k, v) :: rest, key => if k = key then v else aget d rest key

/-- Inserts an entry before the first greater key. -/
def ains : List (Nat × α) → Nat → α → List (Nat × α)
  | [], key, v => [(key, v)]
  | (k, w) :: rest, key, v => if key < k then (key, v) :: (k, w) :: rest else (k, w) :: ains rest key v

/-- Removes every entry of a key. -/
def adel : List (Nat × α) → Nat → List (Nat × α)
  | [], _ => []
  | (k, w) :: rest, key => if k = key then adel rest key else (k, w) :: adel rest key

/-- Writes a key; writing the default removes the entry. -/
def aset [DecidableEq α] (d : α) (m : List (Nat × α)) (key : Nat) (v : α) : List (Nat × α) :=
  if v = d then adel m key else ains (adel m key) key v

/-- The canonical form: keys strictly rising and no entry equal to the default. -/
def awf [DecidableEq α] (d : α) : List (Nat × α) → Bool
  | [] => true
  | [(_, v)] => v != d
  | (k, v) :: (k', v') :: rest => decide (k < k') && v != d && awf d ((k', v') :: rest)

/-- Removes the keys from lo up to but not including hi. -/
def aclear (m : List (Nat × α)) (lo hi : Nat) : List (Nat × α) := m.filter fun e => e.1 < lo || hi ≤ e.1

/-- Bit l of a mask. -/
def bit (m : BitVec n) (l : Nat) : Bool := m.getLsbD l

/-- The mask whose only 1 bit is bit l. -/
def bitMask (l : Nat) : Word := (1#32) <<< l

/-- The lanes of a mask in ascending order. -/
def lanesOf (m : Word) : List Nat := (List.range 32).filter fun l => m.getLsbD l

/-- The mask of the lanes for which a test holds. -/
def maskWhere (f : Nat → Bool) : Word :=
  (List.range 32).foldl (fun m l => if f l then m ||| bitMask l else m) 0#32

/-- The lowest lane of a mask (32 for an empty mask). -/
def lowestLane (m : Word) : Nat := ((List.range 32).find? fun l => m.getLsbD l).getD 32

def popCount (m : BitVec n) : Nat := ((List.range n).filter fun l => m.getLsbD l).length

/-- A field of a natural number: width bits from bit lo. -/
def field (x lo width : Nat) : Nat := x / 2 ^ lo % 2 ^ width

/-- Number from bytes, least significant first (R3). -/
def leNat : List Byte → Nat
  | [] => 0
  | b :: rest => b.toNat + 256 * leNat rest

/-- The first n bytes of a number, least significant first (R3). -/
def leBytes : Nat → Nat → List Byte
  | 0, _ => []
  | n + 1, x => BitVec.ofNat 8 x :: leBytes n (x / 256)

def leWord (bs : List Byte) : Word := BitVec.ofNat 32 (leNat bs)

def leDWord (bs : List Byte) : DWord := BitVec.ofNat 64 (leNat bs)

/-- Bytes lo to lo + n - 1 of an image, zero beyond its end. -/
def slice (bs : List Byte) (lo n : Nat) : List Byte :=
  let got := (bs.drop lo).take n
  got ++ List.replicate (n - got.length) 0#8

/-- The number held in bytes lo to lo + n - 1 of an image. -/
def sliceNat (bs : List Byte) (lo n : Nat) : Nat := leNat ((bs.drop lo).take n)

/-- A 64-bit value from its halves: the low register of a pair is the even one (R3). -/
def pair64 (lo hi : Word) : DWord := hi ++ lo

def lo32 (x : DWord) : Word := x.extractLsb' 0 32

def hi32 (x : DWord) : Word := x.extractLsb' 32 32

/-- Reading a number as two's complement of a given width. -/
def toSigned (w x : Nat) : Int := if x % 2 ^ w < 2 ^ (w - 1) then (x % 2 ^ w : Nat) else (x % 2 ^ w : Nat) - 2 ^ w

/-- An integer wrapped to 32 bits. -/
def wrap32 (x : Int) : Word := BitVec.ofInt 32 x

def wrap64 (x : Int) : DWord := BitVec.ofInt 64 x

def boolNat (b : Bool) : Nat := if b then 1 else 0

/-- Whether two byte ranges share a byte. -/
def overlaps (a n b m : Nat) : Bool := a < b + m && b < a + n

/-- Splits a list into pieces of n elements, with fuel for the number of pieces. -/
def chunksOf (n : Nat) : Nat → List α → List (List α)
  | 0, _ => []
  | fuel + 1, xs => if xs.isEmpty then [] else xs.take n :: chunksOf n fuel (xs.drop n)

def ceilDiv (a b : Nat) : Nat := (a + b - 1) / b

/-- Whether all bytes of an image between two offsets are zero. -/
def zeros (bs : List Byte) (lo hi : Nat) : Bool := ((bs.drop lo).take (hi - lo)).all (· == 0#8)

/-- First index at which a test holds. -/
def firstIdx (f : α → Bool) : List α → Option Nat
  | [] => none
  | x :: xs => if f x then some 0 else (firstIdx f xs).map (· + 1)

/-- Replaces the elements for which a test holds. -/
def updateWhere (f : α → Bool) (g : α → α) (xs : List α) : List α := xs.map fun x => if f x then g x else x

end Sys2Proof.Machine
end

