-- ==== Sys2Proof/Machine/State.lean ====
section
/-!
DEFINITION. The state of the device: everything the spec gives the machine, as plain data, and its value after reset.
Registers, memory and the pool are finite maps that list only what differs from zero. A group is known by its core c and
its physical group p (0 to 63); gid c p is the key under which its state is held.
-/
namespace Sys2Proof.Machine

/-- Why the machine stops. -/
inductive Fault where
  /-- exec was asked to run an instruction while no frontier entry is issuing one (the step never does): safe, nothing is claimed of it. -/
  | noIssuer
deriving DecidableEq, Repr

/-- Why an instruction is refused. -/
inductive Refusal where
  /-- The dispatch table has no meaning for the instruction yet: safe, the run stops. -/
  | notModelled (mnemonic : String)
deriving DecidableEq, Repr

/-- What a hardware step acts on: numbers in the order its constructor's docstring names them, a flag, and arriving data. -/
structure Subject where
  nums  : List Nat := []
  flag  : Bool := false
  bytes : List Byte := []
  elems : List Word := []
  value : DWord := 0#64
  image : List Host.Cell := []
deriving DecidableEq, Repr

/-- A hardware step about to run: a constructor of Instr without encoding, and its subject. -/
structure Event where
  what : Instr
  sub  : Subject
deriving DecidableEq, Repr

/-- Who acts in the next step. -/
inductive Move where
  /-- A group's scheduler issues one instruction to a port (R66). -/
  | issue (core grp cls : Nat)
  /-- A hardware or host step takes place. -/
  | event (e : Event)
  /-- Device time advances by one nanosecond (R22). -/
  | ns
  /-- The arithmetic clock advances by one cycle (R21). -/
  | cycle
  /-- An L1 drops its copy of a line (R196: replacement is left to the implementation). -/
  | evict (core line : Nat)
  /-- A core's TLB takes the table entry that now maps an address of a context, or drops the one it holds for it (R180). -/
  | tlbFill (core root va : Nat)
deriving DecidableEq, Repr

/-- What keeps a frontier entry from being eligible after its instruction has issued. -/
inductive Hold where
  /-- SLEEP in cycles (R88): cycles left. -/
  | sleepCycles (left : Nat)
  /-- SLEEP in nanoseconds (R88): the device time that must come. -/
  | sleepUntil (t : Nat)
  /-- A release that must complete first (R220). -/
  | release (id : Nat)
  /-- Accesses that must be performed first (R202, R220). -/
  | accesses (ids : List Nat)
  /-- A phase of a named barrier (R221): barrier number and count of completed phases to pass. -/
  | barrier (n phase : Nat)
  /-- The phase of a barrier object must differ from a parity (R223). -/
  | object (ofs : Nat) (parity : Bool)
  /-- A line that another core has pinned has refused the access (R210): the cycle in which it is repeated. -/
  | retry (at_ : Nat)
deriving DecidableEq, Repr

/-- A frontier entry (R62): priority, position (clause header and index, R43) and lane mask; and what scheduling remembers of it. -/
structure Entry where
  prio    : Nat := 0
  hdr     : DWord := 0#64
  idx     : Nat := 0
  mask    : Word := 0#32
  /-- Address of the instruction that brought the entry here, for ILLEGAL_TARGET (R46). -/
  src     : DWord := 0#64
  /-- Wait conditions of the header already met (R41): bit 0 fence, 1 MIDLE, 2 TOKW, 3 BARW. -/
  met     : Nat := 0
  /-- The release that the header's fence wait performs, once begun, and the accesses that its acquire waits for (R41). -/
  fence   : Option Nat := none
  fenceAcc : List Nat := []
  /-- In SPLIT, whether the entry has a fetch slot with its clause (R69). -/
  slot    : Bool := false
  /-- Whether the entry holds its clause's issue port (R44). -/
  holding : Bool := false
  /-- Ports on which the entry has a fairness quantum (R67), as bits. -/
  quanta  : Nat := 0
  /-- The comparators that have stopped this position since it last issued (R361, kind B). -/
  skipCmp : List Nat := []
  holds   : List Hold := []
  /-- What an instruction that waits at issue remembers between its attempts (a deadline, a release, a request). -/
  note    : List Nat := []
  /-- The clause's header and the instruction that has come to issue last: those of an instruction under way. -/
  issued  : Option (Header × Instr) := none
  /-- The reason, among those of R376, for which the instruction waits at issue, and whether it has been tried in this cycle: until it issues
  the entry is not eligible, and it is tried again once in each cycle. -/
  why     : Option Nat := none
  waited  : Bool := false
deriving DecidableEq, Repr

/-- Where lanes park (R62). -/
inductive ParkKind where
  | jwait | regrp | ungrp
deriving DecidableEq, Repr

/-- Parked lanes: the position where they resume (R79, R84, R85) and, at a JWAIT, the rejoin register and predicate. -/
structure Park where
  kind : ParkKind := .jwait
  mask : Word := 0#32
  hdr  : DWord := 0#64
  idx  : Nat := 0
  j    : Nat := 0
  pd   : Nat := 7
  src  : DWord := 0#64
deriving DecidableEq, Repr

/-- A rejoin register (R77). -/
structure JReg where
  armed  : Bool := false
  exp    : Word := 0#32
  arr    : Word := 0#32
  tmo    : Nat := 0
  ns     : Bool := false
  /-- Whether LEFT is counting: a lane has parked since arming (R82). -/
  timing : Bool := false
  left   : Nat := 0
  /-- The cycle in which LEFT has reached zero is over, and the register times out (R80). -/
  ripe   : Bool := false
deriving DecidableEq, Repr

/-- A virtual lane's home (R86): the physical group and lane whose registers and memory window it uses. -/
structure Place where
  grp  : Nat := 0
  lane : Nat := 0
deriving DecidableEq, Repr

/-- A cause that takes a group into its handler (R356, R359). -/
structure Cause where
  code   : Nat := 0
  detail : DWord := 0#64
  tpc    : DWord := 0#64
  /-- Number of the causing entry in the frontier (R359). -/
  fe     : Nat := 0
  /-- The lanes of that entry, by which it is found again when entries have merged before the handler is entered; none for kind N. -/
  lanes  : Word := 0#32
  /-- The cycle in which it was raised; and the entry before an instruction that has completed (kind A), which another cause of that cycle undoes
  (R360). -/
  at_    : Nat := 0
  back   : Option Entry := none
deriving DecidableEq, Repr

/-- A fault record of an accumulator (R260): F, CODE, DONE and the faulting address. -/
structure AccRecord where
  f    : Bool := false
  code : Nat := 0
  done : Nat := 0
  addr : DWord := 0#64
deriving DecidableEq, Repr

/-- An accumulator (R248): its binding and type, its elements (row * 256 + column, or row * 128 + column for f64), its fault
record and the steps that its latest loop has completed. -/
structure Acc where
  bound : Bool := false
  f64   : Bool := false
  elems : AMap DWord := []
  flt   : AccRecord := {}
deriving DecidableEq, Repr

/-- A tile descriptor register (R279): its image, and its fault record (R285): code, address and INFO (R286). -/
structure Tile where
  img  : DWord := 0#64
  code : Nat := 0
  addr : DWord := 0#64
  info : Nat := 0
deriving DecidableEq, Repr

/-- A resident group: everything R62 to R89 and the later chapters keep for it, but for its registers, which State holds. -/
structure Group where
  /-- Whether a group stands in this place. -/
  live     : Bool := false
  /-- A number no other group of the run has had. -/
  uid      : Nat := 0
  node     : Nat := 0
  slot     : Nat := 0
  bgrp     : Nat := 0
  role     : Nat := 0
  /-- In a twinned role (R31, R266): the physical group of the partner. -/
  twin     : Option Nat := none
  part     : Nat := 0
  placed   : Nat := 0
  /-- Registers of the base block, and granted steps of 32 (R172). -/
  baseRegs : Nat := 0
  ext      : Nat := 0
  vmap     : List Place := []
  /-- First byte of the group's own memory window (R176, R192). -/
  window   : Nat := 0
  /-- The lanes a never-launched slot lacks (R103): lanes that were launched. -/
  launched : Word := 0#32
  liveMask : Word := 0#32
  frontier : List Entry := []
  parked   : List Park := []
  jregs    : AMap JReg := []
  /-- Fairness counts by port (R67). -/
  fair     : AMap Nat := []
  /-- Ports on which a rotation is due, as bits (R67, R87). -/
  rotate   : Nat := 0
  fflags   : BitVec 6 := 0#6
  xlane    : Word := 0#32
  emask    : Word := 0#32
  /-- What the handler has last written to sr.emask: lanes that the interrupted access is to skip (R181). -/
  skipLanes : Word := 0#32
  gmask    : Word := 0#32
  /-- The fault that stopped the last gather or scatter in its no-fault form (R244). -/
  gcode    : Nat := 0
  faddr    : DWord := 0#64
  /-- The fault address of an instruction that has just faulted while the group is about to enter its handler for another cause (R360). -/
  nextFault : Option DWord := none
  wct      : Nat := 0
  accs     : AMap Acc := []
  /-- Accumulators whose banks MSAVE.rel releases once their images are written (R271), each with the stores of its image. -/
  freeing  : List (Nat × List Nat) := []
  /-- The MLOOP.m mask (R263) and its bit count. -/
  mmask    : List Byte := []
  mbits    : Nat := 0
  /-- The MMA set (R257): first quarter register, mask, and the count of MMAs since. -/
  mbq      : Option (Nat × Word) := none
  /-- A REGRP the group has issued (R84): its position, mask and predicate; and the lanes' places before a regrouping in force. -/
  regrp    : Option (DWord × Nat × Word × Nat) := none
  places   : Option (List Place) := none
  /-- The order of places that the regrouping in force has set (R113). -/
  dealt    : Option (List Place) := none
  mmaCount : Nat := 0
  /-- Twin binding (R266) and the number of MLOOPs since it was made. -/
  bound    : Bool := false
  loops    : Nat := 0
  tiles    : AMap Tile := []
  /-- Scalar registers that async tokens and chain tokens will write (R228). -/
  tokens   : List Nat := []
  /-- Group digest, and what it counts by (R345): stores by lane (32 for the scalar path), and asynchronous operations. -/
  digest   : DWord := 0#64
  stores   : AMap Nat := []
  asyncs   : Nat := 0
  /-- Gates of REL (R220): lanes whose later accesses wait for a release. -/
  gates    : List (Word × Nat) := []
  /-- Holds of acquires (R202): lanes whose later accesses wait, the scope, and the accesses and engine work that come first. -/
  acqs     : List (Word × Nat × List Nat) := []
  /-- Named-barrier phase the group most recently arrived at (R41): by barrier, one more than its number. -/
  arrivals : AMap Nat := []
  /-- Handler mode (R354) and what the trap registers hold. -/
  handler  : Bool := false
  trap     : Option Cause := none
  shadow   : AMap Word := []
  tcode    : Word := 0#32
  tcause   : DWord := 0#64
  tpc      : DWord := 0#64
  /-- Requests that wait for the next boundary: a code and a detail (R360). -/
  requests : List (Nat × DWord) := []
  /-- Holds of entries that a trap entry found waiting, kept for RTE by lane. -/
  kept     : List (Word × List Hold) := []
  /-- Flags raised by engines since trap entry (R371). -/
  engFlags : BitVec 6 := 0#6
  /-- Where the group's pre-emption state is saved: slot address and size (R365). -/
  saveAddr : DWord := 0#64
  saveSize : Nat := 0
  preempted : Bool := false
  /-- The group's save slot in reserved device memory, if it is pre-empted for a checkpoint (R389): first byte and size; and the one that it had
  before, from which its handler may still be loading. -/
  reserved : Option (Nat × Nat) := none
  lastSlot : Option (Nat × Nat) := none
  /-- Positions at which comparators have stopped the group (R361, kind B): header, index, comparators. -/
  skips    : List (DWord × Nat × List Nat) := []
  /-- For each clause header at which an entry stood at trap entry, the address of the instruction that had led there (R46). -/
  srcs     : List (DWord × DWord) := []
  /-- One more than the cycle that the group gives up to others of its partition (R87). -/
  giveUp   : Nat := 0
  /-- One more than the cycle in which the group last issued on each port (R66). -/
  lastIssue : AMap Nat := []
deriving DecidableEq, Repr

/-- One named barrier of a block (R221): the open phase's arrivals, its count, and how many phases have completed. -/
structure Bar where
  arr      : Word := 0#32
  explicit : Option Nat := none
  phases   : Nat := 0
deriving DecidableEq, Repr

/-- A block placed on a core, in one of the core's slots (R171). -/
structure Block where
  live     : Bool := false
  node     : Nat := 0
  blk      : Nat := 0
  groups   : List Nat := []
  bars     : AMap Bar := []
  phase    : Nat := 0
  /-- Heap allocation map, one bit per granule (R282), and the heap record of R293: code and address. -/
  heapMap  : Nat := 0
  heapFlt  : Nat × DWord := (0, 0#64)
  /-- First fault of a card since the last clear (R237): code and card index. -/
  cardFlt  : Option (Nat × Nat) := none
  /-- Masks of the regroupings in force (R84). -/
  regroups : List Word := []
  /-- Participants, by index in the block, that are still to take the fault of a regrouping that failed before they came to it (R84): its code. -/
  owed     : List (Word × Nat) := []
  /-- How many groups the block was placed with. -/
  size     : Nat := 0
  /-- Block digest so far (R345). -/
  digest   : DWord := 0#64
  /-- Groups that have yielded (R366), each with the physical group it was. -/
  yielded  : List (Nat × Group) := []
deriving DecidableEq, Repr

/-- A block all of whose groups have yielded or ended (R366): its scratchpad slice and tags by offset, and its barriers and groups. -/
structure SavedBlock where
  slice  : AMap Byte := []
  tags   : List Nat := []
  block  : Block := {}
deriving DecidableEq, Repr

/-- A running launch (R334): its header and what the command processor keeps of it. -/
structure Launch where
  running  : Bool := false
  queue    : Nat := 0
  code     : DWord := 0#64
  liveTab  : DWord := 0#64
  args     : DWord := 0#64
  blocks   : Nat := 0
  cblk     : Nat := 1
  nrole    : Nat := 0
  fuse     : Bool := false
  det      : Bool := false
  ftz      : Bool := false
  split    : Bool := false
  scr      : Nat := 0
  heap     : Nat := 0
  l1       : Nat := 0
  priv     : Nat := 0
  fair     : Nat := 256
  lease    : Nat := 256
  /-- Roles: entry offset, registers, groups, twin (R334). -/
  roles    : List (Nat × Nat × Nat × Bool) := []
  ncore    : Nat := 0
  root     : Nat := 0
  rootV    : Bool := false
  tvec     : DWord := 0#64
  dvec     : DWord := 0#64
  hbase    : DWord := 0#64
  /-- Blocks placed so far; under DET how many units each logical cluster has taken (R344), otherwise which units are placed (R19). -/
  nextBlk  : Nat := 0
  perCore  : AMap Nat := []
  /-- Numbers of the launch's groups, and the greatest write-completion time of those that have ended. -/
  uids     : List Nat := []
  wct      : Nat := 0
  digests  : AMap DWord := []
  /-- The code of an abort under way (R363). -/
  abort    : Option Nat := none
  /-- Pre-emption under way (R365). -/
  preempt  : Bool := false
  saved    : List SavedBlock := []
  serial   : Bool := false
  /-- The memory that holds code of the launch (R47): first bytes and lengths. -/
  codes    : List (Nat × Nat) := []
  /-- The memory whose lines the caches of a core drop when it takes a block of the launch (R342). -/
  flushes  : List (Nat × Nat) := []
  /-- The save buffer in reserved device memory into which a checkpoint or restore has pre-empted it (R389): base and slot size. The base may lie below
  the memory, as only the slots of its resident groups are used. -/
  reserve  : Option (Int × Nat) := none
  /-- The cores that have taken a block of it. -/
  opened   : List Nat := []
deriving DecidableEq, Repr

/-- States of a node (R340). -/
inductive NodeState where
  | free | built | waiting | ready | running | done | partl | failed | deadlineMiss | cancelled
deriving DecidableEq, Repr

/-- A node of the task graph (R337, R340). -/
structure Node where
  state    : NodeState := .free
  code     : Nat := 0
  desc     : List Byte := []
  owner    : Option Nat := none
  queue    : Nat := 0
  root     : Nat := 0
  prio     : Nat := 0
  order    : Nat := 0
  /-- The place of its building among all (R387). -/
  born     : Nat := 0
  preds    : List Nat := []
  poisoned : Bool := false
  auto     : Bool := false
  /-- Regions: base, size, W (R337). -/
  regions  : List (Nat × Nat × Bool) := []
  deadline : Nat := 0
  missed   : Bool := false
  digest   : DWord := 0#64
  reex     : Bool := false
  /-- Whether the node had a predecessor when it was submitted (R342). -/
  flush    : Bool := false
  /-- The greatest write-completion time of a BURN node. -/
  wct      : Nat := 0
deriving DecidableEq, Repr

/-- Where a load's value goes. -/
inductive Dest where
  | none
  /-- Vector registers of a virtual lane's place: first register. -/
  | vec (place : Place) (reg : Nat)
  | scalar (reg : Nat)
deriving DecidableEq, Repr

/-- How an access treats its location. -/
inductive AccKind where
  | load
  | store
  /-- An atomic (R189): its operation. -/
  | atomic (aop : Nat)
deriving DecidableEq, Repr

/-- One access on its way (R196): what it does, whether it has been performed and acknowledged, and what it waits for. -/
structure Access where
  id      : Nat := 0
  core    : Nat := 0
  grp     : Nat := 0
  uid     : Nat := 0
  /-- Virtual lane at issue, or 32 for the group's scalar path; the lane's home, which LCOMP and REGRP do not change (the number of the group
  launched there and the lane); and the number of the first access of its instruction. -/
  lane    : Nat := 0
  home    : Option (Nat × Nat) := none
  wave    : Nat := 0
  kind    : AccKind := .load
  pa      : Nat := 0
  n       : Nat := 0
  data    : List Byte := []
  cmp     : List Byte := []
  dest    : Dest := .none
  sext    : Bool := false
  /-- LD.x (R184): window format, and the address of the scale. -/
  win     : Option (Nat × Option Nat) := none
  /-- A gather's read (R238): through the stipple unit's cache; and whether it reads bytes of a DELTA block. -/
  stip    : Bool := false
  delta   : Bool := false
  nl1     : Bool := false
  scope   : Nat := 6
  /-- A request to a peer is on its way (R214). -/
  sent    : Bool := false
  done    : Bool := false
  wct     : Nat := 0
  value   : List Byte := []
  scale   : Word := 0x3F800000#32
  /-- Releases, and accesses and engine work, that must complete first; and which of the latter an access to host memory or a peer waits for. -/
  afterRel : List Nat := []
  afterAcc : List Nat := []
  afterFar : List Nat := []
  /-- Whether a pinned line has refused it (R210). -/
  refused : Bool := false
  /-- Its instruction waits for the value and takes it itself. -/
  keep    : Bool := false
  /-- An element of a gather or scatter, which settles with its instruction (R245); lost when its answer cannot come. -/
  gath    : Bool := false
  lost    : Bool := false
  addr    : DWord := 0#64
deriving DecidableEq, Repr

/-- A pending release (R202): what it still waits for. -/
structure Rel where
  id    : Nat := 0
  core  : Nat := 0
  grp   : Nat := 0
  uid   : Nat := 0
  slot  : Nat := 0
  scope : Nat := 0
  accs  : List Nat := []
  ops   : List Nat := []
  pass  : Nat := 0
deriving DecidableEq, Repr

/-- A line of shared memory held in an L1 (R204). -/
structure L1Copy where
  core   : Nat
  line   : Nat
  bytes  : List Byte
  expiry : Nat
deriving DecidableEq, Repr

/-- Who repeats an access that a pin has refused (R210): a step of the hardware or host, by its name and numbers and the cycle in which it is made
again, or an entry of a group, by the cycle to which it holds. -/
inductive Asker where
  | step (what : Instr) (nums : List Nat) (at_ : Nat)
  | entry (core grp at_ : Nat)
deriving DecidableEq, Repr

/-- A pinned line (R209): how many cycles in a row it has refused accesses (R211), and who repeats them. -/
structure Pin where
  line    : Nat
  core    : Nat
  node    : Nat
  slot    : Nat
  refused : Nat := 0
  askers  : List Asker := []
deriving DecidableEq, Repr

/-- A memory or scratchpad range of a copy. -/
structure Span where
  scr  : Bool := false
  addr : Nat := 0
deriving DecidableEq, Repr

/-- What every piece of engine work keeps (R216, R228): its number, whose it is, whether a handler issued it, the releases and accesses
that come before its own accesses, the byte ranges that it reads and writes (write, scratchpad, first virtual or pool address, length), its
place among the group's operations that contribute to the digest (R345), and its outcome once only answers from peers are missing. -/
structure Eng where
  id      : Nat := 0
  core    : Nat := 0
  grp     : Nat := 0
  uid     : Nat := 0
  node    : Nat := 0
  slot    : Nat := 0
  blk     : Nat := 0
  root    : Nat := 0
  rootV   : Bool := false
  handler : Bool := false
  nth     : Nat := 0
  afterRel : List Nat := []
  afterAcc : List Nat := []
  foot    : List (Bool × Bool × Nat × Nat) := []
  outcome : Option Word := none
  /-- The reads at a peer that it has last asked for, by the offset at which they begin (R214, R311). -/
  asked   : Option Nat := none
deriving DecidableEq, Repr

/-- An asynchronous copy in flight (R228, R232): rows of bytes from source to destination, or register words of ASTO. -/
structure AsyncOp extends Eng where
  token  : Nat := 0
  dst    : Span := {}
  src    : Span := {}
  rows   : Nat := 1
  width  : Nat := 0
  dstr   : Int := 0
  sstr   : Int := 0
  /-- ASTO: the words that it stores, with their offsets. -/
  words  : List (Nat × Word) := []
  /-- Bytes stored so far, and under DET which (R345). -/
  done   : Nat := 0
  written : List (Nat × Byte) := []
  t      : Nat := 0
deriving DecidableEq, Repr

/-- A job card in the request engine (R234, R236); copy is the COPY node of the graph that it belongs to. -/
structure CardJob extends Eng where
  /-- The copy that it makes, its index within its KICK, its barrier object and whether it arrives there. -/
  op     : AsyncOp := {}
  index  : Nat := 0
  bo     : Option Nat := none
  arr    : Bool := false
  /-- Bytes performed but not yet counted down, with the time from which they count; none while a peer has yet to answer (R216). -/
  due    : List (Option Nat × Nat) := []
  /-- The lost bytes of its stores to peers that the count has left out so far (R237). -/
  gone   : Nat := 0
  copy   : Option Nat := none
  /-- The code that has stopped it. -/
  stop   : Option Nat := none
deriving DecidableEq, Repr

/-- A residual chain on a partition (R143): descriptor and token register. -/
structure Chain extends Eng where
  part  : Nat := 0
  token : Nat := 0
  desc  : List Byte := []
  /-- The elements that it has stored (R147). -/
  next  : Nat := 0
  /-- The flags of its elements, which reach sr.fflags when its token is written (R122). -/
  flags : BitVec 6 := 0#6
deriving DecidableEq, Repr

/-- One of the four ring slots of a core (R157): owner launch and table bytes; and the tables that have been checked and are still to be
committed, each with the number of its group and its launch. -/
structure RingSlot where
  owner   : Option Nat := none
  table   : List Byte := []
  loading : List (Nat × Nat × List Byte) := []
deriving DecidableEq, Repr

/-- A gather handle (R241): owner launch and descriptor. -/
structure Handle where
  owner : Option Nat := none
  desc  : List Byte := []
deriving DecidableEq, Repr

/-- A job of the matrix sequencer: one register step (R258), or a loop from memory (R259). -/
structure MJob extends Eng where
  m     : Nat := 0
  loop  : Bool := false
  ta    : Nat := 0
  tb    : Nat := 0
  masked : Bool := false
  /-- MLOOP.m: the mask as it stood at issue (R263), and its bit count. -/
  mask   : List Byte := []
  mbits  : Nat := 0
  /-- Register step: the A registers by lane, and those of B by quarter and lane (32 * quarter + lane). -/
  aRegs : List (List Word) := []
  bRegs : List (List Word) := []
  aAddr : DWord := 0#64
  bAddr : DWord := 0#64
  aRow  : Int := 0
  aInc  : Int := 0
  bRow  : Int := 0
  bInc  : Int := 0
  left  : Nat := 0
  done  : Nat := 0
  /-- Twin matching (R266): the number of the loop since binding, and whether it is held. -/
  ord   : Nat := 0
  held  : Bool := false
  heldFor : Nat := 0
  shared : Bool := false
  pc    : DWord := 0#64
deriving DecidableEq, Repr

/-- A rank-tile instruction in the burnisher (R278): its operands as they stood at issue, the registers that it will write, and how far it is:
whether it has started, and the phase boundaries still before it (R307). -/
structure RJob extends Eng where
  what  : Instr
  words : List DWord := []
  xs    : List Nat := []
  vdst  : List Nat := []
  sdst  : List Nat := []
  started : Bool := false
  left  : Nat := 0
  /-- Completion time of its stores, and under DET what they wrote (R345). -/
  t     : Nat := 0
  written : List (Nat × Byte) := []
  /-- The flags of a result whose stores are still to be answered (R289). -/
  flags : BitVec 6 := 0#6
  /-- The BURN node whose instruction it is (R338). -/
  burn  : Option Nat := none
deriving DecidableEq, Repr

/-- A BURN node under way (R338): its registers, its half of the work store with the allocation map and heap record, where its clause stands,
and where the images go back. -/
structure BurnJob where
  node  : Nat := 0
  core  : Nat := 0
  uid   : Nat := 0
  tiles : AMap Tile := []
  heap  : AMap Byte := []
  size  : Nat := 0
  map   : Nat := 0
  heapFlt : Nat × DWord := (0, 0#64)
  clause : DWord := 0#64
  idx   : Nat := 0
  /-- The code that ends it, by a fault or by a word that it may not hold. -/
  stop  : Option Nat := none
  /-- Its instructions are over, and its images are still to be written back. -/
  closing : Bool := false
  /-- Its code, once its images have been written back; peers may still have to answer. -/
  ended : Option Nat := none
  heapAddr : DWord := 0#64
  tileAddr : DWord := 0#64
deriving DecidableEq, Repr

/-- A waiting request for extension registers (R172). -/
structure XWait where
  seq   : Nat
  grp   : Nat
  steps : Nat
  cycle : Nat
  /-- Its destination sD. -/
  sd    : Nat
deriving DecidableEq, Repr

/-- What a core keeps of fetched code (R69, R391): the lines of the SHARED buffer, the one used longest ago first, or the free slots of SPLIT that hold
a clause, the one left longest ago first; each by launch and line or clause address. -/
abbrev Fetched := List (Nat × Nat)

/-- What a core holds beside its groups (R14, R170). -/
structure Core where
  frozen   : Bool := false
  /-- The record of the violation that froze it (R364): DETAIL. -/
  record   : Option DWord := none
  launch   : Option Nat := none
  poolScr  : Word := 0#32
  poolHeap : Word := 0#32
  poolL1   : Word := 0#32
  nb       : Nat := 0
  fetched  : Fetched := []
  /-- The clauses in the slots that entries have taken (R69). -/
  held     : Fetched := []
  slots    : AMap RingSlot := []
  handles  : AMap Handle := []
  xwaits   : List XWait := []
  /-- Barometer counters (R376): 64 * partition + index. -/
  baro     : AMap DWord := []
  /-- Owned lines of LDP and STP held in L1 and not yet written back (R174): bytes by physical address. -/
  dirty    : AMap Byte := []
  /-- The trace ring (R386): physical base, records, and how many have been written. -/
  ring     : Option (Nat × Nat × Nat) := none
deriving DecidableEq, Repr

/-- States of a work entry (R314). -/
inductive WorkState where
  | free | built | armed | fired | failed
deriving DecidableEq, Repr

/-- The four kinds of work entry (R315). -/
inductive WorkKind where
  | put | puts | putr | get
deriving DecidableEq, Repr

/-- A work entry (R314, R315): its number as engine work, its block, its owner and the group that built it, whether its packets have left, and the
write-completion time of its local writes. -/
structure Work where
  state : WorkState := .free
  kind  : WorkKind := .put
  id    : Nat := 0
  owner : Nat := 0
  core  : Nat := 0
  grp   : Nat := 0
  uid   : Nat := 0
  block : List Word := []
  ctr   : Nat := 0
  threshold : Nat := 0
  code  : Nat := 0
  order : Nat := 0
  root  : Nat := 0
  rootV : Bool := false
  handler : Bool := false
  sent  : Bool := false
  t     : Nat := 0
deriving DecidableEq, Repr

/-- What a packet asks of its receiver (R313). -/
inductive PacketKind where
  | put | signal | reduce (s32 : Bool) | getReq | coreRead | coreWrite | coreAtomic | ack (refused : Bool) | getData
  | fold | result | credit | post | ticket | mismatch | cancel | cancelled
deriving DecidableEq, Repr

/-- A packet that has left this device (R312): answers are awaited by its number. -/
structure Packet where
  id    : Nat := 0
  kind  : PacketKind := .put
  dst   : Nat := 0
  port  : Nat := 31
  tag   : Nat := 0
  addr  : Nat := 0
  nums  : List Nat := []
  bytes : List Byte := []
  sent  : Nat := 0
  waiting : Bool := false
  /-- Held while its route changes port, and lost meanwhile by a write of its route register (R311). -/
  held  : Bool := false
  gone  : Bool := false
  /-- The engine work whose access this is (R216), the core whose line requests it takes (R17), and the bytes that it asks for. -/
  owner : Nat := 0
  core  : Option Nat := none
  size  : Nat := 0
  /-- Fields of the header (R312): virtual channel, data flits, and number in the sequence of its source, destination and channel. -/
  vc    : Nat := 0
  flits : Nat := 0
  seq   : Nat := 0
deriving DecidableEq, Repr

/-- The virtual channel of a packet type (R313). -/
def PacketKind.vc : PacketKind → Nat
  | .put => 0
  | .signal => 0
  | .reduce _ => 0
  | .getReq => 0
  | .coreRead => 1
  | .coreWrite => 1
  | .coreAtomic => 1
  | .ack _ => 2
  | .getData => 2
  | .fold => 3
  | .result => 3
  | .credit => 3
  | .post => 3
  | .ticket => 3
  | .mismatch => 3
  | .cancel => 3
  | .cancelled => 3

/-- States of a posted-collective slot (R323, R330). -/
inductive SlotState where
  | free | posted | cancelSent | ticketed | started | done | partl | cancelled | failed
deriving DecidableEq, Repr

/-- One chunk of a started collective on this device (R324, R327): whether its fold has been sent on, its result written or given up, and a fold
that waits for this device's contribution: FIRST, COUNT, PARTIAL and elements. -/
structure Chunk where
  sent    : Bool := false
  written : Bool := false
  missing : Bool := false
  fold    : Option (Nat × Nat × Bool × List Word) := none
deriving DecidableEq, Repr

/-- A chunk that waits to leave (R313, R324): a result or a fold, the rank it goes to, its index, FIRST (of a result the rank it belongs to), COUNT,
PARTIAL and elements. -/
structure OutChunk where
  result : Bool
  to_    : Nat
  chunk  : Nat
  first  : Nat
  count  : Nat
  partl  : Bool
  elems  : List Word
deriving DecidableEq, Repr

/-- A posted collective (R323, R329). -/
structure Coll where
  state  : SlotState := .free
  code   : Nat := 0
  id     : Nat := 0
  owner  : Option Nat := none
  node   : Option Nat := none
  block  : List Word := []
  team   : Nat := 0
  core   : Nat := 0
  grp    : Nat := 0
  uid    : Nat := 0
  root   : Nat := 0
  rootV  : Bool := false
  handler : Bool := false
  rank   : Nat := 0
  number : Nat := 0
  clk    : Nat := 0
  ticket : Nat := 0
  start  : Nat := 0
  posted : Nat := 0
  port   : Nat := 31
  chunks : AMap Chunk := []
  out    : List OutChunk := []
  /-- Result chunks that have arrived and are still to be written. -/
  inq    : List OutChunk := []
  /-- DRAIN contribution received so far (R265). -/
  drain  : List Word := []
  late   : Nat := 0
  missing : Nat := 0
  foldMin : Option Nat := none
  anyPart : Bool := false
  /-- Timeout T has passed since the start (R327), and then 2T. -/
  late1  : Bool := false
  late2  : Bool := false
  /-- The ranges of memory that its sequencer has still to read or write (R216, R329), as those of engine work. -/
  foot   : List (Bool × Bool × Nat × Nat) := []
  /-- The time at which a checkpoint's quiesce ends its timeouts (R389). -/
  cut    : Option Nat := none
  pass   : Nat := 0
deriving DecidableEq, Repr

/-- States of a coordinator's match record (R323). -/
inductive RecState where
  | collecting | ticketed | mismatched | cancelled
deriving DecidableEq, Repr

/-- A match record of this device as coordinator (R321): the posts so far and the members answered. -/
structure MatchRec where
  team   : Nat := 0
  number : Nat := 0
  state  : RecState := .collecting
  /-- Posts: rank, operation, type, count and clock. -/
  posts  : List (Nat × Nat × Nat × Nat × Nat) := []
  ticket : Nat := 0
  answered : List Nat := []
deriving DecidableEq, Repr

/-- A timer: an event that is due at a device time or a cycle count. -/
structure Timer where
  byCycle : Bool := false
  at_  : Nat := 0
  ev   : Event
deriving DecidableEq, Repr

/-- States of the device (R388). -/
inductive DevState where
  | reset | bringup | ready | failed | checkpoint
deriving DecidableEq, Repr

/-- Who issues the instruction that exec runs: the core, the group and the number of its frontier entry. -/
structure Issuer where
  core  : Nat
  grp   : Nat
  ent   : Nat
  /-- COUNT of the clause the entry stands in (R38). -/
  count : Nat
deriving DecidableEq, Repr

/-- A region of memory whose contents the spec leaves undefined (R13): first address, length, and number of the undefining write. -/
structure Undef where
  lo : Nat
  n  : Nat
  k  : Nat
deriving DecidableEq, Repr

/-- An answer in the SPDM mailbox (R388): the kind of its request, the serial number that a certificate names (R383), and its bytes. -/
structure SpdmReply where
  kind   : Nat
  serial : Option DWord := none
  bytes  : List Byte := []
deriving DecidableEq, Repr

/-- A host command read and not yet complete (R385): queue, ring index, completion record. -/
structure Command where
  queue : Nat := 0
  index : Nat := 0
  rec_  : Nat := 0
  code  : Nat := 0
  args  : List Byte := []
deriving DecidableEq, Repr

/-- A translation kept by a core's TLB (R180): context root, the address bits and the number of the region that it serves, the page size of its
leaf in address bits (greater than the region only in a broken 64 KiB group, R179), and the leaf entry, or the code of the fault that the walk met. -/
structure TlbEntry where
  core : Nat
  root : Nat
  bits : Nat
  page : Nat
  size : Nat
  leaf : DWord
  fault : Option Nat := none
deriving DecidableEq, Repr

/-- The state of the device. -/
structure State where
  /-- Device time in nanoseconds (R22) and cycles of the arithmetic clock (R21). -/
  dtime    : Nat := 0
  cycle    : Nat := 0
  /-- Physical memory (R10): an unlisted byte reads as 0. -/
  mem      : List Host.Cell := []
  undef    : List Undef := []
  undefs   : Nat := 0
  /-- Pool bytes of scratchpads and heaps (R170): key 0x200000 * core + pool address. -/
  pool     : AMap Byte := []
  /-- Barrier objects tagged by BOINIT (R222): keys of their first bytes in pool. -/
  tags     : List Nat := []
  /-- Registers: vector (((64 c + p) * 32 + lane) * 256 + n, by place), scalar ((64 c + p) * 128 + n), predicate
  ((64 c + p) * 8 + n) and residue (((64 c + p) * 32 + lane) * 8 + n, by place). -/
  vreg     : AMap Word := []
  sreg     : AMap Word := []
  pred     : AMap Word := []
  qreg     : AMap Word := []
  cores    : AMap Core := []
  groups   : AMap Group := []
  /-- Blocks by 64 * core + slot. -/
  blocks   : AMap Block := []
  launches : AMap Launch := []
  nodes    : AMap Node := []
  work     : AMap Work := []
  ctrs     : AMap Word := []
  /-- Credits that this device holds (R313), by 256 times the ticket plus the rank that has granted them. -/
  credits  : AMap Nat := []
  /-- The next sequence number, by 4 times the destination plus the channel (R312). -/
  seqs     : AMap Nat := []
  /-- The device time from which every write that a peer has sent here is complete, by its identifier (R215). -/
  srcDone  : AMap Nat := []
  /-- Peers whose queue pair is in ERROR (R318). -/
  qperr    : List Nat := []
  colls    : AMap Coll := []
  ticketClock : Nat := 0
  lastTicket  : Nat := 0
  postCount   : AMap Nat := []
  recs     : List MatchRec := []
  packets  : List Packet := []
  /-- Requests of engines to peers that find no line request of their core free, in order (R17). -/
  unsent   : List Packet := []
  /-- Ports whose link does not work (R311): all, until a link comes up. -/
  linksDown : List Nat := List.range 24
  /-- Control registers by offset of their slot (R383), but for those whose value other fields hold. -/
  ctl      : AMap DWord := []
  teamMem  : AMap Byte := []
  accesses : List Access := []
  rels     : List Rel := []
  leases   : AMap Nat := []
  l1       : List L1Copy := []
  /-- Lines of shared memory held in the caches of the stipple units (R204, R238). -/
  stipple  : List L1Copy := []
  pins     : List Pin := []
  tlb      : List TlbEntry := []
  ops      : List AsyncOp := []
  cards    : List CardJob := []
  chains   : List Chain := []
  mjobs    : List MJob := []
  rjobs    : List RJob := []
  burns    : List BurnJob := []
  cmds     : List Command := []
  /-- Engine work that has lost a read or a write at a peer (R311), its offset in the work, and the bytes of a lost write. -/
  engLost : List (Nat × Nat × Nat) := []
  /-- Frozen engine instances (R364, R387): core, engine class, DETAIL. -/
  frozenEng : List (Nat × Nat × DWord) := []
  dev      : DevState := .reset
  therm    : Nat := 0
  fwver    : Word := 0#32
  /-- Issue withheld from the VEC and MTX ports (R21). -/
  withhold : Bool := false
  /-- The SPDM mailbox (R388): requests answered, with the answers. -/
  mailbox  : List SpdmReply := []
  /-- Digests of the nodes under DET that ended last (R387), latest first. -/
  ended    : List DWord := []
  /-- Data answered to the host's last CXL.mem read (R382). -/
  cxlReply : List Byte := []
  /-- CHECKPOINT or RESTORE under way (R389): the command, and whether it restores. -/
  check    : Option (Command × Bool) := none
  /-- Packets forwarded between other devices and flits resent (R311, R312). -/
  forwarded : List (Nat × Nat) := []
  resent   : AMap Nat := []
  timers   : List Timer := []
  nextId   : Nat := 1
  nextOrder : Nat := 1
  /-- The model's own: the count of steps, under which free values are drawn, what each step takes where the spec leaves a choice among free
  numbers or places open (by that count), the hardware steps due, and who moves next. -/
  freeCount : Nat := 0
  picks    : List Nat := []
  agenda   : List Event := []
  schedule : List Move := []
  turn     : Nat := 0
  issuer   : Option Issuer := none
  subject  : Subject := {}
deriving DecidableEq, Repr

/-- The machine after power-on reset (R22, R388): device time 0, STATE RESET, every register at its reset value, nothing listed. -/
def State.reset : State := {}

end Sys2Proof.Machine
end

