-- ==== Sys2Proof/Machine/Ops.lean ====
section
/-!
DEFINITION. The named operations over the state: the places of groups and registers, memory and the pool, address
translation, the frontier, what an instruction's meaning answers, taking an exception and returning from one.
-/
namespace Sys2Proof.Machine

/-! ### Places -/

/-- The key of physical group p of core c. -/
def gid (c p : Nat) : Nat := 64 * c + p

/-- The partition of a physical group: sixteen to each (R14). -/
def partOf (p : Nat) : Nat := p / 16

def State.core (s : State) (c : Nat) : Core := aget {} s.cores c

def State.setCore (s : State) (c : Nat) (k : Core) : State := { s with cores := aset {} s.cores c k }

def State.grp (s : State) (c p : Nat) : Group := aget {} s.groups (gid c p)

def State.setGrp (s : State) (c p : Nat) (g : Group) : State := { s with groups := aset {} s.groups (gid c p) g }

def State.blkAt (s : State) (c slot : Nat) : Block := aget {} s.blocks (gid c slot)

def State.setBlk (s : State) (c slot : Nat) (b : Block) : State := { s with blocks := aset {} s.blocks (gid c slot) b }

def State.launch (s : State) (n : Nat) : Launch := aget {} s.launches n

def State.setLaunch (s : State) (n : Nat) (l : Launch) : State := { s with launches := aset {} s.launches n l }

def State.node (s : State) (n : Nat) : Node := aget {} s.nodes n

def State.setNode (s : State) (n : Nat) (d : Node) : State := { s with nodes := aset {} s.nodes n d }

/-- What this step takes where the spec leaves a choice open. -/
def State.pick (s : State) : Nat := s.picks.getD s.freeCount 0

/-- The free number below n that this step takes: the first from its pick on, in a circle. -/
def State.pickFree (s : State) (n : Nat) (free : Nat → Bool) : Option Nat :=
  let o := s.pick % max 1 n
  ((List.range (n - o)).map (· + o) ++ List.range o).find? free

/-- The groups that stand on a core, by physical group. -/
def State.residents (s : State) (c : Nat) : List Nat := (List.range 64).filter fun p => (s.grp c p).live

/-- The block of a group. -/
def State.blockOf (s : State) (c p : Nat) : Block := s.blkAt c (s.grp c p).slot

/-- The launch of a group. -/
def State.launchOf (s : State) (c p : Nat) : Launch := s.launch (s.grp c p).node

/-- The physical group of the block's group of index b, if it is resident. -/
def State.groupAt (s : State) (c slot b : Nat) : Option Nat :=
  (List.range 64).find? fun p => let g := s.grp c p; g.live && g.slot == slot && g.bgrp == b

/-- Puts a hardware step on the agenda, once. -/
def State.post (s : State) (i : Instr) (nums : List Nat) : State :=
  let e : Event := { what := i, sub := { nums := nums } }
  if s.agenda.contains e then s else { s with agenda := s.agenda ++ [e] }

/-- A timer of device time or of cycles (R22). -/
def State.timer (s : State) (byCycle : Bool) (due : Nat) (i : Instr) (nums : List Nat) : State :=
  { s with timers := s.timers ++ [{ byCycle := byCycle, at_ := due, ev := { what := i, sub := { nums := nums } } }] }

/-- A number of the subject of the step that runs. -/
def State.arg (s : State) (k : Nat) : Nat := (s.subject.nums[k]?).getD 0

/-! ### Registers -/

/-- Where virtual lane l of a group keeps its vector and residue registers (R86). -/
def Group.placeOf (g : Group) (p l : Nat) : Place := (g.vmap[l]?).getD { grp := p, lane := l }

def vkey (c : Nat) (pl : Place) (n : Nat) : Nat := (gid c pl.grp * 32 + pl.lane) * 256 + n

def skey (c p n : Nat) : Nat := gid c p * 128 + n

def pkey (c p n : Nat) : Nat := gid c p * 8 + n

def qkey (c : Nat) (pl : Place) (n : Nat) : Nat := (gid c pl.grp * 32 + pl.lane) * 8 + n

/-- Vector register n of virtual lane l. -/
def State.v (s : State) (c p l n : Nat) : Word := aget 0#32 s.vreg (vkey c ((s.grp c p).placeOf p l) n)

def State.setV (s : State) (c p l n : Nat) (x : Word) : State :=
  { s with vreg := aset 0#32 s.vreg (vkey c ((s.grp c p).placeOf p l) n) x }

/-- Residue register n of virtual lane l (R139). -/
def State.q (s : State) (c p l n : Nat) : Word := aget 0#32 s.qreg (qkey c ((s.grp c p).placeOf p l) n)

def State.setQ (s : State) (c p l n : Nat) (x : Word) : State :=
  { s with qreg := aset 0#32 s.qreg (qkey c ((s.grp c p).placeOf p l) n) x }

/-- Predicate register n: p7 reads all ones (R29). -/
def State.p (s : State) (c p n : Nat) : Word := if n = 7 then 0xFFFFFFFF#32 else aget 0#32 s.pred (pkey c p n)

/-- A write to p7 is ignored (R29). -/
def State.setP (s : State) (c p n : Nat) (x : Word) : State :=
  if n = 7 then s else { s with pred := aset 0#32 s.pred (pkey c p n) x }

/-- Scalar register n of a field without a file bit. -/
def State.sraw (s : State) (c p n : Nat) : Word := aget 0#32 s.sreg (skey c p n)

def State.setSraw (s : State) (c p n : Nat) (x : Word) : State := { s with sreg := aset 0#32 s.sreg (skey c p n) x }

/-- Scalar register n of a field with file bit 1: in handler mode 120 to 127 name h0 to h7 (R354). -/
def State.sr (s : State) (c p n : Nat) : Word :=
  if (s.grp c p).handler && 120 ≤ n then aget 0#32 (s.grp c p).shadow (n - 120) else s.sraw c p n

def State.setSr (s : State) (c p n : Nat) (x : Word) : State :=
  let g := s.grp c p
  if g.handler && 120 ≤ n then s.setGrp c p { g with shadow := aset 0#32 g.shadow (n - 120) x } else s.setSraw c p n x

/-- A scalar pair, the low half in the even register (R3). -/
def State.sr64 (s : State) (c p n : Nat) : DWord := pair64 (s.sr c p n) (s.sr c p (n + 1))

def State.setSr64 (s : State) (c p n : Nat) (x : DWord) : State := (s.setSr c p n (lo32 x)).setSr c p (n + 1) (hi32 x)

def State.v64 (s : State) (c p l n : Nat) : DWord := pair64 (s.v c p l n) (s.v c p l (n + 1))

def State.setV64 (s : State) (c p l n : Nat) (x : DWord) : State := (s.setV c p l n (lo32 x)).setV c p l (n + 1) (hi32 x)

/-- The register count of a group (R51): the base allotment and the extended blocks it holds. -/
def Group.count (g : Group) : Nat := g.baseRegs + 32 * g.ext

/-! ### Memory -/

/-- What a byte of memory holds: an undefined byte reads as a free value (R13), an unlisted one as 0. -/
def State.byte (s : State) (pa : Nat) : Byte :=
  match s.undef.find? fun u => u.lo ≤ pa && pa < u.lo + u.n with
  | some u => Config.freeByte u.k pa
  | none => aget 0#8 s.mem pa

/-- Removes one address from the undefined regions. -/
def Undef.without (u : Undef) (pa : Nat) : List Undef :=
  if u.lo ≤ pa && pa < u.lo + u.n then
    ([{ u with n := pa - u.lo }, { u with lo := pa + 1, n := u.lo + u.n - (pa + 1) }] : List Undef).filter fun r => r.n != 0
  else [u]

def State.setByte (s : State) (pa : Nat) (b : Byte) : State :=
  { s with mem := aset 0#8 s.mem pa b, undef := s.undef.flatMap fun u => u.without pa }

def State.bytes (s : State) (pa n : Nat) : List Byte := (List.range n).map fun k => s.byte (pa + k)

def State.setBytes (s : State) (pa : Nat) : List Byte → State
  | [] => s
  | b :: rest => (s.setByte pa b).setBytes (pa + 1) rest

def State.dword (s : State) (pa : Nat) : DWord := leDWord (s.bytes pa 8)

/-- The pool of a core (R170). -/
def poolKey (c a : Nat) : Nat := 0x200000 * c + a

def State.poolByte (s : State) (c a : Nat) : Byte := aget 0#8 s.pool (poolKey c a)

def State.setPoolByte (s : State) (c a : Nat) (b : Byte) : State := { s with pool := aset 0#8 s.pool (poolKey c a) b }

def State.poolBytes (s : State) (c a n : Nat) : List Byte := (List.range n).map fun k => s.poolByte c (a + k)

def State.setPoolBytes (s : State) (c a : Nat) : List Byte → State
  | [] => s
  | b :: rest => (s.setPoolByte c a b).setPoolBytes c (a + 1) rest

/-- The size of each block slot's slice of a pool region (R171). -/
def sliceSize (region nb : Nat) : Nat := if nb = 0 then 0 else region / nb / 128 * 128

/-- A block's scratchpad slice: first pool address and size (R171). -/
def State.scrSlice (s : State) (c slot : Nat) : Nat × Nat :=
  let k := s.core c
  let size := sliceSize (k.poolHeap.toNat - k.poolScr.toNat) k.nb
  (k.poolScr.toNat + slot * size, size)

/-- A block's heap slice (R171). -/
def State.heapSlice (s : State) (c slot : Nat) : Nat × Nat :=
  let k := s.core c
  let size := sliceSize (k.poolL1.toNat - k.poolHeap.toNat) k.nb
  (k.poolHeap.toNat + slot * size, size)

/-! ### The physical map and translation -/

/-- The windows of R10. -/
inductive Window where
  | device | remote | control | host
deriving DecidableEq, Repr

/-- First address beyond device memory (R10). -/
def devTop : Nat := 0xB2D05E0000

/-- The window of a physical address; none for a hole, a hole at a peer included (R10). -/
def windowOf (pa : Nat) : Option Window :=
  if pa < devTop then some .device
  else if 0x1000000000000 ≤ pa && pa ≤ 0x1FFFFFFFFFFFF then if pa % 2 ^ 40 < devTop then some .remote else none
  else if 0x7000000000000 ≤ pa && pa ≤ 0x70000FFFFFFFF then some .control
  else if 0x8000000000000 ≤ pa && pa ≤ 0xFFFFFFFFFFFFF then some .host
  else none

/-- The route register of a peer (R311); its reset value names no port. -/
def State.proute (s : State) (f : Nat) : DWord := aget 0x1F1F#64 s.ctl (0x10000 + 8 * f)

/-- The port by which packets for a peer leave: none when the route is not in force or neither port works (R311). -/
def State.portTo (s : State) (f : Nat) : Option Nat :=
  let r := s.proute f
  let pri := (r.extractLsb' 0 5).toNat
  let alt := (r.extractLsb' 8 5).toNat
  let up := fun n => n < 24 && !s.linksDown.contains n
  if !r.getLsbD 63 then none else if up pri then some pri else if up alt then some alt else none

/-- A translation context: the root table and whether translation is in force (R355). -/
structure Context where
  root : Nat := 0
  v    : Bool := false
deriving DecidableEq, Repr

/-- How an access reaches memory (R180). -/
structure Mode where
  write   : Bool := false
  fetch   : Bool := false
  handler : Bool := false
deriving DecidableEq, Repr

/-- A leaf: its table entry and the page size in address bits (R179). -/
structure Leaf where
  pte  : DWord
  bits : Nat
  /-- Address bits of the region for which a TLB may keep it (R179): one page of the table in a broken 64 KiB group. -/
  span : Nat
deriving DecidableEq, Repr

/-- Index of a virtual address in the table of a level (R178). -/
def levelIndex (va level : Nat) : Nat := va / 2 ^ (12 + 9 * (level - 1)) % 512

/-- The 52-bit address field of a table entry. -/
def pteAddr (e : DWord) : Nat := e.toNat / 2 ^ 12 % 2 ^ 40 * 2 ^ 12

/-- Whether a valid table entry breaks R179 at a level. -/
def pteBad (e : DWord) (level : Nat) : Bool :=
  let leaf := e.getLsbD 1
  e.extractLsb' 52 12 != 0#12 || e.extractLsb' 8 4 != 0#4 || e.extractLsb' 2 2 != 0#2 ||
  (e.getLsbD 7 && !(leaf && level == 1)) ||
  (leaf && (level == 5 || level == 4)) || (!leaf && level == 1) ||
  (leaf && pteAddr e % 2 ^ (12 + 9 * (level - 1)) != 0)

/-- The level-1 leaves of an aligned group of sixteen that have V and CONT set (R179). -/
def contLeaves (es : List DWord) : List DWord := es.filter fun e => e.getLsbD 7 && e.getLsbD 1 && e.getLsbD 0

/-- Whether sixteen level-1 entries form one 64 KiB page (R179). -/
def contWhole (es : List DWord) : Bool :=
  let e0 := es.headD 0#64
  (contLeaves es).length == 16 && es.all (fun e => e.extractLsb' 0 12 == e0.extractLsb' 0 12) &&
  pteAddr e0 % 2 ^ 16 == 0 && (List.range 16).all fun k => pteAddr (es.getD k 0#64) == pteAddr e0 + 4096 * k

/-- What a valid level-1 leaf comes to (R179): its 4 KiB page where no leaf of its group has CONT set; the 64 KiB page of a well-formed
group; and in a broken group the leaf that a free value picks among those with V and CONT set, for this access or TLB entry alone. -/
def State.contLeaf (s : State) (table va : Nat) : Leaf :=
  let first := levelIndex va 1 / 16 * 16
  let es := (List.range 16).map fun k => s.dword (table + 8 * (first + k))
  match contLeaves es with
  | [] => { pte := es.getD (levelIndex va 1 % 16) 0#64, bits := 12, span := 12 }
  | e :: rest =>
    if contWhole es then { pte := e, bits := 16, span := 16 }
    else { pte := (e :: rest).getD (Config.freeContEntry s.freeCount va % (rest.length + 1)) e, bits := 16, span := 12 }

/-- The table walk of R178 from a level downward: the leaf, or XLATE_MISS or XLATE_BAD (R180). A table address outside device and host memory
reads as the memory of that address, where nothing is written: the spec says nothing of it, and the walk then meets XLATE_MISS (log 117). -/
def State.walk (s : State) (va : Nat) : Nat → Nat → Except Nat Leaf
  | 0, _ => .error Code.XLATE_BAD
  | level + 1, table =>
    let e := s.dword (table + 8 * levelIndex va (level + 1))
    if !e.getLsbD 0 then .error Code.XLATE_MISS
    else if pteBad e (level + 1) then .error Code.XLATE_BAD
    else if e.getLsbD 1 then
      if level = 0 then .ok (s.contLeaf table va) else .ok { pte := e, bits := 12 + 9 * level, span := 12 + 9 * level }
    else s.walk va level (pteAddr e)

/-- What a kept translation comes to. -/
def TlbEntry.result (t : TlbEntry) : Except Nat Leaf :=
  match t.fault with
  | some code => .error code
  | none => .ok { pte := t.leaf, bits := t.size, span := t.bits }

/-- The leaf for an address, or the fault of its walk: what the tables now give, or what the core keeps of them as they were, whichever a free value
picks for this access (R180). -/
def State.leaf (s : State) (core : Nat) (x : Context) (va : Nat) : Except Nat Leaf :=
  if !x.v then .error Code.XLATE_MISS
  else match s.tlb.find? fun t => t.core == core && t.root == x.root && va / 2 ^ t.bits == t.page with
    | some t => if Config.freeOldEntry s.freeCount va then t.result else s.walk va 5 x.root
    | none => s.walk va 5 x.root

/-- The physical address a leaf gives (R179). -/
def Leaf.phys (l : Leaf) (va : Nat) : Nat := pteAddr l.pte / 2 ^ l.bits * 2 ^ l.bits + va % 2 ^ l.bits

/-- Whether a virtual address lies in a save slot that a group of a core has in reserved device memory (R389). -/
def State.reservedAt (s : State) (core va : Nat) : Bool :=
  (List.range 64).any fun p =>
    let g := s.grp core p
    (g.reserved.toList ++ g.lastSlot.toList).any fun r => r.1 ≤ va && va < r.1 + r.2

/-- Translation with its faults in the order of R180; then control space outside a handler raises PRIV (R354), and a peer that no
route reaches FABRIC_LOST (R10). A handler reaches a save slot in reserved device memory at its own address, which no table maps (R389; the model's
choice, log 86). -/
def State.translate (s : State) (core : Nat) (x : Context) (m : Mode) (addr : DWord) : Except Nat Nat :=
  let va := addr.toNat % 2 ^ 57
  if m.handler && !m.fetch && s.reservedAt core va then .ok va
  else match s.leaf core x va with
  | .error e => .error e
  | .ok l =>
    if (m.write && !l.pte.getLsbD 4) || (m.fetch && !l.pte.getLsbD 5) || (l.pte.getLsbD 6 && !m.handler) then
      .error Code.XLATE_PROT
    else
      let pa := l.phys va
      match windowOf pa with
      | none => .error Code.PHYS_HOLE
      | some .control => if m.handler then .ok pa else .error Code.PRIV
      | some .remote => if (s.portTo (pa / 2 ^ 40 % 256)).isSome then .ok pa else .error Code.FABRIC_LOST
      | some _ => .ok pa

/-- The context of a launch. -/
def Launch.context (l : Launch) : Context := { root := l.root, v := l.rootV }

/-- A range in pieces that lie in one page each: page-wise translation of n bytes from a virtual address. -/
def State.translateRange (s : State) (core : Nat) (x : Context) (m : Mode) (addr : DWord) (n : Nat) :
    Except (Nat × DWord) (List (Nat × Nat)) :=
  let first := addr.toNat % 2 ^ 57 / 4096
  let last := (addr.toNat % 2 ^ 57 + (n - 1)) / 4096
  (List.range (last + 1 - first)).foldl (fun acc k =>
    match acc with
    | .error e => .error e
    | .ok ps =>
      let lo := if k = 0 then addr.toNat % 2 ^ 57 else (first + k) * 4096
      let hi := min (addr.toNat % 2 ^ 57 + n) ((first + k + 1) * 4096)
      match s.translate core x m (BitVec.ofNat 64 lo) with
      | .error e => .error (e, BitVec.ofNat 64 lo)
      | .ok pa => .ok (ps ++ [(pa, hi - lo)])) (.ok [])

/-! ### Homes, leases and copies in L1 -/

def lineOf (pa : Nat) : Nat := pa / 128

/-- The core whose L1 keeps a line for a core (R175): its own, or the cluster's slice under fusion. -/
def State.l1Of (s : State) (c line : Nat) : Nat :=
  match (s.core c).launch with
  | none => c
  | some n =>
    let l := s.launch n
    if l.fuse then
      let h := (line % 16).xor ((line / 16) % 16) |>.xor ((line / 256) % 16)
      c / l.cblk * l.cblk + h % l.cblk
    else c

/-- The write-completion time of a store performed now on a line (R208). -/
def State.wctOf (s : State) (line : Nat) : Nat := max s.dtime (aget 0 s.leases line)

/-- New bytes reach the copies of a line that one L1 holds (R201). -/
def patchCopy (pa : Nat) (bs : List Byte) (y : L1Copy) : L1Copy :=
  { y with bytes := (List.range 128).map fun k =>
      let a := 128 * y.line + k
      if pa ≤ a && a < pa + bs.length then bs.getD (a - pa) 0#8 else y.bytes.getD k 0#8 }

/-- New bytes reach the copies in the L1 that serves a core, and in the stipple caches of the cores that it serves (R206). -/
def State.patchL1 (s : State) (c pa : Nat) (bs : List Byte) : State :=
  let hit := fun (y : L1Copy) => overlaps (128 * y.line) 128 pa bs.length
  { s with
    l1 := s.l1.map fun y => if y.core == s.l1Of c y.line && hit y then patchCopy pa bs y else y
    stipple := s.stipple.map fun y => if s.l1Of y.core y.line == s.l1Of c y.line && hit y then patchCopy pa bs y else y }

/-- A store performed and acknowledged in this step, by an agent of core c: memory, the copies of its own L1, and the
completion time it answers. -/
def State.storeNow (s : State) (c pa : Nat) (bs : List Byte) : State × Nat :=
  let t := (List.range ((pa + bs.length - 1) / 128 + 1 - pa / 128)).foldl (fun t k => max t (s.wctOf (pa / 128 + k))) s.dtime
  ((s.setBytes pa bs).patchL1 c pa bs, t)

/-- The bytes read of a line that bypassed an existing copy reach that copy, in L1 and in the stipple caches that go with it, so that no later load of
a lane reads an older value (R198). -/
def State.freshenCopy (s : State) (c line : Nat) : State :=
  let now := fun (y : L1Copy) => { y with bytes := s.bytes (128 * line) 128 }
  { s with
    l1 := s.l1.map fun y => if y.core == s.l1Of c y.line && y.line == line then now y else y
    stipple := s.stipple.map fun y => if s.l1Of y.core y.line == s.l1Of c line && y.line == line then now y else y }

def State.freshenPieces (s : State) (c : Nat) (ps : List (Nat × Nat)) : State :=
  ps.foldl (fun s q => (List.range ((q.1 + q.2 + 127) / 128 - q.1 / 128)).foldl (fun s k => s.freshenCopy c (q.1 / 128 + k)) s) s

/-- Raises a group's sr.wct (R208). -/
def State.raiseWct (s : State) (c p t : Nat) : State :=
  let g := s.grp c p
  s.setGrp c p { g with wct := max g.wct t }

/-! ### The frontier -/

/-- The address of the instruction word at a position (R38). -/
def wordAddr (hdr : DWord) (idx : Nat) : DWord := hdr + BitVec.ofNat 64 (8 * (idx + 1))

/-- The position after an instruction: the next word, or the next clause header (R38). -/
def nextPos (hdr : DWord) (idx count : Nat) : DWord × Nat :=
  if idx < count then (hdr, idx + 1) else (hdr + BitVec.ofNat 64 (8 * (count + 2)), 0)

/-- The code word at a virtual address, as the group fetches it. -/
def State.fetchWord (s : State) (c p : Nat) (addr : DWord) : Except Nat DWord :=
  let g := s.grp c p
  match s.translate c (s.launchOf c p).context { fetch := true, handler := g.handler } addr with
  | .error e => .error e
  | .ok pa => .ok (s.dword pa)

/-- The priority of an entry that arrives at a header (R43, R64): PRIO of the header, or 255 in handler mode. A position whose word cannot be fetched
or is no header has no PRIO: the model gives it 0 (log 119). -/
def State.prioAt (s : State) (c p : Nat) (hdr : DWord) : Nat :=
  if (s.grp c p).handler then 255
  else match s.fetchWord c p hdr with
    | .ok w => if isHeader w then (w.extractLsb' 45 8).toNat else 0
    | .error _ => 0

/-- Whether an instruction has issued and runs on to its end: GHND, a gather or scatter, and HRING wait for the accesses that they have sent, BOARR
for its release, and MGUIDE for K-steps. Its entry comes to a boundary only when it is complete (R356); DEDUCED of BOARR and MGUIDE, which are
not among the waits that R356 abandons (log entry 158). -/
def Entry.underWay (e : Entry) : Bool := [0xA5, 0xA6, 0xA7, 0xA8, 0xB6].any fun n => e.note.head? == some n

/-- Two entries at one position become one, at the place of the earlier (R63). What R63 does not say of an unfinished wait is the model's choice
(log 120): the holds and quanta of both stay, the waits of the header that either has met are met, and the fence wait, the attempt remembered
and the comparators passed are those of the earlier entry, except that an instruction under way goes on. -/
def Entry.merge (a b : Entry) : Entry :=
  { a with mask := a.mask ||| b.mask, note := if b.underWay && !a.underWay then b.note else a.note,
           issued := if b.underWay && !a.underWay then b.issued else a.issued, holding := a.holding || b.holding,
           holds := a.holds ++ b.holds, slot := a.slot || b.slot, met := Nat.lor a.met b.met, fence := a.fence.orElse fun _ => b.fence,
           fenceAcc := if a.fence.isSome then a.fenceAcc else b.fenceAcc, quanta := Nat.lor a.quanta b.quanta }

/-- Adds an entry to a list, merging it into one that stands at its position. -/
def addEntry : List Entry → Entry → List Entry
  | [], e => [e]
  | x :: xs, e => if x.hdr == e.hdr && x.idx == e.idx then x.merge e :: xs else x :: addEntry xs e

/-- Merges equal positions (R63) and drops entries without lanes (R62). -/
def tidy (es : List Entry) : List Entry := (es.filter fun e => e.mask != 0#32).foldl addEntry []

/-- Replaces an entry of the list by the entries that result from it (R64). -/
def replaceAt (es : List Entry) (k : Nat) (new : List Entry) : List Entry := tidy (es.take k ++ new ++ es.drop (k + 1))

/-- Lanes arriving at a clause header. -/
def State.arrive (s : State) (c p : Nat) (hdr : DWord) (mask : Word) (src : DWord) : Entry :=
  { prio := s.prioAt c p hdr, hdr := hdr, idx := 0, mask := mask, src := src }

/-- An entry after its instruction: the next word of its clause, or the next header (R43). -/
def State.stepEntry (s : State) (c p count : Nat) (e : Entry) : Entry :=
  if e.idx < count then
    { e with idx := e.idx + 1, met := 0, fence := none, fenceAcc := [], note := [], issued := none, skipCmp := [], why := none,
                    waited := false }
  else { s.arrive c p (nextPos e.hdr e.idx count).1 e.mask (wordAddr e.hdr e.idx) with holds := e.holds }

/-- The issuing entry moves on to the next instruction. -/
def State.advance (s : State) (n : Issuer) : State :=
  let g := s.grp n.core n.grp
  match g.frontier[n.ent]? with
  | none => s
  | some e => s.setGrp n.core n.grp { g with frontier := replaceAt g.frontier n.ent [s.stepEntry n.core n.grp n.count e] }

/-! ### Taking an exception and returning from one -/

/-- The virtual address of a group's handler area (R355), of 57 bits. -/
def Launch.area (l : Launch) (c p : Nat) : DWord := BitVec.ofNat 64 ((l.hbase.toNat + 4096 * gid c p) % 2 ^ 57)

/-- A fault's address goes to sr.faddr (R359), or is kept aside while the group is about to enter its handler for another cause (R360). -/
def State.faultAt (s : State) (c p : Nat) (a : DWord) : State :=
  let g := s.grp c p
  s.setGrp c p (if g.trap.isSome then { g with nextFault := some a } else { g with faddr := a })

/-- Whether a load of the group is still to be written, or an instruction of it under way (R356, R61). -/
def State.loadsPending (s : State) (c p : Nat) : Bool :=
  let g := s.grp c p
  s.accesses.any (fun a => a.uid == g.uid && a.dest != .none && !a.gath) || g.frontier.any (·.underWay)

/-- The 16 bytes of a frontier entry in the frame (R357). -/
def entryImage (e : Entry) : List Byte :=
  leBytes 8 (e.hdr.toNat % 2 ^ 57 + e.idx * 2 ^ 57 + 2 ^ 63) ++ leBytes 4 e.mask.toNat ++ leBytes 4 (e.prio % 256)

/-- The 16 bytes of a rejoin register in the frame (R357). -/
def jregImage (j : JReg) : List Byte :=
  leBytes 4 j.exp.toNat ++ leBytes 4 j.arr.toNat ++
  leBytes 4 (j.tmo % 2 ^ 24 + boolNat j.ns * 2 ^ 30 + boolNat j.armed * 2 ^ 31) ++
  leBytes 4 (if j.timing then j.left else j.tmo)

def ParkKind.code : ParkKind → Nat
  | .jwait => 1
  | .regrp => 2
  | .ungrp => 3

/-- The 8 bytes of a virtual lane in the park list of the frame (R357). -/
def parkImage (ps : List Park) (l : Nat) : List Byte :=
  match ps.find? fun k => k.mask.getLsbD l with
  | none => leBytes 8 0
  | some k => leBytes 8 (k.hdr.toNat % 2 ^ 57 + k.idx * 2 ^ 57 + k.kind.code * 2 ^ 61)

/-- The indices of a block's groups that have not ended, as bits. -/
def State.liveIndices (s : State) (c slot : Nat) : Word :=
  let here := ((s.residents c).filter fun p => (s.grp c p).slot == slot).foldl (fun m p => m ||| bitMask (s.grp c p).bgrp) 0#32
  (s.blkAt c slot).yielded.foldl (fun m e => m ||| bitMask e.2.bgrp) here

/-- The default count of a named barrier's open phase (R221): the groups that have not ended, and those that arrived in it before they
ended. -/
def State.barDefault (s : State) (c slot : Nat) (b : Bar) : Nat := popCount (s.liveIndices c slot ||| b.arr)

/-- The 8 bytes of a named barrier in the frame (R357): arrivals, and the phase's count or 0 with no arrival. -/
def barImage (b : Bar) (default : Nat) : List Byte :=
  leBytes 8 (b.arr.toNat + (if b.arr == 0#32 then 0 else b.explicit.getD default) * 2 ^ 32)

/-- The frame of R357. -/
def State.frame (s : State) (c p : Nat) (t : Cause) : List Byte :=
  let g := s.grp c p
  let b := s.blockOf c p
  let fv : List Byte := (List.range 32).flatMap fun k => match g.frontier[k]? with
    | some e => entryImage e
    | none => List.replicate 16 0#8
  leBytes 8 t.tpc.toNat ++ leBytes 4 (t.code + t.fe * 2 ^ 16) ++ leBytes 4 0 ++ leBytes 8 t.detail.toNat ++
  leBytes 4 g.fflags.toNat ++ leBytes 4 g.emask.toNat ++ leBytes 4 g.gmask.toNat ++ leBytes 4 g.xlane.toNat ++
  leBytes 8 (g.faddr.toNat % 2 ^ 57) ++ leBytes 8 s.dtime ++ leBytes 8 0 ++ fv ++
  ((List.range 16).flatMap fun k => jregImage (aget {} g.jregs k)) ++
  ((List.range 32).flatMap fun l => parkImage g.parked l) ++
  ((List.range 16).flatMap fun k => barImage (aget {} b.bars k) (s.barDefault c g.slot (aget {} b.bars k))) ++
  leBytes 4 b.phase ++ List.replicate 60 0#8

/-- An abort of a launch (R363): no further block, every group of it at its end, engines stop at their next boundary. A scatter under way still makes
its stores. -/
def State.abortLaunch (s : State) (node code : Nat) : State :=
  let l := s.launch node
  let s := s.setLaunch node { l with abort := l.abort.orElse (fun _ => some code), saved := [] }
  let mine := s.groups.filter fun e => e.2.live && e.2.node == node
  let cut := fun (a : Access) => a.keep && mine.any fun e => e.2.uid == a.uid
  let runsOn := fun (a : Access) => a.kind != .load && !a.lost
  let told := (s.accesses.filter fun a => cut a && runsOn a && a.done).map (·.id)
  let s : State := { s with
    accesses := (s.accesses.filter fun a => !cut a || runsOn a).map fun a => if cut a then { a with keep := false, gath := false } else a }
  let s := told.foldl (fun s id => s.post .storeAcknowledgement [id]) s
  mine.foldl (fun s e =>
    let c := e.1 / 64
    let p := e.1 % 64
    let g := s.grp c p
    (s.setGrp c p { g with frontier := [], parked := [], liveMask := 0#32, trap := none, requests := [], jregs := [] }).post
      .groupEnd [c, p]) (s.post .nodeCompletion [node])

/-- The handler's entry for a cause (R355): BREAK and STOP enter at CTX_DVEC unless it is 0. -/
def Launch.vector (l : Launch) (code : Nat) : DWord :=
  if (code == Code.BREAK || code == Code.STOP) && l.dvec != 0#64 then l.dvec else l.tvec

/-- Sleep ends at a trap (R357), and what is repeated is repeated anew; every other hold of an entry is kept for RTE. -/
def keepHolds (es : List Entry) : List (Word × List Hold) :=
  (es.map fun e => (e.mask, e.holds.filter fun h => match h with
    | .sleepCycles _ => false
    | .sleepUntil _ => false
    | .retry _ => false
    | _ => true)).filter fun k => !k.2.isEmpty

/-- The positions whose first issue after RTE is not compared by the comparators that stopped them (R361, kind B). -/
def keepSkips (es : List Entry) : List (DWord × Nat × List Nat) :=
  (es.filter fun e => !e.skipCmp.isEmpty).map fun e => (e.hdr, e.idx, e.skipCmp)

/-! ### Running code (R47, R364) -/

/-- Whether bytes of memory hold code of a running launch (R47). -/
def State.holdsCode (s : State) (pa n : Nat) : Bool :=
  s.launches.any fun e => e.2.running && e.2.codes.any fun k => overlaps k.1 k.2 pa n

/-- A violation freezes the core that made it, with the record of the address it used (R364): bits 56:0. -/
def State.freezeCore (s : State) (c : Nat) (addr : DWord) : State :=
  s.setCore c { s.core c with frozen := true, record := some (BitVec.ofNat 64 (addr.toNat % 2 ^ 57)) }

/-! ### Taking an exception -/

/-- The shadow registers at entry (R358). -/
def shadowAt (area save : DWord) (size code cause : Nat) : AMap Word :=
  let slot := code == Code.PREEMPT || code == Code.RESUME
  ([(0, lo32 area), (1, hi32 area),
    (2, if slot then lo32 save else 0#32), (3, if slot then hi32 save else 0#32),
    (4, if slot then BitVec.ofNat 32 size else 0#32), (5, BitVec.ofNat 32 cause)] : List (Nat × Word)).foldl
    (fun m e => aset 0#32 m e.1 e.2) []

/-- The lines of a range that a core other than c has pinned. -/
def State.pinnedLines (s : State) (c pa n : Nat) : List Nat :=
  (s.pins.filter fun q => q.core != c && overlaps (128 * q.line) 128 pa n).map (·.line)

/-- How many lines pieces of memory touch. -/
def linesIn (ps : List (Nat × Nat)) : Nat := (ps.map fun q => (q.1 + q.2 + 127) / 128 - q.1 / 128).sum

/-- The lines of pieces of memory that a core other than c has pinned. -/
def State.pinnedBy (s : State) (c : Nat) (ps : List (Nat × Nat)) : List Nat := ps.flatMap fun q => s.pinnedLines c q.1 q.2

/-- A pin refuses an access, which is repeated: its refusals are timed (R211). -/
def Pin.refuse (q : Pin) (a : Asker) : Pin := { q with refused := max 1 q.refused, askers := q.askers ++ [a] }

/-- Whether an access that a pin has refused is still to be repeated. -/
def State.asks (s : State) : Asker → Bool
  | .step what nums at_ =>
    let same := fun (e : Event) => e.what == what && e.sub.nums == nums
    ((s.timers.any fun t => t.byCycle && t.at_ == at_ && same t.ev) || s.agenda.any same) &&
      (what != .retry || s.accesses.any fun a => nums == [a.id] && !a.done)
  | .entry c p at_ => (s.grp c p).frontier.any fun e => e.holds.contains (.retry at_)

/-- One cycle of a pin (R211): its count goes on while an access that it has refused is still to be repeated. -/
def State.pinCycle (s : State) (q : Pin) : Pin :=
  let left := q.askers.filter s.asks
  { q with refused := if left.isEmpty then 0 else q.refused + 1, askers := left }

/-- Pins have just refused an access to lines. -/
def State.refuseLines (s : State) (ls : List Nat) (a : Asker) : State :=
  { s with pins := s.pins.map fun q => if ls.contains q.line then q.refuse a else q }

/-- A step that pins have refused is made again after 64 cycles (R210). -/
def State.retryStep (s : State) (ls : List Nat) (what : Instr) (nums : List Nat) : State :=
  (s.refuseLines ls (.step what nums (s.cycle + 64))).timer true (s.cycle + 64) what nums

/-- A group enters its handler (R356, R357, R358): the frame is written to its area, handler mode is set, and one entry with
every live lane stands at the vector. Without a vector the launch is aborted with the code; an area that cannot be written
aborts it with DOUBLE_FAULT, and one that holds running code is a violation of the core (R47, R364). While another core pins a line of
the area the entry is tried again (R210). -/
def State.enterTrap (s : State) (c p : Nat) (t : Cause) : State :=
  let g := s.grp c p
  let l := s.launchOf c p
  let vec := l.vector t.code
  if vec == 0#64 then s.abortLaunch g.node t.code
  else match s.translateRange c l.context { write := true, handler := true } (l.area c p) 1280 with
    | .error _ => s.abortLaunch g.node Code.DOUBLE_FAULT
    | .ok pieces =>
      if pieces.any fun q => windowOf q.1 != some .device && windowOf q.1 != some .host then
        s.abortLaunch g.node Code.DOUBLE_FAULT
      else if pieces.any fun q => s.holdsCode q.1 q.2 then s.freezeCore c (l.area c p)
      else if !(s.pinnedBy c pieces).isEmpty then s.retryStep (s.pinnedBy c pieces) .trapEntry [c, p]
      else
        let s1 := (pieces.foldl (fun (a : State × List Byte) q =>
          ((a.1.storeNow c q.1 (a.2.take q.2)).1, a.2.drop q.2)) (s, s.frame c p t)).1
        s1.setGrp c p { g with
          handler := true, trap := none, parked := [],
          frontier := [{ prio := 255, hdr := vec, idx := 0, mask := g.liveMask, src := t.tpc }],
          shadow := shadowAt (l.area c p) g.saveAddr g.saveSize t.code (t.code + t.fe * 2 ^ 16),
          tcode := BitVec.ofNat 32 (t.code + t.fe * 2 ^ 16), tcause := t.detail, tpc := t.tpc,
          kept := keepHolds g.frontier, skips := keepSkips g.frontier, srcs := g.frontier.map fun e => (e.hdr, e.src),
          fair := [], rotate := 0, engFlags := 0#6, skipLanes := 0#32,
          preempted := t.code == Code.PREEMPT }

/-- An entry as a trap finds it (R356): it holds no port, has no quantum, and gives up an instruction that waits to issue; one that is under way
goes on to its end. DEDUCED: one whose own effect still follows on a wait, a BAR that has begun its release and waits for it or for its phase among
them, is given up too and issues again after RTE (log entry 158). -/
def Entry.stopped (e : Entry) : Entry :=
  { e with holding := false, quanta := 0, note := if e.underWay then e.note else [], why := none, waited := false }

/-- A cause with its cycle and the lanes of its entry, by which the entry's place is found again when the handler is entered (R359). -/
def Cause.noted (t : Cause) (now : Nat) (es : List Entry) : Cause :=
  { t with at_ := now, lanes := if t.tpc == 0#64 then 0#32 else (es.getD t.fe {}).mask }

/-- The place in a frontier of the entry that raised a cause (R359): entries may have merged since. -/
def Cause.place (t : Cause) (es : List Entry) : Nat := (firstIdx (fun e => (e.mask &&& t.lanes) != 0#32) es).getD t.fe

/-- Whether a cause that a group keeps gives way to another (R360): both are raised by entries in one cycle, and the other's entry is the earlier. -/
def Cause.yields (old t : Cause) (now : Nat) (es : List Entry) : Bool :=
  old.tpc != 0#64 && t.tpc != 0#64 && old.at_ == now && t.fe < old.place es

/-- What a cause that is raised while a group keeps another leaves in the group: it is taken instead, and the instruction of the other has had no effect
(R360), or it is given up, and only a fault address kept for it goes. None where nothing changes. -/
def Group.laterCause (g : Group) (t : Cause) (now : Nat) : Option Group :=
  match g.trap with
  | none => none
  | some old =>
    if old.yields t now g.frontier then
      let undo := fun (y : Entry) => match old.back with
        | some e => if (y.mask &&& old.lanes) != 0#32 then { y with prio := e.prio, hdr := e.hdr, idx := e.idx, src := e.src } else y
        | none => y
      some { g with trap := some (t.noted now g.frontier), frontier := g.frontier.map undo, faddr := g.nextFault.getD g.faddr, nextFault := none }
    else g.nextFault.map fun _ => { g with nextFault := none }

/-- An exception of a group (R356, R360): in handler mode it aborts the launch with DOUBLE_FAULT; otherwise the group stops issuing, and enters its
handler at once when no load is outstanding and no instruction is under way, or else by the step TRAP_ENTRY. Of two causes of a group in one cycle
that of the earlier entry is taken, and else the first: the other instruction has had no effect, and issues again after RTE (R360). -/
def State.takeException (s : State) (c p : Nat) (t : Cause) : State :=
  let g := s.grp c p
  if g.handler then s.abortLaunch g.node Code.DOUBLE_FAULT
  else if g.trap.isSome then (match g.laterCause t s.cycle with
    | some h => s.setGrp c p h
    | none => s)
  else
    let s := s.setGrp c p { g with trap := some (t.noted s.cycle g.frontier), frontier := g.frontier.map Entry.stopped }
    if s.loadsPending c p then s.post .trapEntry [c, p] else s.enterTrap c p t

/-- The exception of an instruction of kind P or E: the saved position is the instruction itself (R361), which is no longer under way. -/
def State.raise (s : State) (n : Issuer) (code : Nat) (detail : DWord) : State :=
  let g := s.grp n.core n.grp
  match g.frontier[n.ent]? with
  | none => s
  | some e =>
    let s := s.setGrp n.core n.grp { g with frontier := g.frontier.set n.ent { e with note := [] } }
    s.takeException n.core n.grp { code := code, detail := detail, tpc := wordAddr e.hdr e.idx, fe := n.ent }

/-- The position of parked lanes read from the frame (R357): their JWAIT, found before the word where they resume, names the
rejoin register and the predicate. -/
def State.parkFrom (s : State) (c p : Nat) (x : Nat) (l : Nat) : Option Park :=
  let hdr := BitVec.ofNat 64 (x % 2 ^ 57)
  let idx := x / 2 ^ 57 % 16
  let at_ := if idx = 0 then hdr - 8#64 else wordAddr hdr (idx - 1)
  match x / 2 ^ 61 % 4 with
  | 0 => none
  | 1 =>
    let w := match s.fetchWord c p at_ with
      | .ok w => decodeWord w
      | .error _ => .error .short
    match w with
    | .ok (.jwait _ pd j) => some { kind := .jwait, mask := bitMask l, hdr := hdr, idx := idx, j := j.toNat, pd := pd.toNat, src := at_ }
    | _ => some { kind := .jwait, mask := bitMask l, hdr := hdr, idx := idx, src := at_ }
  | 2 => some { kind := .regrp, mask := bitMask l, hdr := hdr, idx := idx, src := at_ }
  | _ => some { kind := .ungrp, mask := bitMask l, hdr := hdr, idx := idx, src := at_ }

/-- Parked lanes of one instruction stand together. -/
def addPark : List Park → Park → List Park
  | [], k => [k]
  | x :: xs, k =>
    if x.kind == k.kind && x.hdr == k.hdr && x.idx == k.idx && x.j == k.j && x.pd == k.pd then
      { x with mask := x.mask ||| k.mask } :: xs
    else x :: addPark xs k

/-- The entries of a frame (R357), without priorities. -/
def frameEntries (f : List Byte) : List Entry :=
  (List.range 32).filterMap fun k =>
    let w := sliceNat f (64 + 16 * k) 8
    if w / 2 ^ 63 = 0 then none
    else some { hdr := BitVec.ofNat 64 (w % 2 ^ 57), idx := w / 2 ^ 57 % 16,
                mask := BitVec.ofNat 32 (sliceNat f (64 + 16 * k + 8) 4) }

/-- The rejoin registers of a frame (R357, R371): a nanosecond countdown goes on from trap entry. -/
def frameJReg (f : List Byte) (now : Nat) (k : Nat) : JReg :=
  let o := 576 + 16 * k
  let c := sliceNat f (o + 8) 4
  let armed := c / 2 ^ 31 == 1
  let ns := c / 2 ^ 30 % 2 == 1
  let arr := BitVec.ofNat 32 (sliceNat f (o + 4) 4)
  let left := sliceNat f (o + 12) 4
  let timing := armed && arr != 0#32
  { armed := armed, exp := BitVec.ofNat 32 (sliceNat f o 4), arr := arr, tmo := c % 2 ^ 24, ns := ns, timing := timing,
    left := if timing && ns then sliceNat f 48 8 + left - now else left
    ripe := timing && (if ns then sliceNat f 48 8 + left - now else left) == 0 }

/-- The reserved bytes of a frame are zero (R357, R371), the unused last bytes of an entry included. -/
def frameReserved (f : List Byte) : Bool :=
  zeros f 12 16 && zeros f 56 64 && zeros f 1220 1280 &&
  (List.range 32).all fun k => zeros f (64 + 16 * k + 13) (64 + 16 * k + 16)

/-- The group's frame as its handler left it (R371): the bytes of its area. -/
def State.readFrame (s : State) (c p : Nat) : Option (List Byte) :=
  let l := s.launchOf c p
  match s.translateRange c l.context { handler := true } (l.area c p) 1280 with
  | .error _ => none
  | .ok pieces => some (pieces.flatMap fun q => s.bytes q.1 q.2)

/-- A group takes the next request that waits for its boundary (R360): not while it is in its handler or in trap entry. -/
def State.serveRequests (s : State) (c p : Nat) : State :=
  let g := s.grp c p
  match g.requests with
  | [] => s
  | r :: rest =>
    if !g.live || g.handler || g.trap.isSome || g.liveMask == 0#32 || (s.core c).frozen then s
    else (s.setGrp c p { g with requests := rest }).takeException c p { code := r.1, detail := r.2 }

/-- Puts a request to a group: a code of kind N and its detail. -/
def State.request (s : State) (c p code : Nat) (detail : DWord) : State :=
  let g := s.grp c p
  (s.setGrp c p { g with requests := g.requests ++ [(code, detail)] }).serveRequests c p

/-- The return from an exception by the RTE at an address (R371): the frame is read and checked; the frontier, the parked lanes, the rejoin registers
and the saved special registers are restored, flags raised by engines meanwhile are kept, and handler mode is cleared. A bad frame aborts the launch
with DOUBLE_FAULT. An entry that stands where one stood at trap entry still names the instruction that led there (R46); to any other position the RTE
itself leads. Its priority is PRIO of the header where it stands (R43; DEDUCED: also where the frame's byte differs, log entry 147). DEDUCED: sr.emask
is the frame's word with the lanes that the handler has set in the register by SWR (R181; log entry 145). -/
def State.leaveTrap (s : State) (c p : Nat) (pc : DWord) : State :=
  let g := s.grp c p
  match s.readFrame c p with
  | none => s.abortLaunch g.node Code.DOUBLE_FAULT
  | some f =>
    let es := frameEntries f
    let pk := (List.range 32).filterMap fun l => s.parkFrom c p (sliceNat f (832 + 8 * l) 8) l
    let masks := es.map (·.mask) ++ pk.map (·.mask)
    let union := masks.foldl (· ||| ·) 0#32
    let disjoint := (masks.foldl (fun (a : Bool × Word) m => (a.1 && (a.2 &&& m) == 0#32, a.2 ||| m)) (true, 0#32)).1
    if !frameReserved f || !disjoint || union != g.liveMask then s.abortLaunch g.node Code.DOUBLE_FAULT
    else
      let jr := (List.range 16).foldl (fun m k => aset {} m k (frameJReg f s.dtime k)) ([] : AMap JReg)
      let free := s.setGrp c p { g with handler := false }
      let held := es.map fun e => { e with
        prio := free.prioAt c p e.hdr
        src := ((g.srcs.find? fun k => k.1 == e.hdr).map (·.2)).getD pc
        skipCmp := ((g.skips.find? fun k => k.1 == e.hdr && k.2.1 == e.idx).map (·.2.2)).getD []
        holds := (g.kept.filter fun k => (k.1 &&& e.mask) != 0#32).flatMap (·.2) }
      let s1 := s.setGrp c p { g with
        handler := false, frontier := tidy held, parked := pk.foldl addPark [], jregs := jr, kept := [], skips := [], srcs := [],
        fflags := BitVec.ofNat 6 (sliceNat f 24 4) ||| g.engFlags,
        emask := BitVec.ofNat 32 (sliceNat f 28 4) ||| g.skipLanes, skipLanes := 0#32, gmask := BitVec.ofNat 32 (sliceNat f 32 4),
        xlane := BitVec.ofNat 32 (sliceNat f 36 4),
        faddr := BitVec.ofNat 64 (sliceNat f 40 8 % 2 ^ 57), fair := [], rotate := 0, preempted := false }
      (List.range 16).foldl (fun s k =>
        let j := frameJReg f s.dtime k
        if j.timing && j.left == 0 then s.post .joinTimeout [c, p, k] else s) s1

/-! ### What a meaning answers -/

/-- Who issues, and in which lanes: the issuer, its group, its entry, and Active (R36) with helper lanes and without. -/
structure Ctx where
  n      : Issuer
  c      : Nat
  p      : Nat
  g      : Group
  e      : Entry
  active : Word
  live   : Word
deriving DecidableEq, Repr

/-- The outcome of an instruction's own effect. -/
inductive Res where
  /-- The effect is made; the entry goes on to the next word. -/
  | ok (s : State)
  /-- The effect is made, and with it the move of the entry. -/
  | done (s : State)
  /-- A fault at the instruction (kinds P and E, R361): code, detail, and the state with the elements already performed. -/
  | fault (code : Nat) (detail : DWord) (s : State)
  /-- The effect is made and the group then takes an exception (kind A, R361). -/
  | trap (code : Nat) (detail : DWord) (s : State)
  /-- The instruction waits at issue, for a reason among those of R376 (MEMORY where none is named), and is tried again later. -/
  | wait (s : State) (why : Nat := 2)
deriving DecidableEq, Repr

/-- The helper lanes of an entry (R36, R68, R103): slots without a live lane in quads that hold a live lane of the entry. -/
def helpers (entry live : Word) : Word :=
  maskWhere fun l => !live.getLsbD l && (List.range 4).any fun k => entry.getLsbD (l / 4 * 4 + k)

/-- The lanes of a predicate test (R48). -/
def State.guarded (s : State) (c p : Nat) (gd : Guard) : Word :=
  let m := s.p c p gd.p.toNat
  if gd.neg then ~~~m else m

/-- The context of the issuing entry. -/
def State.ctx (s : State) (n : Issuer) (gd : Guard) : Ctx :=
  let g := s.grp n.core n.grp
  let e := (g.frontier[n.ent]?).getD {}
  let m := s.guarded n.core n.grp gd
  { n := n, c := n.core, p := n.grp, g := g, e := e,
    active := (e.mask ||| helpers e.mask g.liveMask) &&& m, live := e.mask &&& m }

/-- The address of the issuing instruction. -/
def Ctx.pc (x : Ctx) : DWord := wordAddr x.e.hdr x.e.idx

/-! ### Descriptors (R279, R280) -/

/-- The fields of a tile descriptor. -/
structure TDesc where
  kind : Nat
  et   : Nat
  rows : Nat
  cols : Nat
  k    : Nat
  kcap : Nat
  pol  : Nat
  mode : Nat
  toli : Nat
  rsv  : Nat
  ofs  : Nat
  size : Nat
deriving DecidableEq, Repr

def TDesc.of (x : DWord) : TDesc :=
  let w := x.toNat
  { kind := field w 62 2, et := field w 61 1, rows := field w 58 3, cols := field w 55 3, k := field w 49 6, kcap := field w 43 6,
    pol := field w 41 2, mode := field w 40 1, toli := field w 34 6, rsv := field w 28 6, ofs := field w 14 14, size := field w 0 14 }

/-- Rows, columns and element size. -/
def TDesc.m (d : TDesc) : Nat := 4 * 2 ^ d.rows
def TDesc.n (d : TDesc) : Nat := 4 * 2 ^ d.cols
def TDesc.e (d : TDesc) : Nat := if d.et = 1 then 8 else 4

/-! ### What the fields of an instruction name at issue (R50, R51) -/

/-- The vector registers that a rank-tile instruction names with what its tile holds: the vector and the result of TMULV (R298). -/
def tileRegs (tile : Nat → Tile) : Instr → List Nat
  | .tmulv _ d a vb =>
    let t := TDesc.of (tile a.toNat).img
    List.range' vb.toNat (t.e / 4 * ceilDiv t.n 32) ++ List.range' d.toNat (t.e / 4 * ceilDiv t.m 32)
  | _ => []

/-- Whether a tile's elements are FP64 (R279). -/
def Tile.wide (t : Tile) : Bool := (TDesc.of t.img).et == 1

/-- Whether an operand that is a pair because a tile is FP64 names an odd register (R50, R295, R298, R300). -/
def tileOdd (tile : Nat → Tile) : Instr → Bool
  | .tscl _ _ a b => (tile a.toNat).wide && b.toNat % 2 == 1
  | .trnd _ _ a b st _ => st && (tile a.toNat).wide && b.n.toNat % 2 == 1
  | .tmulv _ d a vb => (tile a.toNat).wide && (d.toNat % 2 == 1 || vb.toNat % 2 == 1)
  | _ => false

/-- Whether a mask names an MMA set that a group is of (R257). DESIGN CHOICE: a bit that names no group of the block counts as one here, at the MBQ, and
gives MMA_LOST at the MMA (log entry 170). -/
def mmaSet (mask : Word) (bgrp : Nat) : Bool := (popCount mask = 1 || popCount mask = 2 || popCount mask = 4) && mask.getLsbD bgrp

/-- Whether the handle in a scalar register is one of the group's launch with elements of 8 bytes, which GATH and SCAT read into pairs (R239,
R242). -/
def State.wideHandle (s : State) (c p : Nat) (sa : BitVec 8) : Bool :=
  let n := (s.sr c p sa.toNat).toNat
  let h := aget ({} : Handle) (s.core c).handles n
  n < 64 && h.owner == some (s.grp c p).node && sliceNat h.desc 16 1 == 0 && sliceNat h.desc 17 1 == 3

/-- The vector registers that an instruction names with what a tile descriptor, a handle or a scalar register holds: those of TMULV, the registers of
ASTO (R232; it cannot have more than 256), the second register of a gather's or scatter's pair (R242), and the quarters of MBQ (R257) and of the MMAs
that use them (R250). -/
def State.vregsAt (s : State) (c p : Nat) : Instr → List Nat
  | .asto _ _ _ vb sc => List.range' vb.toNat (max 1 (min 257 (s.sr c p sc.toNat).toNat))
  | .gath _ d sa _ _ _ _ => if s.wideHandle c p sa then [d.toNat + 1] else []
  | .scat _ sa _ vc _ => if s.wideHandle c p sa then [vc.toNat + 1] else []
  | .mbq _ vq sa =>
    let mask := s.sr c p sa.toNat
    List.range' vq.toNat (if mmaSet mask (s.grp c p).bgrp then 32 * (4 / popCount mask) else 1)
  | .mma _ _ _ _ _ => match (s.grp c p).mbq with
    | some (vq, mask) => List.range' vq (32 * (4 / popCount mask))
    | none => []
  | i => tileRegs (aget {} (s.grp c p).tiles) i

/-- All vector registers that an instruction names. -/
def State.vregsOf (s : State) (c p : Nat) (i : Instr) : List Nat := vregs i ++ s.vregsAt c p i

/-- All scalar registers that an instruction names; for an FP64 tile TSCL and TRND.s name a pair (R295, R300). -/
def State.sregsOf (s : State) (c p : Nat) (i : Instr) : List Nat :=
  let tile := fun (t : BitVec 8) => aget {} (s.grp c p).tiles t.toNat
  sregs i ++ match i with
  | .tscl _ _ a b => if (tile a).wide then [b.toNat + 1] else []
  | .trnd _ _ a b st _ => if st && (tile a).wide then [b.n.toNat + 1] else []
  | _ => []

/-- Whether an operand that is a pair because a tile or an accumulator is FP64 names an odd register (R50, R250, R264, R295, R298, R300), or one that
a handle of 8-byte elements makes a pair (R242). -/
def State.oddPair (s : State) (c p : Nat) (i : Instr) : Bool :=
  let g := s.grp c p
  match i with
  | .mdrain _ d m _ bf16 _ => let a := aget {} g.accs m.toNat
                              a.bound && a.f64 && !bf16 && d.toNat % 2 == 1
  | .mma _ _ _ ta _ => ta == 4#3 && (match g.mbq with
    | some (vq, _) => vq % 2 == 1
    | none => false)
  | .gath _ d sa _ _ _ _ => s.wideHandle c p sa && d.toNat % 2 == 1
  | .scat _ sa _ vc _ => s.wideHandle c p sa && vc.toNat % 2 == 1
  | i => tileOdd (aget {} g.tiles) i

/-- The fault of an instruction's fields, whatever its predicate and lanes (R59): ILLEGAL_OP before REGIDX. It is decided at issue, not again while
the instruction is under way. -/
def State.fieldFault (s : State) (n : Issuer) (i : Instr) : Option Nat :=
  if (s.grp n.core n.grp).frontier[n.ent]?.any (·.underWay) then none
  else if s.oddPair n.core n.grp i then some Code.ILLEGAL_OP
  else if (s.vregsOf n.core n.grp i).any fun r => (s.grp n.core n.grp).count ≤ r then some Code.REGIDX
  else none

/-- What becomes of the state after an instruction's effect. One that waits has not issued, or is under way: the state then names no issuer. It takes
no port if it is its clause's first (R44). -/
def Res.settle (n : Issuer) : Res → State
  | .ok s => s.advance n
  | .done s => s
  | .fault code detail s => s.raise n code detail
  | .trap code detail s =>
    match (s.grp n.core n.grp).frontier[n.ent]? with
    | none => s
    | some e =>
      let t := s.advance n
      let fe := (firstIdx (fun y => (y.mask &&& e.mask) != 0#32) (t.grp n.core n.grp).frontier).getD 0
      t.takeException n.core n.grp { code := code, detail := detail, tpc := wordAddr e.hdr e.idx, fe := fe, back := some e }
  | .wait s why =>
    let g := s.grp n.core n.grp
    let s : State := { s with issuer := none }
    match g.frontier[n.ent]? with
    | none => s
    | some e => s.setGrp n.core n.grp { g with
        frontier := g.frontier.set n.ent { e with
          why := some why, waited := true, holding := e.holding && (e.idx != 0 || e.underWay) } }

/-- Issues an instruction for the issuing entry: the faults of its fields first (R50, R51, R59), then its own effect. -/
def issue (i : Instr) (gd : Guard) (body : Ctx → State → Res) (s : State) : Host.Outcome State Fault Refusal :=
  match s.issuer with
  | none => .fault .noIssuer
  | some n =>
    match s.fieldFault n i with
    | some code => .next (s.raise n code 0#64)
    | none => .next ((body (s.ctx n gd) s).settle n)

/-- An instruction that acts once for its group if Active holds a live lane, and otherwise does nothing. -/
def once (body : Ctx → State → Res) (x : Ctx) (s : State) : Res :=
  if x.live == 0#32 then .ok s else body x s

/-- ORs flags raised by live lanes into sr.fflags (R122). -/
def State.orFlags (s : State) (c p : Nat) (f : BitVec 6) : State :=
  if f == 0#6 then s else
  let g := s.grp c p
  s.setGrp c p { g with fflags := g.fflags ||| f }

/-- Flags of engine work (R371): kept apart as well while the group is in its handler. -/
def State.orEngineFlags (s : State) (c p : Nat) (f : BitVec 6) : State :=
  if f == 0#6 then s else
  let g := s.grp c p
  s.setGrp c p { g with fflags := g.fflags ||| f, engFlags := if g.handler then g.engFlags ||| f else g.engFlags }

end Sys2Proof.Machine
end

