-- ==== Sys2Proof/Machine/Control.lean ====
section
/-!
DEFINITION. Control space (R383): the device's registers as the host and handlers read and write them, each with its fields and the
conditions under which a write takes effect.
-/
namespace Sys2Proof.Machine

/-- The value a control register holds after reset (R311, R325, R383). -/
def ctlDefault (ofs : Nat) : DWord :=
  if 0x10000 ≤ ofs && ofs < 0x10800 then 0x1F1F#64
  else if 0x3000 ≤ ofs && ofs < 0x3040 then 2#64
  else 0#64

def State.ctlReg (s : State) (ofs : Nat) : DWord := aget (ctlDefault ofs) s.ctl ofs

def State.setCtl (s : State) (ofs : Nat) (v : DWord) : State := { s with ctl := aset (ctlDefault ofs) s.ctl ofs v }

/-- A field of a register. -/
def bitsOf (v : DWord) (hi lo : Nat) : Nat := v.toNat / 2 ^ lo % 2 ^ (hi + 1 - lo)

/-- The mask of bits hi to lo. -/
def span (hi lo : Nat) : DWord := BitVec.ofNat 64 ((2 ^ (hi + 1 - lo) - 1) * 2 ^ lo)

def DevState.code : DevState → Nat
  | .reset => 0
  | .bringup => 1
  | .ready => 2
  | .failed => 3
  | .checkpoint => 4

/-- This device's fabric identifier (R310). -/
def State.fid (s : State) : Nat := bitsOf (s.ctlReg 0x118) 7 0

/-- The part number SQM840-A2 in ASCII, padded with zero bytes (R383). -/
def partNumber : List Byte := [0x53#8, 0x51#8, 0x4D#8, 0x38#8, 0x34#8, 0x30#8, 0x2D#8, 0x41#8, 0x32#8] ++ List.replicate 7 0#8

/-- The registers of a queue (R384): their offsets. -/
def qBase (q : Nat) : Nat := 0x30000 + 64 * q

def State.qEnabled (s : State) (q : Nat) : Bool := (s.ctlReg (qBase q + 8)).getLsbD 31

def State.qTail (s : State) (q : Nat) : Nat := bitsOf (s.ctlReg (qBase q + 16)) 31 0

def State.qHead (s : State) (q : Nat) : Nat := bitsOf (s.ctlReg (qBase q + 24)) 31 0

/-- The 8-byte slot at an aligned offset, as it reads (R383). -/
def State.ctlSlot (s : State) (ofs : Nat) : DWord :=
  if ofs = 0 then BitVec.ofNat 64 (s.fwver.toNat * 2 ^ 32 + s.therm * 2 ^ 8 + s.dev.code)
  else if ofs = 0x100 then leDWord (partNumber.take 8)
  else if ofs = 0x108 then leDWord (partNumber.drop 8)
  else if ofs = 0x110 then Config.serialNumber
  else if 0x10000 ≤ ofs && ofs < 0x10800 then
    let n := (ofs - 0x10000) / 8
    let r := s.ctlReg ofs
    let pri := bitsOf r 4 0
    let altu := (s.portTo n).isSome && s.portTo n != some pri
    let down := r.getLsbD 63 && (s.portTo n).isNone
    r ||| BitVec.ofNat 64 (boolNat altu * 2 ^ 14 + boolNat down * 2 ^ 13)
  else s.ctlReg ofs

/-- Registers of four bytes: configuration, tail and head of the queues. -/
def ctlNarrow (ofs : Nat) : Bool := 0x30000 ≤ ofs && ofs < 0x31000 && (ofs % 64 == 8 || ofs % 64 == 16 || ofs % 64 == 24)

/-- Whether the device's state lets a register be read (R388). -/
def State.ctlOpen (s : State) (ofs : Nat) : Bool :=
  !(s.dev == .bringup || s.dev == .failed) || ofs < 8 || (0x100 ≤ ofs && ofs < 0x200)

/-- Whether an offset lies in a team's list. -/
def teamList (ofs : Nat) : Bool := 0x21000 ≤ ofs && ofs < 0x25000

/-- What n bytes at an offset read as (R383): zero where the rules name no register or the access has another size or alignment. -/
def State.ctlRead (s : State) (ofs n : Nat) : List Byte :=
  if ofs % n != 0 || !s.ctlOpen ofs then List.replicate n 0#8
  else if teamList ofs then
    if n == 1 || n == 4 || n == 8 then (List.range n).map fun k => aget 0#8 s.teamMem (ofs - 0x21000 + k) else List.replicate n 0#8
  else if n == 4 || n == 8 then
    let v := s.ctlSlot (ofs / 8 * 8)
    slice (leBytes 8 v.toNat) (ofs % 8) n
  else List.replicate n 0#8

/-- What an agent of the device reads at a physical address that translation has allowed: memory, a control register, or the memory of
a peer, which is not held here, so that its bytes are free values. -/
def State.readAt (s : State) (pa n : Nat) : List Byte :=
  match windowOf pa with
  | some .remote => (List.range n).map fun k => Config.freePeer s.freeCount (pa + k)
  | some .control => s.ctlRead (pa % 2 ^ 32) n
  | _ => s.bytes pa n

/-! ### Writes -/

/-- A kernel, engine job or collective is active on the device (R13, R183); work entries that have fired run on after their launch (R314).
DEDUCED: a collective is active from its start (log entry 152). -/
def State.busy (s : State) : Bool :=
  s.launches.any (fun e => e.2.running) || !s.cards.isEmpty || !s.burns.isEmpty || s.work.any (fun e => e.2.state == .fired) ||
  s.colls.any fun e => e.2.state == .started

/-- A collective is started on the device (R325). -/
def State.collStarted (s : State) : Bool := s.colls.any fun e => e.2.state == .started

/-- The range that a local-placement register describes (R12): first byte and first byte beyond. -/
def lplaceSpan (v : DWord) : Nat × Nat := (bitsOf v 51 33 * 2 ^ 33, bitsOf v 51 33 * 2 ^ 33 + bitsOf v 6 0 * 2 ^ 33)

/-- The range of a local-placement register in force (R12). -/
def lplaceRange (v : DWord) : Option (Nat × Nat) := if v.getLsbD 63 then some (lplaceSpan v) else none

/-- The local-placement range in force that holds an address. -/
def State.lplaceAt (s : State) (pa : Nat) : Option (Nat × Nat) :=
  ((List.range 16).filterMap fun k => lplaceRange (s.ctlReg (0x1000 + 8 * k))).find? fun r => r.1 ≤ pa && pa < r.2

/-- The stack of a device-memory address (R11); in a range in force, the eighth that holds it (R13). -/
def State.stackOf (s : State) (pa : Nat) : Nat :=
  match s.lplaceAt pa with
  | some r => (pa - r.1) * 8 / (r.2 - r.1)
  | none => (List.range 10).foldl (fun x g => x ^^^ (pa / 2 ^ (3 * g + 12) % 8)) 0

/-- The place of a device-memory address in its stack (R11): its 32 KiB chunk gives one 4 KiB piece to each stack; in a range in force, piece i
of an eighth of n pieces takes the chunk i mod n of the range (R13). -/
def State.stackOffset (s : State) (pa : Nat) : Nat :=
  let chunk := match s.lplaceAt pa with
    | some r => r.1 / 2 ^ 15 + (pa - r.1) / 2 ^ 12 % ((r.2 - r.1) / 2 ^ 15)
    | none => pa / 2 ^ 15
  chunk * 2 ^ 12 + pa % 2 ^ 12

/-- Memory of a range becomes undefined (R13). -/
def State.undefine (s : State) (r : Option (Nat × Nat)) : State :=
  match r with
  | none => s
  | some (lo, hi) =>
    { s with
        mem := s.mem.filter fun e => e.1 < lo || hi ≤ e.1
        undef := { lo := lo, n := hi - lo, k := s.undefs } :: s.undef, undefs := s.undefs + 1 }

/-- A write to LPLACE_n (R13): one that sets EN, or changes a register in force, needs a range that is well formed and overlaps no other, and a
device at rest; what comes into force or leaves it loses its contents. -/
def State.writeLplace (s : State) (n : Nat) (v : DWord) : State :=
  let ofs := 0x1000 + 8 * n
  let old := s.ctlReg ofs
  let new := v &&& (span 63 63 ||| span 51 33 ||| span 6 0)
  let r0 := lplaceRange old
  let r1 := lplaceRange new
  let others := ((List.range 16).filter (· != n)).filterMap fun k => lplaceRange (s.ctlReg (0x1000 + 8 * k))
  let (lo, hi) := lplaceSpan new
  let ok := 1 ≤ bitsOf new 6 0 && bitsOf new 6 0 ≤ 89 && hi ≤ devTop && !s.busy && others.all fun o => hi ≤ o.1 || o.2 ≤ lo
  if ((r0.isSome || r1.isSome) && !ok) || new == old then s
  else
    let s := s.setCtl ofs new
    if r0 == r1 then s else (s.undefine r0).undefine r1

/-- A format window (R183). -/
structure Fwin where
  en   : Bool
  fmt  : Nat
  lo   : Nat
  last : Nat
  scl  : Bool
  scale : Nat
deriving DecidableEq, Repr

def fwinOf (a b c : DWord) : Fwin :=
  { en := a.getLsbD 63, fmt := bitsOf a 59 58, lo := bitsOf a 51 12 * 4096, last := bitsOf b 51 12 * 4096, scl := c.getLsbD 63,
    scale := bitsOf c 51 7 * 128 }

/-- Element size of a window (R184). -/
def Fwin.size (w : Fwin) : Nat := if w.fmt = 0 then 2 else 1

def Fwin.hi (w : Fwin) : Nat := w.last + 4096

def State.fwin (s : State) (n : Nat) : Fwin :=
  fwinOf (s.ctlReg (0x2000 + 32 * n)) (s.ctlReg (0x2008 + 32 * n)) (s.ctlReg (0x2010 + 32 * n))

/-- The window in force that holds an address (R184). -/
def State.windowAt (s : State) (pa : Nat) : Option Fwin :=
  ((List.range 16).map s.fwin).find? fun w => w.en && w.lo ≤ pa && pa < w.hi

/-- Bytes of a window's scale region. -/
def Fwin.scaleBytes (w : Fwin) : Nat := 4 * ceilDiv ((w.hi - w.lo) / w.size) 128

/-- The conditions on a window that is to be in force (R183). -/
def State.fwinOk (s : State) (n : Nat) (w : Fwin) : Bool :=
  let others := (((List.range 16).filter (· != n)).map s.fwin).filter (·.en)
  w.lo ≤ w.last && w.hi ≤ devTop && others.all (fun o => o.hi ≤ w.lo || w.hi ≤ o.lo) &&
  (!w.scl || (w.scale + w.scaleBytes ≤ devTop &&
    (others ++ [w]).all fun o => o.hi ≤ w.scale || w.scale + w.scaleBytes ≤ o.lo))

/-- A write to register k of window n (R183). -/
def State.writeFwin (s : State) (n k : Nat) (v : DWord) : State :=
  let mask := match k with
    | 0 => span 63 63 ||| span 59 58 ||| span 51 12
    | 1 => span 51 12
    | _ => span 63 63 ||| span 51 7
  let t := s.setCtl (0x2000 + 32 * n + 8 * k) (v &&& mask)
  let w := t.fwin n
  if 3 ≤ k || s.busy || (w.en && !s.fwinOk n w) then s else t

/-- The ticketed slot of least ticket is tested for its start. -/
def State.pokeColls (s : State) : State :=
  let best := s.colls.foldl (fun (b : Option (Nat × Nat)) e =>
    if e.2.state != .ticketed then b
    else match b with
      | none => some (e.1, e.2.ticket)
      | some q => if e.2.ticket < q.2 then some (e.1, e.2.ticket) else b) none
  match best with
  | none => s
  | some q => s.post .collectiveStart [q.1]

/-- A write to STAGE_d (R325). -/
def State.writeStage (s : State) (d : Nat) (v : DWord) : State :=
  if 4 < bitsOf v 2 0 || s.collStarted then s else (s.setCtl (0x3000 + 8 * d) (v &&& 7#64)).pokeColls

/-- A write to DEV_FID (R383): only while no queue is enabled and no team in force. -/
def State.writeFid (s : State) (v : DWord) : State :=
  if (List.range 64).any s.qEnabled || (List.range 64).any (fun n => (s.ctlReg (0x20000 + 8 * n)).getLsbD 63) then s
  else s.setCtl 0x118 (v &&& 0xFF#64)

/-- Whether a slot of this device names a team (R320). -/
def State.teamNamed (s : State) (n : Nat) : Bool := s.colls.any fun e => e.2.state != .free && e.2.team == n

/-- A write to TEAM_n_CFG (R320): EN stays 0 unless the list's byte of this rank is this device's identifier. -/
def State.writeTeam (s : State) (n : Nat) (v : DWord) : State :=
  let v := v &&& (span 63 63 ||| span 15 0)
  let me := (aget 0#8 s.teamMem (256 * n + bitsOf v 15 8)).toNat
  let v := if v.getLsbD 63 && me == s.fid then v else v &&& span 15 0
  if s.teamNamed n then s else s.setCtl (0x20000 + 8 * n) v

/-- A write to bytes of a team's list (R320, R383). -/
def State.writeTeamList (s : State) (ofs : Nat) (bs : List Byte) : State :=
  if s.teamNamed (ofs / 256) then s
  else { s with teamMem := (List.range bs.length).foldl (fun m k => aset 0#8 m (ofs + k) (bs.getD k 0#8)) s.teamMem }

/-- Whether a node of a queue has yet to end (R384): a node that a kernel builds runs under its launch's queue (R379). -/
def State.queueBusy (s : State) (q : Nat) : Bool :=
  s.nodes.any fun e => e.2.queue == q && (e.2.state == .built || e.2.state == .waiting || e.2.state == .ready || e.2.state == .running)

/-- Whether a queue's base, configuration and context may change (R384). -/
def State.queueIdle (s : State) (q : Nat) : Bool := !s.qEnabled q && !s.queueBusy q

/-- The fields of the registers of a queue, by their offset within its 64 bytes (R355, R384). -/
def queueMask (k : Nat) : DWord :=
  match k with
  | 0 => span 51 6
  | 8 => span 31 31 ||| span 5 0
  | 16 => span 31 0
  | 32 => span 51 12 ||| 1#64
  | 40 => span 56 3
  | 48 => span 56 3
  | 56 => span 56 12
  | _ => 0#64

/-- A write to a register of a queue (R384): HEAD is read-only, TAIL always takes effect, EN too, the rest only while the queue is
idle. -/
def State.writeQueue (s : State) (q k : Nat) (v : DWord) : State :=
  let ofs := qBase q + k
  let old := s.ctlReg ofs
  let v := v &&& queueMask k
  if k = 24 then s
  else if k = 16 then s.setCtl ofs v
  else if s.queueIdle q then s.setCtl ofs v
  else if k = 8 then s.setCtl ofs ((old &&& span 5 0) ||| (v &&& span 31 31))
  else s

/-- A write to PROUTE_n (R311). Where it leaves no way to the device, the packets held for it are lost at once. -/
def State.writeProute (s : State) (n : Nat) (v : DWord) : State :=
  let s := (s.setCtl (0x10000 + 8 * n) (v &&& (span 63 63 ||| span 12 8 ||| span 4 0))).pokeColls
  if (s.portTo n).isSome || !(s.packets.any fun q => q.held && q.dst == n) then s
  else State.post { s with packets := s.packets.map fun q => if q.held && q.dst == n then { q with gone := true } else q } .routeSwitch [n]

/-- A write to a comparator register (R373). -/
def State.writeDbg (s : State) (ofs : Nat) (v : DWord) : State :=
  s.setCtl ofs (v &&& (if ofs % 16 = 0 then span 63 63 ||| span 56 3 else span 63 63 ||| span 37 32 ||| span 31 0))

/-- A write of the slot at an aligned offset. -/
def State.writeSlot (s : State) (ofs : Nat) (v : DWord) : State :=
  if ofs = 0x118 then s.writeFid v
  else if 0x1000 ≤ ofs && ofs < 0x1080 then s.writeLplace ((ofs - 0x1000) / 8) v
  else if 0x2000 ≤ ofs && ofs < 0x2200 then s.writeFwin ((ofs - 0x2000) / 32) ((ofs - 0x2000) % 32 / 8) v
  else if 0x3000 ≤ ofs && ofs < 0x3040 then s.writeStage ((ofs - 0x3000) / 8) v
  else if 0x10000 ≤ ofs && ofs < 0x10800 then s.writeProute ((ofs - 0x10000) / 8) v
  else if 0x20000 ≤ ofs && ofs < 0x20200 then s.writeTeam ((ofs - 0x20000) / 8) v
  else if 0x30000 ≤ ofs && ofs < 0x31000 then s.writeQueue ((ofs - 0x30000) / 64) ((ofs - 0x30000) % 64) v
  else if 0x100000 ≤ ofs && ofs < 0x100000 + 256 * 384 && ofs % 256 < 128 then s.writeDbg ofs v
  else s

/-! ### The command processor's choice of a command (R385) -/

/-- The ring's size in commands. -/
def State.qSize (s : State) (q : Nat) : Nat := 2 ^ (bitsOf (s.ctlReg (qBase q + 8)) 3 0 + 4)

/-- Whether a command of a queue waits: TAIL has passed HEAD, and no earlier command of the queue is under way. -/
def State.qWaiting (s : State) (q : Nat) : Bool :=
  s.dev == .ready && s.qEnabled q && s.qHead q != s.qTail q

/-- The physical address of a host physical address (R10). -/
def hostAddr (a : Nat) : Nat := 2 ^ 51 + a % 2 ^ 51

/-- The 64 bytes of the next command of a queue, whose ring lies at a host physical address. -/
def State.qCommand (s : State) (q : Nat) : List Byte :=
  s.readAt (hostAddr (bitsOf (s.ctlReg (qBase q)) 51 6 * 64 + 64 * (s.qHead q % s.qSize q))) 64

/-- The step that carries out a command code (R386). -/
def commandStep (code : Nat) : Instr :=
  match code with
  | 2 => .wait
  | 3 => .inval
  | 4 => .preempt
  | 5 => .release
  | 6 => .resync
  | 7 => .checkpoint
  | 8 => .trace
  | 9 => .restore
  | _ => .submit

/-- The queue whose command is taken next: higher PRIO first, then the lower number (R385). -/
def State.nextQueue (s : State) : Option Nat :=
  (List.range 64).foldl (fun best q =>
    if !s.qWaiting q then best
    else match best with
      | none => some q
      | some b => if bitsOf (s.ctlReg (qBase b + 8)) 5 4 < bitsOf (s.ctlReg (qBase q + 8)) 5 4 then some q else best) none

/-- Puts the next command's step on the agenda. -/
def State.pollQueues (s : State) : State :=
  match s.nextQueue with
  | none => s
  | some q => s.post (commandStep (leNat ((s.qCommand q).take 8))) [q]

/-- A write of bytes at an offset of control space (R383), by the host or a handler. -/
def State.ctlWrite (s : State) (ofs : Nat) (bs : List Byte) : State :=
  let n := bs.length
  if ofs % n != 0 || s.dev == .bringup || s.dev == .failed then s
  else if teamList ofs then (if n == 1 || n == 4 || n == 8 then s.writeTeamList (ofs - 0x21000) bs else s)
  else if n == 8 || (n == 4 && ctlNarrow ofs) then
    (s.writeSlot ofs (if ctlNarrow ofs then BitVec.ofNat 64 (leNat (bs.take 4)) else leDWord bs)).pollQueues
  else s

end Sys2Proof.Machine
end

