-- ==== Sys2Proof/Machine/Flags.lean ====
section
/-!
DEFINITION. Comparison codes (R95, R56) and the flag bits of sr.fflags (R121).
-/
namespace Sys2Proof.Machine

/-- Bits of sr.fflags (R121). -/
structure FFlags where
  nv : Bool := false
  dz : Bool := false
  ovf : Bool := false
  unf : Bool := false
  nx : Bool := false
  fz : Bool := false
deriving DecidableEq, Repr

def FFlags.bits (f : FFlags) : BitVec 6 :=
  BitVec.ofBool f.fz ++ BitVec.ofBool f.nx ++ BitVec.ofBool f.unf ++ BitVec.ofBool f.ovf ++ BitVec.ofBool f.dz ++ BitVec.ofBool f.nv

def FFlags.or (a b : FFlags) : FFlags :=
  { nv := a.nv || b.nv, dz := a.dz || b.dz, ovf := a.ovf || b.ovf, unf := a.unf || b.unf, nx := a.nx || b.nx, fz := a.fz || b.fz }

/-- Comparison codes 0 to 9 of R95 on values of one width. -/
def intCmp (cc : Nat) (a b : BitVec w) : Bool :=
  match cc with
  | 0 => a == b
  | 1 => a != b
  | 2 => a.slt b
  | 3 => a.sle b
  | 4 => b.slt a
  | 5 => b.sle a
  | 6 => a.ult b
  | 7 => b.ule a
  | 8 => a.ule b
  | _ => b.ult a

/-- Comparison codes of `FCMP` (R56): the ordering of two values, none when either is a NaN. -/
def floatCmp (cc : Nat) (o : Option Ordering) : Bool :=
  match cc with
  | 0 => o == some .eq
  | 1 => o != some .eq
  | 2 => o == some .lt
  | 3 => o == some .lt || o == some .eq
  | 4 => o == some .gt
  | 5 => o == some .gt || o == some .eq
  | 6 => o == none
  | _ => o != none

end Sys2Proof.Machine
end

