-- ==== Sys2Proof/Machine/Operands.lean ====
section
/-!
DEFINITION. Operand forms: what a source gives each lane (R36, R91), how a destination is written, and the addresses of the
memory forms (R28, R54, R186).
-/
namespace Sys2Proof.Machine

/-- A source as lane l sees it: its vector value, or the group's scalar value (R36). -/
def Ctx.src (x : Ctx) (s : State) (o : VS) (l : Nat) : Word :=
  if o.sc then s.sr x.c x.p o.n.toNat else s.v x.c x.p l o.n.toNat

def Ctx.src64 (x : Ctx) (s : State) (o : VS) (l : Nat) : DWord :=
  if o.sc then s.sr64 x.c x.p o.n.toNat else s.v64 x.c x.p l o.n.toNat

/-- A scalar source with file bit 1. -/
def Ctx.sreg (x : Ctx) (s : State) (n : BitVec 8) : Word := s.sr x.c x.p n.toNat

def Ctx.sreg64 (x : Ctx) (s : State) (n : BitVec 8) : DWord := s.sr64 x.c x.p n.toNat

/-- Writes one vector register in a list of lanes. -/
def State.putLanes (s : State) (c p : Nat) (ls : List Nat) (n : Nat) (f : Nat → Word) : State :=
  ls.foldl (fun t l => t.setV c p l n (f l)) s

/-- Writes a vector-or-scalar destination (R91): a scalar once if Active holds a live lane, a vector in every lane of Active. -/
def Ctx.put (x : Ctx) (d : VS) (f : Nat → Word) (s : State) : State :=
  if d.sc then (if x.live == 0#32 then s else s.setSr x.c x.p d.n.toNat (f (lowestLane x.live)))
  else s.putLanes x.c x.p (lanesOf x.active) d.n.toNat f

def Ctx.put64 (x : Ctx) (d : VS) (f : Nat → DWord) (s : State) : State :=
  if d.sc then (if x.live == 0#32 then s else s.setSr64 x.c x.p d.n.toNat (f (lowestLane x.live)))
  else (s.putLanes x.c x.p (lanesOf x.active) d.n.toNat fun l => lo32 (f l)).putLanes x.c x.p (lanesOf x.active)
    (d.n.toNat + 1) fun l => hi32 (f l)

/-- Writes a value to one scalar register, file bit 1. -/
def Ctx.putS (x : Ctx) (d : BitVec 8) (v : Word) (s : State) : State := s.setSr x.c x.p d.toNat v

def Ctx.putS64 (x : Ctx) (d : BitVec 8) (v : DWord) (s : State) : State := s.setSr64 x.c x.p d.toNat v

/-- Writes a predicate in the bits of the lanes in Active (R91). -/
def Ctx.putP (x : Ctx) (pd : BitVec 8) (f : Nat → Bool) (s : State) : State :=
  s.setP x.c x.p pd.toNat ((s.p x.c x.p pd.toNat &&& ~~~x.active) ||| (maskWhere f &&& x.active))

/-- An operation of one source. -/
def alu1 (d a : VS) (f : Word → Word) (x : Ctx) (s : State) : Res := .ok (x.put d (fun l => f (x.src s a l)) s)

/-- An operation of two sources. -/
def alu2 (d a b : VS) (f : Word → Word → Word) (x : Ctx) (s : State) : Res :=
  .ok (x.put d (fun l => f (x.src s a l) (x.src s b l)) s)

/-- An operation of a source and the literal. -/
def aluL (d a : VS) (lit : Word) (f : Word → Word → Word) (x : Ctx) (s : State) : Res :=
  .ok (x.put d (fun l => f (x.src s a l) lit) s)

/-- An operation of three sources. -/
def alu3 (d a b c : VS) (f : Word → Word → Word → Word) (x : Ctx) (s : State) : Res :=
  .ok (x.put d (fun l => f (x.src s a l) (x.src s b l) (x.src s c l)) s)

/-- Sign extension of a literal to 64 bits (R93). -/
def sext64 (w : Word) : DWord := w.signExtend 64

/-- The virtual address of lane l in the forms of LD, ST, PREF and ATOM (R186): pair, pair plus index, or the lane's own pair; plus
the signed offset. -/
def Ctx.addr (x : Ctx) (s : State) (form : BitVec 2) (base idx : BitVec 8) (ofs : BitVec w) (l : Nat) : DWord :=
  let k := ofs.signExtend 64
  match form.toNat with
  | 0 => pair64 (s.sraw x.c x.p base.toNat) (s.sraw x.c x.p (base.toNat + 1)) + k
  | 1 => pair64 (s.sraw x.c x.p base.toNat) (s.sraw x.c x.p (base.toNat + 1)) +
      (s.v x.c x.p l idx.toNat).setWidth 64 + k
  | _ => s.v64 x.c x.p l base.toNat + k

/-- The byte offset of lane l in the forms of LDS, STS and ATOMS (R28, R187): vM + k, or k alone, exact. -/
def Ctx.poolAddr (x : Ctx) (s : State) (form : BitVec 2) (base : BitVec 8) (ofs : BitVec w) (l : Nat) : Int :=
  (if form == 2#2 then (s.v x.c x.p l base.toNat).toNat else 0 : Nat) + ofs.toInt

/-- The word index of lane l in LDP and STP (R177): zext(vM) + k, or k alone, exact. -/
def Ctx.winIndex (x : Ctx) (s : State) (form : BitVec 2) (base : BitVec 8) (ofs : BitVec 14) (l : Nat) : Nat :=
  (if form == 2#2 then (s.v x.c x.p l base.toNat).toNat else 0) + ofs.toNat

/-- Bytes of a width code (R54). -/
def widthBytes (w : BitVec 4) : Nat :=
  match w.toNat with
  | 0 => 1
  | 1 => 1
  | 2 => 2
  | 3 => 2
  | 4 => 4
  | 5 => 8
  | 6 => 16
  | _ => 4

/-- The register words that loaded bytes give (R186): zero- or sign-extended to whole words, low bytes first. -/
def loadWords (bs : List Byte) (sext : Bool) : List Word :=
  match bs.length with
  | 1 => [if sext then (BitVec.ofNat 8 (leNat bs)).signExtend 32 else (BitVec.ofNat 8 (leNat bs)).setWidth 32]
  | 2 => [if sext then (BitVec.ofNat 16 (leNat bs)).signExtend 32 else (BitVec.ofNat 16 (leNat bs)).setWidth 32]
  | n => (List.range (n / 4)).map fun k => BitVec.ofNat 32 (sliceNat bs (4 * k) 4)

/-- The bytes a store writes: the low n bytes of the registers, low bytes first (R186). -/
def storeBytes (ws : List Word) (n : Nat) : List Byte := (ws.flatMap fun w => leBytes 4 w.toNat).take n

end Sys2Proof.Machine
end

