-- ==== Sys2Proof/Machine/Order.lean ====
section
/-!
DEFINITION. Ordering and synchronisation (R195 to R226): releases and acquires and what they wait for, named barriers and barrier
objects, and the eleven instructions of the MEM ordering row.
-/
namespace Sys2Proof.Machine

/-! ### Packets (R311, R313) -/

/-- Whether a packet must be held: earlier packets for its device have yet to be answered on another port, or are held themselves. -/
def State.mustHold (s : State) (dst port : Nat) : Bool :=
  s.packets.any fun r => r.dst == dst && (r.held || (r.waiting && r.port != port))

/-- Sends a packet by the port that now leads to its device, or holds it while the route changes port; none where no route reaches the device. A
packet that is to be answered is lost 50,000 ns after it was sent. An answer may leave later than now (R214). -/
def State.sendPacket (s : State) (q : Packet) : Option State :=
  match s.portTo q.dst with
  | none => none
  | some port =>
    let hold := s.mustHold q.dst port
    let at_ := 4 * q.dst + q.kind.vc
    let n := aget 0 s.seqs at_
    let q := { q with
      id := s.nextId, port := port, held := hold, sent := max q.sent s.dtime, vc := q.kind.vc, flits := ceilDiv q.bytes.length 32, seq := n }
    let s : State := { s with nextId := s.nextId + 1, packets := s.packets ++ [q], seqs := aset 0 s.seqs at_ ((n + 1) % 2 ^ 24) }
    some (if q.waiting && !hold then s.timer false (s.dtime + 50000) .packetTimeout [q.id] else s)

/-- A packet has been answered or lost; a change of port may now take place. -/
def State.donePacket (s : State) (id : Nat) : State :=
  match s.packets.find? (·.id == id) with
  | none => s
  | some q =>
    let s : State := { s with packets := s.packets.filter (·.id != id) }
    if s.packets.any fun r => r.dst == q.dst && r.held then s.post .routeSwitch [q.dst] else s

/-! ### Line requests (R14, R17) -/

/-- The bytes that an access reads or writes: its own, and the scale of a format window (R184). -/
def Access.ranges (a : Access) : List (Nat × Nat) :=
  match a.win with
  | some (_, some k) => [(a.pa, a.n), (k, 4)]
  | _ => [(a.pa, a.n)]

/-- Whether an access reads or writes some of n bytes. -/
def Access.touches (a : Access) (pa n : Nat) : Bool := a.ranges.any fun r => overlaps r.1 r.2 pa n

/-- The lines of memory that an access requests. -/
def Access.lines (a : Access) : List Nat := a.ranges.map fun r => lineOf r.1

/-- The lines that a packet requests for the engine of a core; none for what is no engine's access. -/
def Packet.lines (q : Packet) : Nat := if q.core.isNone then 0 else ceilDiv (q.addr % 128 + max q.size q.bytes.length) 128

/-- The line requests that a core has outstanding: the lines of each instruction's accesses still to be performed, and those of the packets of its
engines that peers have yet to answer. -/
def State.lineRequests (s : State) (c : Nat) : Nat :=
  ((s.accesses.filter fun a => a.core == c && !a.done).flatMap fun a => a.lines.map fun l => (a.wave, l)).eraseDups.length +
  ((s.packets.filter fun q => q.core == some c).map Packet.lines).sum

/-- Whether a core cannot make n more line requests now: of 2,048 (R14) too few are left, and what needs them waits (R17). -/
def State.linesFull (s : State) (c n : Nat) : Bool :=
  n != 0 && 2048 < 2 * s.accesses.length + 5 * s.packets.length + n && 2048 < s.lineRequests c + n

/-- A request of engine work to a peer does not come to be made, for no route reaches the peer (R311). -/
def State.loseRequest (s : State) (q : Packet) : State :=
  { s with engLost := s.engLost ++ [(q.owner, q.nums.headD 0, q.bytes.length)] }

/-- A request of the engines of a core to a peer: it leaves once it finds line requests of the core free, after those that wait already (R17). -/
def State.requestPeer (s : State) (c : Nat) (q : Packet) : State :=
  let q := { q with waiting := true, core := some c }
  if s.unsent.any (·.core == some c) || s.linesFull c q.lines then { s with unsent := s.unsent ++ [q] }
  else (s.sendPacket q).getD (s.loseRequest q)

/-! ### Earlier accesses, releases and acquires -/

/-- A new number for an access, an operation or a release. -/
def State.fresh (s : State) : Nat × State := (s.nextId, { s with nextId := s.nextId + 1 })

/-- The MGUIDEs that have issued and are still to write the slice (R275), as work of their group. -/
def State.guideWork (s : State) : List Eng :=
  s.groups.flatMap fun e => e.2.frontier.filterMap fun y => match y.note with
    | [0xB6, _, seq, lo, n, _, _, _] =>
      if n = 0 then none
      else some { id := seq, core := e.1 / 64, grp := e.1 % 64, uid := e.2.uid, node := e.2.node, slot := e.2.slot,
                  handler := e.2.handler, foot := [(true, true, lo, n)] }
    | _ => none

/-- The group's engine work in flight (R216): copies, cards, chains, loops that read memory, rank-tile instructions, and drains that wait. -/
def State.engineIds (s : State) (uid : Nat) : List Nat :=
  (s.ops.filter (·.uid == uid)).map (·.id) ++ (s.cards.filter (·.uid == uid)).map (·.id) ++
  (s.chains.filter (·.uid == uid)).map (·.id) ++ (s.mjobs.filter fun j => j.uid == uid && j.loop).map (·.id) ++
  (s.rjobs.filter (·.uid == uid)).map (·.id) ++ (s.guideWork.filter (·.uid == uid)).map (·.id)

/-- Whether engine work of a number is still in flight. -/
def State.engineOpen (s : State) (id : Nat) : Bool :=
  s.ops.any (·.id == id) || s.cards.any (·.id == id) || s.chains.any (·.id == id) || s.mjobs.any (·.id == id) ||
  s.rjobs.any (·.id == id) || s.guideWork.any (·.id == id)

/-! ### What engine work holds (R198, R216, R229) -/

/-- The engine work in flight, as far as it is the same for all engines. DEDUCED: collectives and work entries that have fired, for which later
releases and acquires do not wait, are not among it (log entry 154). -/
def State.engineWork (s : State) : List Eng :=
  s.ops.map (·.toEng) ++ s.cards.map (·.toEng) ++ s.chains.map (·.toEng) ++ s.mjobs.map (·.toEng) ++ s.rjobs.map (·.toEng) ++
  s.guideWork

/-- The translation context of engine work. -/
def Eng.ctx (e : Eng) : Context := { root := e.root, v := e.rootV }

/-- The physical pieces of a footprint: parts that are not mapped are skipped. -/
def State.mapPieces (s : State) (e : Eng) : List (Bool × Bool × Nat × Nat) :=
  e.foot.flatMap fun f =>
    if f.2.1 || f.2.2.2 = 0 then [f]
    else
      let lo := f.2.2.1
      let hi := lo + f.2.2.2
      (List.range ((hi - 1) / 4096 + 1 - lo / 4096)).filterMap fun k =>
        let a := max lo ((lo / 4096 + k) * 4096)
        match s.translate e.core e.ctx { handler := e.handler } (BitVec.ofNat 64 a) with
        | .ok pa => some (f.1, false, pa, min hi ((lo / 4096 + k + 1) * 4096) - a)
        | .error _ => none

/-- The scale words of the format windows that hold part of a range (R184): first byte and size. -/
def State.scaleRanges (s : State) (pa n : Nat) : List (Nat × Nat) :=
  ((List.range 16).map s.fwin).filterMap fun w =>
    let lo := max pa w.lo
    let hi := min (pa + n) w.hi
    if !w.en || !w.scl || hi ≤ lo then none
    else
      let word := fun (a : Nat) => (a - w.lo) / w.size / 128
      some (w.scale + 4 * word lo, 4 * (word (hi - 1) + 1 - word lo))

/-- What work touches in physical memory and in the pool: the pieces of its footprint, and for a loop whose B is read through a format window the
scale words too (R184, R261). -/
def State.footPieces (s : State) (e : Eng) : List (Bool × Bool × Nat × Nat) :=
  s.mapPieces e ++
    if s.mjobs.any fun j => j.id == e.id && j.loop && j.tb == 7 then
      (s.mapPieces { e with foot := e.foot.drop 1 }).flatMap fun q => (s.scaleRanges q.2.2.1 q.2.2.2).map fun r => (false, false, r.1, r.2)
    else []

/-- Whether two ranges share a 128-byte line. -/
def shareLine (a n b m : Nat) : Bool := 0 < n && 0 < m && a / 128 ≤ (b + m - 1) / 128 && b / 128 ≤ (a + n - 1) / 128

/-- Words of a block of eight registers, and its local address and size as an entry's (R315). -/
def blockWord (b : List Word) (k : Nat) : Word := b.getD k 0#32
def blockPair (b : List Word) (k : Nat) : DWord := pair64 (blockWord b k) (blockWord b (k + 1))
def Work.local_ (w : Work) : DWord := blockPair w.block 0
def Work.size (w : Work) : Nat := (blockWord w.block 4).toNat

/-- The memory that a work entry has still to access: a fired GET writes, and any other that has not sent its packets reads (R317). -/
def Work.foot (w : Work) : List (Bool × Bool × Nat × Nat) :=
  if w.state != .fired || (w.kind != .get && w.sent) then [] else [(w.kind == .get, false, w.local_.toNat % 2 ^ 57, w.size)]

/-- The accesses of sequencers for groups: those of collectives that have been posted and not ended, and of work entries that have fired, which count
as the group's engine accesses (R216, R317, R329). -/
def State.sequencerWork (s : State) : List Eng :=
  (s.colls.filter fun e => [SlotState.posted, .cancelSent, .ticketed, .started].contains e.2.state).map (fun e =>
    { id := e.2.id, core := e.2.core, grp := e.2.grp, uid := e.2.uid, root := e.2.root, rootV := e.2.rootV, handler := e.2.handler,
      foot := e.2.foot }) ++
  s.work.map fun e =>
    { id := e.2.id, core := e.2.core, grp := e.2.grp, uid := e.2.uid, root := e.2.root, rootV := e.2.rootV, handler := e.2.handler,
      foot := e.2.foot }

/-- Whether work has not completed: accesses of its own are still to be made, or stores of it to peers to be answered. -/
def State.engRuns (s : State) (e : Eng) : Bool := e.outcome.isNone || (s.packets ++ s.unsent).any fun q => q.owner == e.id && q.owner != 0

/-- Whether earlier engine work of a group still has to touch a line of a range: memory by physical address, scratchpad by pool address. A
matrix loop holds only stores and atomics (R261). An MGUIDE.s that has still to write holds every later scratchpad access of its group, since it has its
place in the slice's order from its issue (R200, R275). -/
def State.engineHold (s : State) (uid before : Nat) (scr write : Bool) (a n : Nat) : Bool :=
  (scr && s.guideWork.any fun o => o.uid == uid && o.id < before) || (s.engineWork ++ s.sequencerWork).any fun o => o.uid == uid && o.id < before && s.engRuns o &&
    (write || !(s.mjobs.any (·.id == o.id))) &&
    (s.footPieces o).any fun q => q.2.1 == scr && shareLine q.2.2.1 q.2.2.2 a n

/-- Whether a sequencer must not yet access ranges of memory for work of a number: accesses and engine work of its group that come before it have still
to touch them (R198, R216). -/
def State.sequencerHeld (s : State) (uid before : Nat) (write : Bool) (ps : List (Nat × Nat)) : Bool :=
  ps.any fun r => (s.accesses.any fun a => a.uid == uid && a.id < before && !a.done && a.touches r.1 r.2) ||
    s.engineHold uid before false write r.1 r.2

/-- Whether an access, or what engine work of a number does, is still to be performed. -/
def State.undone (s : State) (id : Nat) : Bool :=
  s.accesses.any (fun a => a.id == id && !a.done) || s.engineWork.any fun e => e.id == id && s.engRuns e

/-- Whether an access still has a place: a load until its data are written, a store or atomic until it is acknowledged. -/
def State.accessOpen (s : State) (id : Nat) : Bool := s.accesses.any (·.id == id)

/-- The accesses that a release of a scope waits for (R197): system scope covers every memory, the others device memory. -/
def relevant (scope : Nat) (a : Access) : Bool := scope == 7 || windowOf a.pa == some .device

/-- Whether engine work makes accesses that a release of a scope waits for (R197, R216). -/
def State.workRelevant (s : State) (scope : Nat) (e : Eng) : Bool :=
  if scope == 7 then !e.foot.isEmpty else (s.footPieces e).any fun q => q.2.1 || windowOf q.2.2.1 == some .device

/-- A release (R202): its earlier accesses are those that the group, and engine work of the group (R216), has issued so far. -/
def State.startRelease (s : State) (c p scope : Nat) : Nat × State :=
  let g := s.grp c p
  let accs := (s.accesses.filter fun a => a.uid == g.uid && relevant scope a).map (·.id)
  let ops := (s.engineWork.filter fun e => e.uid == g.uid && s.workRelevant scope e).map (·.id)
  let r : Rel := { id := s.nextId, core := c, grp := p, uid := g.uid, slot := g.slot, scope := scope, accs := accs, ops := ops, pass := g.wct }
  (s.nextId, ({ s with nextId := s.nextId + 1, rels := s.rels ++ [r] }).post .releaseCompletion [s.nextId])

/-- Whether an access of a release still keeps it open: a load until it is performed, a store or atomic until it is acknowledged. -/
def State.relAccOpen (s : State) (id : Nat) : Bool :=
  s.accesses.any fun a => a.id == id && (a.kind != .load || !a.done)

/-- Whether a release may complete (R202). -/
def State.relReady (s : State) (r : Rel) : Bool :=
  !(r.accs.any s.relAccOpen) && !(r.ops.any s.engineOpen) && (r.scope < 4 || r.pass ≤ s.dtime)

/-- Whether a release is still pending. -/
def State.relOpen (s : State) (id : Nat) : Bool := s.rels.any (·.id == id)

/-- Folds the write-completion time of a store, an atomic or engine work into the sr.wct of the group that issued it (R208, R216), or once it has ended
into the time that its launch waits for (R339), and into the releases that wait for it (R202). -/
def State.foldWct (s : State) (c p uid id t : Nat) : State :=
  let s : State := { s with
    rels := s.rels.map fun r => if r.accs.contains id || r.ops.contains id then { r with pass := max r.pass t } else r }
  if (s.grp c p).uid == uid then s.raiseWct c p t
  else match s.launches.find? fun e => e.2.uids.contains uid with
    | none => s
    | some e => s.setLaunch e.1 { e.2 with wct := max e.2.wct t }

/-- Unpins a line (R212): one store of the whole line, whose write-completion time is now. -/
def State.unpin (s : State) (line : Nat) : State :=
  { s with pins := s.pins.filter (fun q => q.line != line),
           leases := aset 0 s.leases line (max (aget 0 s.leases line) s.dtime) }

/-- Unpins every line that a block has pinned (R211). -/
def State.unpinBlock (s : State) (c slot : Nat) : State :=
  (s.pins.filter fun q => q.core == c && q.slot == slot).foldl (fun s q => s.unpin q.line) s

/-- RELEASE_COMPLETION (R202): subject: the release. At scope cluster and wider it unpins the block's lines. -/
def State.completeRelease (s : State) (id : Nat) : State :=
  match s.rels.find? (·.id == id) with
  | none => s
  | some r =>
    if !s.relReady r then s.post .releaseCompletion [id]
    else
      let s := { s with rels := s.rels.filter (·.id != id) }
      if r.scope < 4 then s else s.unpinBlock r.core r.slot

def execReleaseCompletion (s : State) : Host.Outcome State Fault Refusal := .next (s.completeRelease (s.arg 0))

/-- The loads and atomics of the group still to be performed, for an acquire (R202), with the engine work of the group that makes accesses (R216). -/
def State.earlierLoads (s : State) (uid : Nat) : List Nat :=
  (s.accesses.filter fun a => a.uid == uid && a.kind != .store && !a.done).map (·.id) ++
  (s.engineWork.filter fun e => e.uid == uid && e.outcome.isNone && e.foot.any fun f => !f.1).map (·.id)

/-- An acquire of some lanes at a scope (R202): their later accesses wait for the group's earlier loads and atomics. -/
def State.acquire (s : State) (c p : Nat) (lanes : Word) (scope : Nat) : State :=
  let g := s.grp c p
  match s.earlierLoads g.uid with
  | [] => s
  | ids => s.setGrp c p { g with acqs := (g.acqs.filter fun k => k.2.2.any s.undone) ++ [(lanes, scope, ids)] }

/-- An acquire of the issuing entry. -/
def Ctx.acquire (x : Ctx) (scope : Nat) (s : State) : State := s.acquire x.c x.p x.e.mask scope

/-- The releases that later stores of some lanes still wait for (R220). -/
def State.gatesOf (s : State) (c p : Nat) (m : Word) : List Nat :=
  ((s.grp c p).gates.filter fun k => (k.1 &&& m) != 0#32 && s.relOpen k.2).map (·.2)

/-- Whether a number is that of an access to host memory or to a peer. -/
def State.isFar (s : State) (id : Nat) : Bool := s.accesses.any fun a => a.id == id && windowOf a.pa != some .device

/-- What later accesses of some lanes still wait for (R202). Accesses to host memory and to peers are ordered among themselves by acquires at system
scope only (R214). -/
def State.acqsOf (s : State) (c p : Nat) (m : Word) (far : Bool) : List Nat :=
  (((s.grp c p).acqs.filter fun k => (k.1 &&& m) != 0#32).flatMap fun k =>
    if far && k.2.1 != 7 then k.2.2.filter (!s.isFar ·) else k.2.2).filter s.undone

/-- Whether a store of these lanes may be performed in this step. -/
def State.storesFree (s : State) (c p : Nat) (m : Word) : Bool :=
  (s.gatesOf c p m).isEmpty && (s.acqsOf c p m false).isEmpty

/-- Whether a load of these lanes may be performed in this step. -/
def State.loadsFree (s : State) (c p : Nat) (m : Word) : Bool := (s.acqsOf c p m false).isEmpty

/-- Adds what the issuing entry must wait for before it issues again. -/
def Ctx.hold (x : Ctx) (h : List Hold) (s : State) : State :=
  let g := s.grp x.c x.p
  let s := s.setGrp x.c x.p { g with
    frontier := (List.range g.frontier.length).map fun k =>
      let e := g.frontier.getD k {}
      if k = x.n.ent then { e with holds := e.holds ++ h } else e }
  s

/-- What a waiting instruction remembers between its attempts. -/
def Ctx.remember (x : Ctx) (note : List Nat) (s : State) : State :=
  let g := s.grp x.c x.p
  s.setGrp x.c x.p { g with
    frontier := (List.range g.frontier.length).map fun k =>
      let e := g.frontier.getD k {}
      if k = x.n.ent then { e with note := note } else e }

/-- A line that another core has pinned refuses the issuing instruction's access (R210): its refusals are timed (R211), and the entry tries again after
64 cycles. -/
def Ctx.refused (x : Ctx) (lines : List Nat) (s : State) : Res :=
  .wait (x.hold [.retry (s.cycle + 64)] (s.refuseLines lines (.entry x.c x.p (s.cycle + 64))))


/-- FENCE (R220): a release and an acquire; the entry issues nothing further until both are complete. -/
def fenceBody (scope : Nat) : Ctx → State → Res := once fun x s =>
  let loads := s.earlierLoads x.g.uid
  let (id, s) := s.startRelease x.c x.p scope
  .ok (x.hold (if loads.isEmpty then [.release id] else [.release id, .accesses loads]) s)

def execFence (g : Guard) (scope : BitVec 3) (s : State) : Host.Outcome State Fault Refusal :=
  issue (.fence g scope) g (fenceBody scope.toNat) s

/-- REL (R220): a release; the entry runs on, and its later stores, atomics and arrivals wait. -/
def relBody (scope : Nat) : Ctx → State → Res := once fun x s =>
  let (id, s) := s.startRelease x.c x.p scope
  let g := s.grp x.c x.p
  .ok (s.setGrp x.c x.p { g with gates := (g.gates.filter fun k => s.relOpen k.2) ++ [(x.e.mask, id)] })

def execRel (g : Guard) (scope : BitVec 3) (s : State) : Host.Outcome State Fault Refusal :=
  issue (.rel g scope) g (relBody scope.toNat) s

/-- ACQ (R220): an acquire; the entry runs on. -/
def execAcq (g : Guard) (scope : BitVec 3) (s : State) : Host.Outcome State Fault Refusal :=
  issue (.acq g scope) g (once fun x s => .ok (x.acquire scope.toNat s)) s

/-! ### Named barriers (R221) -/

/-- The count at which the open phase of a barrier completes. -/
def State.barCount (s : State) (c slot : Nat) (b : Bar) : Nat := b.explicit.getD (s.barDefault c slot b)

/-- The offset of a barrier object in what waits for it, when its slice stands elsewhere. -/
def moveHold (from_ to_ : Nat) : Hold → Hold
  | .object a parity => .object (a - from_ + to_) parity
  | h => h

def moveKept (from_ to_ : Nat) (ks : List (Word × List Hold)) : List (Word × List Hold) := ks.map fun k => (k.1, k.2.map (moveHold from_ to_))

/-- Releases the waiters of a group whose holds are over, those that a trap has interrupted included: each observes that a phase is complete, which
is an acquire (R202). -/
def State.endHoldsOf (s : State) (c p : Nat) (past : Hold → Bool) : State :=
  let g := s.grp c p
  let mine := (g.frontier.filter fun e => e.holds.any past).map (·.mask) ++ (g.kept.filter fun k => k.2.any past).map (·.1)
  if mine.isEmpty then s
  else
    let s := s.setGrp c p { g with
      frontier := g.frontier.map fun e => { e with holds := e.holds.filter fun h => !past h }
      kept := g.kept.map fun k => (k.1, k.2.filter fun h => !past h) }
    mine.foldl (fun s m => s.acquire c p m 2) s

/-- Releases the waiters of a block, with those in groups that have yielded. -/
def State.endHolds (s : State) (c slot : Nat) (past : Hold → Bool) : State :=
  let s := ((s.residents c).filter fun p => (s.grp c p).slot == slot).foldl (fun s p => s.endHoldsOf c p past) s
  let b := s.blkAt c slot
  let base := (s.scrSlice c slot).1
  if b.yielded.isEmpty then s
  else s.setBlk c slot { b with yielded := b.yielded.map fun y => (y.1, { y.2 with
    kept := y.2.kept.map fun k => (k.1, k.2.filter fun h => !past (moveHold 0 base h)) }) }

/-- Completes the open phase of a barrier if its arrivals have reached its count, and releases those who wait for it. -/
def State.barCheck (s : State) (c slot n : Nat) : State :=
  let k := s.blkAt c slot
  let b := aget {} k.bars n
  if b.arr != 0#32 && s.barCount c slot b ≤ popCount b.arr then
    (s.setBlk c slot { k with bars := aset {} k.bars n { phases := b.phases + 1 }, phase := k.phase + 1 }).endHolds c slot fun h => match h with
      | .barrier m phase => m == n && phase ≤ b.phases
      | _ => false
  else s

/-- An arrival lands: BAR_MISMATCH when it matches neither the explicit count nor the default of the open phase. With .sync the entry then waits for
its phase, unless its own arrival has completed it; either way it observes the completion, which is an acquire. -/
def barLand (n : Nat) (cnt : Option Nat) (sync : Bool) (x : Ctx) (s : State) : Res :=
  let k := s.blkAt x.c x.g.slot
  let b := aget {} k.bars n
  if b.arr.getLsbD x.g.bgrp then .wait s 5
  else if b.arr != 0#32 && b.explicit != cnt then .fault Code.BAR_MISMATCH 0#64 s
  else
    let b := { b with arr := b.arr ||| bitMask x.g.bgrp, explicit := cnt }
    let s := s.setBlk x.c x.g.slot { k with bars := aset {} k.bars n b }
    let g := s.grp x.c x.p
    let s := s.setGrp x.c x.p { g with arrivals := aset 0 g.arrivals n (b.phases + 1) }
    let s := s.barCheck x.c x.g.slot n
    .ok (if !sync then s
      else if b.phases < (aget {} (s.blkAt x.c x.g.slot).bars n).phases then x.acquire 2 s
      else x.hold [.barrier n b.phases] s)

/-- BAR (R221): a release at block scope, and then the arrival with the count that it read as it issued; a group in its handler makes none (R360). -/
def barBody (a : VS) (n : Nat) (sync cnt : Bool) : Ctx → State → Res := once fun x s =>
  if x.g.handler then .ok s
  else match x.e.note with
    | [_, id, count] =>
      if s.relOpen id || !s.storesFree x.c x.p x.e.mask then .wait s 5
      else barLand n (if cnt then some count else none) sync x s
    | _ =>
      let count := (x.sreg s a.n).toNat
      if cnt && (count < 1 || 32 < count) then .fault Code.BAR_MISMATCH 0#64 s
      else
        let (id, s) := s.startRelease x.c x.p 2
        .wait (x.remember [0xF8, id, count] s) 5

def execBar (g : Guard) (a : VS) (n : BitVec 4) (sync cnt : Bool) (s : State) : Host.Outcome State Fault Refusal :=
  issue (.bar g a n sync cnt) g (barBody a n.toNat sync cnt) s

/-! ### Barrier objects (R222, R223) -/

/-- A barrier object's fields (R222). -/
structure BarObj where
  phase  : Bool
  expect : BitVec 15
  pend   : BitVec 15
  bytes  : Int
deriving DecidableEq, Repr

def BarObj.ofNat (w : Nat) : BarObj :=
  { phase := w / 2 ^ 63 % 2 == 1, expect := BitVec.ofNat 15 (w / 2 ^ 48), pend := BitVec.ofNat 15 (w / 2 ^ 33),
    bytes := toSigned 32 w }

def BarObj.image (o : BarObj) : List Byte :=
  leBytes 8 (boolNat o.phase * 2 ^ 63 + o.expect.toNat * 2 ^ 48 + o.pend.toNat * 2 ^ 33 + (BitVec.ofInt 32 o.bytes).toNat)

def State.barObj (s : State) (c a : Nat) : BarObj := BarObj.ofNat (leNat (s.poolBytes c a 8))

/-- Entries that wait in FWAIT read their word again after a write (R224). -/
def State.wakeWaits (s : State) : State :=
  s.groups.foldl (fun s e =>
    if e.2.frontier.any fun x => match x.note with
      | [0xF7, _, 0, _, _] => true
      | _ => false
    then s.post .fwaitReread [e.1 / 64, e.1 % 64] else s) s

/-- Writes an object, completing its phase when nothing is due any more (R222): every waiter whose parity now differs from PHASE is released. An
FWAIT on its bytes reads them again. -/
def State.setBarObj (s : State) (c a : Nat) (o : BarObj) : State :=
  let full := o.pend == 0#15 && o.bytes == 0
  let o := if full then { o with phase := !o.phase, pend := o.expect } else o
  let s := (s.setPoolBytes c a o.image).wakeWaits
  if full then (List.range 64).foldl (fun s slot => if (s.blkAt c slot).live then s.endHolds c slot (fun h => match h with
    | .object b parity => b == a && parity != o.phase
    | _ => false) else s) s
  else s

def State.tagged (s : State) (c a : Nat) : Bool := s.tags.contains (poolKey c a)

/-- Whether a byte range of the pool touches a tagged word (R187). -/
def State.clobbers (s : State) (c a n : Nat) : Bool := s.tags.any fun t => overlaps t 8 (poolKey c a) n

/-- An arrival on a tagged object, with bytes added before it and bytes delivered: none for BARRIER_OVER (R223). -/
def BarObj.arrive (o : BarObj) (add : Int) (arrivals : Nat) : Option BarObj :=
  let b := o.bytes + add
  if o.pend.toNat < arrivals || b < -(2 ^ 31) || 2 ^ 31 ≤ b then none
  else some { o with pend := BitVec.ofNat 15 (o.pend.toNat - arrivals), bytes := b }

/-- The offset faults of the slice instructions, in order (R187, R223): SCR_RANGE, then MISALIGN. -/
def scrFault (size : Nat) (ofs : Int) (n align : Nat) : Option Nat :=
  if ofs < 0 || (size : Int) < ofs + n then some Code.SCR_RANGE
  else if ofs.toNat % align != 0 then some Code.MISALIGN
  else none

/-- A scratchpad fault of the whole instruction: sr.faddr receives the byte offset within the slice (R187). DEDUCED: an offset does not wrap, and of one
that is negative or beyond 32 bits sr.faddr holds the low 32 bits (log entry 176). -/
def Ctx.scrRaise (x : Ctx) (code : Nat) (ofs : Int) (s : State) : Res :=
  .fault code 0#64 (s.faultAt x.c x.p ((BitVec.ofInt 32 ofs).setWidth 64))

/-- Runs a barrier-object instruction on the object's pool address, after its offset faults and BARRIER_NONE (R223). -/
def withObject (ofs : Nat) (needTag : Bool) (body : Nat → Ctx → State → Res) (x : Ctx) (s : State) : Res :=
  let (base, size) := s.scrSlice x.c x.g.slot
  match scrFault size ofs 8 8 with
  | some code => x.scrRaise code ofs s
  | none =>
    if s.engineHold x.g.uid s.nextId true true (base + ofs) 8 then .wait s
    else if needTag && !s.tagged x.c (base + ofs) then x.scrRaise Code.BARRIER_NONE ofs s
    else body (base + ofs) x s

/-- Whether some entry of the block waits on an object (R223), in a group that is in its handler or has yielded as well. -/
def State.objWaiters (s : State) (c slot a : Nat) : Bool :=
  let on := fun (ofs : Nat) (hs : List Hold) => hs.any fun h => match h with
    | .object b _ => b == ofs
    | _ => false
  (s.residents c).any (fun p =>
    let g := s.grp c p
    g.slot == slot && (g.frontier.any (fun e => on a e.holds) || g.kept.any fun k => on a k.2)) ||
  (s.blkAt c slot).yielded.any fun y => y.2.kept.any fun k => on (a - (s.scrSlice c slot).1) k.2

/-- BOINIT (R223): tags and initialises an object, or removes its tag; BARRIER_BUSY when it has a waiter. A count outside 1 to
32,767 gives no stated object: its count is a free value. -/
def boinitBody (sa : BitVec 8) (b : VS) (inv : Bool) : Ctx → State → Res := once fun x s =>
  if !s.storesFree x.c x.p x.e.mask then .wait s 4
  else withObject (x.sreg s sa).toNat false (fun a x s =>
    if s.tagged x.c a && s.objWaiters x.c x.g.slot a then x.scrRaise Code.BARRIER_BUSY (x.sreg s sa).toNat s
    else if inv then .ok { s with tags := s.tags.filter (· != poolKey x.c a) }
    else
      let n := (x.sreg s b.n).toNat
      let count := if 1 ≤ n && n ≤ 32767 then BitVec.ofNat 15 n else (Config.freeWord s.freeCount 0).setWidth 15
      let o : BarObj := { phase := false, expect := count, pend := count, bytes := 0 }
      let s := if s.tagged x.c a then s else { s with tags := s.tags ++ [poolKey x.c a] }
      .ok (s.setPoolBytes x.c a o.image).wakeWaits) x s

def execBoinit (g : Guard) (sa : BitVec 8) (b : VS) (inv : Bool) (s : State) : Host.Outcome State Fault Refusal :=
  issue (.boinit g sa b inv) g (boinitBody sa b inv) s

/-- BOARR (R223): a release at block scope; then the bytes are added and the arrival lowers PEND, with the operands that the instruction read as it
issued. Its place in the slice's total order (R200) is that of the arrival, after the release: slice accesses that other entries of the group issue
while the release runs come before it. That place is the model's choice (log 163): R200 keeps the group's issue order and R223 puts the update after
the release. -/
def boarrBody (sd sa : BitVec 8) (b : VS) (tx : Bool) : Ctx → State → Res := once fun x s =>
  match x.e.note with
  | [] => let (id, s) := s.startRelease x.c x.p 2
          .wait (x.remember [0xA8, id, (x.sreg s sa).toNat, (x.sreg s b.n).toNat] s) 4
  | _ :: note =>
    let ofs := note.getD 1 0
    if s.relOpen (note.getD 0 0) || !s.storesFree x.c x.p x.e.mask then .wait s 4
    else withObject ofs true (fun a x s =>
      let o := s.barObj x.c a
      match o.arrive (if tx then (note.getD 2 0 : Int) else 0) 1 with
      | none => x.scrRaise Code.BARRIER_OVER ofs s
      | some o' => .ok (x.putS sd (BitVec.ofNat 32 (boolNat o.phase)) (s.setBarObj x.c a o'))) x s

def execBoarr (g : Guard) (sd sa : BitVec 8) (b : VS) (tx : Bool) (s : State) : Host.Outcome State Fault Refusal :=
  issue (.boarr g sd sa b tx) g (boarrBody sd sa b tx) s

/-- BOWAIT (R223): the entry is not eligible until PHASE differs from the parity, and that is an acquire. -/
def bowaitBody (sa sb : BitVec 8) : Ctx → State → Res := once fun x s =>
  if !s.loadsFree x.c x.p x.e.mask then .wait s 4
  else withObject (x.sreg s sa).toNat true (fun a x s =>
    if (s.barObj x.c a).phase != (x.sreg s sb).getLsbD 0 then .ok (x.acquire 2 s)
    else .ok (x.hold [.object a ((x.sreg s sb).getLsbD 0)] s)) x s

def execBowait (g : Guard) (sa sb : BitVec 8) (s : State) : Host.Outcome State Fault Refusal :=
  issue (.bowait g sa sb) g (bowaitBody sa sb) s

/-- BOTRY (R223): 1 and an acquire when PHASE differs from the parity, otherwise 0. -/
def botryBody (sd sa sb : BitVec 8) : Ctx → State → Res := once fun x s =>
  if !s.loadsFree x.c x.p x.e.mask then .wait s 4
  else withObject (x.sreg s sa).toNat true (fun a x s =>
    if (s.barObj x.c a).phase != (x.sreg s sb).getLsbD 0 then .ok (x.putS sd 1#32 (x.acquire 2 s))
    else .ok (x.putS sd 0#32 s)) x s

def execBotry (g : Guard) (sd sa sb : BitVec 8) (s : State) : Host.Outcome State Fault Refusal :=
  issue (.botry g sd sa sb) g (botryBody sd sa sb) s

/-! ### FWAIT, DTIME and WCT (R224, R225) -/

/-- A memory fault: sr.faddr receives the address (R181, R359); PRIV is none and reports no address (R354). -/
def Ctx.memRaise (x : Ctx) (code : Nat) (addr : DWord) (s : State) : Res :=
  if code == Code.PRIV then .fault code 0#64 s
  else .fault code 0#64 (s.faultAt x.c x.p (BitVec.ofNat 64 (addr.toNat % 2 ^ 57)))

/-- Whether an earlier access of the group to these bytes is still to be performed (R198). -/
def State.ownPending (s : State) (uid pa n : Nat) : Bool :=
  (s.accesses.any fun a => a.uid == uid && !a.done && a.touches pa n) || s.engineHold uid s.nextId false false pa n

/-- The place of the word that FWAIT tests (R224): its physical address, or its pool address with .s; or the fault of its first read. -/
def fwaitAddr (sa : BitVec 8) (inSlice : Bool) (x : Ctx) (s : State) : Except (Nat × DWord) Nat :=
  if inSlice then
    let ofs := (x.sreg s sa).toNat
    let (base, size) := s.scrSlice x.c x.g.slot
    match scrFault size ofs 4 4 with
    | some code => .error (code, BitVec.ofNat 64 ofs)
    | none => .ok (base + ofs)
  else
    let addr := x.sreg64 s sa
    match s.translate x.c (s.launchOf x.c x.p).context { handler := x.g.handler } addr with
    | .error code => .error (code, addr)
    | .ok pa => if pa % 4 != 0 then .error (Code.MISALIGN, addr) else .ok pa

/-- The word that FWAIT reads: at the slice, or at its home. A word of a peer's memory is not held here: a free value. -/
def fwaitWord (inSlice : Bool) (x : Ctx) (a : Nat) (s : State) : Word := leWord (if inSlice then s.poolBytes x.c a 4 else s.readAt a 4)

/-- One test of FWAIT (R224) on its word, against the value that it read from its register at issue. A read at the home reaches an older copy in L1
(R198). -/
def fwaitTest (sd : BitVec 8) (cc : Nat) (inSlice : Bool) (deadline a : Nat) (b : Word) (x : Ctx) (s : State) : Res :=
  let v := fwaitWord inSlice x a s
  let s := if inSlice then s else s.freshenCopy x.c (lineOf a)
  if intCmp cc v b then .ok (x.putS sd v (x.acquire 6 s))
  else if deadline ≤ s.dtime then .ok (x.putS sd v s)
  else .wait ((x.remember [0xF7, deadline, 0, a, b.toNat] s).timer false (min deadline (s.dtime + 128)) .fwaitReread [x.c, x.p])

/-- FWAIT (R224): tests the word, at once and then whenever it is read again, until the test holds or the deadline has passed. The deadline counts
from its issue, and its faults are those of its first read. -/
def fwaitBody (sd sa sb sc : BitVec 8) (cc : Nat) (inSlice : Bool) : Ctx → State → Res := once fun x s =>
  let first : Except (Nat × DWord) (Nat × Nat × Nat × Word) := match x.e.note with
    | [0xF7, deadline, k, a, b] => .ok (deadline, k, a, BitVec.ofNat 32 b)
    | _ => (fwaitAddr sa inSlice x s).map fun a => (s.dtime + (x.sreg s sc).toNat, 1, a, x.sreg s sb)
  match first with
  | .error (code, addr) => x.memRaise code addr s
  | .ok (deadline, k, a, b) =>
    if k = 0 then .wait s
    else if !s.loadsFree x.c x.p x.e.mask || (!inSlice && s.ownPending x.g.uid a 4) ||
        (if inSlice then s.engineHold x.g.uid s.nextId true false a 4 else s.linesFull x.c 1) then .wait (x.remember [0xF7, deadline, 1, a, b.toNat] s)
    else match if inSlice then [] else s.pinnedLines x.c a 4 with
      | [] => fwaitTest sd cc inSlice deadline a b x s
      | ls => x.refused ls (x.remember [0xF7, deadline, 1, a, b.toNat] s)

def execFwait (g : Guard) (sd sa sb sc : BitVec 8) (cc : BitVec 4) (inSlice : Bool) (s : State) :
    Host.Outcome State Fault Refusal :=
  issue (.fwait g sd sa sb sc cc inSlice) g (fwaitBody sd sa sb sc cc.toNat inSlice) s

/-- FWAIT_REREAD (R224): subject: core and group. Entries that wait in an FWAIT read their word again at their next attempt. -/
def execFwaitReread (s : State) : Host.Outcome State Fault Refusal :=
  let c := s.arg 0
  let p := s.arg 1
  let g := s.grp c p
  .next (s.setGrp c p { g with
    frontier := g.frontier.map fun e => match e.note with
      | [0xF7, d, 0, a, b] => { e with note := [0xF7, d, 1, a, b], waited := false }
      | _ => e })

/-- Waits until the accesses and engine work that were open at the first attempt have gone; the body has the operand that it then read. -/
def afterOpen (ids : State → List Nat) (now : DWord) (body : DWord → Ctx → State → Res) (x : Ctx) (s : State) : Res :=
  match x.e.note with
  | _ :: op :: l => if l.any fun id => s.accessOpen id || s.engineOpen id then .wait s else body (BitVec.ofNat 64 op) x s
  | _ =>
    let l := ids s
    if l.isEmpty then body now x s else .wait (x.remember (0xC0 :: now.toNat :: l) s)

/-- Stores and atomics of the group still to be acknowledged, its engines' among them (R225, R216). -/
def State.openStores (s : State) (uid : Nat) : List Nat :=
  (s.accesses.filter fun a => a.uid == uid && a.kind != .load).map (·.id) ++ s.engineIds uid

/-- Loads still to return and stores still to be acknowledged (R225). -/
def State.openAll (s : State) (uid : Nat) : List Nat :=
  (s.accesses.filter fun a => a.uid == uid).map (·.id) ++ s.engineIds uid

/-- DTIME (R225): device time, with .ord after every earlier access. -/
def dtimeBody (sd : BitVec 8) (ord : Bool) : Ctx → State → Res := once fun x s =>
  if ord then afterOpen (fun s => s.openAll x.g.uid) 0#64 (fun _ x s => .ok (x.putS64 sd (BitVec.ofNat 64 s.dtime) s)) x s
  else .ok (x.putS64 sd (BitVec.ofNat 64 s.dtime) s)

def execDtime (g : Guard) (sd : BitVec 8) (ord : Bool) (s : State) : Host.Outcome State Fault Refusal :=
  issue (.dtime g sd ord) g (dtimeBody sd ord) s

/-- WCT (R225): sr.wct after every earlier store and atomic is acknowledged. -/
def wctBody (sd : BitVec 8) : Ctx → State → Res := once fun x s =>
  afterOpen (fun s => s.openStores x.g.uid) 0#64
    (fun _ x s => .ok (x.putS64 sd (BitVec.ofNat 64 (s.grp x.c x.p).wct) s)) x s

def execWct (g : Guard) (sd : BitVec 8) (s : State) : Host.Outcome State Fault Refusal :=
  issue (.wct g sd) g (wctBody sd) s

end Sys2Proof.Machine
end

