-- ==== Sys2Proof/Machine/Engine.lean ====
section
/-!
DEFINITION. What every engine shares (R216, R217, R364): what its work waits for, how it reaches memory, how a token is written, and
the freezing of a master by a violation.
-/
namespace Sys2Proof.Machine

/-! ### Violations (R47, R217, R364) -/


/-- A violation freezes an engine instance of a core (R364). -/
def State.freezeEngine (s : State) (c cls : Nat) (addr : DWord) : State :=
  if s.frozenEng.any fun f => f.1 == c && f.2.1 == cls then s
  else { s with frozenEng := s.frozenEng ++ [(c, cls, BitVec.ofNat 64 (addr.toNat % 2 ^ 57))] }

/-- Whether an engine instance accepts no work. -/
def State.engineFrozen (s : State) (c cls : Nat) : Bool := (s.core c).frozen || s.frozenEng.any fun f => f.1 == c && f.2.1 == cls

/-! ### Memory as engines reach it -/

/-- Why engine work stops: a fault at an address, or a violation. -/
inductive EngStop where
  | fault (code : Nat) (addr : DWord)
  | violate (addr : DWord)
deriving DecidableEq, Repr

/-- The physical pieces of a virtual range, for engine work: control space is a violation (R364), and so is a write to running code
(R47). -/
def State.engPieces (s : State) (c : Nat) (x : Context) (write handler : Bool) (addr : DWord) (n : Nat) :
    Except EngStop (List (Nat × Nat)) :=
  if n = 0 then .ok []
  else match s.translateRange c x { write := write, handler := handler } addr n with
    | .error (code, a) => if code == Code.PRIV then .error (.violate a) else .error (.fault code a)
    | .ok ps =>
      if ps.any fun q => windowOf q.1 == some .control then .error (.violate addr)
      else if write && ps.any fun q => s.holdsCode q.1 q.2 then .error (.violate addr)
      else .ok ps

def State.readPieces (s : State) (ps : List (Nat × Nat)) : List Byte := ps.flatMap fun q => s.readAt q.1 q.2

/-- Engine read of a virtual range. -/
def State.engRead (s : State) (c : Nat) (x : Context) (handler : Bool) (addr : DWord) (n : Nat) : Except EngStop (List Byte) :=
  match s.engPieces c x false handler addr n with
  | .error e => .error e
  | .ok ps => .ok (s.readPieces ps)

/-- After an engine read of a virtual range the copies of its lines that the core's lanes may hit are no older than what it read (R198, R216). -/
def State.engFresh (s : State) (c : Nat) (x : Context) (handler : Bool) (addr : DWord) (n : Nat) : State :=
  match s.engPieces c x false handler addr n with
  | .error _ => s
  | .ok ps => s.freshenPieces c ps

/-- The same for what work has still to read of its footprint. -/
def State.freshenFoot (s : State) (e : Eng) : State :=
  s.freshenPieces e.core (((s.footPieces e).filter fun q => !q.1 && !q.2.1).map fun q => (q.2.2.1, q.2.2.2))

/-- The pieces of a range that lie each in one aligned block of 512 bytes (R312): offset and length. -/
def blocks512 (a n : Nat) : List (Nat × Nat) :=
  (List.range ((a + n + 511) / 512 - a / 512)).map fun k =>
    let lo := max a ((a / 512 + k) * 512)
    (lo - a, min (a + n) ((a / 512 + k + 1) * 512) - lo)

/-- A store of engine work: performed here with the time it answers, or sent to the peer whose memory it names (R214). -/
def State.engStore (s : State) (c owner ofs pa : Nat) (bs : List Byte) : State × Nat :=
  if windowOf pa == some .remote then
    ((blocks512 pa bs.length).foldl (fun s b =>
      s.requestPeer c { kind := .coreWrite, dst := pa / 2 ^ 40 % 256, addr := pa % 2 ^ 40 + b.1, nums := [ofs + b.1],
                        bytes := slice bs b.1 b.2, owner := owner }) s, s.dtime)
  else s.storeNow c pa bs

/-- Stores bytes into pieces; the completion time of the last. -/
def State.storePieces (s : State) (c owner ofs : Nat) : List (Nat × Nat) → List Byte → Nat → State × Nat
  | [], _, t => (s, t)
  | q :: rest, bs, t =>
    let r := s.engStore c owner ofs q.1 (bs.take q.2)
    r.1.storePieces c owner (ofs + q.2) rest (bs.drop q.2) (max t r.2)

/-- Engine write of a virtual range, at an offset of the work: the state and its write-completion time. -/
def State.engWrite (s : State) (c owner ofs : Nat) (x : Context) (handler : Bool) (addr : DWord) (bs : List Byte) :
    Except EngStop (State × Nat) :=
  match s.engPieces c x true handler addr bs.length with
  | .error e => .error e
  | .ok ps => .ok (s.storePieces c owner ofs ps bs s.dtime)

/-- Whether answers from peers to engine work are still to come. -/
def State.awaitsPeer (s : State) (id : Nat) : Bool := (s.packets ++ s.unsent).any fun q => q.owner == id && q.owner != 0

/-- The least offset at which engine work has lost a write to a peer. -/
def State.lostAt (s : State) (id : Nat) : Option Nat :=
  (s.engLost.filter (·.1 == id)).foldl (fun b q => some (match b with
    | none => q.2.1
    | some k => min k q.2.1)) none

/-- The token of work that may have lost a packet: FABRIC_LOST (R311), and DONE counts only what lies below the loss and has been stored (R230). -/
def State.lostToken (s : State) (id : Nat) (v : Word) : Word :=
  match s.lostAt id with
  | none => v
  | some k => BitVec.ofNat 32 (2 ^ 31 + Code.FABRIC_LOST * 2 ^ 24 + min k (v.toNat % 2 ^ 24))

/-- Puts the next step of engine work on the agenda, after an answer from a peer. -/
def State.wakeEngine (s : State) (id : Nat) : State :=
  let s := if s.ops.any (·.id == id) then s.post .asyncCompletion [id] else s
  let s := if s.cards.any (·.id == id) then s.post .cardCompletion [id] else s
  let s := match s.chains.find? (·.id == id) with
    | some h => s.post .chainCompletion [h.core, h.part]
    | none => s
  let s := match s.burns.find? fun b => b.uid == id && b.ended.isSome with
    | some b => s.post .nodeCompletion [b.node]
    | none => s
  match s.rjobs.find? (·.id == id) with
  | some j => s.post .burnisherCommit [j.core]
  | none => s

/-- The entry of a number of engine work. -/
def State.workOf (s : State) (id : Nat) : Option Nat := (s.work.find? fun e => e.2.id == id && e.2.state == .fired).map (·.1)

/-- After an answer to engine work at a peer: its times, and its next step. -/
def State.wakeOwner (s : State) (id : Nat) : State :=
  let s := match s.engineWork.find? (·.id == id) with
    | some e => s.foldWct e.core e.grp e.uid e.id s.dtime
    | none => s
  let s := s.wakeEngine id
  let s := match s.workOf id with
    | some e => s.post .entryCompletion [e]
    | none => s
  match s.colls.find? fun e => e.2.id == id && e.2.state == .started with
  | some e => s.post .collectiveEnd [e.1]
  | none => s

/-- Requests of engines that wait for line requests try to leave again, in their order (R17); what finds no route is lost. -/
def State.sendUnsent (s : State) : State :=
  s.unsent.foldl (fun s q =>
    let t := s.requestPeer (q.core.getD 0) q
    if t.engLost.length = s.engLost.length then t else t.wakeOwner q.owner) { s with unsent := [] }

/-- Changes the common part of the work of a number. -/
def State.updEng (s : State) (id : Nat) (f : Eng → Eng) : State :=
  let at_ := fun (e : Eng) => if e.id == id then f e else e
  { s with
    ops := s.ops.map fun k => { k with toEng := at_ k.toEng }
    cards := s.cards.map fun k => { k with toEng := at_ k.toEng }
    chains := s.chains.map fun k => { k with toEng := at_ k.toEng }
    rjobs := s.rjobs.map fun k => { k with toEng := at_ k.toEng } }

/-- The parts of ranges that lie at peers: physical address, length, and the offset of the work at which each begins. A range is given by its
virtual address, its length, the offset at which it begins, and how many bytes make one unit of offset; a packet answers for bytes of one block of 512
(R312). -/
def State.peerParts (s : State) (e : Eng) (rs : List (Nat × Nat × Nat × Nat)) : List (Nat × Nat × Nat) :=
  rs.flatMap fun r => match s.translateRange e.core e.ctx { handler := e.handler } (BitVec.ofNat 64 r.1) r.2.1 with
    | .ok ps => (ps.foldl (fun (a : List (Nat × Nat × Nat) × Nat) q =>
        (if windowOf q.1 == some .remote then
           a.1 ++ (blocks512 q.1 q.2).map fun b => (q.1 + b.1, b.2, r.2.2.1 + (a.2 + b.1) / r.2.2.2) else a.1, a.2 + q.2)) ([], 0)).1
    | .error _ => []

/-- Asks peers for what engine work is to read (R214), once for each offset of the work; none when nothing is asked for, or every answer
has come or been lost (R311), and the work goes on. The bytes that come are free values of the peer. -/
def State.askPeers (s : State) (e : Eng) (key : Nat) (rs : List (Nat × Nat × Nat × Nat)) : Option State :=
  if e.asked == some key then (if s.awaitsPeer e.id then some s else none)
  else match s.peerParts e rs with
    | [] => none
    | ps =>
      if s.awaitsPeer e.id then some s
      else
        let s := s.updEng e.id fun x => { x with asked := some key }
        let s := ps.foldl (fun s q =>
          s.requestPeer e.core { kind := .coreRead, dst := q.1 / 2 ^ 40 % 256, addr := q.1 % 2 ^ 40, nums := [q.2.2], owner := e.id,
                                 size := q.2.1 }) s
        some (if s.awaitsPeer e.id then s else s.wakeEngine e.id)

/-- The least offset at or above one at which engine work has lost an access at a peer. -/
def State.lostFrom (s : State) (id key : Nat) : Option Nat := (s.lostAt id).filter (key ≤ ·)

/-! ### What engine work waits for (R198, R202, R216) -/

/-- Whether work may make its accesses now: its releases are complete, the accesses before it performed, and so is the earlier work of
its group that touches the same bytes. -/
def State.engineReady (s : State) (e : Eng) : Bool :=
  !(e.afterRel.any s.relOpen) && !(e.afterAcc.any s.undone) &&
  !((s.footPieces e).any fun q => s.engineHold e.uid e.id q.2.1 q.1 q.2.2.1 q.2.2.2)

/-- Lines of the work's footprint that another core has pinned (R210). -/
def State.enginePinned (s : State) (e : Eng) : List Nat :=
  (s.pins.filter fun q => q.core != e.core &&
    (s.footPieces e).any fun u => !u.2.1 && overlaps u.2.2.1 u.2.2.2 (128 * q.line) 128).map (·.line)

/-- What engine work does while it cannot make its accesses: it tries again, after 64 cycles when a pin has refused it (R210); or
while it needs a line and its core has no line request left (R17); none when it can. -/
def State.engineWaits (s : State) (e : Eng) (what : Instr) (nums : List Nat) : Option State :=
  if !s.engineReady e || s.linesFull e.core (boolNat (e.foot.any fun f => !f.2.1 && f.2.2.2 != 0)) then some (s.post what nums)
  else match s.enginePinned e with
    | [] => none
    | ls => some (s.retryStep ls what nums)

/-- The common part of work that a group issues now. -/
def Ctx.engine (x : Ctx) (foot : List (Bool × Bool × Nat × Nat)) (s : State) : Eng :=
  let l := s.launchOf x.c x.p
  { id := s.nextId, core := x.c, grp := x.p, uid := x.g.uid, node := x.g.node, slot := x.g.slot, blk := (s.blkAt x.c x.g.slot).blk,
    root := l.root, rootV := l.rootV, handler := x.g.handler, nth := (s.grp x.c x.p).asyncs, afterRel := s.gatesOf x.c x.p x.e.mask,
    afterAcc := (s.accesses.filter fun a => a.uid == x.g.uid && !a.done).map (·.id) ++ s.acqsOf x.c x.p x.e.mask false, foot := foot }

/-! ### Tokens (R61, R228) -/

/-- Counts an operation of the group that contributes to the digest (R345). -/
def Ctx.countAsync (x : Ctx) (s : State) : State :=
  let g := s.grp x.c x.p
  s.setGrp x.c x.p { g with asyncs := g.asyncs + 1 }

/-- A token is pending from the issue of its operation. -/
def Ctx.openToken (x : Ctx) (sd : BitVec 8) (s : State) : State :=
  let g := s.grp x.c x.p
  s.setGrp x.c x.p { g with tokens := g.tokens ++ [sd.toNat] }

/-- Writes a token in the file that its instruction named: h0 to h7 when a handler issued it (R354). -/
def State.writeToken (s : State) (e : Eng) (reg : Nat) (v : Word) : State :=
  let g := s.grp e.core e.grp
  if g.uid != e.uid then s
  else
    let s := s.setGrp e.core e.grp { g with tokens := g.tokens.erase reg }
    if e.handler && 120 ≤ reg then
      let g := s.grp e.core e.grp
      s.setGrp e.core e.grp { g with shadow := aset 0#32 g.shadow (reg - 120) v }
    else s.setSraw e.core e.grp reg v

/-- A token value (R147, R230): F, CODE and DONE. -/
def tokenOf (code done : Nat) : Word :=
  BitVec.ofNat 32 (boolNat (code != 0) * 2 ^ 31 + code * 2 ^ 24 + done % 2 ^ 24)

/-! ### Descriptors that an instruction reads at issue -/

/-- Reads the n bytes of a descriptor at its home once the group's earlier accesses allow it (R198, R202), and no other core has pinned it
(R210). -/
def Ctx.withDesc (x : Ctx) (addr : DWord) (n : Nat) (body : List Byte → Ctx → State → Res) (s : State) : Res :=
  if !s.loadsFree x.c x.p x.e.mask then .wait s 4
  else match s.translateRange x.c (s.launchOf x.c x.p).context { handler := x.g.handler } addr n with
    | .error (code, a) => x.memRaise code a s
    | .ok ps =>
      if ps.any (fun q => s.ownPending x.g.uid q.1 q.2) || s.linesFull x.c (linesIn ps) then .wait s
      else match s.pinnedBy x.c ps with
        | [] => body (s.readPieces ps) x (s.freshenPieces x.c ps)
        | ls => x.refused ls s

end Sys2Proof.Machine
end

