-- ==== Sys2Proof/Machine/Ctl.lean ====
section
/-!
DEFINITION. Class CTL (R62 to R90): transfers, rejoin registers, regrouping, yield and sleep, and the steps of the hardware that
belong to them. ITER stands with the floating-point instructions, whose comparison it uses.
-/
namespace Sys2Proof.Machine

/-! ### Transfers -/

/-- The target of a format B instruction (R55): its own address plus 8 times the signed offset. -/
def Ctx.target (x : Ctx) (ofs : BitVec 32) : DWord := x.pc + 8#64 * ofs.signExtend 64

/-- The clause header after the issuing clause (R70). -/
def Ctx.fall (x : Ctx) : DWord := (nextPos x.e.hdr x.n.count x.n.count).1

/-- Replaces the issuing entry by the parts of a split, each a header and its lanes, in order (R64). -/
def Ctx.split (x : Ctx) (parts : List (DWord × Word)) (s : State) : State :=
  let g := s.grp x.c x.p
  let new := (parts.filter fun q => q.2 != 0#32).map fun q => s.arrive x.c x.p q.1 q.2 x.pc
  s.setGrp x.c x.p { g with frontier := replaceAt g.frontier x.n.ent new }

/-- Lanes that go to one target, the others falling through (R70); the taken entry stands first when HINT is 1 (R64). -/
def Ctx.branch (x : Ctx) (hint : Bool) (target : DWord) (taken : Word) (s : State) : State :=
  let t := (target, taken)
  let f := (x.fall, x.e.mask &&& ~~~taken)
  x.split (if hint then [t, f] else [f, t]) s

/-- An address of code: bits 63:57 are ignored (R72). -/
def codeAddr (a : DWord) : DWord := a &&& 0x01FFFFFFFFFFFFFF#64

/-- Lanes that go each to its own address (R72): equal addresses form one entry, entries in the order of their lowest lanes, the
lanes that fall through among them. -/
def Ctx.scatter (x : Ctx) (dest : Nat → DWord) (s : State) : State :=
  let where_ := fun l => if x.live.getLsbD l then codeAddr (dest l) else x.fall
  let parts := (lanesOf x.e.mask).foldl (fun (ps : List (DWord × Word)) l =>
    if ps.any (·.1 == where_ l) then ps.map fun q => if q.1 == where_ l then (q.1, q.2 ||| bitMask l) else q
    else ps ++ [(where_ l, bitMask l)]) []
  x.split parts s

def execNop (g : Guard) (s : State) : Host.Outcome State Fault Refusal :=
  issue (.nop g) g (fun _ s => .ok s) s

/-- BRA (R71). -/
def execBra (g : Guard) (hint : Bool) (ofs : BitVec 32) (s : State) : Host.Outcome State Fault Refusal :=
  issue (.bra g hint ofs) g (fun x s => .done (x.branch hint (x.target ofs) x.live s)) s

/-- BRX (R72). -/
def execBrx (g : Guard) (a : VS) (s : State) : Host.Outcome State Fault Refusal :=
  issue (.brx g a) g (fun x s => .done (x.scatter (fun l => x.src64 s a l) s)) s

/-- CALL (R73): the return address goes to the link pair, and then the lanes transfer. -/
def execCall (g : Guard) (hint : Bool) (a : VS) (ofs : BitVec 32) (s : State) : Host.Outcome State Fault Refusal :=
  issue (.call g hint a ofs) g
    (fun x s => .done (x.branch hint (x.target ofs) x.live (x.put64 a (fun _ => x.fall) s))) s

/-- CALLX (R73): all reads come before the link is written (R36). -/
def execCallx (g : Guard) (d a : VS) (s : State) : Host.Outcome State Fault Refusal :=
  issue (.callx g d a) g
    (fun x s => .done (x.scatter (fun l => x.src64 s a l) (x.put64 d (fun _ => x.fall) s))) s

/-- RET (R73). -/
def execRet (g : Guard) (a : VS) (s : State) : Host.Outcome State Fault Refusal :=
  issue (.ret g a) g (fun x s => .done (x.scatter (fun l => x.src64 s a l) s)) s

/-- LOOP (R75): the counter falls by 1 in each lane of Active, and the lanes whose new count is not zero are taken. -/
def loopBody (hint : Bool) (a : VS) (ofs : BitVec 32) (x : Ctx) (s : State) : Res :=
  let new := fun l => x.src s a l - 1#32
  let taken := maskWhere (fun l => new l != 0#32) &&& x.live
  .done (x.branch hint (x.target ofs) taken (x.put a new s))

def execLoop (g : Guard) (hint : Bool) (a : VS) (ofs : BitVec 32) (s : State) : Host.Outcome State Fault Refusal :=
  issue (.loop g hint a ofs) g (loopBody hint a ofs) s

/-! ### Rejoin registers (R77 to R83) -/

def JReg.disarm (j : JReg) : JReg := { j with armed := false, arr := 0#32, timing := false, left := 0, ripe := false }

def State.jreg (s : State) (c p k : Nat) : JReg := aget {} (s.grp c p).jregs k

def State.setJreg (s : State) (c p k : Nat) (j : JReg) : State :=
  let g := s.grp c p
  s.setGrp c p { g with jregs := aset {} g.jregs k j }

/-- Releases or times out a rejoin register (R79, R80): every lane parked there goes on, with the flag in its predicate, at the end
of the list; the register disarms. Where that frees lanes of several words, the entries stand in the order in which the first lane of each parked: R79
does not give one (log entry 148). -/
def State.releaseJ (s : State) (c p k : Nat) (flag : Bool) : State :=
  let g := s.grp c p
  let mine := g.parked.filter fun q => q.kind == .jwait && q.j == k
  let es := mine.foldl (fun es q => addEntry es { s.arrive c p q.hdr q.mask q.src with idx := q.idx }) g.frontier
  let s := s.setGrp c p { g with
    parked := g.parked.filter fun q => !(q.kind == .jwait && q.j == k)
    frontier := es, jregs := aset {} g.jregs k (aget {} g.jregs k).disarm }
  mine.foldl (fun s q =>
    let old := s.p c p q.pd
    s.setP c p q.pd (if flag then old ||| q.mask else old &&& ~~~q.mask)) s

/-- A full join releases, and an expectation with nobody left disarms (R79, R81). -/
def State.checkJ (s : State) (c p k : Nat) : State :=
  let j := s.jreg c p k
  if !j.armed then s
  else if j.arr != 0#32 && j.arr == j.exp then s.releaseJ c p k false
  else if j.exp == 0#32 && j.arr == 0#32 then s.setJreg c p k j.disarm
  else s

/-- Removes lanes from an expected mask (R74, R81). -/
def State.dropJ (s : State) (c p k : Nat) (m : Word) : State :=
  let j := s.jreg c p k
  if j.armed then (s.setJreg c p k { j with exp := j.exp &&& ~~~m }).checkJ c p k else s

/-- JARM in both forms (R78). -/
def jarmBody (j : Nat) (mask : Word) (tmo : Nat) (ns : Bool) (x : Ctx) (s : State) : Res :=
  if (s.jreg x.c x.p j).arr != 0#32 then .fault Code.JOIN_BUSY 0#64 s
  else
    let exp := mask &&& x.g.liveMask
    let r : JReg := { armed := exp != 0#32, exp := exp, arr := 0#32, tmo := tmo, ns := ns }
    .ok (s.setJreg x.c x.p j r)

def execJarm (g : Guard) (j sa sb : BitVec 8) (ns : Bool) (s : State) : Host.Outcome State Fault Refusal :=
  issue (.jarm g j sa sb ns) g
    (once fun x s => jarmBody j.toNat (x.sreg s sa) (max 64 (min (x.sreg s sb).toNat (2 ^ 24 - 1))) ns x s) s

def execJarmL (g : Guard) (j : BitVec 8) (mask : BitVec 32) (c : BitVec 3) (s : State) : Host.Outcome State Fault Refusal :=
  issue (.jarmL g j mask c) g (once fun x s => jarmBody j.toNat mask (256 * 4 ^ c.toNat) false x s) s

/-- JWAIT (R79): expected lanes park; the others go on with the flag set. -/
def jwaitBody (pd j : Nat) (x : Ctx) (s : State) : Res :=
  let r := s.jreg x.c x.p j
  let park := if r.armed then x.live &&& r.exp else 0#32
  let s := s.setP x.c x.p pd (s.p x.c x.p pd ||| (x.active &&& ~~~park))
  if park == 0#32 then .ok s
  else
    let next := nextPos x.e.hdr x.e.idx x.n.count
    let g := s.grp x.c x.p
    let rest := { x.e with mask := x.e.mask &&& ~~~park }
    let new := if rest.mask == 0#32 then [] else [s.stepEntry x.c x.p x.n.count rest]
    let s := s.setGrp x.c x.p { g with
      frontier := replaceAt g.frontier x.n.ent new,
      parked := addPark g.parked { kind := .jwait, mask := park, hdr := next.1, idx := next.2, j := j, pd := pd, src := x.pc } }
    let r := { r with arr := r.arr ||| park, timing := true, left := if r.timing then r.left else r.tmo }
    .done ((s.setJreg x.c x.p j r).checkJ x.c x.p j)

def execJwait (g : Guard) (pd j : BitVec 8) (s : State) : Host.Outcome State Fault Refusal :=
  issue (.jwait g pd j) g (jwaitBody pd.toNat j.toNat) s

/-- Whether a rejoin register times out now, outside the handler (R80, R83): LEFT has reached zero, and the cycle in which it did is over, so that the
arrivals, exits and drops of that cycle have been applied. -/
def State.joinDue (s : State) (c p k : Nat) : Bool :=
  let j := s.jreg c p k
  j.armed && j.timing && j.ripe && j.left == 0 && !(s.grp c p).handler

/-- JOIN_TIMEOUT (R80, R83): subject: core, group, register. -/
def State.joinTimeout (s : State) (c p k : Nat) : State :=
  if s.joinDue c p k && (s.grp c p).trap.isNone then s.releaseJ c p k true else s

def execJoinTimeout (s : State) : Host.Outcome State Fault Refusal := .next (s.joinTimeout (s.arg 0) (s.arg 1) (s.arg 2))

/-- JDROP (R81): its entry goes on, and then the lanes of Active are taken out of EXP, so that lanes which that releases stand where they parked. -/
def execJdrop (g : Guard) (j : BitVec 8) (s : State) : Host.Outcome State Fault Refusal :=
  issue (.jdrop g j) g (fun x s => .done ((s.advance x.n).dropJ x.c x.p j.toNat x.live)) s

/-- JQRY (R82). -/
def jqryValue (r : JReg) (sel : Nat) : Word :=
  match sel with
  | 0 => r.exp
  | 1 => r.arr
  | 2 => if !r.armed then 0#32 else if r.timing then BitVec.ofNat 32 (min r.left (2 ^ 32 - 1)) else BitVec.ofNat 32 r.tmo
  | _ => BitVec.ofNat 32 (boolNat r.armed + 2 * boolNat (r.armed && r.timing) + 4 * boolNat r.ns)

def execJqry (g : Guard) (sd j : BitVec 8) (sel : BitVec 2) (s : State) : Host.Outcome State Fault Refusal :=
  issue (.jqry g sd j sel) g
    (once fun x s => .ok (x.putS sd (jqryValue (s.jreg x.c x.p j.toNat) sel.toNat) s)) s

/-! ### Regrouping (R84, R85) -/

/-- One lane slot of a group: what moves with the lane (R84). -/
structure Slot where
  place    : Place
  live     : Bool
  launched : Bool
  preds    : List Bool
deriving DecidableEq, Repr

def State.slotOf (s : State) (c p l : Nat) : Slot :=
  let g := s.grp c p
  { place := g.placeOf p l, live := g.liveMask.getLsbD l, launched := g.launched.getLsbD l,
    preds := (List.range 7).map fun n => (s.p c p n).getLsbD l }

/-- Gives a group its 32 lane slots. -/
def State.setSlots (s : State) (c p : Nat) (xs : List Slot) : State :=
  let g := s.grp c p
  let s := s.setGrp c p { g with
    vmap := xs.map (·.place),
    liveMask := maskWhere fun l => ((xs[l]?).map (·.live)).getD false,
    launched := maskWhere fun l => ((xs[l]?).map (·.launched)).getD false }
  (List.range 7).foldl (fun s n =>
    s.setP c p n (maskWhere fun l => ((xs[l]?).bind fun x => x.preds[n]?).getD false)) s

/-- The physical groups of the participants of a mask, in ascending index. -/
def State.participants (s : State) (c slot : Nat) (mask : Word) : List Nat :=
  (lanesOf mask).filterMap fun b => s.groupAt c slot b

/-- Deals the lanes of the participants of one partition (R84): live lanes in ascending group and lane, those with the predicate
first, 32 to a group; slots without a live lane fill what is left, DESIGN CHOICE: in ascending group and lane too (log entry 172). -/
def State.dealPart (s : State) (c pred : Nat) (ps : List Nat) : State :=
  let slots := ps.flatMap fun p => (List.range 32).map fun l => (s.slotOf c p l, (s.p c p pred).getLsbD l)
  let live := slots.filter (·.1.live)
  let deal := (live.filter (·.2)).map (·.1) ++ (live.filter fun q => !q.2).map (·.1)
  let dead := (slots.filter fun q => !q.1.live).map (·.1)
  let pieces := chunksOf 32 ps.length deal
  ((List.range ps.length).foldl (fun (a : State × List Slot) k =>
    let mine := pieces.getD k []
    let fill := a.2.take (32 - mine.length)
    (a.1.setSlots c (ps.getD k 0) (mine ++ fill), a.2.drop (32 - mine.length))) (s, dead)).1

/-- What groups remember of lanes, the gates of releases, the holds of acquires and interrupted waits, follows the lanes from the places that an
old state gives them. -/
def State.followLanes (s old : State) (c : Nat) (ps : List Nat) : State :=
  ps.foldl (fun s q =>
    let here := fun (h : Nat) (m : Word) => maskWhere fun l =>
      (List.range 32).any fun k => m.getLsbD k && (old.grp c h).placeOf h k == (s.grp c q).placeOf q l
    let g := s.grp c q
    s.setGrp c q { g with
      gates := (ps.flatMap fun h => (old.grp c h).gates.map fun k => (here h k.1, k.2)).filter fun k => k.1 != 0#32
      acqs := (ps.flatMap fun h => (old.grp c h).acqs.map fun k => (here h k.1, k.2)).filter fun k => k.1 != 0#32
      kept := (ps.flatMap fun h => (old.grp c h).kept.map fun k => (here h k.1, k.2)).filter fun k => k.1 != 0#32 }) s

/-- Raises a fault to a group parked at a REGRP or UNGRP: its lanes stand at the instruction again (R361, kind P). -/
def State.regrpFault (s : State) (c p code : Nat) : State :=
  let g := s.grp c p
  match g.regrp with
  | none => s
  | some (hdr, idx, _, _) =>
    let e := { s.arrive c p hdr g.liveMask 0#64 with idx := idx }
    let s := s.setGrp c p { g with parked := [], frontier := [e], regrp := none }
    s.takeException c p { code := code, tpc := wordAddr hdr idx, fe := 0 }

/-- Every rejoin register disarmed (R77, R84, R113). -/
def Group.disarmAll (g : Group) : AMap JReg :=
  g.jregs.filterMap fun e =>
    let j := e.2.disarm
    if j == {} then none else some (e.1, j)

/-- The groups of a block that have arrived at a REGRP and have to do with the one that group p has issued with a mask (R84): p itself, those that its
mask names, and those whose masks name a group that it names; in ascending index. -/
def State.regrpPeers (s : State) (c p slot : Nat) (mask : Word) : List Nat :=
  (s.participants c slot (BitVec.allOnes 32)).filter fun q =>
    match (s.grp c q).regrp with
    | none => false
    | some (_, _, m, _) => q == p || mask.getLsbD (s.grp c q).bgrp || (m &&& mask) != 0#32

/-- Notes for the groups that a failed regrouping names, and that have not come to it, the fault they are to take there (R84). -/
def State.oweRegrp (s : State) (c slot : Nat) (here : List Nat) (code : Nat) : State :=
  let b := s.blkAt c slot
  let named := here.foldl (fun m q => match (s.grp c q).regrp with | some (_, _, k, _) => m ||| k | none => m) 0#32
  let left := maskWhere fun k => named.getLsbD k && k < b.size && !(here.any fun q => (s.grp c q).bgrp == k)
  if left == 0#32 then s else s.setBlk c slot { b with owed := b.owed ++ [(left, code)] }

/-- The fault that a failed regrouping left for a group, as it comes to a REGRP, and the block without it (R84). -/
def State.takeOwed (s : State) (c p : Nat) : Option Nat × State :=
  let g := s.grp c p
  let b := s.blkAt c g.slot
  match b.owed.find? fun o => o.1.getLsbD g.bgrp with
  | none => (none, s)
  | some (_, code) =>
    let left := (b.owed.map fun o => (o.1 &&& ~~~(1#32 <<< g.bgrp), o.2)).filter fun o => o.1 != 0#32
    (some code, s.setBlk c g.slot { b with owed := left })

/-- The roles of a block's groups in order (R31). -/
def Launch.roleList (l : Launch) : List Nat := l.roles.zipIdx.flatMap fun r => List.replicate r.1.2.2.1 r.2

/-- Completes a regrouping once every participant has arrived, or raises its faults (R84). A participant that has ended, or whose lanes have all
exited, counts as arrived and is dealt no lanes. What R84 leaves open is the model's choice: the faults are raised at the first arrival that
shows them, to the participants that have arrived, and a participant still to come takes its fault as it comes (log 121); a participant that has
ended has the role of its index (R31) and no register count; and where the participants of a partition name different predicates, that
of the first of them orders the lanes of all (log 122). -/
def State.regrpCheck (s : State) (c p : Nat) : State :=
  let g := s.grp c p
  match g.regrp with
  | none => s
  | some (_, _, mask, _) =>
    let b := s.blkAt c g.slot
    let ps := s.participants c g.slot mask
    let here := s.regrpPeers c p g.slot mask
    let roles := (s.launch g.node).roleList
    let fail := fun code => here.foldl (fun s q => s.regrpFault c q code) (s.oweRegrp c g.slot here code)
    if here.any fun q => (s.grp c q).handler || (s.grp c q).trap.isSome then s
    else if !mask.getLsbD g.bgrp || (lanesOf mask).any fun k => b.size ≤ k || roles.getD k g.role != g.role then fail Code.REGRP_MISMATCH
    else if here.any fun q =>
        let h := s.grp c q
        (h.regrp.map (·.2.2.1)) != some mask || h.role != g.role || h.count != g.count then fail Code.REGRP_MISMATCH
    else if b.regroups.any fun m => (m &&& mask) != 0#32 then fail Code.REGRP_NEST
    else if ps.any fun q => ((s.grp c q).regrp.isNone && (s.grp c q).liveMask != 0#32) || (s.grp c q).handler || (s.grp c q).trap.isSome then s
    else
      let old := s
      let ps := here
      let s := ps.foldl (fun s q =>
        let h := s.grp c q
        s.setGrp c q { h with places := some ((List.range 32).map fun l => h.placeOf q l), jregs := h.disarmAll }) s
      let pred := fun q => match (s.grp c q).regrp with
        | some (_, _, _, k) => k
        | none => 7
      let s := (List.range 4).foldl (fun s part =>
        let mine := ps.filter fun q => (s.grp c q).part == part
        match mine with
        | [] => s
        | q :: _ => s.dealPart c (pred q) mine) s
      let s := ps.foldl (fun s q =>
        let h := s.grp c q
        match h.parked with
        | [] => s
        | k :: _ =>
          let e := { s.arrive c q k.hdr h.liveMask k.src with idx := k.idx }
          s.setGrp c q { h with
            parked := [], regrp := none, dealt := some ((List.range 32).map fun l => h.placeOf q l)
            frontier := if h.liveMask == 0#32 then [] else [e] }) s
      let s := s.followLanes old c ps
      let b := s.blkAt c g.slot
      s.setBlk c g.slot { b with regroups := b.regroups ++ [mask] }

/-- Whether a ring slot is a pending write of a group (R157): an HRING of it still reads its table, or waits for its commit. -/
def State.slotPending (s : State) (c p k : Nat) : Bool :=
  let g := s.grp c p
  (aget {} (s.core c).slots k).loading.any (fun l => l.1 == g.uid) || g.frontier.any fun e => e.note.take 2 == [0xA7, k]

/-- Whether an instruction of the group still has a register write to make (R61), ring slots among them (R157). -/
def State.scoreboardEmpty (s : State) (c p : Nat) : Bool :=
  let u := (s.grp c p).uid
  (s.grp c p).tokens.isEmpty && !((List.range 4).any (s.slotPending c p)) && !(s.accesses.any fun a => a.uid == u && a.dest != .none) &&
  !(s.mjobs.any (·.uid == u)) && !(s.rjobs.any (·.uid == u))

/-- REGRP (R84). -/
def regrpBody (sa : BitVec 8) (pb : Nat) (x : Ctx) (s : State) : Res :=
  if x.g.frontier.length != 1 || !x.g.parked.isEmpty then .fault Code.REGRP_SPLIT 0#64 s
  else if !s.scoreboardEmpty x.c x.p then .wait s 1
  else
    let next := nextPos x.e.hdr x.e.idx x.n.count
    let g := s.grp x.c x.p
    let s := s.setGrp x.c x.p { g with
      frontier := [], regrp := some (x.e.hdr, x.e.idx, x.sreg s sa, pb),
      parked := [{ kind := .regrp, mask := x.e.mask, hdr := next.1, idx := next.2, src := x.pc }] }
    match s.takeOwed x.c x.p with
    | (none, s) => .done (s.regrpCheck x.c x.p)
    | (some code, s) => .done (s.regrpFault x.c x.p code)

def execRegrp (g : Guard) (sa pb : BitVec 8) (s : State) : Host.Outcome State Fault Refusal :=
  issue (.regrp g sa pb) g (regrpBody sa pb.toNat) s

/-- Where a lane slot now stands among the participants: the group and the virtual lane that hold its place. -/
def State.findPlace (s : State) (c : Nat) (ps : List Nat) (pl : Place) : Option (Nat × Nat) :=
  ps.findSome? fun q => (firstIdx (· == pl) ((List.range 32).map fun l => (s.grp c q).placeOf q l)).map fun l => (q, l)

/-- Completes an UNGRP (R85): every lane returns to its own group and lane, and goes on at the word after the UNGRP where it
parked; lanes of one group at one word form one entry, in the order of their lowest lanes. -/
def State.ungrpCheck (s : State) (c slot : Nat) (mask : Word) : State :=
  let ps := s.participants c slot mask
  let all := ps.all fun q =>
    let h := s.grp c q
    h.liveMask == (h.parked.filter fun k => k.kind == .ungrp).foldl (fun m k => m ||| k.mask) 0#32
  if !all then s
  else
    let old := s
    let s := ps.foldl (fun s q =>
      let home := ((old.grp c q).places).getD ((List.range 32).map fun l => { grp := q, lane := l })
      let from_ := home.map fun pl => old.findPlace c ps pl
      let slots := (List.range 32).map fun l => match from_.getD l none with
        | some (h, k) => old.slotOf c h k
        | none => { place := home.getD l {}, live := false, launched := false, preds := [] }
      let s := s.setSlots c q slots
      let parts := (List.range 32).foldl (fun es l => match from_.getD l none with
        | some (h, k) => match (old.grp c h).parked.find? fun z => z.kind == .ungrp && z.mask.getLsbD k with
          | some z => addEntry es { s.arrive c q z.hdr (bitMask l) z.src with idx := z.idx }
          | none => es
        | none => es) []
      let h := s.grp c q
      let s := s.setGrp c q { h with parked := [], frontier := parts, places := none, dealt := none }
      if (s.grp c q).liveMask == 0#32 then s.post .groupEnd [c, q] else s) s
    let s := s.followLanes old c ps
    let b := s.blkAt c slot
    s.setBlk c slot { b with regroups := b.regroups.filter (· != mask) }

/-- UNGRP (R85). -/
def ungrpBody (sa : BitVec 8) (x : Ctx) (s : State) : Res :=
  let mask := x.sreg s sa
  let b := s.blkAt x.c x.g.slot
  if !(b.regroups.contains mask && mask.getLsbD x.g.bgrp) then .fault Code.REGRP_MISMATCH 0#64 s
  else
    let next := nextPos x.e.hdr x.e.idx x.n.count
    let g := s.grp x.c x.p
    let rest := { x.e with mask := x.e.mask &&& ~~~x.live }
    let s := s.setGrp x.c x.p { g with
      frontier := replaceAt g.frontier x.n.ent (if rest.mask == 0#32 then [] else [s.stepEntry x.c x.p x.n.count rest]),
      parked := addPark g.parked { kind := .ungrp, mask := x.live, hdr := next.1, idx := next.2, src := x.pc } }
    .done (s.ungrpCheck x.c x.g.slot mask)

def execUngrp (g : Guard) (sa : BitVec 8) (s : State) : Host.Outcome State Fault Refusal :=
  issue (.ungrp g sa) g (ungrpBody sa) s

/-! ### Exit, yield and sleep -/

/-- What follows when lanes of a group have exited (R74, R84, R85): joins, regroupings of the block, and the group's end. DESIGN CHOICE: joins that
one EXIT completes in several rejoin registers are released in ascending register number (log entry 171). -/
def State.afterExit (s : State) (c p : Nat) (m : Word) : State :=
  let s := (List.range 16).foldl (fun s k => s.dropJ c p k m) s
  let g := s.grp c p
  let s := ((s.residents c).filter fun q => (s.grp c q).slot == g.slot && (s.grp c q).regrp.isSome).foldl
    (fun s q => s.regrpCheck c q) s
  let s := (s.blkAt c g.slot).regroups.foldl (fun s mask => s.ungrpCheck c g.slot mask) s
  if (s.grp c p).liveMask == 0#32 then s.post .groupEnd [c, p] else s

/-- EXIT (R74): ends the lanes of Active; the others fall through. -/
def exitBody (x : Ctx) (s : State) : Res :=
  let g := s.grp x.c x.p
  let s := s.setGrp x.c x.p { g with liveMask := g.liveMask &&& ~~~x.live }
  let s := x.split [(x.fall, x.e.mask &&& ~~~x.live)] s
  .done (if x.live == 0#32 then s else s.afterExit x.c x.p x.live)

def execExit (g : Guard) (s : State) : Host.Outcome State Fault Refusal := issue (.exit g) g exitBody s

/-- SLEEP in both forms (R88). -/
def sleepBody (n : Nat) (ns : Bool) : Ctx → State → Res := once fun x s =>
  let n := min n (2 ^ 24 - 1)
  if n = 0 then .ok s
  else if ns then
    .ok ((x.hold [.sleepUntil (s.dtime + n)] s).timer false (s.dtime + n) .sleepExpiry [x.c, x.p])
  else .ok (x.hold [.sleepCycles n] s)

def execSleep (g : Guard) (sa : BitVec 8) (ns : Bool) (s : State) : Host.Outcome State Fault Refusal :=
  issue (.sleep g sa ns) g (fun x s => sleepBody (x.sreg s sa).toNat ns x s) s

def execSleepL (g : Guard) (n : BitVec 32) (ns : Bool) (s : State) : Host.Outcome State Fault Refusal :=
  issue (.sleepL g n ns) g (sleepBody n.toNat ns) s

/-- Whether a sleep is over. -/
def State.sleepOver (s : State) : Hold → Bool
  | .sleepCycles n => n == 0
  | .sleepUntil t => t ≤ s.dtime
  | _ => false

/-- SLEEP_EXPIRY (R88): subject: core and group. Entries whose time has passed are eligible again. -/
def execSleepExpiry (s : State) : Host.Outcome State Fault Refusal :=
  let c := s.arg 0
  let p := s.arg 1
  let g := s.grp c p
  .next (s.setGrp c p { g with
    frontier := g.frontier.map fun e => { e with holds := e.holds.filter fun h => !s.sleepOver h } })

end Sys2Proof.Machine
end

