-- ==== Sys2Proof/Machine/Float.lean ====
section
/-!
DEFINITION. Floating-point arithmetic (R115 to R120): a value is decoded exactly, an operation is computed exactly as an integer
times a power of two, and one rounding gives the bits of the result with its flags.
-/
namespace Sys2Proof.Machine

/-- The floating-point formats of R115. -/
inductive Fmt where
  | f64 | f32 | f16 | bf16 | e4m3 | e5m2
deriving DecidableEq, Repr

def Fmt.width : Fmt → Nat
  | .f64 => 64
  | .f32 => 32
  | .f16 => 16
  | .bf16 => 16
  | .e4m3 => 8
  | .e5m2 => 8

/-- Width of the exponent field. -/
def Fmt.ebits : Fmt → Nat
  | .f64 => 11
  | .f32 => 8
  | .f16 => 5
  | .bf16 => 8
  | .e4m3 => 4
  | .e5m2 => 5

/-- Width of the fraction. -/
def Fmt.frac : Fmt → Nat
  | .f64 => 52
  | .f32 => 23
  | .f16 => 10
  | .bf16 => 7
  | .e4m3 => 3
  | .e5m2 => 2

def Fmt.bias : Fmt → Nat
  | .f64 => 1023
  | .f32 => 127
  | .f16 => 15
  | .bf16 => 127
  | .e4m3 => 7
  | .e5m2 => 15

/-- The canonical quiet NaN (R120). -/
def Fmt.qnan : Fmt → Nat
  | .f64 => 0x7FF8000000000000
  | .f32 => 0x7FC00000
  | .f16 => 0x7E00
  | .bf16 => 0x7FC0
  | .e4m3 => 0x7F
  | .e5m2 => 0x7E

/-- FP8 formats are not flushed (R119). -/
def Fmt.flushed : Fmt → Bool
  | .e4m3 => false
  | .e5m2 => false
  | _ => true

/-- The format codes of R136; the integer codes are none. -/
def fmtOf (code : Nat) : Option Fmt :=
  match code with
  | 0 => some .f64
  | 1 => some .f32
  | 2 => some .f16
  | 3 => some .bf16
  | 4 => some .e4m3
  | 5 => some .e5m2
  | _ => none

/-- The type codes of R56: two elements of 16 bits under codes 2 and 3. -/
def typeOf (ty : BitVec 2) : Fmt :=
  match ty.toNat with
  | 0 => .f64
  | 1 => .f32
  | 2 => .f16
  | _ => .bf16

/-- The sign bit of a format. -/
def Fmt.sign (f : Fmt) (neg : Bool) : Nat := if neg then 2 ^ (f.width - 1) else 0

/-- The exponent field of infinities and NaNs, or the greatest. -/
def Fmt.top (f : Fmt) : Nat := 2 ^ f.ebits - 1

/-- Infinity of a sign; e4m3 has none and gives its NaN code (R115, R137). -/
def Fmt.inf (f : Fmt) (neg : Bool) : Nat :=
  match f with
  | .e4m3 => f.sign neg + 0x7F
  | _ => f.sign neg + f.top * 2 ^ f.frac

/-- The largest finite value of a sign (R115). -/
def Fmt.maxFinite (f : Fmt) (neg : Bool) : Nat :=
  match f with
  | .e4m3 => f.sign neg + 0x7E
  | _ => f.sign neg + f.top * 2 ^ f.frac - 1

/-- An exact value: a NaN (signalling or not), an infinity, or (-1)^neg * m * 2^e. -/
inductive FV where
  | nan (sig : Bool)
  | inf (neg : Bool)
  | fin (neg : Bool) (m : Nat) (e : Int)
deriving DecidableEq, Repr

def FV.isNan : FV → Bool
  | .nan _ => true
  | _ => false

def FV.isSig : FV → Bool
  | .nan s => s
  | _ => false

def FV.isInf : FV → Bool
  | .inf _ => true
  | _ => false

def FV.isZero : FV → Bool
  | .fin _ m _ => m == 0
  | _ => false

def FV.neg : FV → Bool
  | .nan _ => false
  | .inf n => n
  | .fin n _ _ => n

/-- The value with its sign flipped where the flag says so (R123). -/
def FV.flip (b : Bool) : FV → FV
  | .nan s => .nan s
  | .inf n => .inf (n != b)
  | .fin n m e => .fin (n != b) m e

/-- The value of a pattern (R115). -/
def Fmt.decode (f : Fmt) (x : Nat) : FV :=
  let x := x % 2 ^ f.width
  let neg := x / 2 ^ (f.width - 1) == 1
  let ex := x / 2 ^ f.frac % 2 ^ f.ebits
  let fr := x % 2 ^ f.frac
  if ex = 0 then .fin neg fr (1 - f.bias - f.frac)
  else if ex = f.top && f != .e4m3 then (if fr = 0 then .inf neg else .nan (fr < 2 ^ (f.frac - 1)))
  else if ex = f.top && fr = 7 then .nan false
  else .fin neg (fr + 2 ^ f.frac) ((ex : Int) - f.bias - f.frac)

/-- An input under flush-to-zero (R119): a subnormal is read as zero of its sign, and FZ is raised. -/
def Fmt.input (f : Fmt) (ftz : Bool) (x : Nat) : FV × FFlags :=
  match f.decode x with
  | .fin n m e => if ftz && f.flushed && m != 0 && m < 2 ^ f.frac then (.fin n 0 e, { fz := true }) else (.fin n m e, {})
  | v => (v, {})

/-- Rounding modes of R56. -/
abbrev rn : Nat := 0

/-- m / 2^k rounded to an integer in a mode; whether anything was cut off. -/
def roundShift (rm : Nat) (neg : Bool) (m : Nat) (k : Int) : Nat × Bool :=
  if k ≤ 0 then (m * 2 ^ (-k).toNat, false)
  else if m.log2 + 2 < k.toNat then
    (if m = 0 then (0, false) else (boolNat ((rm == 2 && !neg) || (rm == 3 && neg)), true))
  else
    let d := 2 ^ k.toNat
    let n := m / d
    let r := m % d
    if r = 0 then (n, false)
    else
      let up := match rm with
        | 0 => d < 2 * r || (2 * r == d && n % 2 == 1)
        | 1 => false
        | 2 => !neg
        | _ => neg
      (if up then n + 1 else n, true)

/-- Whether a mode carries an overflow to infinity (R118). -/
def toInfinity (rm : Nat) (neg : Bool) : Bool := rm == 0 || (rm == 2 && !neg) || (rm == 3 && neg)

/-- The greatest exponent of a finite value. -/
def Fmt.emax (f : Fmt) : Int :=
  match f with
  | .e4m3 => 8
  | _ => (f.top : Int) - 1 - f.bias

/-- Rounding (R118, R119, R137): (-1)^neg * m * 2^e, with more below it when sticky, to bits and flags. Tininess is detected after
rounding; sat gives the largest finite value on overflow. -/
def Fmt.round (f : Fmt) (ftz sat : Bool) (rm : Nat) (neg : Bool) (m : Nat) (e : Int) (sticky : Bool := false) : Nat × FFlags :=
  let m1 := if sticky then 4 * m + 1 else m
  let e1 := if sticky then e - 2 else e
  if m1 = 0 then (f.sign neg, {})
  else
    let big := e1 + m1.log2
    let emin : Int := 1 - f.bias
    let tooBig := (if toInfinity rm neg && !sat then f.inf neg else f.maxFinite neg, ({ ovf := true, nx := true } : FFlags))
    if f.emax < big then tooBig
    else
      let q := max (big - f.frac) (emin - f.frac)
      let r := roundShift rm neg m1 (q - e1)
      let free := roundShift rm neg m1 (big - f.frac - e1)
      let tiny := big < emin && !(big + 1 == emin && 2 ^ (f.frac + 1) ≤ free.1)
      let carry := 2 ^ (f.frac + 1) ≤ r.1
      let n := if carry then r.1 / 2 else r.1
      let q1 := if carry then q + 1 else q
      let low := n < 2 ^ f.frac
      let bits := if low then n else n - 2 ^ f.frac + (q1 + f.frac + f.bias).toNat * 2 ^ f.frac
      if bits ≥ f.inf false then tooBig
      else if low && n != 0 && ftz && f.flushed then (f.sign neg, { unf := true, nx := true })
      else (f.sign neg + bits, { nx := r.2, unf := r.2 && tiny })

/-- An exact value as an integer times a power of two. -/
structure Dy where
  n : Int
  e : Int
deriving DecidableEq, Repr

def FV.dy : FV → Dy
  | .fin n m e => { n := if n then -(m : Int) else m, e := e }
  | _ => { n := 0, e := 0 }

def Dy.add (a b : Dy) : Dy :=
  let e := min a.e b.e
  { n := a.n * 2 ^ (a.e - e).toNat + b.n * 2 ^ (b.e - e).toNat, e := e }

def Dy.mul (a b : Dy) : Dy := { n := a.n * b.n, e := a.e + b.e }

def Dy.neg (a : Dy) : Dy := { a with n := -a.n }

/-- The order of two exact values. -/
def Dy.cmp (a b : Dy) : Ordering :=
  let d := (a.add b.neg).n
  if d < 0 then .lt else if d = 0 then .eq else .gt

/-- Rounds an exact value that is not zero, or gives the zero of a sign. -/
def Fmt.roundDy (f : Fmt) (ftz sat : Bool) (rm : Nat) (zeroNeg : Bool) (d : Dy) (sticky : Bool := false) : Nat × FFlags :=
  f.round ftz sat rm (if d.n = 0 && !sticky then zeroNeg else d.n < 0) d.n.natAbs d.e sticky

/-- The sign of an exact zero sum (R118): that of its terms when they are zeros of one sign, else + but in mode rd. -/
def zeroSign (rm : Nat) (terms : List FV) : Bool :=
  if terms.all FV.isZero && terms.all FV.neg then true
  else if terms.all FV.isZero && terms.all (fun t => !t.neg) then false
  else rm == 3

/-- The product of two values that are not NaNs; none for zero times infinity. -/
def FV.mul (a b : FV) : Option FV :=
  match a, b with
  | .fin n m e, .fin n' m' e' => some (.fin (n != n') (m * m') (e + e'))
  | a, b => if a.isZero || b.isZero then none else some (.inf (a.neg != b.neg))

/-- Sums of products and values with one rounding (R124, R130): NaNs first, then zero times infinity, then infinities of opposite
sign. -/
def fused (f : Fmt) (ftz : Bool) (rm : Nat) (prods : List (FV × FV)) (adds : List FV) : Nat × FFlags :=
  let ins := prods.flatMap (fun q => [q.1, q.2]) ++ adds
  let nv := ins.any FV.isSig
  if ins.any FV.isNan then (f.qnan, { nv := nv })
  else
    let ps := prods.map fun q => q.1.mul q.2
    if ps.any Option.isNone then (f.qnan, { nv := true })
    else
      let terms := ps.filterMap id ++ adds
      let infs := terms.filter FV.isInf
      if infs.any FV.neg && infs.any (fun t => !t.neg) then (f.qnan, { nv := true })
      else match infs with
        | i :: _ => (f.inf i.neg, {})
        | [] =>
          let sum := terms.foldl (fun (a : Option Dy) t => match a with
            | none => some t.dy
            | some d => some (d.add t.dy)) none
          f.roundDy ftz false rm (zeroSign rm terms) (sum.getD { n := 0, e := 0 })

/-- a + b (R124). -/
def faddFV (f : Fmt) (ftz : Bool) (rm : Nat) (a b : FV) : Nat × FFlags := fused f ftz rm [] [a, b]

def fmulFV (f : Fmt) (ftz : Bool) (rm : Nat) (a b : FV) : Nat × FFlags := fused f ftz rm [(a, b)] []

def ffmaFV (f : Fmt) (ftz : Bool) (rm : Nat) (a b c : FV) : Nat × FFlags := fused f ftz rm [(a, b)] [c]

/-- Integer square root: the greatest r with r * r ≤ n, by one bit at a time from bit k. -/
def isqrt (n : Nat) : Nat → Nat → Nat
  | 0, r => r
  | k + 1, r => let r' := r + 2 ^ k
                isqrt n k (if r' * r' ≤ n then r' else r)

def natSqrt (n : Nat) : Nat := isqrt n (n.log2 / 2 + 1) 0

/-- Division of values, one rounding (IEEE 754-2019; DZ of R121). -/
def fdivFV (f : Fmt) (ftz : Bool) (rm : Nat) (a b : FV) : Nat × FFlags :=
  let nv := a.isSig || b.isSig
  let neg := a.neg != b.neg
  match a, b with
  | .nan _, _ => (f.qnan, { nv := nv })
  | _, .nan _ => (f.qnan, { nv := nv })
  | .inf _, .inf _ => (f.qnan, { nv := true })
  | .inf _, .fin _ _ _ => (f.inf neg, {})
  | .fin _ _ _, .inf _ => (f.sign neg, {})
  | .fin _ m e, .fin _ m' e' =>
    if m' = 0 then (if m = 0 then (f.qnan, { nv := true }) else (f.inf neg, { dz := true }))
    else if m = 0 then (f.sign neg, {})
    else
      let k := f.frac + 4 + m'.log2
      let n := m * 2 ^ k
      f.round ftz false rm neg (n / m') (e - e' - k) (n % m' != 0)

/-- Square root, one rounding (IEEE 754-2019). -/
def fsqrtFV (f : Fmt) (ftz : Bool) (rm : Nat) (a : FV) : Nat × FFlags :=
  match a with
  | .nan s => (f.qnan, { nv := s })
  | .inf n => if n then (f.qnan, { nv := true }) else (f.inf false, {})
  | .fin n m e =>
    if m = 0 then (f.sign n, {})
    else if n then (f.qnan, { nv := true })
    else
      let k := 2 * (f.frac + 4)
      let odd := e % 2 == 1
      let m1 := m * 2 ^ k * (if odd then 2 else 1)
      let e1 := (if odd then e - 1 else e) - k
      let r := natSqrt m1
      f.round ftz false rm false r (e1 / 2) (r * r != m1)

/-- The order of two values, none when one is a NaN; the zeros are equal (R126). -/
def FV.cmp (a b : FV) : Option Ordering :=
  match a, b with
  | .nan _, _ => none
  | _, .nan _ => none
  | .inf n, .inf n' => some (if n == n' then .eq else if n then .lt else .gt)
  | .inf n, _ => some (if n then .lt else .gt)
  | _, .inf n => some (if n then .gt else .lt)
  | a, b => some (a.dy.cmp b.dy)

/-- The bits of a value that a format holds exactly. -/
def Fmt.bits (f : Fmt) (v : FV) : Nat :=
  match v with
  | .nan _ => f.qnan
  | .inf n => f.inf n
  | .fin n m e => (f.round false false rn n m e).1

/-- Conversion of an exact value into a format (R137): widening is exact; infinities, NaNs and overflow as the rule says. -/
def narrow (f : Fmt) (ftz sat : Bool) (rm : Nat) (v : FV) : Nat × FFlags :=
  match v with
  | .nan s => (f.qnan, { nv := s })
  | .inf n =>
    match f with
    | .e4m3 => if sat then (f.maxFinite n, {}) else (f.inf n, { nv := true })
    | _ => (f.inf n, {})
  | .fin n m e => f.round ftz sat rm n m e

/-! ### Words and flags -/

/-- A 32-bit result with its flags. -/
abbrev FW := Word × FFlags

/-- A format's operation as a word operation. -/
def toFW (r : Nat × FFlags) : FW := (BitVec.ofNat 32 r.1, r.2)

/-- The f32 input under flush-to-zero. -/
def in32 (ftz : Bool) (w : Word) : FV × FFlags := Fmt.input .f32 ftz w.toNat

/-- FADD.f32 of two words (R112, R124). -/
def add32 (ftz : Bool) (rm : Nat) (a b : Word) : FW :=
  let a := in32 ftz a
  let b := in32 ftz b
  let r := faddFV .f32 ftz rm a.1 b.1
  (BitVec.ofNat 32 r.1, (r.2.or a.2).or b.2)

def mul32 (ftz : Bool) (rm : Nat) (a b : Word) : FW :=
  let a := in32 ftz a
  let b := in32 ftz b
  let r := fmulFV .f32 ftz rm a.1 b.1
  (BitVec.ofNat 32 r.1, (r.2.or a.2).or b.2)

def fma32 (ftz : Bool) (rm : Nat) (a b c : Word) : FW :=
  let a := in32 ftz a
  let b := in32 ftz b
  let c := in32 ftz c
  let r := ffmaFV .f32 ftz rm a.1 b.1 c.1
  (BitVec.ofNat 32 r.1, ((r.2.or a.2).or b.2).or c.2)

/-- A word read as the first element of a fold (R112): flushed, a NaN made canonical. -/
def first32 (ftz : Bool) (a : Word) : FW :=
  let v := in32 ftz a
  (BitVec.ofNat 32 (Fmt.bits .f32 v.1), { v.2 with nv := v.1.isSig })

/-! ### SH8 (R116) -/

/-- One term of an SH8 code, in units of 1/64. -/
def sh8Term (neg : Bool) (c : Nat) : Int := if c = 7 then 0 else (if neg then -1 else 1) * 2 ^ (6 - c)

/-- The value of an SH8 byte in units of 1/64 (R116). -/
def sh8Value (x : Nat) : Int :=
  sh8Term (x / 128 % 2 == 1) (x / 16 % 8) + sh8Term (x / 8 % 2 == 1) (x % 8)

/-- The SH8 codes that have canonical shape, in the order of R141: fewest terms, equal signs, smaller first code. -/
def sh8Codes : List Nat :=
  let one := (List.range 7).flatMap fun c => [c * 16 + 7, 128 + c * 16 + 7]
  let pairs := (List.range 7).flatMap fun c => ((List.range 7).filter fun d => c ≤ d).map fun d => (c, d)
  [0x77] ++ one ++ (pairs.flatMap fun q => [q.1 * 16 + q.2, 128 + q.1 * 16 + 8 + q.2]) ++
  pairs.flatMap fun q => [q.1 * 16 + 8 + q.2, 128 + q.1 * 16 + q.2]

/-- The SH8 code of a / b for finite a and finite b that is not zero (R141): nearest sum, a tie to the smaller magnitude. -/
def sh8Nearest (a b : Dy) : Nat :=
  let key := fun (x : Nat) =>
    let d := a.add ((Dy.mul { n := sh8Value x, e := -6 } b).neg)
    ({ d with n := d.n.natAbs } : Dy)
  (sh8Codes.foldl (fun (best : Nat × Dy) x =>
    let k := key x
    match k.cmp best.2 with
    | .lt => (x, k)
    | .eq => if (sh8Value x).natAbs < (sh8Value best.1).natAbs then (x, k) else best
    | .gt => best) (0x77, key 0x77)).1

end Sys2Proof.Machine
end

