-- ==== Sys2Proof/Machine/Sfu.lean ====
section
/-!
DEFINITION. The special-function unit (R131 to R135). The table rows follow from R134: the three exact values of a row's function are
computed to 128 fraction bits, far below the 28 that a coefficient keeps, and the coefficients are rounded from them.
-/
namespace Sys2Proof.Machine

/-- The eight functions of R131. -/
inductive Sfu where
  | rcp | rsq | sqrt | exp2 | log2 | sin | cos | tanh
deriving DecidableEq, Repr

/-! ### Values to 128 fraction bits -/

/-- One, as a number with 128 fraction bits. -/
def fxOne : Nat := 2 ^ 128

def fxMul (a b : Nat) : Nat := a * b / fxOne

/-- Sum of x^(2k+1) / (2k+1) over k below a count, with the sign alternating or not: term holds x^(2k+1). -/
def oddSeries (alt : Bool) (x2 : Nat) : Nat → Nat → Nat → Int
  | 0, _, _ => 0
  | n + 1, k, term =>
    let t : Int := (term / (2 * k + 1) : Nat)
    (if alt && k % 2 == 1 then -t else t) + oddSeries alt x2 n (k + 1) (fxMul term x2)

/-- Sum of x^k / k! from term x^k / k!. -/
def expSeries (x : Nat) : Nat → Nat → Nat → Nat
  | 0, _, _ => 0
  | n + 1, k, term => term + expSeries x n (k + 1) (fxMul term x / (k + 1))

/-- e^x for x below 1. -/
def fxExp (x : Nat) : Nat := expSeries x 40 0 fxOne

/-- Sum of the sine series from term x^(2k+1) / (2k+1)!. -/
def sinSeries (x2 : Nat) : Nat → Nat → Nat → Int
  | 0, _, _ => 0
  | n + 1, k, term =>
    (if k % 2 == 1 then -(term : Int) else term) + sinSeries x2 n (k + 1) (fxMul term x2 / ((2 * k + 2) * (2 * k + 3)))

/-- The natural logarithm of a / b for a between b and 2 b. -/
def fxLn (a b : Nat) : Nat :=
  let z := (a - b) * fxOne / (a + b)
  2 * (oddSeries false (fxMul z z) 45 0 z).toNat

/-- Arc tangent of 1 / k. -/
def fxAtan (k : Nat) : Int :=
  let z := fxOne / k
  oddSeries true (fxMul z z) 45 0 z

/-- The circle constant: 16 atan (1/5) - 4 atan (1/239). -/
def fxPi : Nat := (16 * fxAtan 5 - 4 * fxAtan 239).toNat

/-- The function of R133's table at a / b. -/
def Sfu.value (f : Sfu) (a b : Nat) : Int :=
  match f with
  | .rcp => (b * fxOne / a : Nat)
  | .sqrt => (natSqrt (a * fxOne * fxOne / b) : Nat)
  | .rsq => (natSqrt (b * fxOne * fxOne / a) : Nat)
  | .log2 => (fxLn a b * fxOne / fxLn 2 1 : Nat)
  | .exp2 => (fxExp (a * fxLn 2 1 / b) : Nat)
  | .sin => let t := a * fxPi / (2 * b)
            sinSeries (fxMul t t) 30 0 t
  | .cos => let t := a * fxPi / (2 * b)
            sinSeries (fxMul t t) 30 0 t
  | .tanh =>
    let q := fxExp (2 * a * fxOne / (32 * b))
    let sq := fun x => fxMul x x
    let e := sq (sq (sq (sq (sq q))))
    ((e - fxOne) * fxOne / (e + fxOne) : Nat)

/-- Nearest integer to x / 2^k, ties to even (R134). -/
def nearestEven (x : Int) (k : Nat) : Int :=
  let d : Int := 2 ^ k
  let n := Int.fdiv x d
  let r := x - n * d
  if d < 2 * r || (2 * r == d && n % 2 == 1) then n + 1 else n

/-- Coefficients of a table row (R134). -/
structure SfuRow where
  c0 : Int
  c1 : Int
  c2 : Int
deriving DecidableEq, Repr

/-- Left end of row i, and the denominator: the row's points are a, a + 1 and a + 2 over it (R133). -/
def Sfu.points (f : Sfu) (i : Nat) : Nat × Nat :=
  match f with
  | .rcp => (256 + 2 * i, 256)
  | .log2 => (256 + 2 * i, 256)
  | .sqrt => if i < 64 then (128 + 2 * i, 128) else (128 + 2 * (i - 64), 64)
  | .rsq => if i < 64 then (128 + 2 * i, 128) else (128 + 2 * (i - 64), 64)
  | .tanh => (2 * i, 32)
  | _ => (2 * i, 256)

def Sfu.row (f : Sfu) (i : Nat) : SfuRow :=
  let p := f.points i
  let f0 := f.value p.1 p.2
  let fm := f.value (p.1 + 1) p.2
  let f1 := f.value (p.1 + 2) p.2
  let c2 := 2 * (f0 - 2 * fm + f1)
  { c0 := nearestEven f0 100, c1 := nearestEven (f1 - f0 - c2) 100, c2 := nearestEven c2 100 }

/-- The table value y (R132): row i, fraction T of w bits. -/
def Sfu.table (f : Sfu) (i t w : Nat) : Dy :=
  let r := f.row i
  let t2 := t * t / 2 ^ w
  { n := r.c0 * 2 ^ w + r.c1 * t + r.c2 * t2, e := -(28 + w : Nat) }

/-! ### Reductions (R133) -/

/-- A finite value not zero as 2^23 to 2^24 - 1 times a power of two: the 23 fraction bits of m, and e. -/
def normal32 (m : Nat) (e : Int) : Nat × Int :=
  let k := m.log2
  (m * 2 ^ (23 - k) - 2 ^ 23, e + k)

/-- Rounds y * 2^k in mode rn; the SFU never raises NX (R132). -/
def sfuRound (ftz neg : Bool) (y : Dy) (k : Int) : Nat × FFlags :=
  let r := Fmt.roundDy .f32 ftz false rn false { n := if neg then -y.n else y.n, e := y.e + k }
  (r.1, { r.2 with nx := false })

/-- Integer part (floor) of an exact value, and the exact value times 2^k rounded down. -/
def Dy.floorShift (d : Dy) (k : Int) : Int :=
  if 0 ≤ d.e + k then d.n * 2 ^ (d.e + k).toNat
  else if d.n.natAbs.log2 + 1 < (-(d.e + k)).toNat then (if d.n < 0 then -1 else 0)
  else Int.fdiv d.n (2 ^ (-(d.e + k)).toNat)

/-- Row and T from a number of 23 bits with w = 16. -/
def Sfu.at23 (f : Sfu) (x : Nat) : Dy := f.table (x / 2 ^ 16) (x % 2 ^ 16) 16

/-- g(v) from F, and 1 exactly at 2^23 (R133). -/
def sfuG (x : Nat) : Dy := if x = 2 ^ 23 then { n := 1, e := 0 } else Sfu.at23 .sin x

/-- SSIN and SCOS of a finite value that is not zero. -/
def sfuSine (ftz cos : Bool) (x : Dy) : Nat × FFlags :=
  let z := x.add { n := -2 * x.floorShift (-1), e := 0 }
  let q := (z.floorShift 1).toNat
  let v := ({ z with e := z.e + 1 } : Dy).add { n := -(q : Int), e := 0 }
  let f := (v.floorShift 23).toNat
  let back := decide (q % 2 = 1) != cos
  let neg := if cos then q == 1 || q == 2 else 2 ≤ q
  sfuRound ftz neg (sfuG (if back then 2 ^ 23 - f else f)) 0

/-- One of the eight functions on a value (R133). -/
def Sfu.eval (f : Sfu) (ftz : Bool) (x : FV) : Nat × FFlags :=
  let one := 0x3F800000
  let bad := (Fmt.qnan .f32, ({ nv := true } : FFlags))
  match x with
  | .nan s => (Fmt.qnan .f32, { nv := s })
  | .inf n =>
    match f with
    | .rcp => (Fmt.sign .f32 n, {})
    | .rsq => if n then bad else (0, {})
    | .sqrt => if n then bad else (Fmt.inf .f32 false, {})
    | .exp2 => (if n then 0 else Fmt.inf .f32 false, {})
    | .log2 => if n then bad else (Fmt.inf .f32 false, {})
    | .sin => bad
    | .cos => bad
    | .tanh => (Fmt.sign .f32 n + one, {})
  | .fin n m e =>
    if m = 0 then
      match f with
      | .rcp => (Fmt.inf .f32 n, { dz := true })
      | .rsq => (Fmt.inf .f32 n, { dz := true })
      | .sqrt => (Fmt.sign .f32 n, {})
      | .exp2 => (one, {})
      | .log2 => (Fmt.inf .f32 true, { dz := true })
      | .sin => (Fmt.sign .f32 n, {})
      | .cos => (one, {})
      | .tanh => (Fmt.sign .f32 n, {})
    else
      let (fr, ex) := normal32 m e
      let odd := ex % 2 == 1
      let ev := if odd then ex - 1 else ex
      let half := (if odd then 64 else 0) + fr / 2 ^ 17
      let d := FV.dy x
      match f with
      | .rcp => sfuRound ftz n (f.table (fr / 2 ^ 16) (fr % 2 ^ 16) 16) (-ex)
      | .sqrt => if n then bad else sfuRound ftz false (f.table half (fr % 2 ^ 17) 17) (ev / 2)
      | .rsq => if n then bad else sfuRound ftz false (f.table half (fr % 2 ^ 17) 17) (-(ev / 2))
      | .log2 =>
        if n then bad else sfuRound ftz false ((f.table (fr / 2 ^ 16) (fr % 2 ^ 16) 16).add { n := ex, e := 0 }) 0
      | .exp2 =>
        if d.cmp { n := 128, e := 0 } != .lt then (Fmt.inf .f32 false, { ovf := true })
        else if d.cmp { n := -150, e := 0 } == .lt then (0, { unf := true })
        else
          let k := d.floorShift 0
          let v := d.add { n := -k, e := 0 }
          sfuRound ftz false (f.at23 (v.floorShift 23).toNat) k
      | .sin => sfuSine ftz false d
      | .cos => sfuSine ftz true d
      | .tanh =>
        let a : Dy := { d with n := d.n.natAbs }
        if a.cmp { n := 8, e := 0 } != .lt then (Fmt.sign .f32 n + one, {})
        else sfuRound ftz n (f.at23 (a.floorShift 20).toNat) 0

/-- An SFU function of a word, with the flags of its input (R119). -/
def Sfu.word (f : Sfu) (ftz : Bool) (w : Word) : FW :=
  let v := in32 ftz w
  let r := f.eval ftz v.1
  (BitVec.ofNat 32 r.1, r.2.or v.2)

end Sys2Proof.Machine
end

