-- ==== Sys2Proof/Machine/FloatOps.lean ====
section
/-!
DEFINITION. Class VEC, the floating-point and special-function instructions (R123 to R133), ITER (R76), which compares floating-point
values, and the floating-point folds of LPFX and SEGADD (R112).
-/
namespace Sys2Proof.Machine

/-- Flush-to-zero of the issuing group's launch (R119). -/
def Ctx.ftz (x : Ctx) (s : State) : Bool := (s.launchOf x.c x.p).ftz

/-- Flags of the live lanes of Active (R122). -/
def Ctx.liveFlags (x : Ctx) (f : Nat → FFlags) : BitVec 6 :=
  (lanesOf x.live).foldl (fun m l => m ||| (f l).bits) 0#6

/-- Writes results and ORs in their flags. -/
def Ctx.putF (x : Ctx) (d : VS) (f : Nat → FW) (s : State) : State :=
  (x.put d (fun l => (f l).1) s).orFlags x.c x.p (x.liveFlags fun l => (f l).2)

def Ctx.putF64 (x : Ctx) (d : VS) (f : Nat → DWord × FFlags) (s : State) : State :=
  (x.put64 d (fun l => (f l).1) s).orFlags x.c x.p (x.liveFlags fun l => (f l).2)

/-- One element: inputs under R119, then their negations, the operation, and all flags (R124). -/
def elemOp (f : Fmt) (ftz : Bool) (op : List FV → Nat × FFlags) (xs : List (Nat × Bool)) : Nat × FFlags :=
  let ins := xs.map fun q => (f.input ftz q.1, q.2)
  let r := op (ins.map fun i => i.1.1.flip i.2)
  (r.1, ins.foldl (fun a i => a.or i.1.2) r.2)

/-- Two 16-bit elements (R117). -/
def twoElems (f : Nat → Nat × FFlags) : FW :=
  let lo := f 0
  let hi := f 1
  (BitVec.ofNat 32 (lo.1 + hi.1 * 2 ^ 16), lo.2.or hi.2)

/-- Writes the results of a floating-point operation of any type (R123, R124): sources with their negations. -/
def Ctx.putFloat (x : Ctx) (ty : BitVec 2) (d : VS) (srcs : List (VS × Bool)) (op : Fmt → Bool → List FV → Nat × FFlags)
    (s : State) : State :=
  let f := typeOf ty
  let z := x.ftz s
  match ty.toNat with
  | 0 => x.putF64 d (fun l =>
      let r := elemOp f z (op f z) (srcs.map fun q => ((x.src64 s q.1 l).toNat, q.2))
      (BitVec.ofNat 64 r.1, r.2)) s
  | 1 => x.putF d (fun l => toFW (elemOp f z (op f z) (srcs.map fun q => ((x.src s q.1 l).toNat, q.2)))) s
  | _ => x.putF d (fun l => twoElems fun k =>
      elemOp f z (op f z) (srcs.map fun q => ((x.src s q.1 l).toNat / 2 ^ (16 * k) % 2 ^ 16, q.2))) s

def floatBody (ty : BitVec 2) (d : VS) (srcs : List (VS × Bool)) (op : Fmt → Bool → List FV → Nat × FFlags) (x : Ctx)
    (s : State) : Res := .ok (x.putFloat ty d srcs op s)

/-- The literal form: type f32, the literal as source b. -/
def floatLit (d a : VS) (lit : Word) (op : Fmt → Bool → List FV → Nat × FFlags) (x : Ctx) (s : State) : Res :=
  let z := x.ftz s
  .ok (x.putF d (fun l => toFW (elemOp .f32 z (op .f32 z) [((x.src s a l).toNat, false), (lit.toNat, false)])) s)

/-- FADD, FMUL and FFMA (R124). -/
def faddOp (rm : Nat) (f : Fmt) (ftz : Bool) : List FV → Nat × FFlags
  | [a, b] => faddFV f ftz rm a b
  | _ => (f.qnan, {})

def fmulOp (rm : Nat) (f : Fmt) (ftz : Bool) : List FV → Nat × FFlags
  | [a, b] => fmulFV f ftz rm a b
  | _ => (f.qnan, {})

def ffmaOp (rm : Nat) (f : Fmt) (ftz : Bool) : List FV → Nat × FFlags
  | [a, b, c] => ffmaFV f ftz rm a b c
  | _ => (f.qnan, {})

/-- FMIN and FMAX (R125): -0 lies below +0; of one NaN and a number the number. -/
def fminmaxFV (max : Bool) (f : Fmt) (a b : FV) : Nat × FFlags :=
  let nv := a.isSig || b.isSig
  let below := match a.cmp b with
    | some .lt => true
    | some .eq => a.neg && !b.neg
    | _ => false
  if a.isNan && b.isNan then (f.qnan, { nv := nv })
  else if a.isNan then (f.bits b, { nv := nv })
  else if b.isNan then (f.bits a, { nv := nv })
  else (f.bits (if below != max then a else b), {})

def fminOp (f : Fmt) (_ : Bool) : List FV → Nat × FFlags
  | [a, b] => fminmaxFV false f a b
  | _ => (f.qnan, {})

def fmaxOp (f : Fmt) (_ : Bool) : List FV → Nat × FFlags
  | [a, b] => fminmaxFV true f a b
  | _ => (f.qnan, {})

/-- FRND (R128). DESIGN CHOICE: a subnormal input that flush-to-zero reads as zero raises FZ (R119), although R128 names NV
alone (log entry 129). -/
def frndOp (rm : Nat) (f : Fmt) (_ : Bool) : List FV → Nat × FFlags
  | [.nan s] => (f.qnan, { nv := s })
  | [.inf n] => (f.inf n, {})
  | [.fin n m e] => (f.bits (if 0 ≤ e then .fin n m e else .fin n (roundShift rm n m (-e)).1 0), {})
  | _ => (f.qnan, {})

/-- FSCALE (R129): by 2^n. -/
def fscaleOp (rm : Nat) (n : Int) (f : Fmt) (ftz : Bool) : List FV → Nat × FFlags
  | [.nan s] => (f.qnan, { nv := s })
  | [.inf g] => (f.inf g, {})
  | [.fin g m e] => f.round ftz false rm g m (e + n)
  | _ => (f.qnan, {})

/-- FCLASS (R127): the bit of a pattern's class. -/
def fclassOf (f : Fmt) (x : Nat) : Nat :=
  match f.decode x with
  | .nan s => if s then 1 else 2
  | .inf n => if n then 4 else 512
  | .fin n m _ =>
    let k := if m = 0 then 6 else if m < 2 ^ f.frac then 7 else 8
    if n then 2 ^ (11 - k) else 2 ^ k

/-- FCMP (R126) on two values. -/
def fcmpOf (cc : Nat) (a b : FV) : Bool × FFlags :=
  let o := a.cmp b
  (floatCmp cc o, { nv := a.isSig || b.isSig || (o.isNone && 2 ≤ cc && cc ≤ 5) })

/-- Writes a predicate of lanes and ORs in the flags. -/
def Ctx.putPF (x : Ctx) (pd : BitVec 8) (f : Nat → Bool × FFlags) (s : State) : State :=
  (x.putP pd (fun l => (f l).1) s).orFlags x.c x.p (x.liveFlags fun l => (f l).2)

/-- The comparison of two patterns with the flags of their inputs. -/
def fcmpBits (f : Fmt) (ftz : Bool) (cc a b : Nat) : Bool × FFlags :=
  let x := f.input ftz a
  let y := f.input ftz b
  let r := fcmpOf cc x.1 y.1
  (r.1, (r.2.or x.2).or y.2)

def fcmpBody (pd : BitVec 8) (a b : VS) (ty : BitVec 2) (cc : Nat) (x : Ctx) (s : State) : Res :=
  let f := typeOf ty
  .ok (x.putPF pd (fun l =>
    if ty == 0#2 then fcmpBits f (x.ftz s) cc (x.src64 s a l).toNat (x.src64 s b l).toNat
    else fcmpBits f (x.ftz s) cc (x.src s a l).toNat (x.src s b l).toNat) s)

/-- FDOT2 (R130): a0 b0 + a1 b1 + c, formed exactly and rounded once. -/
def fdot2Of (ty : BitVec 2) (ftz : Bool) (rm : Nat) (na nb nc : Bool) (a b c : Word) : FW :=
  let f := typeOf ty
  let el := fun (w : Word) (k : Nat) (n : Bool) => let v := f.input ftz (w.toNat / 2 ^ (16 * k) % 2 ^ 16)
                                                  (v.1.flip n, v.2)
  let a0 := el a 0 na
  let a1 := el a 1 na
  let b0 := el b 0 nb
  let b1 := el b 1 nb
  let z := in32 ftz c
  let r := fused .f32 ftz rm [(a0.1, b0.1), (a1.1, b1.1)] [z.1.flip nc]
  (BitVec.ofNat 32 r.1, ((((r.2.or a0.2).or a1.2).or b0.2).or b1.2).or z.2)

/-- A special-function instruction (R131). -/
def sfuBody (f : Sfu) (d a : VS) (x : Ctx) (s : State) : Res :=
  .ok (x.putF d (fun l => f.word (x.ftz s) (x.src s a l)) s)

/-! ### The instructions -/

/-- FADD to FDOT2 (R124 to R130). -/
def execFadd (g : Guard) (d a b : VS) (ty rm : BitVec 2) (na nb : Bool) (s : State) : Host.Outcome State Fault Refusal :=
  issue (.fadd g d a b ty rm na nb) g (floatBody ty d [(a, na), (b, nb)] (faddOp rm.toNat)) s

def execFaddL (g : Guard) (sc : Bool) (d a : BitVec 8) (lit : BitVec 32) (rm : BitVec 2) (s : State) : Host.Outcome State Fault Refusal :=
  issue (.faddL g sc d a lit rm) g (floatLit ⟨sc, d⟩ ⟨sc, a⟩ lit (faddOp rm.toNat)) s

def execFmul (g : Guard) (d a b : VS) (ty rm : BitVec 2) (na nb : Bool) (s : State) : Host.Outcome State Fault Refusal :=
  issue (.fmul g d a b ty rm na nb) g (floatBody ty d [(a, na), (b, nb)] (fmulOp rm.toNat)) s

def execFmulL (g : Guard) (sc : Bool) (d a : BitVec 8) (lit : BitVec 32) (rm : BitVec 2) (s : State) : Host.Outcome State Fault Refusal :=
  issue (.fmulL g sc d a lit rm) g (floatLit ⟨sc, d⟩ ⟨sc, a⟩ lit (fmulOp rm.toNat)) s

def execFfma (g : Guard) (d a b c : VS) (ty rm : BitVec 2) (na nb nc : Bool) (s : State) : Host.Outcome State Fault Refusal :=
  issue (.ffma g d a b c ty rm na nb nc) g (floatBody ty d [(a, na), (b, nb), (c, nc)] (ffmaOp rm.toNat)) s

def execFmin (g : Guard) (d a b : VS) (ty : BitVec 2) (s : State) : Host.Outcome State Fault Refusal :=
  issue (.fmin g d a b ty) g (floatBody ty d [(a, false), (b, false)] fminOp) s

def execFminL (g : Guard) (sc : Bool) (d a : BitVec 8) (lit : BitVec 32) (s : State) : Host.Outcome State Fault Refusal :=
  issue (.fminL g sc d a lit) g (floatLit ⟨sc, d⟩ ⟨sc, a⟩ lit fminOp) s

def execFmax (g : Guard) (d a b : VS) (ty : BitVec 2) (s : State) : Host.Outcome State Fault Refusal :=
  issue (.fmax g d a b ty) g (floatBody ty d [(a, false), (b, false)] fmaxOp) s

def execFmaxL (g : Guard) (sc : Bool) (d a : BitVec 8) (lit : BitVec 32) (s : State) : Host.Outcome State Fault Refusal :=
  issue (.fmaxL g sc d a lit) g (floatLit ⟨sc, d⟩ ⟨sc, a⟩ lit fmaxOp) s

def execFcmp (g : Guard) (p : BitVec 8) (a b : VS) (ty : BitVec 2) (cc : BitVec 3) (s : State) : Host.Outcome State Fault Refusal :=
  issue (.fcmp g p a b ty cc) g (fcmpBody p a b ty cc.toNat) s

def execFcmpL (g : Guard) (sc : Bool) (p a : BitVec 8) (lit : BitVec 32) (cc : BitVec 3) (s : State) : Host.Outcome State Fault Refusal :=
  issue (.fcmpL g sc p a lit cc) g (fun x s => .ok (x.putPF p (fun l => fcmpBits .f32 (x.ftz s) cc.toNat (x.src s ⟨sc, a⟩ l).toNat lit.toNat) s)) s

def execFclass (g : Guard) (d a : VS) (ty : BitVec 2) (s : State) : Host.Outcome State Fault Refusal :=
  issue (.fclass g d a ty) g (fun x s => .ok (x.put d (fun l =>
      let w := (x.src s a l).toNat
      match ty.toNat with
      | 0 => BitVec.ofNat 32 (fclassOf .f64 (x.src64 s a l).toNat)
      | 1 => BitVec.ofNat 32 (fclassOf .f32 w)
      | _ => BitVec.ofNat 32 (fclassOf (typeOf ty) (w % 2 ^ 16) + fclassOf (typeOf ty) (w / 2 ^ 16) * 2 ^ 16)) s)) s

def execFrnd (g : Guard) (d a : VS) (ty rm : BitVec 2) (s : State) : Host.Outcome State Fault Refusal :=
  issue (.frnd g d a ty rm) g (floatBody ty d [(a, false)] (frndOp rm.toNat)) s

def execFscale (g : Guard) (d a b : VS) (ty rm : BitVec 2) (s : State) : Host.Outcome State Fault Refusal :=
  issue (.fscale g d a b ty rm) g (fun x s =>
    let z := x.ftz s
    if ty == 0#2 then .ok (x.putF64 d (fun l =>
      let r := elemOp .f64 z (fscaleOp rm.toNat (x.src s b l).toInt .f64 z) [((x.src64 s a l).toNat, false)]
      (BitVec.ofNat 64 r.1, r.2)) s)
    else .ok (x.putF d (fun l =>
      toFW (elemOp .f32 z (fscaleOp rm.toNat (x.src s b l).toInt .f32 z) [((x.src s a l).toNat, false)])) s)) s

def execFdot2 (g : Guard) (d a b c : VS) (ty rm : BitVec 2) (na nb nc : Bool) (s : State) : Host.Outcome State Fault Refusal :=
  issue (.fdot2 g d a b c ty rm na nb nc) g (fun x s => .ok (x.putF d (fun l => fdot2Of ty (x.ftz s) rm.toNat na nb nc (x.src s a l) (x.src s b l) (x.src s c l)) s)) s

/-- SRCP to STANH (R133). -/
def execSrcp (g : Guard) (d a : VS) (s : State) : Host.Outcome State Fault Refusal :=
  issue (.srcp g d a) g (sfuBody .rcp d a) s

def execSrsq (g : Guard) (d a : VS) (s : State) : Host.Outcome State Fault Refusal :=
  issue (.srsq g d a) g (sfuBody .rsq d a) s

def execSsqrt (g : Guard) (d a : VS) (s : State) : Host.Outcome State Fault Refusal :=
  issue (.ssqrt g d a) g (sfuBody .sqrt d a) s

def execSexp2 (g : Guard) (d a : VS) (s : State) : Host.Outcome State Fault Refusal :=
  issue (.sexp2 g d a) g (sfuBody .exp2 d a) s

def execSlog2 (g : Guard) (d a : VS) (s : State) : Host.Outcome State Fault Refusal :=
  issue (.slog2 g d a) g (sfuBody .log2 d a) s

def execSsin (g : Guard) (d a : VS) (s : State) : Host.Outcome State Fault Refusal :=
  issue (.ssin g d a) g (sfuBody .sin d a) s

def execScos (g : Guard) (d a : VS) (s : State) : Host.Outcome State Fault Refusal :=
  issue (.scos g d a) g (sfuBody .cos d a) s

def execStanh (g : Guard) (d a : VS) (s : State) : Host.Outcome State Fault Refusal :=
  issue (.stanh g d a) g (sfuBody .tanh d a) s

/-! ### ITER (R76) -/

/-- Whether the deadline of a group's node has come (R76, R347). -/
def State.deadlinePassed (s : State) (node : Nat) : Bool :=
  let d := (s.node node).deadline
  d != 0 && d ≤ s.dtime

/-- ITER: counts, then tests convergence, the deadline and the cap in that order; the lanes that meet none of them are taken. A passed
deadline makes the node's status DEADLINE_MISS. -/
def iterBody (hint f64 : Bool) (st : Nat) (a : VS) (ofs : BitVec 32) (x : Ctx) (s : State) : Res :=
  let f : Fmt := if f64 then .f64 else .f32
  let reg := fun (k l : Nat) => x.src s ⟨a.sc, a.n + BitVec.ofNat 8 k⟩ l
  let cnt := if f64 then 4 else 2
  let test := fun l =>
    if f64 then fcmpQuiet f (x.ftz s) (pair64 (reg 0 l) (reg 1 l)).toNat (pair64 (reg 2 l) (reg 3 l)).toNat
    else fcmpQuiet f (x.ftz s) (reg 0 l).toNat (reg 1 l).toNat
  let n := fun l => reg cnt l + 1#32
  let late := s.deadlinePassed x.g.node
  let conv := maskWhere fun l => (test l).1
  let capped := maskWhere fun l => (reg (cnt + 1) l).toNat ≤ (n l).toNat
  let open_ := if late then 0#32 else ~~~conv &&& ~~~capped
  let stop := if a.sc && x.live == 0#32 then 0#32 else x.active &&& ~~~open_
  let s := x.put ⟨a.sc, a.n + BitVec.ofNat 8 cnt⟩ n s
  let s := s.setP x.c x.p st ((s.p x.c x.p st &&& ~~~stop) ||| (stop &&& ~~~conv))
  let s := s.orFlags x.c x.p (x.liveFlags fun l => (test l).2)
  let s := if late && (x.live &&& ~~~conv) != 0#32 then s.setNode x.g.node { s.node x.g.node with missed := true } else s
  .done (x.branch hint (x.target ofs) (x.live &&& open_) s)
where
  /-- Ordered less-or-equal that raises NV for signalling NaNs alone. -/
  fcmpQuiet (f : Fmt) (ftz : Bool) (a b : Nat) : Bool × FFlags :=
    let u := f.input ftz a
    let v := f.input ftz b
    (floatCmp 3 (u.1.cmp v.1), (({ nv := u.1.isSig || v.1.isSig } : FFlags).or u.2).or v.2)

def execIter (g : Guard) (hint f64 : Bool) (st : BitVec 3) (a : VS) (ofs : BitVec 32) (s : State) :
    Host.Outcome State Fault Refusal :=
  issue (.iter g hint f64 st a ofs) g (iterBody hint f64 st.toNat a ofs) s

end Sys2Proof.Machine
end

