-- ==== Sys2Proof/Machine/Access.lean ====
section
/-!
DEFINITION. Accesses of groups to memory (R196 to R214): how they are made, performed at their home or on a copy in L1, and answered; pins;
the digest of stores (R345); and the hardware steps that belong to them.
-/
namespace Sys2Proof.Machine

/-! ### The digest (R345) -/

def digestMix (x : DWord) : DWord :=
  let x := (x ^^^ (x >>> 31)) * 0x8F3A61C5D2B74E19#64
  let x := (x ^^^ (x >>> 29)) * 0xE7035B49A1C6F2D3#64
  x ^^^ (x >>> 32)

/-- H of one word: its address, byte mask, kind, the count q, and the written bytes. -/
def digestHash (word mask kind q d : Nat) : DWord :=
  let x0 : DWord := BitVec.ofNat 64 (word % 2 ^ 55 + mask * 2 ^ 55 + kind * 2 ^ 59)
  digestMix (digestMix x0 ^^^ BitVec.ofNat 64 (q * 2 ^ 32 + d))

/-- The sum of H over the aligned words that bytes at an address touch. -/
def digestBytes (addr : DWord) (bs : List Byte) (kind q : Nat) : DWord :=
  let a := addr.toNat % 2 ^ 57
  (List.range ((a + bs.length + 3) / 4 - a / 4)).foldl (fun (h : DWord) k =>
    let w := a / 4 + k
    let part := (List.range 4).map fun j => let b := 4 * w + j
                                            if a ≤ b && b < a + bs.length then bs[b - a]? else none
    let mask := (List.range 4).foldl (fun m j => m + boolNat ((part.getD j none).isSome) * 2 ^ j) 0
    let d := (List.range 4).foldl (fun m j => m + ((part.getD j none).getD 0#8).toNat * 256 ^ j) 0
    h + digestHash w mask kind q d) 0#64

/-- A contributing store or atomic of one lane, under DET. -/
def State.digestLane (s : State) (c p l : Nat) (addr : DWord) (bs : List Byte) (kind : Nat) : State :=
  if !(s.launchOf c p).det then s
  else
    let g := s.grp c p
    let pl := g.placeOf p l
    let home := s.grp c pl.grp
    let q := aget 0 home.stores pl.lane
    let s := s.setGrp c pl.grp { home with stores := aset 0 home.stores pl.lane (q + 1) }
    let g := s.grp c p
    s.setGrp c p { g with digest := g.digest + digestBytes addr bs kind q }

/-- The sum of H over the aligned words of bytes that an operation has written, by virtual address: later bytes of one address count. -/
def digestWritten (w : List (Nat × Byte)) (q : Nat) : DWord :=
  let m := w.foldl (fun m e => ains (adel m (e.1 % 2 ^ 57)) (e.1 % 2 ^ 57) e.2) []
  let words := m.foldl (fun ks e => if ks.head? == some (e.1 / 4) then ks else e.1 / 4 :: ks) []
  words.foldl (fun (h : DWord) k =>
    let part := (List.range 4).map fun j => (m.find? (·.1 == 4 * k + j)).map (·.2)
    let mask := (List.range 4).foldl (fun m j => m + boolNat ((part.getD j none).isSome) * 2 ^ j) 0
    let d := (List.range 4).foldl (fun m j => m + ((part.getD j none).getD 0#8).toNat * 256 ^ j) 0
    h + digestHash k mask 0 q d) 0#64

/-- What a contributing asynchronous operation adds to its group's digest, or, when the group has ended, to its block's (R345). -/
def State.digestAsync (s : State) (e : Eng) (w : List (Nat × Byte)) : State :=
  let l := s.launch e.node
  if !l.det || w.isEmpty then s
  else
    let h := digestWritten w (0x80000000 + e.nth)
    let g := s.grp e.core e.grp
    if g.live && g.uid == e.uid then s.setGrp e.core e.grp { g with digest := g.digest + h }
    else s.setLaunch e.node { l with digests := aset 0#64 l.digests e.blk (aget 0#64 l.digests e.blk + h) }

/-- Consecutive bytes with their addresses. -/
def bytesAt (addr : DWord) (bs : List Byte) : List (Nat × Byte) :=
  (List.range bs.length).map fun k => (addr.toNat + k, bs.getD k 0#8)

/-! ### Atomics (R189) -/

/-- The new memory value of an atomic operation on a width of w bytes. -/
def atomicNew (aop w m o cmp : Nat) : Nat :=
  let k := 2 ^ (8 * w)
  match aop with
  | 0 => (m + o) % k
  | 1 => if toSigned (8 * w) o < toSigned (8 * w) m then o else m
  | 2 => if toSigned (8 * w) m < toSigned (8 * w) o then o else m
  | 3 => min m o
  | 4 => max m o
  | 5 => Nat.land m o
  | 6 => Nat.lor m o
  | 7 => Nat.xor m o
  | 8 => o
  | 9 => if m = cmp then o else m
  | _ =>
    let f : Fmt := if w = 8 then .f64 else .f32
    (faddFV f false rn (f.decode m) (f.decode o)).1

/-! ### What an access waits for -/

def Access.line (a : Access) : Nat := lineOf a.pa

/-- Whether two accesses come from one lane, wherever LCOMP or REGRP may have moved it, or from one instruction; the scalar path counts as every lane
of its group. -/
def Access.sameLane (a b : Access) : Bool :=
  (a.home.isSome && a.home == b.home) || (a.uid == b.uid && (a.wave == b.wave || a.lane == 32 || b.lane == 32))

/-- Whether an earlier access of the same lane or instruction to some bytes is still to be performed (R198, R199). -/
def State.orderBlocks (s : State) (a : Access) (pa n : Nat) : Bool :=
  s.accesses.any fun b => b.id < a.id && !b.done && b.touches pa n && b.sameLane a

/-- Whether an access may be performed now. -/
def State.accessReady (s : State) (a : Access) : Bool :=
  !(a.afterRel.any s.relOpen) && !((if windowOf a.pa == some .device then a.afterAcc else a.afterFar).any s.undone) &&
  a.ranges.all fun r => !s.orderBlocks a r.1 r.2 && !s.engineHold a.uid a.id false (a.kind != .load) r.1 r.2

def State.pinOf (s : State) (line : Nat) : Option Pin := s.pins.find? (·.line == line)

/-- Whether a line of the access is pinned by another core, which refuses it (R210). -/
def State.refuses (s : State) (a : Access) : Bool := a.ranges.any fun r => !(s.pinnedLines a.core r.1 r.2).isEmpty

def State.setAccess (s : State) (a : Access) : State :=
  { s with accesses := s.accesses.map fun b => if b.id == a.id then a else b }

def State.dropAccess (s : State) (id : Nat) : State := { s with accesses := s.accesses.filter (·.id != id) }

def State.access (s : State) (id : Nat) : Option Access := s.accesses.find? (·.id == id)

/-! ### Performing at the home (R204 to R208) -/

/-- Grants a lease on a line of device memory to the L1 that serves a core (R204): the copy of the line and its expiry, which the home
keeps (R207). Older copies in stipple caches take the same bytes (R198). -/
def State.grantLease (s : State) (c line : Nat) : State :=
  match (s.core c).launch with
  | none => s
  | some n =>
    let l := s.launch n
    if l.l1 = 0 then s.freshenCopy c line
    else
      let k := s.l1Of c line
      let t := s.dtime + l.lease
      let y : L1Copy := { core := k, line := line, bytes := s.bytes (128 * line) 128, expiry := t }
      ({ s with leases := aset 0 s.leases line (max (aget 0 s.leases line) t)
                l1 := s.l1.filter (fun z => !(z.core == k && z.line == line)) ++ [y] } : State).freshenCopy c line

/-- Grants a lease on a line to the cache of a core's stipple unit (R204, R238); the copy in L1 takes the same bytes. -/
def State.grantStipple (s : State) (c line : Nat) : State :=
  match (s.core c).launch with
  | none => s
  | some n =>
    let t := s.dtime + (s.launch n).lease
    let y : L1Copy := { core := c, line := line, bytes := s.bytes (128 * line) 128, expiry := t }
    ({ s with
      leases := aset 0 s.leases line (max (aget 0 s.leases line) t)
      stipple := s.stipple.filter (fun z => !(z.core == c && z.line == line)) ++ [y] } : State).freshenCopy c line

/-- A lane that has read a copy of a line in L1 reads nothing older through the stipple cache (R198). -/
def State.syncStipple (s : State) (c line : Nat) (bs : List Byte) : State :=
  { s with stipple := s.stipple.map fun y => if y.core == c && y.line == line then { y with bytes := bs } else y }

/-- The cached copy that a load may read: that of its core's L1, or of its stipple unit (R238). -/
def State.copyFor (s : State) (a : Access) : Option L1Copy :=
  if a.stip then s.stipple.find? fun y => y.core == a.core && y.line == a.line
  else s.l1.find? fun y => y.core == s.l1Of a.core a.line && y.line == a.line

/-- A line that is read as a load of shared memory would read it (R188, R391): unless L1 holds it in force, it enters L1 under a new lease (R204). -/
def State.fetchLine (s : State) (c pa : Nat) : State :=
  if windowOf pa != some .device || (s.pinOf (lineOf pa)).isSome then s
  else if s.l1.any fun y => y.core == s.l1Of c (lineOf pa) && y.line == lineOf pa && s.dtime + 2 < y.expiry then s
  else s.grantLease c (lineOf pa)

/-- The bytes that the L1 of a core gives a load: a copy whose lease has not run out less the margin of R213; never past a store of
the group that is still to be acknowledged (R198), nor on a line that another core has pinned. -/
def State.l1Hit (s : State) (a : Access) : Option (List Byte) :=
  if a.nl1 || a.kind != .load || windowOf a.pa != some .device || s.refuses a || !s.accessReady a ||
     s.accesses.any (fun b => b.kind != .load && b.id < a.id && overlaps b.pa b.n a.pa a.n && (b.uid == a.uid || b.sameLane a)) then none
  else match s.copyFor a with
    | some y => if s.dtime + 2 < y.expiry then some (slice y.bytes (a.pa % 128) a.n) else none
    | none => none

/-- A read at the home reaches the caches: a gather's line enters the stipple unit's, a .nl1 load only freshens older copies, and any other line enters
L1 under a new lease (R204); a pinned line enters none. -/
def State.takeLine (s : State) (a : Access) : State :=
  if windowOf a.pa != some .device || (s.pinOf a.line).isSome then s
  else if a.stip then s.grantStipple a.core a.line
  else if a.nl1 then s.freshenCopy a.core a.line else s.grantLease a.core a.line

/-- The scale word of a format-window access, read as an ordinary load of its lane (R184): from a copy in L1 whose lease is in force, or at the home;
and the state after the read. Without a scale region it is 1.0. -/
def State.readScale (s : State) (a : Access) : Word × State :=
  match a.win with
  | some (_, some k) =>
    let b : Access := { a with pa := k, n := 4, stip := false, win := none }
    match s.l1Hit b with
    | some bs => (leWord bs, s.syncStipple a.core b.line (((s.copyFor b).map (·.bytes)).getD []))
    | none => (leWord (s.bytes k 4), s.takeLine b)
  | _ => (0x3F800000#32, s)

/-- The write-completion time of a store by core c on a line: the present under its own pin (R209). -/
def State.wctFor (s : State) (c line : Nat) : Nat :=
  match s.pinOf line with
  | some q => if q.core == c then s.dtime else s.wctOf line
  | none => s.wctOf line

/-- An access performed at its home in device or host memory, or on a control register. -/
def State.performHome (s : State) (a : Access) : State :=
  match a.kind with
  | .load =>
    let v := s.readAt a.pa a.n
    let r := (s.takeLine a).readScale a
    (r.2.setAccess { a with done := true, value := v, scale := r.1 }).post .loadDataWritten [a.id]
  | .store =>
    let s := if windowOf a.pa == some .control then s.ctlWrite (a.pa % 2 ^ 32) a.data else s.setBytes a.pa a.data
    ((s.setAccess { a with done := true, wct := if windowOf a.pa == some .device then s.wctFor a.core a.line else s.dtime }).post
      .storeAcknowledgement [a.id]).wakeWaits
  | .atomic aop =>
    let old := s.readAt a.pa a.n
    let new := leBytes a.n (atomicNew aop a.n (leNat old) (leNat a.data) (leNat a.cmp))
    let s := if windowOf a.pa == some .control then s.ctlWrite (a.pa % 2 ^ 32) new else s.setBytes a.pa new
    ((s.setAccess { a with done := true, value := old, data := new,
                           wct := if windowOf a.pa == some .device then s.wctFor a.core a.line else s.dtime }).post
      .storeAcknowledgement [a.id]).wakeWaits

/-- The packet of an access of this device has been answered or lost. -/
def State.dropPacketOf (s : State) (tag : Nat) : State :=
  match s.packets.find? fun q => q.tag == tag && q.owner == 0 && q.waiting with
  | none => s
  | some q => s.donePacket q.id

/-- A request to a peer is lost (R311): an element of a gather or scatter settles as lost (R245); any other load ends with a free value,
and a store is given up. -/
def State.loseAccess (s : State) (id : Nat) : State :=
  match s.access id with
  | none => s
  | some a =>
    let s := s.dropPacketOf id
    if a.gath then (s.setAccess { a with lost := true }).post .gathSettled [a.core, a.grp]
    else
      let free := (List.range a.n).map fun k => Config.freePeer s.freeCount (a.pa + k)
      match a.kind with
      | .load => (s.setAccess { a with done := true, sent := true, value := free }).post .loadDataWritten [id]
      | _ => (s.setAccess { a with done := true, sent := true, value := free, wct := s.dtime }).post .storeAcknowledgement [id]

/-- A request to a peer (R214): lost at once where no route reaches it (R311). -/
def State.sendAccess (s : State) (a : Access) : State :=
  let kind : PacketKind := match a.kind with
    | .load => .coreRead
    | .store => .coreWrite
    | .atomic _ => .coreAtomic
  match s.sendPacket { kind := kind, dst := a.pa / 2 ^ 40 % 256, tag := a.id, addr := a.pa % 2 ^ 40, nums := [a.n], bytes := a.data,
                       waiting := true } with
  | none => s.loseAccess a.id
  | some s => s.setAccess { a with sent := true }

/-- Refused by a pin: the access is repeated after 64 cycles, and the line's refusals are timed (R210, R211). -/
def State.retryLater (s : State) (a : Access) : State :=
  let ls := a.ranges.flatMap fun r => s.pinnedLines a.core r.1 r.2
  (s.setAccess { a with refused := true }).retryStep ls .retry [a.id]

/-- HOME_REQUEST (R208, R214): subject: the access. -/
def State.homeRequest (s : State) (id : Nat) : State :=
  match s.access id with
  | none => s
  | some a =>
    if a.done || a.sent || a.lost then s
    else if !s.accessReady a then s.post .homeRequest [id]
    else match windowOf a.pa with
      | some .remote => s.sendAccess a
      | some .device => if s.refuses a then s.retryLater a else s.performHome a
      | _ => s.performHome a

def execHomeRequest (s : State) : Host.Outcome State Fault Refusal := .next (s.homeRequest (s.arg 0))

/-- TAKING_A_PIN (R209): subject: a narrow-scope atomic. The pin is taken at the home once device time has passed the line's
write-completion time; with 64 pins held the atomic is performed at core scope and pins nothing. -/
def State.takePin (s : State) (id : Nat) : State :=
  match s.access id with
  | none => s
  | some a =>
    if a.done then s
    else if !s.accessReady a then s.post .takingAPin [id]
    else if windowOf a.pa != some .device then s.homeRequest id
    else if s.refuses a then s.retryLater a
    else if (s.pinOf a.line).isSome then s.performHome a
    else if 64 ≤ (s.pins.filter (·.core == a.core)).length then s.performHome a
    else if s.dtime < aget 0 s.leases a.line then s.post .takingAPin [id]
    else
      let g := s.grp a.core a.grp
      let s : State := { s with
        pins := s.pins ++ [{ line := a.line, core := a.core, node := g.node, slot := g.slot }]
        l1 := s.l1.filter (fun y => y.line != a.line), stipple := s.stipple.filter fun y => y.line != a.line }
      s.performHome a

/-- RETRY (R210): subject: the access; it is repeated: a narrow-scope atomic would take its pin (R209). -/
def execRetry (s : State) : Host.Outcome State Fault Refusal :=
  .next (match s.access (s.arg 0) with
    | some a => (match a.kind with
      | .atomic _ => if a.scope ≤ 2 then s.takePin a.id else s.homeRequest a.id
      | _ => s.homeRequest a.id)
    | none => s)

def execTakingAPin (s : State) : Host.Outcome State Fault Refusal := .next (s.takePin (s.arg 0))

/-- PIN_TIMEOUT (R211): subject: the line. -/
def execPinTimeout (s : State) : Host.Outcome State Fault Refusal :=
  .next (if s.pins.any (fun q => q.line == s.arg 0 && 16384 ≤ q.refused) then s.unpin (s.arg 0) else s)

/-! ### Data and acknowledgements -/

/-- A value of a format window, before its scale (R184). -/
def windowValue (fmt x : Nat) : FV :=
  match fmt with
  | 0 => Fmt.decode .bf16 x
  | 1 => Fmt.decode .e4m3 x
  | 2 => Fmt.decode .e5m2 x
  | _ => let n := sh8Value x
         .fin (n < 0) n.natAbs (-6)

/-- An exact value read as an f32 input (R119): below the normal range it is zero of its sign. -/
def flush32 (ftz : Bool) : FV → FV × FFlags
  | .fin n m e => if ftz && m != 0 && (m.log2 : Int) + e < -126 then (.fin n 0 e, { fz := true }) else (.fin n m e, {})
  | v => (v, {})

/-- The decode of LD.x: FMUL.f32.rn of the element and the scale. -/
def windowDecode (ftz : Bool) (fmt x : Nat) (scale : Word) : FW :=
  let a := flush32 ftz (windowValue fmt x)
  let b := in32 ftz scale
  let r := fmulFV .f32 ftz rn a.1 b.1
  (BitVec.ofNat 32 r.1, (r.2.or a.2).or b.2)

/-- Writes words to consecutive registers of a destination. -/
def State.putDest (s : State) (c p : Nat) (handler : Bool) (d : Dest) (ws : List Word) : State :=
  (List.range ws.length).foldl (fun s k =>
    match d with
    | .none => s
    | .vec pl r => { s with vreg := aset 0#32 s.vreg (vkey c pl (r + k)) (ws.getD k 0#32) }
    | .scalar r => if handler then s.setSr c p (r + k) (ws.getD k 0#32) else s.setSraw c p (r + k) (ws.getD k 0#32)) s

/-- A load's data reach its registers (R61), and the access has gone. -/
def State.deliver (s : State) (a : Access) : State :=
  let s := match a.win with
    | some (fmt, _) =>
      let r := windowDecode (s.launchOf a.core a.grp).ftz fmt (leNat a.value) a.scale
      (s.putDest a.core a.grp false a.dest [r.1]).orFlags a.core a.grp r.2.bits
    | none => s.putDest a.core a.grp false a.dest (loadWords a.value a.sext)
  s.dropAccess a.id

/-- LOAD_DATA_WRITTEN (R61): subject: the access. A load not yet performed may be performed here on a copy in L1 (R204). -/
def State.loadData (s : State) (id : Nat) : State :=
  match s.access id with
  | none => s
  | some a =>
    if a.kind != .load then s
    else if a.done then (if a.keep then s else s.deliver a)
    else if a.sent || a.lost then s
    else match s.l1Hit a with
      | some bs =>
        let r := s.readScale a
        let s := match r.2.copyFor a with
          | some y => if a.stip then r.2 else r.2.syncStipple a.core a.line y.bytes
          | none => r.2
        let a := { a with done := true, value := bs, scale := r.1 }
        if a.keep then s.setAccess a else (s.setAccess a).deliver a
      | none => s.post .homeRequest [id]

def execLoadDataWritten (s : State) : Host.Outcome State Fault Refusal := .next (s.loadData (s.arg 0))

/-- STORE_ACKNOWLEDGEMENT (R201): subject: the access. The copy in the issuing L1 takes the line's new bytes, or goes for .nl1; sr.wct
rises; an atomic's old value reaches its register. -/
def State.storeAck (s : State) (id : Nat) : State :=
  match s.access id with
  | none => s
  | some a =>
    if a.kind == .load || !a.done || a.gath then s
    else
      let s := if windowOf a.pa != some .device then s
        else if a.nl1 then
          { s with
            l1 := s.l1.filter fun y => !(y.core == s.l1Of a.core a.line && y.line == a.line)
            stipple := s.stipple.filter fun y => !(s.l1Of y.core y.line == s.l1Of a.core a.line && y.line == a.line) }
        else s.freshenCopy a.core a.line
      let s := s.foldWct a.core a.grp a.uid a.id a.wct
      let s := match a.kind with
        | .atomic _ => s.putDest a.core a.grp false a.dest (loadWords a.value false)
        | _ => s
      s.dropAccess a.id

def execStoreAcknowledgement (s : State) : Host.Outcome State Fault Refusal := .next (s.storeAck (s.arg 0))

/-! ### Peers (R214, R311) -/

/-- REMOTE_DEVICE_ACCESS (R214): subject: the access, and the bytes that the peer's home gives: it is performed there. A load's answer
carries its data; a store or an atomic counts as performed once the peer's acknowledgement has come (R245). -/
def State.remoteAccess (s : State) (id : Nat) (bs : List Byte) : State :=
  match s.access id with
  | none => s
  | some a =>
    if !a.sent || a.done || a.lost then s
    else
      let v := slice bs 0 a.n
      match a.kind with
      | .load => ((s.setAccess { a with done := true, value := v }).dropPacketOf id).post .loadDataWritten [id]
      | _ => if a.value.isEmpty then s.setAccess { a with value := v } else s

def execRemoteDeviceAccess (s : State) : Host.Outcome State Fault Refusal := .next (s.remoteAccess (s.arg 0) s.subject.bytes)

/-- An answer to a core's store or atomic at a peer (R214): its completion time is the time at which the answer arrives. -/
def State.remoteAnswer (s : State) (id : Nat) : State :=
  match s.access id with
  | none => s
  | some a =>
    if a.kind == .load || !a.sent || a.lost then s
    else ((s.setAccess { a with done := true, wct := s.dtime }).dropPacketOf id).post .storeAcknowledgement [id]

/-! ### Making accesses -/

/-- What every access of an issuing instruction carries: the first number of its wave is the state's next number. -/
def Ctx.baseAccess (x : Ctx) (s : State) : Access :=
  { core := x.c, grp := x.p, uid := x.g.uid, wave := s.nextId, afterAcc := s.acqsOf x.c x.p x.e.mask false,
    afterFar := s.acqsOf x.c x.p x.e.mask true }

/-- The home of the lane that an access names: the number of the group launched there, and the lane. -/
def State.homeOf (s : State) (a : Access) : Option (Nat × Nat) :=
  if a.lane = 32 then none
  else
    let pl := (s.grp a.core a.grp).placeOf a.grp a.lane
    some ((s.grp a.core pl.grp).uid, pl.lane)

/-- The lines of memory that accesses of one instruction request. -/
def linesOf (as : List Access) : Nat := (as.flatMap Access.lines).eraseDups.length

/-- Adds accesses in order, numbers them and puts their first step on the agenda. -/
def State.addAccesses (s : State) (as : List Access) : State :=
  as.foldl (fun s a =>
    let a := { a with id := s.nextId, home := s.homeOf a }
    let s : State := { s with nextId := s.nextId + 1, accesses := s.accesses ++ [a] }
    let what : Instr := match a.kind with
      | .load => if (s.l1Hit a).isSome then .loadDataWritten else .homeRequest
      | .atomic _ => if a.scope ≤ 2 then .takingAPin else .homeRequest
      | .store => .homeRequest
    s.post what [a.id]) s

end Sys2Proof.Machine
end

