-- ==== Sys2Proof/Machine/Sched.lean ====
section
/-!
DEFINITION. Scheduling (R41, R44, R59, R65 to R69, R87, R391): when an entry is eligible for a port, which entry issues, what is checked
before its instruction issues, and how time advances. The step only calls what stands here.
-/
namespace Sys2Proof.Machine

/-! ### The clause an entry stands in -/

/-- The header and the instruction of an entry whose instruction has issued and is under way: they are not fetched again. -/
def Entry.running (e : Entry) : Option (Header × Instr) := if e.underWay then e.issued else none

/-- What a position gives at issue: the fault of its header (R39, R46, R180), or the header. -/
def State.headerAt (s : State) (c p : Nat) (e : Entry) : Except Nat Header :=
  match e.running with
  | some q => .ok q.1
  | none =>
    if e.hdr.toNat % 8 != 0 then .error Code.ILLEGAL_TARGET
    else match s.fetchWord c p e.hdr with
      | .error code => .error code
      | .ok w =>
        if !isHeader w then .error Code.ILLEGAL_TARGET
        else match decodeHeader w with
          | none => .error Code.ILLEGAL_OP
          | some h => .ok h

/-- The instruction an entry comes to: the fault of its word (R58, R45), or the instruction. DESIGN CHOICE: an index above COUNT, which only a frame
that a handler has rewritten brings, names no word of the clause and gives ILLEGAL_OP (log entry 159). -/
def State.instrAt (s : State) (c p : Nat) (e : Entry) (h : Header) : Except Nat Instr :=
  match e.running with
  | some q => .ok q.2
  | none =>
    if h.count.toNat < e.idx then .error Code.ILLEGAL_OP
    else match s.fetchWord c p (wordAddr e.hdr e.idx) with
      | .error code => .error code
      | .ok w =>
        match decodeWord w with
        | .error _ => .error Code.ILLEGAL_OP
        | .ok i =>
          if (classOf (opcodeOf w)).code != h.cls.toNat then .error Code.ILLEGAL_OP
          else if i.isTransfer && e.idx != h.count.toNat then .error Code.ILLEGAL_OP
          else .ok i

/-- The port of an entry's next instruction: the class of its clause; a position whose header faults is taken at any port. -/
def State.portOf (s : State) (c p : Nat) (e : Entry) : Option Nat :=
  match s.headerAt c p e with
  | .ok h => some h.cls.toNat
  | .error _ => none

/-- Classes 0 to 2 have a port per partition, the others one per core (R16). -/
def samePort (cls p q : Nat) : Bool := 3 ≤ cls || partOf p == partOf q

/-- Whether an entry still holds its clause's port (R44): it does not while the clause's last instruction, which has issued, is under way. -/
def Entry.keepsPort (e : Entry) : Bool := e.holding && !(e.running.any fun q => q.1.count.toNat == e.idx)

/-- Whether the port of a class is free for an entry, or held by it (R44). -/
def State.portFree (s : State) (c p k cls : Nat) : Bool :=
  (s.residents c).all fun q =>
    !samePort cls p q ||
    (let g := s.grp c q
     (List.range g.frontier.length).all fun j =>
       let e := g.frontier.getD j {}
       !e.keepsPort || (q == p && j == k) || s.portOf c q e != some cls)

/-! ### Fetch (R69, R391) -/

/-- The buffer keys of a clause: its lines in SHARED, its header in SPLIT. -/
def fetchKeys (l : Launch) (node : Nat) (hdr : DWord) (count : Nat) : List (Nat × Nat) :=
  if l.split then [(node, hdr.toNat)]
  else (List.range ((hdr.toNat + 8 * (count + 2) - 1) / 128 + 1 - hdr.toNat / 128)).map fun k => (node, hdr.toNat / 128 + k)

/-- The lines of SHARED that entries of a core use: those of the clause that each stands in, which count it (R69). -/
def State.fetchInUse (s : State) (c : Nat) : List (Nat × Nat) :=
  (s.residents c).flatMap fun q =>
    let g := s.grp c q
    let l := s.launch g.node
    if l.split then []
    else g.frontier.flatMap fun e => match s.headerAt c q e with
      | .ok h => fetchKeys l g.node e.hdr h.count.toNat
      | .error _ => []

/-- What no entry uses: in SHARED the lines with count zero, the one used longest ago first, and in SPLIT the free slots, the one left longest ago
first. -/
def freeKeys (l : Launch) (inUse : List (Nat × Nat)) (f : Fetched) : Fetched :=
  if l.split then f else f.filter fun k => !inUse.contains k

/-- The clauses of the slots that entries of a core have now. -/
def State.slotsHeld (s : State) (c : Nat) : Fetched :=
  (s.residents c).flatMap fun q =>
    let g := s.grp c q
    (g.frontier.filter (·.slot)).map fun e => (g.node, e.hdr.toNat)

/-- Slots that entries have left are free from now on, and keep their clauses (R391). -/
def State.settleSlots (s : State) (c : Nat) : State :=
  let k := s.core c
  let now := s.slotsHeld c
  if now == k.held then s
  else s.setCore c { k with held := now, fetched := k.fetched ++ now.foldl (fun f x => f.erase x) k.held }

/-- Whether one of an image's stores is still to be performed. -/
def State.imageOpen (s : State) (ids : List Nat) : Bool := ids.any fun i => s.accesses.any fun a => a.id == i && !a.done

/-- MSAVE.rel releases the banks of the accumulators whose images are written (R271); the record of the latest loop stays (R260). -/
def State.settleBanks (s : State) (c p : Nat) : State :=
  let g := s.grp c p
  let written := g.freeing.filter fun q => !s.imageOpen q.2
  if written.isEmpty then s
  else s.setGrp c p { g with
    accs := written.foldl (fun m q => aset {} m q.1 { flt := (aget {} m q.1).flt }) g.accs
    freeing := g.freeing.filter fun q => s.imageOpen q.2 }

/-- What every step finds settled of the steps before it: slots that entries have left are free, in the order in which they were left (R391), and
banks whose images are written are released (R271). -/
def State.settleAll (s : State) : State :=
  let s := s.cores.foldl (fun s e => s.settleSlots e.1) s
  s.groups.foldl (fun s e => s.settleBanks (e.1 / 64) (e.1 % 64)) s

/-- An entry takes a free slot that holds its clause (R391). -/
def State.takeSlot (s : State) (c : Nat) (key : Nat × Nat) : State :=
  let k := s.core c
  s.setCore c { k with fetched := k.fetched.erase key, held := k.held ++ [key] }

/-- Whether an entry has its clause (R391): in SHARED every line stands in the buffer; in SPLIT the entry has its slot, or a free slot already holds
the clause. -/
def State.fetchedClause (s : State) (c p : Nat) (e : Entry) (h : Header) : Bool :=
  let g := s.grp c p
  let l := s.launch g.node
  let keys := fetchKeys l g.node e.hdr h.count.toNat
  (l.split && e.slot) || keys.all fun k => (s.core c).fetched.contains k

/-- Lines of SHARED that have just been used stand last (R69, R391). -/
def State.useKeys (s : State) (c : Nat) (keys : List (Nat × Nat)) : State :=
  let k := s.core c
  let here := keys.filter k.fetched.contains
  s.setCore c { k with fetched := (here.foldl (fun f x => f.erase x) k.fetched) ++ here }

/-- Lines of a buffer or slots of a pool (R69). -/
def fetchSpace (l : Launch) : Nat := if l.split then 128 else 768

/-- How many free keys give way to new ones: what a core keeps, and the slots that entries have, fit into its buffer or pool. -/
def State.fetchExtra (s : State) (c : Nat) (l : Launch) (new : Nat) : Nat :=
  (s.core c).fetched.length + (s.core c).held.length + new - fetchSpace l

/-- New lines enter the buffer, or a slot is taken, in the place of keys that give way. -/
def State.enterKeys (s : State) (c : Nat) (l : Launch) (gone keys : Fetched) : State :=
  let k := s.core c
  let f := gone.foldl (fun f x => f.erase x) k.fetched
  s.setCore c (if l.split then { k with fetched := f, held := k.held ++ keys } else { k with fetched := f ++ keys })

/-- The physical pieces of a clause that the group can fetch. -/
def State.clausePieces (s : State) (c p : Nat) (hdr : DWord) (h : Header) : List (Nat × Nat) :=
  match s.translateRange c (s.launchOf c p).context { fetch := true, handler := (s.grp c p).handler } hdr (8 * (h.count.toNat + 2)) with
  | .ok ps => ps
  | .error _ => []

/-- CLAUSE_FETCH (R391): subject: core, group, header address. Where there is room the clause's lines enter the buffer in place of free ones, or the
entry takes a slot, the one left longest ago; otherwise it goes on waiting, and for 64 cycles where another core has pinned a line (R210). What is
fetched is code of the launch (R47). -/
def State.clauseFetch (s : State) (c p hdr : Nat) : State :=
  let s := s.settleSlots c
  let g := s.grp c p
  let l := s.launch g.node
  let at_ := BitVec.ofNat 64 hdr
  match firstIdx (fun e => e.hdr == at_ && e.idx == 0) g.frontier with
  | none => s
  | some n => match s.headerAt c p { hdr := at_ } with
    | .error _ => s
    | .ok h =>
      let k := s.core c
      let all := fetchKeys l g.node at_ h.count.toNat
      let keys := all.filter fun x => !k.fetched.contains x
      let free := freeKeys l (s.fetchInUse c) k.fetched
      let extra := s.fetchExtra c l keys.length
      let pieces := s.clausePieces c p at_ h
      if free.length < extra || s.fetchedClause c p (g.frontier.getD n {}) h || s.linesFull c (linesIn pieces) then s
      else match s.pinnedBy c pieces with
        | _ :: _ => s.retryStep (s.pinnedBy c pieces) .clauseFetch [c, p, hdr]
        | [] =>
          let s := s.enterKeys c l (free.take extra) keys
          let s := pieces.foldl (fun s q => (List.range ((q.1 + q.2 + 127) / 128 - q.1 / 128)).foldl
            (fun s i => s.fetchLine c (128 * (q.1 / 128 + i))) s) s
          let s := s.setLaunch g.node { l with
            codes := l.codes ++ pieces.filter fun q => !l.codes.any fun r => r.1 ≤ q.1 && q.1 + q.2 ≤ r.1 + r.2 }
          if l.split then s.setGrp c p { g with frontier := updateWhere (fun e => e.hdr == at_ && e.idx == 0) (fun e => { e with slot := true }) g.frontier }
          else s

def execClauseFetch (s : State) : Host.Outcome State Fault Refusal := .next (s.clauseFetch (s.arg 0) (s.arg 1) (s.arg 2))

/-! ### Waits of the header (R41) -/

/-- The bits of a header's wait field: fence, MIDLE, TOKW, BARW. -/
def headerNeeds (h : Header) : Nat :=
  boolNat (h.fscope != 0#3) + 2 * boolNat h.midle + 4 * boolNat h.tokw + 8 * boolNat h.barw

/-- Whether matrix work of the group remains in the sequencer. -/
def State.matrixBusy (s : State) (c p : Nat) : Bool := s.mjobs.any (·.uid == (s.grp c p).uid)

/-- The wait conditions of an entry that hold now (R41): for the fence, its release and its acquire are complete. A group that has not arrived at the
barrier since its last completed phase does not wait for it. -/
def State.waitsHold (s : State) (c p : Nat) (e : Entry) (h : Header) : Nat :=
  let g := s.grp c p
  let bar := aget {} (s.blkAt c g.slot).bars h.barid.toNat
  boolNat (match e.fence with
    | some id => !s.relOpen id && !(e.fenceAcc.any s.undone)
    | none => false) +
  2 * boolNat (!s.matrixBusy c p) + 4 * boolNat g.tokens.isEmpty +
  8 * boolNat (aget 0 g.arrivals h.barid.toNat ≤ bar.phases)

/-- Begins the fence wait of an entry at a clause start, and remembers the conditions that hold (R41). That of BARW observes the completion of a
phase, which is an acquire (R202, R221). -/
def State.beginWaits (s : State) (c p k : Nat) : State :=
  let g := s.grp c p
  match g.frontier[k]? with
  | none => s
  | some e =>
    if e.idx != 0 then s
    else match s.headerAt c p e with
      | .error _ => s
      | .ok h =>
        if headerNeeds h = 0 then s
        else
          let (e, s) := if h.fscope != 0#3 && e.fence.isNone then
              let loads := s.earlierLoads g.uid
              let (id, s) := s.startRelease c p h.fscope.toNat
              ({ e with fence := some id, fenceAcc := loads }, s)
            else (e, s)
          let met := e.met ||| s.waitsHold c p e h
          let s := if h.barw && met / 8 % 2 = 1 && e.met / 8 % 2 = 0 then s.acquire c p e.mask 2 else s
          let e := { e with met := met }
          let g := s.grp c p
          s.setGrp c p { g with frontier := g.frontier.set k e }

/-! ### The scoreboard (R60, R61) -/

/-- Tile descriptors that an instruction names. -/
def tregs : Instr → List Nat
  | .tdesc _ t _ _ _ => [t.toNat]
  | .tdescRd _ _ t => [t.toNat]
  | .tld _ t _ _ => [t.toNat]
  | .tldf _ t _ _ => [t.toNat]
  | .tstD _ _ t _ => [t.toNat]
  | .tstF _ _ t => [t.toNat]
  | .tzero _ t => [t.toNat]
  | .tadd _ t a b => [t.toNat, a.toNat, b.toNat]
  | .tscl _ t a _ => [t.toNat, a.toNat]
  | .tmul _ t a b => [t.toNat, a.toNat, b.toNat]
  | .tmulv _ _ a _ => [a.toNat]
  | .trnd _ t a _ _ _ => [t.toNat, a.toNat]
  | .trank _ _ a _ => [a.toNat]
  | .ttod _ t a => [t.toNat, a.toNat]
  | .ttol _ t a => [t.toNat, a.toNat]
  | .tpotrf _ t a => [t.toNat, a.toNat]
  | .ttrsm _ t a b _ _ _ _ => [t.toNat, a.toNat, b.toNat]
  | .tupd _ t a b => [t.toNat, a.toNat, b.toNat]
  | .thalc _ t => [t.toNat]
  | .thfre _ t => [t.toNat]
  | .msketch _ _ t _ _ => [t.toNat]
  | _ => []

/-- Accumulators that an instruction names; MSTAT and MSAVE are not stalled by one (R253). -/
def mregs : Instr → List Nat
  | .mloop _ m _ _ _ _ _ _ => [m.toNat]
  | .mma _ m _ _ _ => [m.toNat]
  | .mzero _ m _ => [m.toNat]
  | .mdrain _ _ m _ _ _ => [m.toNat]
  | .mdrainS _ _ m _ _ _ => [m.toNat]
  | .mdrainc _ m _ _ _ => [m.toNat]
  | .mguide _ _ m _ _ _ _ => [m.toNat]
  | .mrstr _ m _ => [m.toNat]
  | _ => []

/-- The tile a rank-tile instruction writes (R61). -/
def tileDest : Instr → Option Nat
  | .tdesc _ t _ _ _ => some t.toNat
  | .tld _ t _ _ => some t.toNat
  | .tldf _ t _ _ => some t.toNat
  | .tzero _ t => some t.toNat
  | .tadd _ t _ _ => some t.toNat
  | .tscl _ t _ _ => some t.toNat
  | .tmul _ t _ _ => some t.toNat
  | .trnd _ t _ _ _ _ => some t.toNat
  | .ttod _ t _ => some t.toNat
  | .ttol _ t _ => some t.toNat
  | .tpotrf _ t _ => some t.toNat
  | .ttrsm _ t _ _ _ _ _ _ => some t.toNat
  | .tupd _ t _ _ => some t.toNat
  | .thalc _ t => some t.toNat
  | .thfre _ t => some t.toNat
  | .trank _ _ t clr => if clr then some t.toNat else none
  | _ => none

/-- The tiles that a rank-tile instruction still has to read or write: all that it names, until it has read its operands. -/
def RJob.tiles (j : RJob) : List Nat := tregs j.what

/-- The vector registers that an instruction which is under way has still to write: those of a gather, and of the drain of MGUIDE. -/
def vregsToCome (i : Instr) : List Nat :=
  match i with
  | .gath _ d _ _ _ _ _ => [d.toNat]
  | .mguide _ _ _ _ _ _ _ => vregs i
  | _ => []

/-- The scalar registers that an instruction which is under way has still to write: those of GHND and BOARR. -/
def sregsToCome (i : Instr) : List Nat :=
  match i with
  | .ghnd _ sd _ => [sd.toNat]
  | .boarr _ sd _ _ _ => [sd.toNat]
  | _ => []

/-- The instructions of a group that have issued and are under way. -/
def Group.running (g : Group) : List Instr := g.frontier.filterMap fun e => e.running.map (·.2)

/-- Vector registers that a pending load, rank-tile instruction or instruction under way of the group will write. -/
def State.pendingV (s : State) (c p : Nat) : List Nat :=
  let g := s.grp c p
  (s.accesses.filter fun a => a.uid == g.uid).flatMap (fun a => match a.dest with
    | .vec _ r => List.range' r (if a.delta then 1 else max 1 (a.n / 4))
    | _ => []) ++
  (s.rjobs.filter fun j => j.uid == g.uid).flatMap (·.vdst) ++ g.running.flatMap vregsToCome

/-- Scalar registers that a pending load, token, rank or instruction under way of the group will write. -/
def State.pendingS (s : State) (c p : Nat) : List Nat :=
  let g := s.grp c p
  (s.accesses.filter fun a => a.uid == g.uid).flatMap (fun a => match a.dest with
    | .scalar r => List.range' r (max 1 (a.n / 4))
    | _ => []) ++ (s.rjobs.filter fun j => j.uid == g.uid).flatMap (·.sdst) ++ g.tokens ++
  g.running.flatMap sregsToCome

/-- Whether the scoreboard stalls an instruction (R60). -/
def State.stalled (s : State) (c p : Nat) (i : Instr) : Bool :=
  let g := s.grp c p
  let pv := s.pendingV c p
  let ps := s.pendingS c p
  (s.vregsOf c p i).any pv.contains || (s.sregsOf c p i).any ps.contains ||
  (tregs i).any (fun t => s.rjobs.any fun j => j.uid == g.uid && j.tiles.contains t) ||
  (mregs i).any fun m => g.freeing.any (·.1 == m) || s.mjobs.any fun j => j.uid == g.uid && j.m == m

/-- Whether an entry whose instruction waits at issue may be completed by another step: the scoreboard does not stall the instruction (R60). -/
def State.unstalled (s : State) (c p : Nat) (e : Entry) : Bool :=
  match e.issued with
  | some (_, i) => !s.stalled c p i
  | none => true

/-! ### Eligibility and choice (R65, R66, R67) -/

/-- Whether a hold of an entry is over. A sleep ends by its own step, and a wait on a barrier object at the completion of its phase. -/
def State.holdOver (s : State) (c p : Nat) : Hold → Bool
  | .sleepCycles _ => false
  | .sleepUntil _ => false
  | .object _ _ => false
  | .retry at_ => at_ ≤ s.cycle
  | .release id => !s.relOpen id
  | .accesses ids => !(ids.any s.undone)
  | .barrier n phase => phase < (aget {} (s.blkAt c (s.grp c p).slot).bars n).phases

/-- The reason charged for the lowest-numbered wait bit that is still unmet: BARW, TOKW, MIDLE, FSCOPE (R38, R41). -/
def waitReason (unmet : Nat) : Nat :=
  if unmet.testBit 3 then 5 else if unmet.testBit 2 then 2 else if unmet.testBit 1 then 6 else 4

/-- The reason for a stall by the scoreboard: MEMORY while a line pinned by another core refuses an access of the group (R210), else
DEPENDENCE. -/
def State.scoreReason (s : State) (uid : Nat) : Nat := if s.accesses.any fun a => a.uid == uid && a.refused then 2 else 1

/-- The reason that is charged for a hold (R376). -/
def Hold.reason : Hold → Nat
  | .sleepCycles _ => 10
  | .sleepUntil _ => 10
  | .release _ => 4
  | .accesses _ => 4
  | .barrier _ _ => 5
  | .object _ _ => 5
  | .retry _ => 2

/-- Whether a step is to be made again at a time: a fetch that a pin has refused (R210). -/
def State.timed (s : State) (i : Instr) (nums : List Nat) : Bool := s.timers.any fun t => t.ev.what == i && t.ev.sub.nums == nums

/-- Why an entry cannot be tried at issue, by the reasons of R376; none when nothing of R65 stands against it. An instruction that is under way has
issued, and takes no port again. -/
def State.blocked (s : State) (c p k : Nat) : Option Nat :=
  let g := s.grp c p
  match g.frontier[k]? with
  | none => some 9
  | some e =>
    match e.holds.find? fun h => !s.holdOver c p h with
    | some h => some h.reason
    | none =>
      match s.headerAt c p e with
      | .error _ => none
      | .ok h =>
        let unmet := headerNeeds h &&& (15 - e.met % 16)
        if e.underWay then none
        else if e.idx = 0 && unmet != 0 then some (waitReason unmet)
        else if e.idx = 0 && !s.fetchedClause c p e h then some (if s.timed .clauseFetch [c, p, e.hdr.toNat] then 2 else 3)
        else if !s.portFree c p k h.cls.toNat then some 11
        else if s.withhold && (h.cls == 1#3 || h.cls == 4#3) then some 8
        else match s.instrAt c p e h with
          | .error _ => none
          | .ok i => if s.stalled c p i then some (s.scoreReason g.uid) else none

/-- Why an entry does not issue, by the reasons of R376; none when it is eligible for the port of its class (R65). An instruction that has been
tried and waits at issue keeps its entry from being eligible until it issues. -/
def State.stallOf (s : State) (c p k : Nat) : Option Nat :=
  if (s.grp c p).trap.isSome then some 12
  else match s.blocked c p k with
    | some r => some r
    | none => ((s.grp c p).frontier.getD k {}).why

/-- Whether an entry's next instruction belongs to the class of a port; a position that gives none is taken at any port. -/
def State.onPort (s : State) (c p k cls : Nat) : Bool :=
  match (s.grp c p).frontier[k]? with
  | none => false
  | some e => match s.portOf c p e with
    | some n => n == cls
    | none => true

/-- Whether an entry is eligible for a port (R65). -/
def State.eligible (s : State) (c p k cls : Nat) : Bool := s.onPort c p k cls && (s.stallOf c p k).isNone

/-- Whether an entry may be tried on a port: it is eligible, or its instruction waits at issue and has not been tried in this cycle. While a group
is about to enter its handler only an instruction under way goes on (R356). -/
def State.ready (s : State) (c p k cls : Nat) : Bool :=
  let e := (s.grp c p).frontier.getD k {}
  s.onPort c p k cls && (s.blocked c p k).isNone && !(e.why.isSome && e.waited) && ((s.grp c p).trap.isNone || e.underWay)

/-- The entries of a group that are eligible for a port, in list order. -/
def State.eligibles (s : State) (c p cls : Nat) : List Nat :=
  (List.range (s.grp c p).frontier.length).filter fun k => s.eligible c p k cls

/-- Among entries, the one of highest priority; the earlier of equals (R66). -/
def State.highest (s : State) (c p : Nat) (ks : List Nat) : Option Nat :=
  ks.foldl (fun best k => match best with
    | none => some k
    | some b => if ((s.grp c p).frontier.getD b {}).prio < ((s.grp c p).frontier.getD k {}).prio then some k else best) none

/-- The entry that issues (R66), unless the fairness timer has given another its quantum (R67); an instruction that waits at issue is tried as its
entry's turn comes. -/
def State.choose (s : State) (c p cls : Nat) : Option Nat :=
  let ks := (List.range (s.grp c p).frontier.length).filter fun k => s.ready c p k cls
  match ks.find? fun k => ((s.grp c p).frontier.getD k {}).quanta.testBit cls with
  | some k => some k
  | none => s.highest c p ks

/-- The entries after one, and then those before it. -/
def after (b : Nat) (ks : List Nat) : List Nat := (ks.filter fun k => b < k) ++ (ks.filter fun k => k < b)

/-- The entry to which a rotation gives a quantum: the next eligible one after the entry that would issue (R67). -/
def State.rotateTo (s : State) (c p cls : Nat) : Option Nat :=
  let ks := s.eligibles c p cls
  (s.highest c p ks).bind fun b => (after b ks).head?

/-- FAIRNESS_ROTATION (R67): the next eligible entry gets a quantum on the port, and the count is zero. While a clause of the group holds the port
no other entry is eligible, and the rotation waits; with the port free and no other eligible entry there is none to rotate to. -/
def State.rotateFair (s : State) (c p cls : Nat) : State :=
  match s.rotateTo c p cls with
  | none =>
    let g := s.grp c p
    if g.frontier.any (fun e => e.keepsPort && s.portOf c p e == some cls) then s
    else s.setGrp c p { g with rotate := g.rotate &&& (255 - 2 ^ cls) }
  | some k =>
    let g := s.grp c p
    let e := g.frontier.getD k {}
    s.setGrp c p { g with
      fair := aset 0 g.fair cls 0, rotate := g.rotate &&& (255 - 2 ^ cls), frontier := g.frontier.set k { e with quanta := e.quanta ||| 2 ^ cls } }

def execFairnessRotation (s : State) : Host.Outcome State Fault Refusal :=
  .next (s.rotateFair (s.arg 0) (s.arg 1) (s.arg 2))

/-- YIELD (R87): a rotation is due on each port for which another entry is eligible once the port is free of the yielding clause; with no such entry
the group gives up the next cycle. -/
def yieldBody : Ctx → State → Res := once fun x s =>
  let g := s.grp x.c x.p
  let apart := s.setGrp x.c x.p { g with frontier := g.frontier.set x.n.ent { x.e with holding := false } }
  let ports := (List.range 8).filter fun cls => (apart.eligibles x.c x.p cls).any (· != x.n.ent)
  .ok (s.setGrp x.c x.p (if ports.isEmpty then { g with giveUp := s.cycle + 2 }
    else { g with rotate := g.rotate ||| ports.foldl (fun m cls => m + 2 ^ cls) 0 }))

def execYield (g : Guard) (s : State) : Host.Outcome State Fault Refusal := issue (.yield g) g yieldBody s

/-- Whether a group leaves a local port to another group of its partition in this cycle (R87). -/
def State.givesUp (s : State) (c p cls : Nat) : Bool :=
  let g := s.grp c p
  g.giveUp == s.cycle + 1 && cls < 3 &&
    (s.residents c).any fun q => q != p && partOf q == partOf p && !(s.eligibles c q cls).isEmpty

/-- A quantum ends when its entry is not eligible any more (R67). -/
def State.endQuanta (s : State) (c p cls : Nat) : State :=
  let g := s.grp c p
  let tidyOne := fun (k : Nat) =>
    let e := g.frontier.getD k {}
    if e.quanta.testBit cls && !s.eligible c p k cls then { e with quanta := e.quanta &&& (255 - 2 ^ cls) } else e
  s.setGrp c p { g with frontier := (List.range g.frontier.length).map tidyOne }

/-- Whether an issue of an entry counts against its fairness (R67): another entry is eligible for the port, and the entry is in no quantum, during
which the count stays zero. -/
def State.counts (s : State) (c p k cls : Nat) : Bool :=
  (s.eligibles c p cls).any (· != k) && !((s.grp c p).frontier.getD k {}).quanta.testBit cls

/-- What the issue of an instruction leaves in its group: the time of the issue on its port (R66), and the count of R67. An instruction that has gone
on waiting, after which the state names no issuer, has not issued. -/
def State.countIssue (s : State) (cls : Nat) (counted : Bool) : State :=
  match s.issuer with
  | none => s
  | some n =>
    let g := s.grp n.core n.grp
    let g := { g with lastIssue := aset 0 g.lastIssue cls (s.cycle + 1) }
    s.setGrp n.core n.grp (if counted then
        let f := aget 0 g.fair cls + 1
        { g with fair := aset 0 g.fair cls f, rotate := if (s.launch g.node).fair ≤ f then g.rotate ||| 2 ^ cls else g.rotate }
      else g)

/-! ### What comes before the instruction (R59, R373) -/

/-- The lowest comparator of a core that matches an instruction word of a group (R373). -/
def State.comparator (s : State) (c p : Nat) (e : Entry) : Option Nat :=
  let g := s.grp c p
  let a := wordAddr e.hdr e.idx
  if g.handler then none
  else (List.range 8).find? fun k =>
    let pc := aget 0#64 s.ctl (0x100000 + 256 * c + 16 * k)
    let fl := aget 0#64 s.ctl (0x100008 + 256 * c + 16 * k)
    pc.getLsbD 63 && pc.extractLsb' 3 54 == a.extractLsb' 3 54 && !e.skipCmp.contains k &&
    (fl.getLsbD 63 || (fl.extractLsb' 32 6).toNat == (s.launch g.node).queue) && fl.getLsbD g.bgrp

/-- What an attempt to issue comes to. -/
inductive Pick where
  /-- Nothing issues; the state is as given. -/
  | idle (s : State)
  /-- An instruction issues: exec runs it in the given state. The issue counts or not against the entry's fairness (R67). -/
  | run (i : Instr) (counted : Bool) (s : State)
deriving DecidableEq, Repr

/-- A fault of the clause header at issue (R39, R46): the saved position is the header, and a target that is no clause header names the
instruction that led to it. -/
def State.headerFault (s : State) (c p k code : Nat) (e : Entry) : State :=
  let s := if code == Code.ILLEGAL_TARGET || code == Code.ILLEGAL_OP then s else s.faultAt c p (codeAddr e.hdr)
  s.takeException c p { code := code, detail := if code == Code.ILLEGAL_TARGET then e.src else 0#64, tpc := e.hdr, fe := k }

/-- The chosen entry comes to issue: faults in the order of R59, a comparator before the word issues (R373), and else its instruction. DEDUCED: an
entry that comes back into a clause at a later index (R79, R371) takes the clause's port as one that issues its first word does (R44; log entry
124). -/
def State.comeToIssue (s : State) (c p k cls : Nat) : Pick :=
  let g := s.grp c p
  match g.frontier[k]? with
  | none => .idle s
  | some e =>
    match s.headerAt c p e with
    | .error code => .idle (s.headerFault c p k code e)
    | .ok h =>
      match (if e.underWay then none else s.comparator c p e) with
      | some n =>
        let s := s.setGrp c p { g with frontier := g.frontier.set k { e with skipCmp := n :: e.skipCmp } }
        .idle (s.takeException c p { code := Code.BREAK, detail := BitVec.ofNat 64 n, tpc := wordAddr e.hdr e.idx, fe := k })
      | none =>
        match s.instrAt c p e h with
        | .error code =>
          let s := if code == Code.ILLEGAL_OP then s
            else s.faultAt c p (codeAddr (wordAddr e.hdr e.idx))
          .idle (s.raise { core := c, grp := p, ent := k, count := h.count.toNat } code 0#64)
        | .ok i =>
          let counted := s.counts c p k cls
          let l := s.launch g.node
          let takes := l.split && e.idx == 0 && !e.slot
          let s := s.setGrp c p { g with frontier := g.frontier.set k { e with
            holding := e.holding || !e.underWay, holds := [], why := none, waited := false, slot := e.slot || takes, issued := some (h, i) } }
          let s := if takes then s.takeSlot c (g.node, e.hdr.toNat)
            else if l.split then s else s.useKeys c (fetchKeys l g.node e.hdr h.count.toNat)
          .run i counted { s with issuer := some { core := c, grp := p, ent := k, count := h.count.toNat } }

/-- The first entry whose lanes have arrived where no clause header stands (R46): its fault comes before the group issues again. -/
def State.strayed (s : State) (c p : Nat) : Option Nat :=
  let g := s.grp c p
  (List.range g.frontier.length).find? fun k =>
    let e := g.frontier.getD k {}
    e.idx == 0 && (match s.headerAt c p e with
      | .error code => code == Code.ILLEGAL_TARGET
      | .ok _ => false)

/-- An attempt of a group to issue on a port. -/
def State.attempt (s : State) (c p cls : Nat) : Pick :=
  let s := s.settleAll
  let g := s.grp c p
  if !g.live || (s.core c).frozen || s.givesUp c p cls then .idle s
  else if g.trap.isSome then
    match s.choose c p cls with
    | some k => s.comeToIssue c p k cls
    | none => .idle s
  else match s.strayed c p with
    | some k => .idle (s.headerFault c p k Code.ILLEGAL_TARGET (g.frontier.getD k {}))
    | none => match (List.range 16).find? (s.joinDue c p) with
      | some k => .idle (s.joinTimeout c p k)
      | none =>
        let s := (List.range g.frontier.length).foldl (fun s k => s.beginWaits c p k) s
        let s := s.endQuanta c p cls
        if (s.grp c p).rotate.testBit cls && (s.rotateTo c p cls).isSome then .idle (s.rotateFair c p cls)
        else
          let s := if (s.grp c p).rotate.testBit cls then s.rotateFair c p cls else s
          match s.choose c p cls with
          | some k => s.comeToIssue c p k cls
          | none =>
            match (List.range g.frontier.length).find? fun k => s.stallOf c p k == some 3 with
            | some k => .idle (s.post .clauseFetch [c, p, ((s.grp c p).frontier.getD k {}).hdr.toNat])
            | none => .idle s

/-- What follows the instruction of an issue: the group's counts. -/
def afterIssue (cls : Nat) (counted : Bool) : Host.Outcome State Fault Refusal → Host.Outcome State Fault Refusal
  | .next s => .next (s.countIssue cls counted)
  | o => o

/-! ### Time (R21, R22) -/

/-- Timers that are due put their steps on the agenda. -/
def State.fireTimers (s : State) : State :=
  let due := s.timers.filter fun t => t.at_ ≤ (if t.byCycle then s.cycle else s.dtime)
  { s with
    timers := s.timers.filter fun t => !(t.at_ ≤ (if t.byCycle then s.cycle else s.dtime))
    agenda := s.agenda ++ due.map (·.ev) }

/-- One tick of a group's rejoin registers that count in the given unit; cycle counts stand still in the handler (R83). -/
def tickJregs (ns handler : Bool) (m : AMap JReg) : AMap JReg :=
  m.map fun e => (e.1, if e.2.armed && e.2.timing && e.2.ns == ns && !(handler && !ns) then { e.2 with left := e.2.left - 1 } else e.2)

/-- The cycle is over in which a countdown of a group's rejoin registers may have reached zero (R80). -/
def ripen (m : AMap JReg) : AMap JReg := m.map fun e => (e.1, { e.2 with ripe := e.2.armed && e.2.timing && e.2.left == 0 })

/-- Posts the expiries of one group. -/
def State.postExpiries (s : State) (key : Nat) (g : Group) : State :=
  let c := key / 64
  let p := key % 64
  let s := g.jregs.foldl (fun s e => if e.2.ripe then s.post .joinTimeout [c, p, e.1] else s) s
  if g.frontier.any fun e => e.holds.any s.sleepOver then s.post .sleepExpiry [c, p] else s

/-- Device time advances by 1 ns (R22). DESIGN CHOICE: all dies read one device time (log entry 178). -/
def State.tickNs (s : State) : State :=
  let s : State := { s with
    dtime := s.dtime + 1
    groups := s.groups.map fun e => (e.1, { e.2 with jregs := tickJregs true e.2.handler e.2.jregs }) }
  (s.groups.foldl (fun s e => s.postExpiries e.1 e.2) s).fireTimers

def tickHold : Hold → Hold
  | .sleepCycles n => .sleepCycles (n - 1)
  | h => h

/-- A 64-bit counter that stays at its greatest value (R376). -/
def satInc (x : DWord) : DWord := if x == BitVec.allOnes 64 then x else x + 1#64

/-- The reason of a group: that of its first entry among those of highest priority (R376). DEDUCED: a group in the handler that BREAK or STOP has
entered is held by the debugger (log entry 125). -/
def State.reasonOf (s : State) (c p : Nat) : Nat :=
  let g := s.grp c p
  if g.handler && (g.tcode.toNat % 2 ^ 16 == Code.BREAK || g.tcode.toNat % 2 ^ 16 == Code.STOP) then 13
  else match s.highest c p (List.range g.frontier.length) with
    | none => 9
    | some k => (s.stallOf c p k).getD 0

/-- One cycle of the barometer of a partition (R376): the histogram bin, and with no eligible entry the reason of the oldest group. -/
def State.baroPart (s : State) (c part : Nat) : State :=
  let ps := (s.residents c).filter fun p => (s.grp c p).part == part
  let e := (ps.filter fun p => (List.range (s.grp c p).frontier.length).any fun k => (s.stallOf c p k).isNone).length
  let oldest := ps.foldl (fun (b : Option Nat) p => match b with
    | none => some p
    | some q => if (s.grp c p).placed < (s.grp c q).placed then some p else b) none
  let k := s.core c
  let add := fun (m : AMap DWord) i => aset 0#64 m (64 * part + i) (satInc (aget 0#64 m (64 * part + i)))
  let m := add k.baro e
  let m := if e = 0 then add m (32 + (match oldest with
    | none => 0
    | some p => s.reasonOf c p)) else m
  s.setCore c { k with baro := m }

/-- The arithmetic clock advances by one cycle (R21). -/
def State.tickCycle (s : State) : State :=
  let s := s.cores.foldl (fun s e => (List.range 4).foldl (fun s part => s.baroPart e.1 part) s) s
  let s : State := { s with
    cycle := s.cycle + 1
    mjobs := s.mjobs.map fun j => if j.held then { j with heldFor := j.heldFor + 1 } else j
    pins := s.pins.map s.pinCycle
    groups := s.groups.map fun e => (e.1, { e.2 with
      jregs := ripen (tickJregs false e.2.handler e.2.jregs)
      frontier := e.2.frontier.map fun x => { x with holds := x.holds.map tickHold, waited := false } }) }
  let s := s.groups.foldl (fun s e => s.postExpiries e.1 e.2) s
  let s := s.mjobs.foldl (fun s j => if j.held && 4096 ≤ j.heldFor then s.post .twinHoldTimeout [j.core, j.grp] else s) s
  let s := s.pins.foldl (fun s q => if 16384 ≤ q.refused then s.post .pinTimeout [q.line] else s) s
  s.sendUnsent.fireTimers

/-! ### Who moves (the model's own policy) -/

/-- The issues that would come to something now: group and port of every resident group of a core that is not frozen. -/
def State.issues (s : State) : List (Nat × Nat × Nat) :=
  s.groups.flatMap fun e =>
    let c := e.1 / 64
    let p := e.1 % 64
    if e.2.live && !(s.core c).frozen then
      ((List.range e.2.frontier.length).filter fun k => e.2.trap.isNone || (e.2.frontier.getD k {}).underWay).map fun k =>
        (c, p, (s.portOf c p (e.2.frontier.getD k {})).getD 0)
    else []

/-- The next move: the schedule's, or without one the step due longest, the next issue, a cycle or a nanosecond in turn; three cycles
pass in two nanoseconds (R22). -/
def State.nextMove (s : State) : Option Move × State :=
  match s.schedule with
  | m :: rest => (some m, { s with schedule := rest })
  | [] =>
    let t := s.turn
    let s1 := { s with turn := t + 1 }
    let event := match s.agenda with
      | e :: _ => (some (Move.event e), s1)
      | [] => (none, s1)
    let issue := match s.issues with
      | [] => (none, s1)
      | xs => (match xs[t / 2 % xs.length]? with
        | some (c, p, cls) => (some (Move.issue c p cls), s1)
        | none => (none, s1))
    match t % 10 with
    | 2 => (some .cycle, s1)
    | 4 => (some .ns, s1)
    | 6 => (some .cycle, s1)
    | 8 => (some .ns, s1)
    | 9 => (some .cycle, s1)
    | 0 => event
    | 3 => event
    | 7 => event
    | _ => issue

/-- Steps that no master of the device makes: what comes from the host, the links and the power controller, which goes on in FAILED (R388, R390). -/
def Instr.outside (i : Instr) : Bool :=
  [Instr.qTailWrite, .lplaceWrite, .fwinWrite, .stageWrite, .prouteWrite, .teamCfgWrite, .devFidWrite, .queueContextWrite, .controlRegisterWrite,
   .cxlMemAccess, .powerOnReset, .firmwareVerify, .version, .capabilities, .algorithmNegotiation, .digests, .certificates, .challenge,
   .measurements, .powerWithhold, .thermalTrip, .linkUp, .linkDown, .flitResend, .packetForwarding].contains i

/-- Whether a hardware step is made: after a trip every master is frozen until a reset (R390). -/
def State.makes (s : State) (i : Instr) : Bool := i.isStep && (s.dev != .failed || Instr.outside i)

/-- A step that is made is taken from the agenda, once, if it stands there. -/
def State.takeEvent (s : State) (e : Event) : State :=
  { s.settleAll with agenda := s.agenda.erase e, subject := e.sub, issuer := none }

/-- The entries that a core's two-level TLB holds at most (R14). -/
def tlbSize : Nat := 3072

/-- A core's TLB takes what the tables now give for an address, a leaf or a fault that later accesses may still meet once the tables have changed, or
drops what it holds for it (R180). A full TLB gives up the entry
that it took first (R14; R180 leaves the replacement open). -/
def State.fillTlb (s : State) (core root va : Nat) : State :=
  let here := fun (t : TlbEntry) => t.core == core && t.root == root && va % 2 ^ 57 / 2 ^ t.bits == t.page
  if s.tlb.any here then { s with tlb := s.tlb.filter fun t => !here t }
  else
    let t : TlbEntry := match s.walk (va % 2 ^ 57) 5 root with
      | .error code => { core := core, root := root, bits := 12, page := va % 2 ^ 57 / 2 ^ 12, size := 12, leaf := 0#64, fault := some code }
      | .ok l => { core := core, root := root, bits := l.span, page := va % 2 ^ 57 / 2 ^ l.span, size := l.bits, leaf := l.pte }
    let full := tlbSize ≤ (s.tlb.filter (·.core == core)).length
    { s with tlb := (if full then s.tlb.eraseP (·.core == core) else s.tlb) ++ [t] }

/-- The caches of a core give up a line (R196, R193): a shared copy is dropped, and dirty bytes of a group's own window are written home. -/
def State.evictLine (s : State) (core line : Nat) : State :=
  let k := s.core core
  let mine := k.dirty.filter fun e => e.1 / 128 == line
  let s := mine.foldl (fun s e => s.setByte e.1 e.2) s
  let s := if mine.isEmpty then s else s.setCore core { k with dirty := k.dirty.filter fun e => e.1 / 128 != line }
  { s with
    l1 := s.l1.filter fun y => !(y.core == core && y.line == line)
    stipple := s.stipple.filter fun y => !(y.core == core && y.line == line) }

/-! ### Placing an instruction where the machine fetches next -/

/-- The 1 GiB identity mapping, readable, writable and executable (R178, R179): root at 0x1000, tables at 0x2000 and 0x3000. -/
def State.identityTables (s : State) : State :=
  let s := s.setBytes 0x1000 (leBytes 8 0x2001)
  let s := s.setBytes 0x2000 (leBytes 8 0x3001)
  s.setBytes 0x3000 (leBytes 8 0x33)

/-- A group of 32 lanes in place 0 of core 0, in block 0 of node 0, standing at a clause header. -/
def startGroup (hdr : DWord) : Group :=
  { live := true, uid := 1, baseRegs := 256, vmap := (List.range 32).map fun l => { grp := 0, lane := l },
    launched := 0xFFFFFFFF#32, liveMask := 0xFFFFFFFF#32, frontier := [{ hdr := hdr, mask := 0xFFFFFFFF#32 }] }

/-- A launch of one group whose first clause, at address 0x10000, holds one word; the next move issues it. -/
def State.placeWord (s : State) (w : DWord) : State :=
  let cls := (classOf (opcodeOf w)).code
  let h := encodeHeader { cls := BitVec.ofNat 3 cls, count := 0#4, prio := 0#8, fscope := 0#3, midle := false, tokw := false,
                          barw := false, barid := 0#4 }
  let s := ((s.identityTables).setBytes 0x10000 (leBytes 8 h.toNat)).setBytes 0x10008 (leBytes 8 w.toNat)
  let s := s.setLaunch 0 { running := true, code := 0x10000#64, blocks := 1, cblk := 1, nrole := 1, root := 0x1000, rootV := true }
  let s := s.setNode 0 { state := .running }
  let s := s.setBlk 0 0 { live := true, groups := [0], size := 1 }
  let s := s.setCore 0 { (s.core 0) with launch := some 0, nb := 1, fetched := [(0, 0x10000 / 128)] }
  let s := s.setGrp 0 0 (startGroup 0x10000#64)
  { s with dev := .ready, nextId := max s.nextId 2, schedule := [.issue 0 0 cls] }

end Sys2Proof.Machine
end

