-- ==== Sys2Proof/Machine/MemOps.lean ====
section
/-!
DEFINITION. Memory-access instructions (R170 to R190, R192 to R194): loads and stores of translated memory, of the scratchpad slice and of
the private window, atomics, XLAT, and the extension registers.
-/
namespace Sys2Proof.Machine

/-! ### Element-wise accesses (R181) -/

/-- The live lanes of Active whose element is still to be performed, in ascending order. -/
def Ctx.todo (x : Ctx) : List Nat := lanesOf (x.live &&& ~~~x.g.emask)

/-- The accesses of the lanes below the lowest one that stops, and why it stops. -/
def takeElems (f : Nat → Except EngStop Access) : List Nat → List (Nat × Access) × Option EngStop
  | [] => ([], none)
  | l :: rest =>
    match f l with
    | .error e => ([], some e)
    | .ok a => let r := takeElems f rest
               ((l, a) :: r.1, r.2)

/-- The digest contribution of a store or atomic (R345): none of a load, and none in control space. -/
def State.digestAccess (s : State) (x : Ctx) (l : Nat) (a : Access) : State :=
  if windowOf a.pa == some .control then s
  else match a.kind with
    | .load => s
    | .store => s.digestLane x.c x.p l a.addr a.data 0
    | .atomic aop => s.digestLane x.c x.p l a.addr a.data (1 + aop)

/-- After an element-wise access with nothing left to do, the lanes of its entry leave sr.emask (R181): the lanes of another entry that a fault has
interrupted stay. -/
def Ctx.allDone (x : Ctx) (s : State) : State :=
  if x.live == 0#32 then s
  else
    let g := s.grp x.c x.p
    s.setGrp x.c x.p { g with emask := g.emask &&& ~~~x.e.mask }

/-- Performs an element-wise instruction (R181): every element below the lowest that stops is performed and recorded in sr.emask, which is
cleared once all are. PRIV leaves the instruction without effect (R354), and a violation freezes the core (R47, R364). While the core has too few
line requests left it waits (R17). -/
def Ctx.elements (x : Ctx) (f : Nat → Except EngStop Access) (s : State) : Res :=
  if x.live == 0#32 then .ok s
  else
    let r := takeElems f x.todo
    if r.2 == some (.fault Code.PRIV 0#64) then .fault Code.PRIV 0#64 s
    else if s.linesFull x.c (linesOf (r.1.map (·.2))) then .wait s
    else
      let s := (r.1.foldl (fun s q => s.digestAccess x q.1 q.2) s).addAccesses (r.1.map (·.2))
      let done := r.1.foldl (fun m q => m ||| bitMask q.1) x.g.emask
      let g := s.grp x.c x.p
      match r.2 with
      | none => .ok (x.allDone s)
      | some (.fault code a) => x.memRaise code a (s.setGrp x.c x.p { g with emask := done })
      | some (.violate a) => .done ((s.setGrp x.c x.p { g with emask := done }).freezeCore x.c a)

/-- Translates the address of an element of n bytes: its faults, PRIV without an address, and the violation of a store to running code (R47). -/
def Ctx.elemPhys (x : Ctx) (write : Bool) (addr : DWord) (s : State) (n : Nat := 1) : Except EngStop Nat :=
  match s.translate x.c (s.launchOf x.c x.p).context { write := write, handler := x.g.handler } addr with
  | .error code => .error (.fault code (if code == Code.PRIV then 0#64 else addr))
  | .ok pa => if write && s.holdsCode pa n then .error (.violate addr) else .ok pa

/-! ### LD, ST, LDK and PREF (R185 to R188) -/

def signedWidth (w : BitVec 4) : Bool := w == 1#4 || w == 3#4

/-- What a fault of R180 comes to for an access through a format window: one to a peer that no route reaches lies in no window (R184). -/
def windowStop (addr : DWord) (e : EngStop) : EngStop :=
  match e with
  | .fault code a => if code == Code.FABRIC_LOST then .fault Code.WINDOW_NONE addr else .fault code a
  | .violate a => .violate a

/-- A load's element (R184, R186): MISALIGN, then translation; for width x translation, WINDOW_NONE and then MISALIGN to the window's
element. -/
def Ctx.loadElem (x : Ctx) (addr : DWord) (w : BitVec 4) (nl1 : Bool) (lane : Nat) (dest : Dest) (s : State) :
    Except EngStop Access :=
  let n := widthBytes w
  if w != 7#4 && addr.toNat % n != 0 then .error (.fault Code.MISALIGN addr)
  else match x.elemPhys false addr s with
    | .error e => .error (if w == 7#4 then windowStop addr e else e)
    | .ok pa =>
      let a : Access := { x.baseAccess s with
        lane := lane, pa := pa, n := n, dest := dest, sext := signedWidth w, nl1 := nl1, addr := addr }
      if w != 7#4 then .ok a
      else match s.windowAt pa with
        | none => .error (.fault Code.WINDOW_NONE addr)
        | some k =>
          if pa % k.size != 0 then .error (.fault Code.MISALIGN addr)
          else .ok { a with
            n := k.size
            win := some (k.fmt, if k.scl then some (k.scale + 4 * ((pa - k.lo) / k.size / 128)) else none) }

/-- LD: every live lane of Active loads into its own registers. -/
def ldBody (data base idx : BitVec 8) (form : BitVec 2) (w : BitVec 4) (nl1 : Bool) (ofs : BitVec 14) (x : Ctx) (s : State) : Res :=
  x.elements (fun l => x.loadElem (x.addr s form base idx ofs l) w nl1 l (.vec (x.g.placeOf x.p l) data.toNat) s) s

def execLd (g : Guard) (data base idx : BitVec 8) (form : BitVec 2) (w : BitVec 4) (nl1 : BitVec 2) (ofs : BitVec 14) (s : State) :
    Host.Outcome State Fault Refusal :=
  issue (.ld g data base idx form w nl1 ofs) g (ldBody data base idx form w (nl1 == 1#2) ofs) s

/-- The bytes that a lane stores from consecutive registers. -/
def Ctx.laneBytes (x : Ctx) (s : State) (l n reg : Nat) : List Byte :=
  storeBytes ((List.range (max 1 (n / 4))).map fun k => s.v x.c x.p l (reg + k)) n

/-- ST: every live lane of Active stores its own registers. -/
def stBody (data base idx : BitVec 8) (form : BitVec 2) (w : BitVec 4) (nl1 : Bool) (ofs : BitVec 14) (x : Ctx) (s : State) : Res :=
  x.elements (fun l =>
    let addr := x.addr s form base idx ofs l
    let n := widthBytes w
    if addr.toNat % n != 0 then .error (.fault Code.MISALIGN addr)
    else match x.elemPhys true addr s n with
      | .error e => .error e
      | .ok pa => .ok { x.baseAccess s with
          lane := l, kind := .store, pa := pa, n := n, data := x.laneBytes s l n data.toNat, nl1 := nl1, addr := addr,
          afterRel := s.gatesOf x.c x.p x.e.mask }) s

def execSt (g : Guard) (data base idx : BitVec 8) (form : BitVec 2) (w : BitVec 4) (nl1 : BitVec 2) (ofs : BitVec 14) (s : State) :
    Host.Outcome State Fault Refusal :=
  issue (.st g data base idx form w nl1 ofs) g (stBody data base idx form w (nl1 == 1#2) ofs) s

/-- LDK (R188): once, through the scalar path; a fault refuses it whole. -/
def ldkBody (data base : BitVec 8) (w : BitVec 4) (ofs : BitVec 14) : Ctx → State → Res := once fun x s =>
  let addr := x.addr s 0#2 base 0#8 ofs 0
  match x.loadElem addr w false 32 (.scalar data.toNat) s with
  | .ok a => if s.linesFull x.c 1 then .wait s else .ok (s.addAccesses [a])
  | .error (.fault code a) => x.memRaise code a s
  | .error (.violate a) => .done (s.freezeCore x.c a)

def execLdk (g : Guard) (data base : BitVec 8) (w : BitVec 4) (ofs : BitVec 14) (s : State) : Host.Outcome State Fault Refusal :=
  issue (.ldk g data base w ofs) g (ldkBody data base w ofs) s

/-- PREF (R188): the line of each live lane of Active is requested (R17), and enters L1 as that of a load does; into the LLC it changes nothing that
any agent reads. It never faults. -/
def prefBody (base idx : BitVec 8) (form : BitVec 2) (llc : Bool) (ofs : BitVec 14) (x : Ctx) (s : State) : Res :=
  let pas := (lanesOf x.live).filterMap fun l => match x.elemPhys false (x.addr s form base idx ofs l) s with
    | .error _ => none
    | .ok pa => some pa
  if s.linesFull x.c (pas.map lineOf).eraseDups.length then .wait s
  else if llc || !s.loadsFree x.c x.p x.e.mask then .ok s
  else .ok (pas.foldl (fun t pa => t.fetchLine x.c pa) s)

def execPref (g : Guard) (base idx : BitVec 8) (form llc : BitVec 2) (ofs : BitVec 14) (s : State) :
    Host.Outcome State Fault Refusal :=
  issue (.pref g base idx form llc ofs) g (prefBody base idx form (llc == 1#2) ofs) s

/-! ### The scratchpad slice (R187) -/

/-- The first fault of the lowest live lane that meets any: SCR_RANGE, MISALIGN, and BARRIER_CLOBBER of a write. -/
def Ctx.sliceFault (x : Ctx) (write : Bool) (n : Nat) (ofs : Nat → Int) (s : State) : Option (Nat × Int) :=
  let (base, size) := s.scrSlice x.c x.g.slot
  (lanesOf x.live).findSome? fun l =>
    match scrFault size (ofs l) n n with
    | some code => some (code, ofs l)
    | none => if write && s.clobbers x.c (base + (ofs l).toNat) n then some (Code.BARRIER_CLOBBER, ofs l) else none

/-- Writes loaded words to consecutive vector registers of a lane. -/
def State.setVs (s : State) (c p l reg : Nat) (ws : List Word) : State :=
  (List.range ws.length).foldl (fun t k => t.setV c p l (reg + k) (ws.getD k 0#32)) s

/-- Whether earlier engine work of the group still has to touch a line of the slice that some live lane names (R229). -/
def Ctx.sliceHeld (x : Ctx) (write : Bool) (n : Nat) (ofs : Nat → Int) (s : State) : Bool :=
  let b := (s.scrSlice x.c x.g.slot).1
  (lanesOf x.live).any fun l => s.engineHold x.g.uid s.nextId true write (b + (ofs l).toNat) n

/-- LDS. -/
def ldsBody (data base : BitVec 8) (form : BitVec 2) (w : BitVec 4) (ofs : BitVec 14) (x : Ctx) (s : State) : Res :=
  let n := widthBytes w
  let at_ := x.poolAddr s form base ofs
  match x.sliceFault false n at_ s with
  | some (code, o) => x.scrRaise code o s
  | none =>
    if !s.loadsFree x.c x.p x.e.mask then .wait s 4
    else if x.sliceHeld false n at_ s then .wait s
    else
      let b := (s.scrSlice x.c x.g.slot).1
      .ok ((lanesOf x.live).foldl (fun t l =>
        t.setVs x.c x.p l data.toNat (loadWords (s.poolBytes x.c (b + (at_ l).toNat) n) (signedWidth w))) s)

def execLds (g : Guard) (data base : BitVec 8) (form : BitVec 2) (w : BitVec 4) (ofs : BitVec 14) (s : State) :
    Host.Outcome State Fault Refusal :=
  issue (.lds g data base form w ofs) g (ldsBody data base form w ofs) s

/-- STS: lanes store in ascending order. -/
def stsBody (data base : BitVec 8) (form : BitVec 2) (w : BitVec 4) (ofs : BitVec 14) (x : Ctx) (s : State) : Res :=
  let n := widthBytes w
  let at_ := x.poolAddr s form base ofs
  match x.sliceFault true n at_ s with
  | some (code, o) => x.scrRaise code o s
  | none =>
    if !s.storesFree x.c x.p x.e.mask then .wait s 4
    else if x.sliceHeld true n at_ s then .wait s
    else
      let b := (s.scrSlice x.c x.g.slot).1
      .ok ((lanesOf x.live).foldl (fun t l =>
        t.setPoolBytes x.c (b + (at_ l).toNat) (x.laneBytes s l n data.toNat)) s).wakeWaits

def execSts (g : Guard) (data base : BitVec 8) (form : BitVec 2) (w : BitVec 4) (ofs : BitVec 14) (s : State) :
    Host.Outcome State Fault Refusal :=
  issue (.sts g data base form w ofs) g (stsBody data base form w ofs) s

/-- The bytes of an operand register or pair of a lane. -/
def Ctx.opdBytes (x : Ctx) (s : State) (w64 : Bool) (reg : BitVec 8) (l : Nat) : List Byte :=
  x.laneBytes s l (if w64 then 8 else 4) reg.toNat

/-- ATOMS (R190): lanes act in ascending order, each on what the lanes before it have left. -/
def atomsBody (dst base opd cmp : BitVec 8) (form : BitVec 2) (aop : BitVec 4) (w64 : Bool) (ofs : BitVec 10) (x : Ctx) (s : State) : Res :=
  let n := if w64 then 8 else 4
  let at_ := x.poolAddr s form base ofs
  match x.sliceFault true n at_ s with
  | some (code, o) => x.scrRaise code o s
  | none =>
    if !s.storesFree x.c x.p x.e.mask then .wait s 4
    else if x.sliceHeld true n at_ s then .wait s
    else
      let b := (s.scrSlice x.c x.g.slot).1
      .ok ((lanesOf x.live).foldl (fun t l =>
        let a := b + (at_ l).toNat
        let old := t.poolBytes x.c a n
        let new := atomicNew aop.toNat n (leNat old) (leNat (x.opdBytes s w64 opd l)) (leNat (x.opdBytes s w64 cmp l))
        (t.setPoolBytes x.c a (leBytes n new)).setVs x.c x.p l dst.toNat (loadWords old false)) s).wakeWaits

def execAtoms (g : Guard) (dst base opd cmp : BitVec 8) (form : BitVec 2) (aop : BitVec 4) (scope : BitVec 3) (w64 : Bool)
    (ofs : BitVec 10) (s : State) : Host.Outcome State Fault Refusal :=
  issue (.atoms g dst base opd cmp form aop scope w64 ofs) g (atomsBody dst base opd cmp form aop w64 ofs) s

/-- ATOM (R189, R190): one indivisible action at the home for each live lane of Active, in ascending order on one location. -/
def atomBody (dst base opd cmp : BitVec 8) (form : BitVec 2) (aop : BitVec 4) (scope : BitVec 3) (w64 : Bool) (ofs : BitVec 10)
    (x : Ctx) (s : State) : Res :=
  x.elements (fun l =>
    let addr := x.addr s form base 0#8 ofs l
    let n := if w64 then 8 else 4
    if addr.toNat % n != 0 then .error (.fault Code.MISALIGN addr)
    else match x.elemPhys true addr s n with
      | .error e => .error e
      | .ok pa => .ok { x.baseAccess s with
          lane := l, kind := .atomic aop.toNat, pa := pa, n := n, data := x.opdBytes s w64 opd l, cmp := x.opdBytes s w64 cmp l,
          dest := .vec (x.g.placeOf x.p l) dst.toNat, scope := scope.toNat, addr := addr,
          afterRel := s.gatesOf x.c x.p x.e.mask }) s

def execAtom (g : Guard) (dst base opd cmp : BitVec 8) (form : BitVec 2) (aop : BitVec 4) (scope : BitVec 3) (w64 : Bool)
    (ofs : BitVec 10) (s : State) : Host.Outcome State Fault Refusal :=
  issue (.atom g dst base opd cmp form aop scope w64 ofs) g (atomBody dst base opd cmp form aop scope w64 ofs) s

/-! ### The private window (R176, R177, R192 to R194) -/

/-- The window of a physical group of a block: that of the group which stands there, or which has yielded there (R366). -/
def State.windowHere (s : State) (c slot q : Nat) : Nat :=
  if (s.grp c q).live then (s.grp c q).window
  else (((s.blkAt c slot).yielded.find? (·.1 == q)).map (·.2.window)).getD 0

/-- The physical address of word w of a virtual lane's window: that of the group and lane in which the lane was launched. -/
def State.privAddr (s : State) (c p l w : Nat) : Nat :=
  let pl := (s.grp c p).placeOf p l
  s.windowHere c (s.grp c p).slot pl.grp + (w * 32 + pl.lane) * 4

/-- A byte of a private window: the copy in L1 if it is dirty there, else memory. -/
def State.privByte (s : State) (c a : Nat) : Byte :=
  match (s.core c).dirty.find? (·.1 == a) with
  | some e => e.2
  | none => s.byte a

/-- Writes a word of a private window of a group: into L1, or at its home when the launch has none (R174), which raises sr.wct (R208). -/
def State.setPrivWord (s : State) (c p a : Nat) (l1 : Bool) (v : Word) : State :=
  if l1 then
    let k := s.core c
    s.setCore c { k with dirty := (List.range 4).foldl (fun d i =>
      ains (adel d (a + i)) (a + i) ((leBytes 4 v.toNat).getD i 0#8)) k.dirty }
  else (s.setBytes a (leBytes 4 v.toNat)).wakeWaits.raiseWct c p (s.wctFor c (lineOf a))

/-- STACKLIM (R177, R194): checked over every live lane of Active before any effect; sr.faddr receives the index of the lowest. DEDUCED: of an index
of 2^32 or more, which sr.faddr cannot hold, its low 32 bits (log entry 160). -/
def Ctx.stackLim (x : Ctx) (idx : Nat → Nat) (s : State) (body : State → Res) : Res :=
  match (lanesOf x.live).find? fun l => (s.launchOf x.c x.p).priv ≤ idx l with
  | some l =>
    let g := s.grp x.c x.p
    .fault Code.STACKLIM 0#64 (s.setGrp x.c x.p { g with faddr := BitVec.ofNat 64 (idx l % 2 ^ 32) })
  | none => body s

/-- The lines of private memory that an access of the lanes still to do touches. -/
def Ctx.privLines (x : Ctx) (s : State) (idx : Nat → Nat) : Nat :=
  (x.todo.map fun l => lineOf (s.privAddr x.c x.p l (idx l))).eraseDups.length

/-- The pinned lines of other cores that refuse the lanes' accesses to private memory (R210): those that go to the home, for want of an L1 or, of a
load, of the line in it. -/
def Ctx.privPinned (x : Ctx) (s : State) (idx : Nat → Nat) (store : Bool) : List Nat :=
  let inL1 := fun (a : Nat) => (s.launchOf x.c x.p).l1 != 0 && (store || (s.core x.c).dirty.any fun e => lineOf e.1 == lineOf a)
  (x.todo.map fun l => s.privAddr x.c x.p l (idx l)).flatMap fun a => if inL1 a then [] else s.pinnedLines x.c a 4

/-- LDP (R194): it waits for lines as every access does (R17). -/
def ldpBody (data base : BitVec 8) (form : BitVec 2) (ofs : BitVec 14) (x : Ctx) (s : State) : Res :=
  let idx := x.winIndex s form base ofs
  x.stackLim idx s fun s =>
    if !s.loadsFree x.c x.p x.e.mask then .wait s 4
    else if s.linesFull x.c (x.privLines s idx) then .wait s
    else if !(x.privPinned s idx false).isEmpty then x.refused (x.privPinned s idx false) s
    else .ok (x.allDone (x.todo.foldl (fun t l =>
      let a := s.privAddr x.c x.p l (idx l)
      t.setV x.c x.p l data.toNat (leWord ((List.range 4).map fun k => s.privByte x.c (a + k)))) s))

def execLdp (g : Guard) (data base : BitVec 8) (form : BitVec 2) (ofs : BitVec 14) (s : State) : Host.Outcome State Fault Refusal :=
  issue (.ldp g data base form ofs) g (ldpBody data base form ofs) s

/-- STP (R194). A store to running code freezes the core with the physical address that it used (R47, R364); the lanes below are stored. -/
def stpBody (data base : BitVec 8) (form : BitVec 2) (ofs : BitVec 14) (x : Ctx) (s : State) : Res :=
  let idx := x.winIndex s form base ofs
  x.stackLim idx s fun s =>
    if !s.storesFree x.c x.p x.e.mask then .wait s 4
    else if s.linesFull x.c (x.privLines s idx) then .wait s
    else if !(x.privPinned s idx true).isEmpty then x.refused (x.privPinned s idx true) s
    else
      let at_ := fun l => s.privAddr x.c x.p l (idx l)
      let store := fun (ls : List Nat) => ls.foldl (fun t l =>
        t.setPrivWord x.c x.p (at_ l) ((s.launchOf x.c x.p).l1 != 0) (s.v x.c x.p l data.toNat)) s
      match x.todo.find? fun l => s.holdsCode (at_ l) 4 with
      | none => .ok (x.allDone (store x.todo))
      | some l =>
        let mine := x.todo.takeWhile (· != l)
        let t := store mine
        let g := t.grp x.c x.p
        .done ((t.setGrp x.c x.p { g with emask := mine.foldl (fun m q => m ||| bitMask q) g.emask }).freezeCore x.c (BitVec.ofNat 64 (at_ l)))

def execStp (g : Guard) (data base : BitVec 8) (form : BitVec 2) (ofs : BitVec 14) (s : State) : Host.Outcome State Fault Refusal :=
  issue (.stp g data base form ofs) g (stpBody data base form ofs) s

/-! ### XLAT (R182) -/

/-- The page-size code of a leaf. -/
def Leaf.sizeCode (l : Leaf) : Nat := match l.bits with
  | 12 => 0
  | 16 => 1
  | 21 => 2
  | _ => 3

/-- The result of XLAT for an address, as a read from outside a handler. -/
def State.xlatOf (s : State) (core : Nat) (k : Context) (addr : DWord) : DWord :=
  let va := addr.toNat % 2 ^ 57
  let none_ := fun (code : Nat) => BitVec.ofNat 64 (2 ^ 63 + code * 2 ^ 52)
  match s.leaf core k va with
  | .error code => none_ code
  | .ok l =>
    if l.pte.getLsbD 6 then none_ Code.XLATE_PROT
    else if (windowOf (l.phys va)).isNone then none_ Code.PHYS_HOLE
    else BitVec.ofNat 64 (boolNat (l.pte.getLsbD 4) * 2 ^ 62 + boolNat (l.pte.getLsbD 5) * 2 ^ 61 + l.sizeCode * 2 ^ 59 + l.phys va)

def execXlat (g : Guard) (d a : VS) (s : State) : Host.Outcome State Fault Refusal :=
  issue (.xlat g d a) g
    (fun x s => .ok (x.put64 d (fun l => s.xlatOf x.c (s.launchOf x.c x.p).context (x.src64 s a l)) s)) s

/-! ### Extension registers (R172, R173) -/

/-- The base blocks of one block: for each group 128 bytes per register, in granules of 8 (R32). -/
def Launch.baseBytes (l : Launch) : Nat := (l.roles.map fun r => r.2.2.1 * 128 * (8 * ceilDiv r.2.1 8)).sum

/-- The size of a core's extension reserve, and what is free of it. -/
def State.reserve (s : State) (c p : Nat) : Nat :=
  (s.core c).poolScr.toNat - (s.core c).nb * (s.launchOf c p).baseBytes

def State.reserveFree (s : State) (c p : Nat) : Nat :=
  s.reserve c p - 4096 * ((s.residents c).map fun q => (s.grp c q).ext).sum

/-- What an entry that waits in XACQ remembers of its request. -/
def xacqNote (seq : Nat) : List Nat := [0x93, seq, 1]

/-- The requests that entries of the core wait for, in order. -/
def State.xwaiting (s : State) (c : Nat) : List XWait :=
  (s.core c).xwaits.filter fun w => (s.grp c w.grp).live && (s.grp c w.grp).frontier.any (·.note == xacqNote w.seq)

def State.dropXwait (s : State) (c seq : Nat) : State :=
  let k := s.core c
  s.setCore c { k with xwaits := k.xwaits.filter (·.seq != seq) }

/-- Grants steps: the added registers read 0 in every lane. -/
def Ctx.grant (x : Ctx) (sd : BitVec 8) (n : Nat) (s : State) : State :=
  let g := s.grp x.c x.p
  let lo := g.count
  let mine := (List.range 32).map fun l => gid x.c (g.placeOf x.p l).grp * 32 + (g.placeOf x.p l).lane
  let s : State := { s with
    vreg := s.vreg.filter fun e => !(lo ≤ e.1 % 256 && e.1 % 256 < lo + 32 * n && mine.contains (e.1 / 256)) }
  x.putS sd (BitVec.ofNat 32 (lo + 32 * n)) (s.setGrp x.c x.p { g with ext := g.ext + n })

/-- An entry whose instruction another step has completed goes on after it. -/
def State.advanceEntry (s : State) (c p k : Nat) : State :=
  match (s.grp c p).frontier[k]? with
  | none => s
  | some e => match s.headerAt c p e with
    | .ok h => s.advance { core := c, grp := p, ent := k, count := h.count.toNat }
    | .error _ => s

/-- Whether the reserve has space for a waiting request. -/
def State.xacqFits (s : State) (c : Nat) (w : XWait) : Bool := 4096 * w.steps ≤ s.reserveFree c w.grp

/-- XACQ_GRANT (R172, R173): waiting requests are granted in order while the first has space; its entry goes on. One that would now pass 256 registers
is left to fault at its entry, and one that the scoreboard stalls is left to its next attempt (R60). -/
def State.grantXacqs (s : State) (c : Nat) : Nat → State
  | 0 => s
  | fuel + 1 => match s.xwaiting c with
    | [] => s
    | w :: _ => match firstIdx (fun e => e.note == xacqNote w.seq) (s.grp c w.grp).frontier with
      | none => s
      | some k =>
        if !s.xacqFits c w || 256 < (s.grp c w.grp).count + 32 * w.steps || !s.unstalled c w.grp ((s.grp c w.grp).frontier.getD k {}) then s
        else
          let x := s.ctx { core := c, grp := w.grp, ent := k, count := 0 } ⟨false, 7#3⟩
          State.grantXacqs ((x.grant (BitVec.ofNat 8 w.sd) w.steps (s.dropXwait c w.seq)).advanceEntry c w.grp k) c fuel

/-- When every resident group of a core has an entry waiting in XACQ and the first has no space, the request of the youngest group faults: the group
placed last, the higher physical group of equals. -/
def State.xacqDeadlock (s : State) (c : Nat) : State :=
  let ws := s.xwaiting c
  if ws.isEmpty || (ws.head?.any fun w => s.xacqFits c w) || !(s.residents c).all fun q => ws.any (·.grp == q) then s
  else
    let young := (s.residents c).foldl (fun b q => if (s.grp c b).placed ≤ (s.grp c q).placed then q else b)
      ((s.residents c).headD 0)
    match ws.find? (·.grp == young) with
    | none => s
    | some w =>
      match firstIdx (fun e => e.note == xacqNote w.seq) (s.grp c young).frontier with
      | none => s
      | some k => (s.dropXwait c w.seq).raise { core := c, grp := young, ent := k, count := 0 } Code.XACQ_DEADLOCK 0#64

/-- Register space of a core has come free: waiting requests are granted, and then the rule of deadlock is tested (R172, R173). -/
def State.afterFree (s : State) (c : Nat) : State := (s.grantXacqs c (s.core c).xwaits.length).xacqDeadlock c

/-- XACQ (R172). A request that cannot be granted waits in the order of the requests, those of one cycle by physical group; .try gives 0. -/
def xacqBody (sd sa : BitVec 8) (tr : Bool) : Ctx → State → Res := once fun x s =>
  let waits := (s.xwaiting x.c).find? fun w => x.e.note == xacqNote w.seq
  let n := waits.elim (x.sreg s sa).toNat (·.steps)
  if n = 0 || 7 < n || 256 < x.g.count + 32 * n || s.reserve x.c x.p < 4096 * n then .fault Code.XACQ_SIZE 0#64 s
  else
    let room := 4096 * n ≤ s.reserveFree x.c x.p
    let ahead := s.xwaiting x.c
    let before := fun (w : XWait) => w.cycle != s.cycle || w.grp < x.p
    match waits with
    | some w => if room && ahead.head? == some w then .ok (x.grant sd n (s.dropXwait x.c w.seq)) else .wait s 7
    | none =>
      if room && (tr || (ahead.filter before).isEmpty) then .ok (x.grant sd n s)
      else if tr then .ok (x.putS sd 0#32 s)
      else
        let k := s.core x.c
        let seq := s.nextId
        let s : State := { s with nextId := seq + 1 }
        let mine : XWait := { seq := seq, grp := x.p, steps := n, cycle := s.cycle, sd := sd.toNat }
        let s := s.setCore x.c { k with xwaits := ahead.filter before ++ mine :: ahead.filter (!before ·) }
        .wait ((x.remember (xacqNote seq) s).xacqDeadlock x.c) 7

def execXacq (g : Guard) (sd sa : BitVec 8) (tr : Bool) (s : State) : Host.Outcome State Fault Refusal :=
  issue (.xacq g sd sa tr) g (xacqBody sd sa tr) s

/-- XREL (R173): it waits for pending writes to the registers that it releases; the space goes to waiting requests. -/
def xrelBody (sa : BitVec 8) : Ctx → State → Res := once fun x s =>
  let n := (x.sreg s sa).toNat
  if n = 0 || x.g.ext < n then .fault Code.XACQ_SIZE 0#64 s
  else if (s.pendingV x.c x.p).any fun r => x.g.count - 32 * n ≤ r then .wait s 1
  else
    let g := s.grp x.c x.p
    .done (((s.setGrp x.c x.p { g with ext := g.ext - n }).advance x.n).afterFree x.c)

def execXrel (g : Guard) (sa : BitVec 8) (s : State) : Host.Outcome State Fault Refusal := issue (.xrel g sa) g (xrelBody sa) s

end Sys2Proof.Machine
end

