-- ==== Sys2Proof/Machine/Asy.lean ====
section
/-!
DEFINITION. Class ASY (R228 to R245): copies and their tokens, job cards and the request engine, gather handles, gathers and scatters.
-/
namespace Sys2Proof.Machine

/-! ### Copies (R230, R232) -/

/-- Bytes of a copy. -/
def AsyncOp.total (o : AsyncOp) : Nat := if o.words.isEmpty then o.rows * o.width else 4 * o.words.length

/-- Where a byte of a copy lies: its span's base and the strides of its rows, by copy offset, modulo 2^64 (R178). -/
def Span.at_ (a : Span) (stride : Int) (width d : Nat) : Nat :=
  (((a.addr : Int) + (d / width : Nat) * stride + (d % width : Nat)) % 2 ^ 64).toNat

/-- What a run of a copy comes to: the state, the bytes stored, their completion time, whether a peer has them, and why it stops. -/
structure CopyRun where
  s    : State
  out  : List Byte := []
  t    : Nat := 0
  peer : Bool := false
  stop : Option EngStop := none

/-- Whether a virtual address lies at a peer. -/
def State.atPeer (s : State) (c : Nat) (x : Context) (handler : Bool) (addr : DWord) : Bool :=
  match s.translate c x { handler := handler } addr with
  | .ok pa => windowOf pa == some .remote
  | .error _ => false

/-- Stores bytes at the destination of a copy: in scratchpad up to the first tagged word (R232). -/
def State.copyStore (s : State) (e : Eng) (scr : Bool) (a ofs : Nat) (bs : List Byte) : CopyRun :=
  if scr then
    let ok := ((List.range bs.length).find? fun k => s.clobbers e.core (a + k) 1).getD bs.length
    let s := if ok = 0 then s else (s.setPoolBytes e.core a (bs.take ok)).wakeWaits
    { s := s, out := bs.take ok, t := s.dtime,
      stop := if ok < bs.length then some (.fault Code.BARRIER_CLOBBER (BitVec.ofNat 64 (a + ok))) else none }
  else match s.engWrite e.core e.id ofs e.ctx e.handler (BitVec.ofNat 64 a) bs with
    | .error k => { s := s, stop := some k }
    | .ok (s, t) => { s := s.wakeWaits, out := bs, t := t, peer := s.atPeer e.core e.ctx e.handler (BitVec.ofNat 64 a) }

/-- The source bytes of a run. -/
def State.copyLoad (s : State) (e : Eng) (scr : Bool) (a n : Nat) : Except EngStop (List Byte) :=
  if scr then .ok (s.poolBytes e.core a n) else s.engRead e.core e.ctx e.handler (BitVec.ofNat 64 a) n

/-- The source, destination and length of the next run of a copy: within one row, one page of each memory operand and 4 KiB of copy offsets. -/
def AsyncOp.next (o : AsyncOp) : Nat × Nat × Nat :=
  let d := o.done
  let a := o.src.at_ o.sstr o.width d
  let b := o.dst.at_ o.dstr o.width d
  let page := fun (scr : Bool) (x : Nat) => if scr then 4096 else 4096 - x % 4096
  (a, b, min (min (o.width - d % o.width) (4096 - d % 4096)) (min (page o.src.scr a) (page o.dst.scr b)))

/-- The next run of a copy. -/
def AsyncOp.run (o : AsyncOp) (e : Eng) (s : State) : CopyRun :=
  let r := o.next
  match s.copyLoad e o.src.scr r.1 r.2.2 with
  | .error k => { s := s, stop := some k }
  | .ok bs =>
    let s := if o.src.scr then s else s.engFresh e.core e.ctx e.handler (BitVec.ofNat 64 r.1) r.2.2
    s.copyStore e o.dst.scr r.2.1 o.done bs

/-- Asks peers for the bytes that the next run reads (R214); none when the run may be made, or its bytes are lost. -/
def AsyncOp.ask (o : AsyncOp) (e : Eng) (s : State) : Option State :=
  if o.src.scr || !o.words.isEmpty then none else s.askPeers e o.done [(o.next.1, o.next.2.2, o.done, 1)]

/-- A step of a copy whose bytes at a peer have been lost stops it with FABRIC_LOST (R311). -/
def AsyncOp.lostRun (o : AsyncOp) (e : Eng) (s : State) : Option CopyRun :=
  if e.asked == some o.done && (s.lostFrom e.id o.done).isSome then
    some { s := s, stop := some (.fault Code.FABRIC_LOST (BitVec.ofNat 64 o.next.1)) } else none

/-- The stores of ASTO, in order of row and lane, up to the first that stops. DEDUCED: that order (log entry 155). -/
def AsyncOp.runWords (o : AsyncOp) (e : Eng) (s : State) : CopyRun :=
  o.words.foldl (fun r w =>
    if r.stop.isSome then r
    else
      let q := r.s.copyStore e false (o.dst.addr + w.1) r.out.length (leBytes 4 w.2.toNat)
      { q with out := r.out ++ q.out, t := max r.t q.t, peer := r.peer || q.peer }) { s := s }

def AsyncOp.step (o : AsyncOp) (e : Eng) (s : State) : CopyRun :=
  (o.lostRun e s).getD (if o.words.isEmpty then o.run e s else o.runWords e s)

/-- The bytes that a run has written to memory, for the digest. -/
def AsyncOp.record (o : AsyncOp) (det : Bool) (out : List Byte) : List (Nat × Byte) :=
  if !det || o.dst.scr then []
  else if o.words.isEmpty then bytesAt (BitVec.ofNat 64 (o.dst.at_ o.dstr o.width o.done)) out
  else (o.words.zip (chunksOf 4 o.words.length out)).flatMap fun w => bytesAt (BitVec.ofNat 64 (o.dst.addr + w.1.1)) w.2

/-- A copy after a run. -/
def AsyncOp.after (o : AsyncOp) (det : Bool) (r : CopyRun) : AsyncOp :=
  { o with done := o.done + r.out.length, written := o.written ++ o.record det r.out, t := max o.t r.t }

/-- A boundary of 4 KiB, where a copy may be stopped (R347, R363). -/
def AsyncOp.boundary (o : AsyncOp) : Bool := o.done != 0 && o.done % 4096 == 0

def State.setOp (s : State) (o : AsyncOp) : State := { s with ops := s.ops.map fun k => if k.id == o.id then o else k }

/-- Ends a copy: its completion time, its digest and its token (R216, R230). -/
def State.endOp (s : State) (o : AsyncOp) (v : Word) : State :=
  let v := s.lostToken o.id v
  let s := (s.foldWct o.core o.grp o.uid o.id o.t).digestAsync o.toEng o.written
  let s : State := { s with ops := s.ops.filter (·.id != o.id), engLost := s.engLost.filter (·.1 != o.id) }
  s.writeToken o.toEng o.token v

/-- A copy whose accesses are over ends once every store at a peer has been answered. -/
def State.settleOp (s : State) (o : AsyncOp) (v : Word) : State :=
  if s.awaitsPeer o.id then s.setOp { o with outcome := some v } else s.endOp o v

/-- ASYNC_COMPLETION (R230, R232): subject: the operation. Each step makes one run of the copy; the last writes its token. At most 64 of a
core are in flight (R228). -/
def State.asyncCompletion (s : State) (id : Nat) : State :=
  match s.ops.find? (·.id == id) with
  | none => s
  | some o =>
    if s.engineFrozen o.core 3 then s
    else match o.outcome with
      | some v => if s.awaitsPeer id then s else s.endOp o v
      | none =>
        if (s.launch o.node).abort.isSome && (o.boundary || o.done = 0) then s.settleOp o (tokenOf Code.ABORTED o.done)
        else if (s.node o.node).missed && o.boundary then s.settleOp o (tokenOf Code.DEADLINE_MISS o.done)
        else if 64 ≤ ((s.ops.filter fun k => k.core == o.core && k.id < id).length) then s.post .asyncCompletion [id]
        else match s.engineWaits o.toEng .asyncCompletion [id] with
          | some t => t
          | none => match o.ask o.toEng s with
          | some t => t
          | none =>
            let r := o.step o.toEng s
            let o' := o.after (s.launch o.node).det r
            match r.stop with
            | some (.violate a) => (r.s.setOp o').freezeEngine o.core 3 a
            | some (.fault code _) => r.s.settleOp o' (tokenOf code o'.done)
            | none => if o'.done = o'.total then r.s.settleOp o' (tokenOf 0 o'.done) else (r.s.setOp o').post .asyncCompletion [id]

def execAsyncCompletion (s : State) : Host.Outcome State Fault Refusal := .next (s.asyncCompletion (s.arg 0))

/-! ### Issue of copies (R231, R233) -/

/-- The range of a strided operand from its first byte to its last. -/
def strideRange (a : Int) (rows width : Nat) (stride : Int) : Int × Int :=
  let last := a + (rows - 1 : Nat) * stride
  (min a last, max a last + width)

/-- What an operand of a copy names: slice offset or virtual address. -/
def Ctx.copyOperand (x : Ctx) (s : State) (scr : Bool) (r : BitVec 8) : Nat :=
  if scr then (x.sreg s r).toNat else (x.sreg64 s r).toNat % 2 ^ 57

/-- Whether a strided copy breaks R233: sizes, overlap of one space, or a scratchpad range that leaves the slice. -/
def copyBad (size : Nat) (dscr sscr : Bool) (d a : Int) (rows width : Nat) (dstr sstr : Int) : Bool :=
  let dr := strideRange d rows width dstr
  let sr := strideRange a rows width sstr
  let out := fun (r : Int × Int) => r.1 < 0 || (size : Int) < r.2
  rows = 0 || width = 0 || 2 ^ 24 ≤ rows * width ||
  (dscr == sscr && dr.1 < sr.2 && sr.1 < dr.2) || (dscr && out dr) || (sscr && out sr)

/-- The footprint of a strided operand: in scratchpad by pool address. -/
def copyFoot (w scr : Bool) (base : Nat) (a : Int) (rows width : Nat) (stride : Int) : Bool × Bool × Nat × Nat :=
  let r := strideRange a rows width stride
  (w, scr, if scr then base + r.1.toNat else (r.1 % 2 ^ 57).toNat, (r.2 - r.1).toNat)

/-- Puts a copy in flight: its token is pending (R228). -/
def Ctx.startOp (x : Ctx) (sd : BitVec 8) (o : AsyncOp) (s : State) : Res :=
  let s : State := { s with nextId := s.nextId + 1, ops := s.ops ++ [o] }
  let s := x.openToken sd s
  .ok ((if o.dst.scr then s else x.countAsync s).post .asyncCompletion [o.id])

/-- A strided copy comes to issue: ASYNC_ARGS first; a seventeenth pending token stalls (R228), and a frozen engine accepts no work (R364). -/
def Ctx.strided (x : Ctx) (sd sa sb : BitVec 8) (sp : BitVec 2) (rows width : Nat) (dstr sstr : Int) (s : State) : Res :=
  let dscr := sp.getLsbD 0
  let sscr := sp.getLsbD 1
  let (base, size) := s.scrSlice x.c x.g.slot
  let d := x.copyOperand s dscr sa
  let a := x.copyOperand s sscr sb
  if copyBad size dscr sscr d a rows width dstr sstr then .fault Code.ASYNC_ARGS 0#64 s
  else if 16 ≤ x.g.tokens.length || s.engineFrozen x.c 3 then .wait s
  else
    let foot := [copyFoot false sscr base a rows width sstr, copyFoot true dscr base d rows width dstr]
    x.startOp sd { toEng := x.engine foot s, token := sd.toNat,
                   dst := { scr := dscr, addr := (if dscr then base else 0) + d },
                   src := { scr := sscr, addr := (if sscr then base else 0) + a },
                   rows := rows, width := width, dstr := dstr, sstr := sstr } s

def execAcopy (g : Guard) (sd sa sb sc : BitVec 8) (sp : BitVec 2) (s : State) : Host.Outcome State Fault Refusal :=
  issue (.acopy g sd sa sb sc sp) g
    (once fun x s => let n := (x.sreg s sc).toNat
                     x.strided sd sa sb sp 1 n n n s) s

/-- ACOPYT: rows, row bytes, destination stride and source stride stand in four registers (R231). -/
def acopytBody (sd sa sb sc : BitVec 8) (sp : BitVec 2) : Ctx → State → Res := once fun x s =>
  let r := fun (k : Nat) => s.sr x.c x.p (sc.toNat + k)
  if 65536 < (r 1).toNat then .fault Code.ASYNC_ARGS 0#64 s
  else x.strided sd sa sb sp (r 0).toNat (r 1).toNat (r 2).toInt (r 3).toInt s

def execAcopyt (g : Guard) (sd sa sb sc : BitVec 8) (sp : BitVec 2) (s : State) : Host.Outcome State Fault Refusal :=
  issue (.acopyt g sd sa sb sc sp) g (acopytBody sd sa sb sc sp) s

/-- ASTO: the registers are read at issue (R232). -/
def astoBody (sd sa vb sc : BitVec 8) : Ctx → State → Res := once fun x s =>
  let n := (x.sreg s sc).toNat
  let addr := x.sreg64 s sa
  if n = 0 || 8 < n then .fault Code.ASYNC_ARGS 0#64 s
  else if addr.toNat % 128 != 0 then .fault Code.ASYNC_ARGS 0#64 s
  else if 16 ≤ x.g.tokens.length || s.engineFrozen x.c 3 then .wait s
  else
    let a := addr.toNat % 2 ^ 57
    let words := (List.range n).flatMap fun k => (lanesOf x.live).map fun l => (128 * k + 4 * l, s.v x.c x.p l (vb.toNat + k))
    x.startOp sd { toEng := x.engine [(true, false, a, 128 * n)] s, token := sd.toNat, dst := { addr := a }, words := words } s

def execAsto (g : Guard) (sd sa vb sc : BitVec 8) (s : State) : Host.Outcome State Fault Refusal :=
  issue (.asto g sd sa vb sc) g (astoBody sd sa vb sc) s

/-! ### Job cards (R234 to R237) -/

/-- A job card (R234). -/
structure Card where
  src  : Nat
  dst  : Nat
  size : Nat
  rows : Nat
  sstr : Int
  dstr : Int
  kind : Nat
  space : Nat
  arr  : Nat
  bo   : Nat
deriving DecidableEq, Repr

def cardOf (b : List Byte) : Card :=
  { src := sliceNat b 0 8, dst := sliceNat b 8 8, size := sliceNat b 16 4, rows := sliceNat b 20 4,
    sstr := toSigned 32 (sliceNat b 24 4), dstr := toSigned 32 (sliceNat b 28 4), kind := sliceNat b 32 1, space := sliceNat b 33 1,
    arr := sliceNat b 34 1, bo := sliceNat b 36 4 }

def Card.dscr (k : Card) : Bool := k.space % 2 == 1
def Card.sscr (k : Card) : Bool := k.space / 2 % 2 == 1
def Card.nrows (k : Card) : Nat := if k.kind = 1 then k.rows else 1
def Card.noBo (k : Card) : Bool := k.bo == 2 ^ 32 - 1

/-- The operand addresses of a card: a virtual address, or a slice offset in bits 31:0. -/
def Card.dstAt (k : Card) : Nat := if k.dscr then k.dst % 2 ^ 32 else k.dst % 2 ^ 57
def Card.srcAt (k : Card) : Nat := if k.sscr then k.src % 2 ^ 32 else k.src % 2 ^ 57

/-- Whether a card breaks R234 by its fields alone. -/
def Card.bad (k : Card) (b : List Byte) : Bool :=
  1 < k.kind || 4 ≤ k.space || 1 < k.arr || !zeros b 35 36 || !zeros b 40 64 || k.size = 0 || 2 ^ 24 ≤ k.size * k.nrows ||
  (k.kind = 0 && (k.rows != 0 || k.sstr != 0 || k.dstr != 0)) ||
  (k.kind = 1 && (k.rows = 0 || 65536 < k.rows || 65536 < k.size))

/-- Whether a card of a block breaks R234: a scratchpad range that leaves the slice, or a BO that names no barrier object. -/
def State.cardBad (s : State) (c slot : Nat) (b : List Byte) : Bool :=
  let k := cardOf b
  let (base, size) := s.scrSlice c slot
  let out := fun (a : Nat) (st : Int) =>
    let r := strideRange a k.nrows k.size st
    decide (r.1 < 0 || (size : Int) < r.2)
  k.bad b || (k.dscr && out k.dstAt k.dstr) || (k.sscr && out k.srcAt k.sstr) ||
  (!k.noBo && (k.bo % 8 != 0 || size < k.bo + 8 || !s.tagged c (base + k.bo)))

/-- The copy of a card, whose scratchpad offsets count from a pool address. -/
def Card.op (k : Card) (base : Nat) : AsyncOp :=
  { dst := { scr := k.dscr, addr := (if k.dscr then base else 0) + k.dstAt },
    src := { scr := k.sscr, addr := (if k.sscr then base else 0) + k.srcAt },
    rows := k.nrows, width := k.size, dstr := k.dstr, sstr := k.sstr }

/-- A card's footprint (R235). -/
def Card.foot (k : Card) (base : Nat) : List (Bool × Bool × Nat × Nat) :=
  [copyFoot false k.sscr base k.srcAt k.nrows k.size k.sstr, copyFoot true k.dscr base k.dstAt k.nrows k.size k.dstr]

/-- Queues the cards of a KICK in order. -/
def Ctx.queueCards (x : Ctx) (base : Nat) (cards : List (List Byte)) (s : State) : State :=
  (cards.zipIdx).foldl (fun s q =>
    let k := cardOf q.1
    let e := x.engine (k.foot base) s
    let j : CardJob := { toEng := e, op := k.op base, index := q.2, bo := if k.noBo then none else some (base + k.bo),
                         arr := k.arr == 1 }
    let s : State := { s with nextId := s.nextId + 1, cards := s.cards ++ [j] }
    (if k.dscr then s else x.countAsync s).post .cardCompletion [e.id]) s

/-- KICK_CARD: sr.faddr receives the index of the first bad card (R236). -/
def Ctx.cardFault (x : Ctx) (n : Nat) (s : State) : Res :=
  let g := s.grp x.c x.p
  .fault Code.KICK_CARD 0#64 (s.setGrp x.c x.p { g with faddr := BitVec.ofNat 64 n })

/-- KICK (R236). DEDUCED: a fault of its offset or count leaves 0 in sr.faddr, since no card is bad (log entry 156). -/
def kickBody (sa sb : BitVec 8) : Ctx → State → Res := once fun x s =>
  let ofs := (x.sreg s sa).toNat
  let n := (x.sreg s sb).toNat
  let (base, size) := s.scrSlice x.c x.g.slot
  if ofs % 64 != 0 || n = 0 || 256 < n then x.cardFault 0 s
  else if !s.loadsFree x.c x.p x.e.mask then .wait s 4
  else if s.engineHold x.g.uid s.nextId true false (base + ofs) (64 * n) || s.engineFrozen x.c 3 then .wait s
  else
    let cards := (List.range n).map fun k => s.poolBytes x.c (base + ofs + 64 * k) 64
    match (List.range n).find? fun k => size < ofs + 64 * (k + 1) || s.cardBad x.c x.g.slot (cards.getD k []) with
    | some k => x.cardFault k s
    | none =>
      if 1024 < (s.cards.filter (·.core == x.c)).length + n then .wait s
      else .ok (x.queueCards base cards s)

def execKick (g : Guard) (sa sb : BitVec 8) (s : State) : Host.Outcome State Fault Refusal := issue (.kick g sa sb) g (kickBody sa sb) s

/-- KSTAT (R237). DESIGN CHOICE: .clr drops the whole record, so that CARD reads 0 too from then on; R237 names F and CODE alone (log entry 165). -/
def kstatBody (sd : BitVec 8) (clr : Bool) : Ctx → State → Res := once fun x s =>
  let b := s.blkAt x.c x.g.slot
  let n := (s.cards.filter fun k => k.node == x.g.node && k.blk == b.blk && k.copy.isNone).length
  let v := match b.cardFlt with
    | none => n
    | some (code, i) => 2 ^ 31 + code * 2 ^ 24 + i * 2 ^ 16 + n
  let s := x.putS sd (BitVec.ofNat 32 v) s
  .ok (if clr then s.setBlk x.c x.g.slot { b with cardFlt := none } else s)

def execKstat (g : Guard) (sd : BitVec 8) (clr : Bool) (s : State) : Host.Outcome State Fault Refusal :=
  issue (.kstat g sd clr) g (kstatBody sd clr) s

def State.setCard (s : State) (j : CardJob) : State := { s with cards := s.cards.map fun k => if k.id == j.id then j else k }

/-- Bytes and arrivals counted on a card's barrier object (R216, R236): BARRIER_OVER stops the card. -/
def State.countCard (s : State) (j : CardJob) (bytes arrivals : Nat) : State × Bool :=
  match j.bo with
  | none => (s, true)
  | some a =>
    if !s.tagged j.core a then (s, true)
    else match (s.barObj j.core a).arrive (-(bytes : Int)) arrivals with
      | none => (s, false)
      | some o => (s.setBarObj j.core a o, true)

/-- The bytes of a card's stores to peers that have been lost, which are never counted (R237). -/
def State.lostBytes (s : State) (j : CardJob) : Nat := ((s.engLost.filter (·.1 == j.id)).map (·.2.2)).sum

/-- Counts down the bytes whose completion time has passed, and those at a peer, less the lost ones, once it has answered. -/
def State.countDue (s : State) (j : CardJob) : State × CardJob :=
  let ready := fun (d : Option Nat × Nat) => match d.1 with
    | some t => decide (t ≤ s.dtime)
    | none => !s.awaitsPeer j.id
  let gone := if (j.due.filter ready).any (·.1.isNone) then s.lostBytes j else j.gone
  let n := ((j.due.filter ready).map (·.2)).sum - (gone - j.gone)
  let j' := { j with due := j.due.filter fun d => !ready d, gone := gone }
  if n = 0 then (s, j')
  else
    let r := s.countCard j n 0
    (r.1, if r.2 then j' else { j' with stop := j.stop.orElse fun _ => some Code.BARRIER_OVER })

/-- Records the first fault of a card of a block (R237), wherever the block stands or is saved (R366), or the code of a COPY node. -/
def State.recordCard (s : State) (j : CardJob) (code : Nat) : State :=
  match j.copy with
  | some n => let d := s.node n
              s.setNode n { d with code := if d.code = 0 then code else d.code }
  | none =>
    let mine := fun (b : Block) => b.node == j.node && b.blk == j.blk && b.cardFlt.isNone
    let flt := fun (b : Block) => if mine b then { b with cardFlt := some (code, j.index) } else b
    let s := s.blocks.foldl (fun s e => if e.2.live && mine e.2 then { s with blocks := aset {} s.blocks e.1 (flt e.2) } else s) s
    let l := s.launch j.node
    if l.saved.isEmpty then s else s.setLaunch j.node { l with saved := l.saved.map fun k => { k with block := flt k.block } }

/-- Ends a card: its arrival when it has met no fault, its digest, and the end of a COPY node. -/
def State.endCard (s : State) (j : CardJob) : State :=
  let lost := (s.lostAt j.id).map fun _ => Code.FABRIC_LOST
  let code := j.stop.orElse fun _ => lost
  let (s, code) := match code with
    | some k => (s, some k)
    | none => if j.arr then (let r := s.countCard j 0 1
                             (r.1, if r.2 then none else some Code.BARRIER_OVER)) else (s, none)
  let s := match code with
    | some k => s.recordCard j k
    | none => s
  let s := (s.foldWct j.core j.grp j.uid j.id j.op.t).digestAsync j.toEng j.op.written
  let s : State := { s with cards := s.cards.filter (·.id != j.id), engLost := s.engLost.filter (·.1 != j.id) }
  match j.copy with
  | some n => s.post .nodeCompletion [n]
  | none => s

/-- A card that has made its runs ends once everything is counted down and answered; until then it tries again. -/
def State.settleCard (s : State) (j : CardJob) : State :=
  let r := s.countDue j
  if r.2.due.isEmpty && !s.awaitsPeer j.id then r.1.endCard r.2
  else
    let s := r.1.setCard r.2
    if s.awaitsPeer j.id && r.2.due.all (·.1.isNone) then s else s.post .cardCompletion [j.id]

/-- CARD_COMPLETION (R236, R237): subject: the card. Each step makes one run of its copy and counts down what has been performed; a fault at the
count-down or a store lost at a peer stops the card there, as a fault of its own does; while a checkpoint is under way it stands at its boundary
(R389). -/
def State.cardCompletion (s : State) (id : Nat) : State :=
  match s.cards.find? (·.id == id) with
  | none => s
  | some j =>
    if s.engineFrozen j.core 3 then s
    else if j.outcome.isSome then s.settleCard j
    else if j.stop.isSome || (s.lostAt j.id).isSome then s.settleCard { j with outcome := some 0#32 }
    else
      let cut := j.op.boundary || j.op.done = 0
      if s.dev == .checkpoint && cut then s else
      let code := match j.copy with
        | some n => if (s.node n).missed && j.op.boundary then some Code.DEADLINE_MISS else none
        | none => if (s.launch j.node).abort.isSome && cut then some Code.ABORTED else none
      match code with
      | some k => s.settleCard { j with outcome := some 0#32, stop := some k }
      | none =>
        match s.engineWaits j.toEng .cardCompletion [id] with
        | some t => t
        | none => match j.op.ask j.toEng s with
        | some t => t
        | none =>
          let r := j.op.step j.toEng s
          let o := j.op.after (s.launch j.node).det r
          let t : Option Nat := if j.op.dst.scr then some 0 else if r.peer then none else some r.t
          let j' := { j with op := o, due := if r.out.isEmpty then j.due else j.due ++ [(t, r.out.length)] }
          match r.stop with
          | some (.violate a) => (r.s.setCard j').freezeEngine j.core 3 a
          | some (.fault k _) => r.s.settleCard { j' with outcome := some 0#32, stop := some k }
          | none =>
            if o.done = o.total then r.s.settleCard { j' with outcome := some 0#32 }
            else
              let q := r.s.countDue j'
              (q.1.setCard q.2).post .cardCompletion [id]

def execCardCompletion (s : State) : Host.Outcome State Fault Refusal := .next (s.cardCompletion (s.arg 0))

/-! ### Handles (R239 to R241) -/

/-- A handle's descriptor (R239). -/
structure Desc where
  base  : DWord
  count : Nat
  kind  : Nat
  esz   : Nat
  wmax  : Nat
  sgn   : Nat
deriving DecidableEq, Repr

def descOf (b : List Byte) : Desc :=
  { base := leDWord (slice b 0 8), count := sliceNat b 8 8, kind := sliceNat b 16 1, esz := sliceNat b 17 1, wmax := sliceNat b 18 1,
    sgn := sliceNat b 19 1 }

def Desc.bad (d : Desc) (b : List Byte) : Bool :=
  d.count = 0 || 2 ^ 40 ≤ d.count || 2 < d.kind || !zeros b 20 64 ||
  (d.kind = 0 && 3 < d.esz) || (d.kind = 1 && 1 < d.esz) || (d.kind = 2 && d.esz != 2) ||
  (if d.kind = 2 then decide (32 < d.wmax) else d.wmax != 0) || 1 < d.sgn || (d.sgn = 1 && !(d.kind = 0 && d.esz ≤ 1))

def State.handle (s : State) (c n : Nat) : Handle := aget {} (s.core c).handles n

def State.setHandle (s : State) (c n : Nat) (h : Handle) : State :=
  let k := s.core c
  s.setCore c { k with handles := aset {} k.handles n h }

/-- GHND (R241): the descriptor is loaded, checked as read, and takes the lowest free entry. -/
def ghndBody (sd sa : BitVec 8) : Ctx → State → Res := once fun x s =>
  let addr := x.sreg64 s sa
  match x.e.note with
  | [_, id, _] =>
    match s.access id with
    | none => .wait (x.remember [] s)
    | some a =>
      if !a.done then .wait s
      else
        let s := s.dropAccess id
        if (descOf a.value).bad a.value then .fault Code.HANDLE_BAD 0#64 s
        else match (List.range 64).find? fun k => (s.handle x.c k).owner.isNone with
          | none => .fault Code.HANDLE_FULL 0#64 s
          | some k => .ok (x.putS sd (BitVec.ofNat 32 k) (s.setHandle x.c k { owner := some x.g.node, desc := a.value }))
  | _ =>
    if addr.toNat % 64 != 0 then .fault Code.HANDLE_BAD 0#64 s
    else match s.translate x.c (s.launchOf x.c x.p).context { handler := x.g.handler } addr with
      | .error code => x.memRaise code addr s
      | .ok pa =>
        let a : Access := { x.baseAccess s with lane := 32, pa := pa, n := 64, keep := true, addr := addr }
        if s.linesFull x.c 1 then .wait s
        else .wait (x.remember [0xA5, s.nextId, 1] (s.addAccesses [a]))

def execGhnd (g : Guard) (sd sa : BitVec 8) (s : State) : Host.Outcome State Fault Refusal := issue (.ghnd g sd sa) g (ghndBody sd sa) s

/-- GHND.free (R241). -/
def ghndFreeBody (sa : BitVec 8) : Ctx → State → Res := once fun x s =>
  let n := (x.sreg s sa).toNat
  if 64 ≤ n || (s.handle x.c n).owner != some x.g.node then .fault Code.GATH_HANDLE 0#64 s
  else .ok (s.setHandle x.c n {})

def execGhndFree (g : Guard) (sa : BitVec 8) (s : State) : Host.Outcome State Fault Refusal :=
  issue (.ghndFree g sa) g (ghndFreeBody sa) s

/-! ### Gathers and scatters (R240, R242 to R245) -/

/-- What one element comes to: an access; a word decoded from a DELTA block, or the ranges of the block that must be read first (virtual address,
physical address, length), or a read of it that is under way; a fault with what sr.faddr receives; a peer that cannot be reached, with the address
(R245); or a violation. -/
inductive Elem where
  | access (a : Access)
  | word (w : Word)
  | need (ps : List (Nat × Nat × Nat))
  | pending
  | fault (code : Nat) (addr : DWord)
  | lost (addr : DWord)
  | violate (addr : DWord)
deriving DecidableEq, Repr

/-- Bytes of a DELTA block as far as they have been read by accesses: the bytes, or what is to be read or is still to come. -/
inductive BlockBytes where
  | bytes (bs : List Byte)
  | stop (e : Elem)

/-- The pieces of a range by 128-byte line: virtual address, physical address, length. -/
def linePieces (addr : Nat) (ps : List (Nat × Nat)) : List (Nat × Nat × Nat) :=
  (ps.foldl (fun (a : List (Nat × Nat × Nat) × Nat) q =>
    let cut := (List.range ((q.1 + q.2 + 127) / 128 - q.1 / 128)).map fun k =>
      let lo := max q.1 (128 * (q.1 / 128 + k))
      let hi := min (q.1 + q.2) (128 * (q.1 / 128 + k + 1))
      (addr + a.2 + (lo - q.1), lo, hi - lo)
    (a.1 ++ cut, a.2 + q.2)) ([], 0)).1

/-- Bytes of a DELTA block from the accesses of the gather (R240). -/
def Ctx.blockBytes (x : Ctx) (as : List Access) (addr : DWord) (n : Nat) (s : State) : BlockBytes :=
  let lo := addr.toNat % 2 ^ 57
  let mine := as.filter fun a => overlaps a.addr.toNat a.n lo n
  if mine.isEmpty then
    match s.translateRange x.c (s.launchOf x.c x.p).context { handler := x.g.handler } addr n with
    | .error (code, a) => .stop (if code == Code.FABRIC_LOST then .lost a else .fault code (if code == Code.PRIV then 0#64 else a))
    | .ok ps => .stop (.need (linePieces lo ps))
  else match mine.find? (·.lost) with
    | some a => .stop (.lost a.addr)
    | none =>
      if mine.any (!·.done) then .stop .pending
      else .bytes ((List.range n).map fun k => match mine.find? fun a => a.addr.toNat ≤ lo + k && lo + k < a.addr.toNat + a.n with
        | some a => a.value.getD (lo + k - a.addr.toNat) 0#8
        | none => 0#8)

/-- Bit field p of a DELTA block with deltas of w bits. -/
def deltaAt (bs : List Byte) (p w : Nat) : Nat := field (leNat bs) (p * w) w

/-- An element of a DELTA handle (R240), as far as its block has been read: wrap32(s + delta), or GATH_BLOCK, whose address is the block's (log entry
179). -/
def Ctx.deltaElem (x : Ctx) (d : Desc) (as : List Access) (i : Nat) (s : State) : Elem :=
  let addr := d.base + BitVec.ofNat 64 (i / 32 * (8 + 4 * d.wmax))
  if d.count ≤ i then .fault Code.GATH_RANGE (BitVec.ofNat 64 i)
  else if addr.toNat % 4 != 0 then .fault Code.MISALIGN addr
  else match x.blockBytes as addr 8 s with
    | .stop e => e
    | .bytes h =>
      let w := sliceNat h 4 1
      if d.wmax < w || sliceNat h 5 3 != 0 then .fault Code.GATH_BLOCK addr
      else if w = 0 then .word (BitVec.ofNat 32 (sliceNat h 0 4))
      else match x.blockBytes as (addr + 8#64) (4 * w) s with
        | .stop e => e
        | .bytes b => .word (BitVec.ofNat 32 (sliceNat h 0 4 + deltaAt b (i % 32) w))

/-- An element of a RAW or WIN handle as an access. -/
def Ctx.plainElem (x : Ctx) (d : Desc) (i : Nat) (write : Bool) (base : Access) (s : State) : Elem :=
  let n := if d.kind = 0 then 2 ^ d.esz else 1 + d.esz
  let addr := d.base + BitVec.ofNat 64 (i * n)
  if addr.toNat % n != 0 then .fault Code.MISALIGN addr
  else match x.elemPhys write addr s n with
    | .error (.fault code a) => if code == Code.FABRIC_LOST then (if d.kind = 0 then .lost a else .fault Code.WINDOW_NONE addr) else .fault code a
    | .error (.violate a) => .violate a
    | .ok pa =>
      let a := { base with pa := pa, n := n, addr := addr, sext := d.sgn == 1 }
      if d.kind = 0 then .access a
      else match s.windowAt pa with
        | none => .fault Code.WINDOW_NONE addr
        | some k =>
          if k.size != n then .fault Code.WINDOW_NONE addr
          else .access { a with win := some (k.fmt, if k.scl then some (k.scale + 4 * ((pa - k.lo) / k.size / 128)) else none) }

/-- The element of lane l of a gather through a RAW or WIN handle, with its index. -/
def Ctx.gathElem (x : Ctx) (d : Desc) (vd : Nat) (i l : Nat) (s : State) : Elem :=
  if d.count ≤ i then .fault Code.GATH_RANGE (BitVec.ofNat 64 i)
  else x.plainElem d i false { x.baseAccess s with lane := l, dest := .vec (x.g.placeOf x.p l) vd, stip := true } s

/-- The element of lane l of a scatter. -/
def Ctx.scatElem (x : Ctx) (d : Desc) (vc : Nat) (i l : Nat) (s : State) : Elem :=
  if d.count ≤ i then .fault Code.GATH_RANGE (BitVec.ofNat 64 i)
  else x.plainElem d i true { x.baseAccess s with
    lane := l, kind := .store, data := x.laneBytes s l (2 ^ d.esz) vc, afterRel := s.gatesOf x.c x.p x.e.mask } s

/-- Where an instruction with element faults stops: the lane (32 for none), the code and what sr.faddr receives. -/
structure Stop where
  lane : Nat := 32
  code : Nat := 0
  addr : DWord := 0#64
deriving DecidableEq, Repr

/-- Ends a gather or scatter with some lanes performed (R243): complete, stopped by a fault, or stopped without one (.nf).
DEDUCED: .nf leaves sr.faddr alone (log entry 157). -/
def Ctx.endGath (x : Ctx) (nf : Bool) (done : Word) (k : Stop) (s : State) : Res :=
  let g := s.grp x.c x.p
  let mask := g.gmask ||| done
  if k.lane = 32 then .ok (s.setGrp x.c x.p { g with gmask := 0#32, gcode := if nf then 0 else g.gcode })
  else if nf then .ok (s.setGrp x.c x.p { g with gmask := mask, gcode := k.code })
  else x.memRaise k.code k.addr (s.setGrp x.c x.p { g with gmask := mask })

/-- The first element in lane order that is a fault. -/
def firstStop (es : List (Nat × Elem)) : Stop :=
  (es.findSome? fun e => match e.2 with
    | .fault code a => some { lane := e.1, code := code, addr := a }
    | _ => none).getD {}

def elemAccess (e : Nat × Elem) : Option Access := match e.2 with
  | .access a => some a
  | _ => none

/-- The first element in lane order whose peer cannot be reached or whose access has been lost (R245). DESIGN CHOICE: the address of one that a block
gives is that of the access: the block's, or of the lost header or piece of deltas (log entry 179). -/
def firstLost (es : List (Nat × Elem)) (as : List Access) : Option (Nat × DWord) :=
  let lost := es.filterMap (fun e => match e.2 with
      | .lost a => some (e.1, a)
      | _ => none) ++ (as.filter (·.lost)).map fun a => (a.lane, a.addr)
  lost.foldl (fun (b : Option (Nat × DWord)) e => match b with
    | some q => if e.1 < q.1 then some e else b
    | none => some e) none

/-- Whether an element is read at a peer, or its peer cannot be reached. -/
def Elem.far (e : Elem) : Bool :=
  match e with
  | .access a => windowOf a.pa == some .remote
  | .need ps => ps.any fun q => windowOf q.2.1 == some .remote
  | .lost _ => true
  | _ => false

/-- What an instruction that waits for its elements remembers: the lane, code and address of its fault, the lane and address of an element that
was lost at issue, and its accesses. -/
def gathNote (k : Stop) (lost : Option (Nat × DWord)) (ids : List Nat) : List Nat :=
  [0xA6, k.lane, k.code, k.addr.toNat, (lost.map (·.1)).getD 32, ((lost.map (·.2.toNat)).getD 0)] ++ ids

/-- A store of a scatter that has been performed and acknowledged: what STORE_ACKNOWLEDGEMENT does for ST. -/
def State.settleStore (s : State) (a : Access) : State :=
  let s := if windowOf a.pa == some .device then s.freshenCopy a.core a.line else s
  (s.foldWct a.core a.grp a.uid a.id a.wct).dropAccess a.id

/-- The fault of a gather or scatter whose elements have all settled: FABRIC_LOST of the lowest lost element, unless a lane below it has met another
fault (R245). -/
def Stop.withLost (k : Stop) (lost : Option (Nat × DWord)) : Stop :=
  match lost with
  | some (l, a) => if l < k.lane then { lane := l, code := Code.FABRIC_LOST, addr := a } else k
  | none => k

/-- The lanes from which a gather's elements stay unperformed. -/
def Stop.cut (k : Stop) : Nat := if k.code == Code.FABRIC_LOST then 32 else k.lane

/-- Settles a gather or scatter whose elements have all arrived or been lost (R245). -/
def Ctx.settleGath (x : Ctx) (nf : Bool) (k : Stop) (lost : Option (Nat × DWord)) (as : List Access) (s : State) : Res :=
  let k' := k.withLost (match firstLost [] as, lost with
    | some a, some b => some (if a.1 < b.1 then a else b)
    | some a, none => some a
    | none, b => b)
  let good := as.filter fun a => !a.lost && (a.lane < k'.cut || a.kind != .load)
  let s := as.foldl (fun s a =>
    if a.lost || !(a.lane < k'.cut || a.kind != .load) then s.dropAccess a.id
    else if a.kind == .load then s.deliver a else (s.digestAccess x a.lane a).settleStore a) s
  x.endGath nf (maskWhere fun l => good.any (·.lane == l)) k' s

/-- PRIV ends the whole instruction without effect (R354); the no-fault form raises nothing (R243). -/
def Ctx.gathPriv (x : Ctx) (nf : Bool) (s : State) : Res :=
  let g := s.grp x.c x.p
  if nf then .ok (s.setGrp x.c x.p { g with gcode := Code.PRIV }) else .fault Code.PRIV 0#64 s

/-- Issues the elements of a gather through a RAW or WIN handle, or of a scatter. Without an element at a peer they are performed as those of LD and ST
are; otherwise the instruction waits until every element has settled. A gather then fetches the lanes above a fault as well. -/
def Ctx.startGath (x : Ctx) (nf load : Bool) (es : List (Nat × Elem)) (s : State) : Res :=
  let k := firstStop es
  let below := es.filter fun e => e.1 < k.lane
  if k.code == Code.PRIV then x.gathPriv nf s
  else if s.linesFull x.c (linesOf (es.filterMap elemAccess)) then .wait s
  else match below.findSome? fun e => match e.2 with
      | .violate a => some (e.1, a)
      | _ => none with
    | some (l, a) =>
      let mine := below.filter fun e => e.1 < l
      let s := (mine.filterMap elemAccess).foldl (fun s a => s.digestAccess x a.lane a) s
      let s := s.addAccesses (mine.filterMap elemAccess)
      let g := s.grp x.c x.p
      .done ((s.setGrp x.c x.p { g with gmask := g.gmask ||| maskWhere fun l => mine.any (·.1 == l) }).freezeCore x.c a)
    | none =>
      let wide := load && es.any (·.2.far)
      let mine := if wide then es else below
      if mine.any (·.2.far) then
        let as := (mine.filterMap elemAccess).map fun a => { a with gath := true, keep := true }
        let ids := List.range' s.nextId as.length
        .wait (x.remember (gathNote k (firstLost mine []) ids) (s.addAccesses as))
      else
        let s := (below.filterMap elemAccess).foldl (fun s a => s.digestAccess x a.lane a) s
        let s := s.addAccesses (below.filterMap elemAccess)
        x.endGath nf (maskWhere fun l => below.any (·.1 == l)) k s

/-- What a gather through a DELTA handle remembers while blocks are read: the handle's base, widest delta and count, the lanes with their indexes, and
its accesses. -/
def deltaNote (d : Desc) (is : List (Nat × Nat)) (ids : List Nat) : List Nat :=
  [0xA6, 64, d.base.toNat, d.wmax, d.count, is.length] ++ is.flatMap (fun q => [q.1, q.2]) ++ ids

/-- The handle, the lanes with their indexes, and the accesses of such a note. -/
def deltaOf (note : List Nat) : Desc × List (Nat × Nat) × List Nat :=
  let n := note.getD 5 0
  ({ base := BitVec.ofNat 64 (note.getD 2 0), count := note.getD 4 0, kind := 2, esz := 2, wmax := note.getD 3 0, sgn := 0 },
   (List.range n).map fun k => (note.getD (6 + 2 * k) 0, note.getD (7 + 2 * k) 0), note.drop (6 + 2 * n))

/-- A gather through a DELTA handle: blocks that are still to be read are asked for, each once for all the lanes that name it (R240); once all have
arrived or been lost, the elements are written and the instruction ends as R243 and R245 say. -/
def Ctx.deltaGath (x : Ctx) (nf : Bool) (vd : Nat) (d : Desc) (is : List (Nat × Nat)) (ids : List Nat) (s : State) : Res :=
  let as := ids.filterMap s.access
  let es := is.map fun q => (q.1, x.deltaElem d as q.2 s)
  let k := firstStop es
  let wide := es.any (·.2.far) || as.any fun a => windowOf a.pa == some .remote
  let mine := if wide then es else es.filter fun e => e.1 < k.lane
  let needs := (mine.flatMap fun e => match e.2 with
    | .need ps => ps.map fun q => (e.1, q)
    | _ => []).foldl (fun (a : List (Nat × Nat × Nat × Nat)) q => if a.any (·.2 == q.2) then a else a ++ [q]) []
  if k.code == Code.PRIV then x.gathPriv nf (as.foldl (fun s a => s.dropAccess a.id) s)
  else if !needs.isEmpty then
    let more := needs.map fun q => ({ x.baseAccess s with
      lane := q.1, pa := q.2.2.1, n := q.2.2.2, addr := BitVec.ofNat 64 q.2.1, dest := .vec (x.g.placeOf x.p q.1) vd, gath := true, keep := true,
      stip := true, delta := true } : Access)
    if s.linesFull x.c (linesOf more) then .wait (x.remember (deltaNote d is ids) s)
    else .wait (x.remember (deltaNote d is (ids ++ List.range' s.nextId more.length)) (s.addAccesses more))
  else if mine.any (·.2 == .pending) then .wait s
  else
    let k' := k.withLost (firstLost mine [])
    let good := mine.filterMap fun e => match e.2 with
      | .word w => if e.1 < k'.cut then some (e.1, w) else none
      | _ => none
    let s := as.foldl (fun s a => s.dropAccess a.id) s
    let s := good.foldl (fun s e => s.setV x.c x.p e.1 vd e.2) s
    x.endGath nf (maskWhere fun l => good.any (·.1 == l)) k' s

/-- A gather or scatter that waits for its elements; vd is the first register of a gather's result. -/
def Ctx.resumeGath (x : Ctx) (nf : Bool) (vd : Nat) (s : State) : Res :=
  let note := x.e.note
  if note.getD 1 0 = 64 then
    let q := deltaOf note
    x.deltaGath nf vd q.1 q.2.1 q.2.2 s
  else
    let k : Stop := { lane := note.getD 1 32, code := note.getD 2 0, addr := BitVec.ofNat 64 (note.getD 3 0) }
    let lost := if note.getD 4 32 = 32 then none else some (note.getD 4 32, BitVec.ofNat 64 (note.getD 5 0))
    let as := (note.drop 6).filterMap s.access
    if as.any fun a => !a.done && !a.lost then .wait s else x.settleGath nf k lost as s

/-- Runs a body on the descriptor of a handle of the group's launch, or raises GATH_HANDLE (R241, R242). DESIGN CHOICE: it is raised also where Active
holds no live lane (log entry 166), and under .nf, which suppresses the faults of elements alone (R243; log entry 167). -/
def withHandle (sa : BitVec 8) (scat : Bool) (reg : Nat) (body : Desc → Ctx → State → Res) (x : Ctx) (s : State) : Res :=
  let n := (x.sreg s sa).toNat
  let h := s.handle x.c n
  let d := descOf h.desc
  if 64 ≤ n || h.owner != some x.g.node || (scat && d.kind != 0) then .fault Code.GATH_HANDLE 0#64 s
  else if d.kind = 0 && d.esz = 3 && (s.pendingV x.c x.p).contains (reg + 1) then .wait s 1
  else body d x s

/-- The lanes of Active that a gather or scatter still has to perform. -/
def Ctx.gathTodo (x : Ctx) : List Nat := lanesOf (x.live &&& ~~~x.g.gmask)

/-- GATH (R243). -/
def gathBody (d : BitVec 8) (sa vb : BitVec 8) (c : VS) (nf bs : Bool) : Ctx → State → Res := fun x s =>
  match x.e.note with
  | 0xA6 :: _ => x.resumeGath nf d.toNat s
  | _ => withHandle sa false d.toNat (fun h x s =>
      if x.live == 0#32 then .ok s
      else
        let i := fun l => (s.v x.c x.p l vb.toNat).toNat + if bs then (x.sreg s c.n).toNat else 0
        if h.kind = 2 then x.deltaGath nf d.toNat h (x.gathTodo.map fun l => (l, i l)) [] s
        else x.startGath nf true (x.gathTodo.map fun l => (l, x.gathElem h d.toNat (i l) l s)) s) x s

def execGath (g : Guard) (d sa vb : BitVec 8) (c : VS) (nf bs : Bool) (s : State) : Host.Outcome State Fault Refusal :=
  issue (.gath g d sa vb c nf bs) g (gathBody d sa vb c nf bs) s

/-- SCAT (R243). -/
def scatBody (sa vb vc : BitVec 8) (nf : Bool) : Ctx → State → Res := fun x s =>
  match x.e.note with
  | 0xA6 :: _ => x.resumeGath nf 0 s
  | _ => withHandle sa true vc.toNat (fun h x s =>
      if x.live == 0#32 then .ok s
      else x.startGath nf false (x.gathTodo.map fun l => (l, x.scatElem h vc.toNat (s.v x.c x.p l vb.toNat).toNat l s)) s) x s

def execScat (g : Guard) (sa vb vc : BitVec 8) (nf : Bool) (s : State) : Host.Outcome State Fault Refusal :=
  issue (.scat g sa vb vc nf) g (scatBody sa vb vc nf) s

/-- GATH_SETTLED (R245): subject: core and group. Entries that wait for the elements of a gather or scatter look at them again. -/
def execGathSettled (s : State) : Host.Outcome State Fault Refusal :=
  let c := s.arg 0
  let p := s.arg 1
  let g := s.grp c p
  .next (s.setGrp c p { g with frontier := g.frontier.map fun e => if e.note.head? == some 0xA6 then { e with waited := false } else e })

/-- GCMR (R244). -/
def execGcmr (g : Guard) (sd : BitVec 8) (code : Bool) (s : State) : Host.Outcome State Fault Refusal :=
  issue (.gcmr g sd code) g
    (once fun x s => .ok (x.putS sd (if code then BitVec.ofNat 32 (x.g.gcode % 128) else x.g.gmask) s)) s

/-- GCMW (R244). -/
def execGcmw (g : Guard) (sa : BitVec 8) (s : State) : Host.Outcome State Fault Refusal :=
  issue (.gcmw g sa) g
    (once fun x s => let v := x.sreg s sa
                     let g := s.grp x.c x.p
                     .ok (s.setGrp x.c x.p { g with gmask := v })) s

end Sys2Proof.Machine
end

