-- ==== Sys2Proof/Machine/Convert.lean ====
section
/-!
DEFINITION. Class VEC, the conversions (R136 to R142) and the residue registers (R139, R140).
-/
namespace Sys2Proof.Machine

/-- Width of a format code (R136), integers included. -/
def codeWidth (c : BitVec 4) : Nat :=
  match fmtOf c.toNat with
  | some f => f.width
  | none => if c.toNat < 8 then 32 else 64

/-- The value of a source field (R117): a 64-bit pair, a word, or the 8 or 16 bits at a position. -/
def Ctx.field (x : Ctx) (s : State) (a : VS) (code : BitVec 4) (pos : BitVec 2) (l : Nat) : Nat :=
  let w := codeWidth code
  if w = 64 then (x.src64 s a l).toNat else (x.src s a l).toNat / 2 ^ (8 * pos.toNat) % 2 ^ w

/-- Replaces the field of a destination 8 or 16 bits wide; the other bits are kept (R136). -/
def insertField (old : Word) (w pos v : Nat) : Word :=
  if 32 ≤ w then BitVec.ofNat 32 v
  else
    let m : Word := BitVec.ofNat 32 ((2 ^ w - 1) * 2 ^ (8 * pos))
    (old &&& ~~~m) ||| BitVec.ofNat 32 (v % 2 ^ w * 2 ^ (8 * pos))

/-- Writes converted values into the field of the destination, with their flags. -/
def Ctx.putField (x : Ctx) (d : VS) (code : BitVec 4) (pos : BitVec 2) (f : Nat → Nat × FFlags) (s : State) : State :=
  let w := codeWidth code
  if w = 64 then x.putF64 d (fun l => let r := f l
                                      (BitVec.ofNat 64 r.1, r.2)) s
  else x.putF d (fun l => let r := f l
                          (insertField (x.src s d l) w pos.toNat r.1, r.2)) s

/-- CVF (R137) of a pattern. -/
def cvfOf (df sf : Fmt) (ftz sat : Bool) (rm x : Nat) : Nat × FFlags :=
  let v := sf.input ftz x
  let r := narrow df ftz sat rm v.1
  (r.1, r.2.or v.2)

/-- The bounds of an integer code (R138). -/
def intBounds (code : Nat) : Int × Int :=
  match code with
  | 6 => (-(2 ^ 31), 2 ^ 31 - 1)
  | 7 => (0, 2 ^ 32 - 1)
  | 8 => (-(2 ^ 63), 2 ^ 63 - 1)
  | _ => (0, 2 ^ 64 - 1)

/-- Float to integer (R138): a NaN gives 0, a value out of range the nearest bound, both with NV. -/
def toIntOf (code rm : Nat) (v : FV) : Int × FFlags :=
  let b := intBounds code
  match v with
  | .nan _ => (0, { nv := true })
  | .inf n => (if n then b.1 else b.2, { nv := true })
  | .fin n m e =>
    let r := roundShift rm n m (-e)
    let i : Int := if n then -(r.1 : Int) else r.1
    if i < b.1 then (b.1, { nv := true }) else if b.2 < i then (b.2, { nv := true }) else (i, { nx := r.2 })

/-- CVI (R138) of a pattern. DEDUCED: an integer beyond e4m3 gives the code that R137 gives for overflow (log entry 149). -/
def cviOf (df sf : BitVec 4) (ftz : Bool) (rm x : Nat) : Nat × FFlags :=
  match fmtOf df.toNat, fmtOf sf.toNat with
  | none, some f =>
    let v := f.input ftz x
    let r := toIntOf df.toNat rm v.1
    ((BitVec.ofInt 64 r.1).toNat % 2 ^ codeWidth df, r.2.or v.2)
  | some f, none =>
    let i : Int := if sf.toNat % 2 == 0 then toSigned (codeWidth sf) x else x
    f.round ftz false rm (i < 0) i.natAbs 0
  | _, _ => (0, {})

def execCvf (g : Guard) (d a : VS) (df sf : BitVec 4) (rm : BitVec 2) (sat : Bool) (sp dp : BitVec 2) (s : State) :
    Host.Outcome State Fault Refusal :=
  issue (.cvf g d a df sf rm sat sp dp) g
    (fun x s => .ok (x.putField d df dp (fun l =>
      cvfOf ((fmtOf df.toNat).getD .f32) ((fmtOf sf.toNat).getD .f32) (x.ftz s) sat rm.toNat (x.field s a sf sp l)) s)) s

def execCvi (g : Guard) (d a : VS) (df sf : BitVec 4) (rm : BitVec 2) (sp dp : BitVec 2) (s : State) :
    Host.Outcome State Fault Refusal :=
  issue (.cvi g d a df sf rm sp dp) g
    (fun x s => .ok (x.putField d df dp (fun l => cviOf df sf (x.ftz s) rm.toNat (x.field s a sf sp l)) s)) s

/-- What CVN makes of a source and a residue (R139): the narrowed value with its flags, and the new residue. -/
structure CvnOut where
  val : Nat
  flags : FFlags
  residue : Word
deriving DecidableEq, Repr

/-- CVN on one lane (R139). DEDUCED: its flags are those of the narrowing and FZ for an element or residue that FTZ reads as zero (log entry 174). -/
def cvnOf (df sf : Fmt) (ftz sat : Bool) (rm a : Nat) (q : Word) : CvnOut :=
  let u := sf.input ftz a
  let v := in32 ftz q
  let fz := u.2.or v.2
  let x := u.1
  let y := v.1
  if x.isNan || y.isNan then { val := df.qnan, flags := { fz with nv := x.isSig || y.isSig }, residue := 0#32 }
  else if x.isInf && y.isInf && x.neg != y.neg then { val := df.qnan, flags := { fz with nv := true }, residue := 0#32 }
  else if x.isInf || y.isInf then
    let r := narrow df ftz sat rm (.inf (if x.isInf then x.neg else y.neg))
    { val := r.1, flags := r.2.or fz, residue := 0#32 }
  else
    let d := x.dy.add y.dy
    let r := df.roundDy ftz sat rm (zeroSign rm [x, y]) d
    let n := df.decode r.1
    if n.isNan || n.isInf then { val := r.1, flags := r.2.or fz, residue := 0#32 }
    else
      let e := Fmt.roundDy .f32 ftz false rn false (d.add n.dy.neg)
      { val := r.1, flags := r.2.or fz, residue := BitVec.ofNat 32 e.1 }

/-- Writes a residue register in the lanes of Active. -/
def Ctx.putQ (x : Ctx) (n : Nat) (f : Nat → Word) (s : State) : State :=
  (lanesOf x.active).foldl (fun t l => t.setQ x.c x.p l n (f l)) s

/-- CVN (R139). -/
def cvnBody (d a q : BitVec 8) (df sf : BitVec 4) (rm : BitVec 2) (sat : Bool) (dp : BitVec 2) (x : Ctx) (s : State) : Res :=
  let out := fun l => cvnOf ((fmtOf df.toNat).getD .f16) ((fmtOf sf.toNat).getD .f32) (x.ftz s) sat rm.toNat
    (x.field s ⟨false, a⟩ sf 0#2 l) (s.q x.c x.p l q.toNat)
  .ok (x.putQ q.toNat (fun l => (out l).residue)
    (x.putField ⟨false, d⟩ df dp (fun l => ((out l).val, (out l).flags)) s))

def execCvn (g : Guard) (d a q : BitVec 8) (df sf : BitVec 4) (rm : BitVec 2) (sat : Bool) (dp : BitVec 2) (s : State) :
    Host.Outcome State Fault Refusal :=
  issue (.cvn g d a q df sf rm sat dp) g (cvnBody d a q df sf rm sat dp) s

/-- CVSH (R141) of a value and a scale. DESIGN CHOICE: a subnormal value or scale that flush-to-zero reads as zero raises FZ
(R119), although R141 says that a value raises no flag (log entry 130). -/
def cvshOf (ftz : Bool) (a b : Word) : Nat × FFlags :=
  let u := in32 ftz a
  let v := in32 ftz b
  let fz := u.2.or v.2
  match u.1, v.1 with
  | .nan _, _ => (0x77, { fz with nv := true })
  | _, .nan _ => (0x77, { fz with nv := true })
  | _, .inf _ => (0x77, { fz with nv := true })
  | .inf n, .fin n' m _ => if m = 0 then (0x77, { fz with nv := true }) else (if n != n' then 0x88 else 0x00, fz)
  | .fin n m e, .fin n' m' e' =>
    if m' = 0 then (0x77, { fz with nv := true })
    else (sh8Nearest (FV.dy (.fin n m e)) (FV.dy (.fin n' m' e')), fz)

def execCvsh (g : Guard) (d a b : VS) (dp : BitVec 2) (s : State) : Host.Outcome State Fault Refusal :=
  issue (.cvsh g d a b dp) g
    (fun x s => .ok (x.putF d (fun l =>
      let r := cvshOf (x.ftz s) (x.src s a l) (x.src s b l)
      (insertField (x.src s d l) 8 dp.toNat r.1, r.2)) s)) s

/-- DCSH (R142): the sum of the byte's terms times the scale, one rounding. -/
def dcshOf (ftz : Bool) (byte : Nat) (b : Word) : FW :=
  let v := in32 ftz b
  let n := sh8Value byte
  let r := fmulFV .f32 ftz rn (.fin (n < 0) n.natAbs (-6)) v.1
  (BitVec.ofNat 32 r.1, r.2.or v.2)

def execDcsh (g : Guard) (d a b : VS) (sp : BitVec 2) (s : State) : Host.Outcome State Fault Refusal :=
  issue (.dcsh g d a b sp) g
    (fun x s => .ok (x.putF d (fun l => dcshOf (x.ftz s) ((x.src s a l).toNat / 2 ^ (8 * sp.toNat) % 256) (x.src s b l)) s)) s

/-- QCLR (R140): clears the named residue registers in every lane of Active. -/
def execQclr (g : Guard) (nn : BitVec 8) (s : State) : Host.Outcome State Fault Refusal :=
  issue (.qclr g nn) g
    (fun x s => .ok (((List.range 8).filter fun k => nn.getLsbD k).foldl (fun t k => x.putQ k (fun _ => 0#32) t) s)) s

/-- QMOV (R140): from a residue register with dir, else into one. -/
def execQmov (g : Guard) (y z : BitVec 8) (dir : Bool) (s : State) : Host.Outcome State Fault Refusal :=
  issue (.qmov g y z dir) g
    (fun x s => .ok (if dir then x.put ⟨false, y⟩ (fun l => s.q x.c x.p l z.toNat) s
      else x.putQ y.toNat (fun l => s.v x.c x.p l z.toNat) s)) s

end Sys2Proof.Machine
end

