-- ==== Sys2Proof/Machine/Chain.lean ====
section
/-!
DEFINITION. The chain command (R143 to R147): VCHAIN, and the step by which a chain ends.
-/
namespace Sys2Proof.Machine

/-- A chain descriptor (R144). -/
structure ChainDesc where
  xa : DWord
  ya : DWord
  za : DWord
  n  : Nat
  xf : Nat
  yf : Nat
  zf : Nat
  k  : Nat
  zm : Nat
  ops : List (Nat × Word)
deriving DecidableEq, Repr

def chainDesc (b : List Byte) : ChainDesc :=
  { xa := leDWord (slice b 0 8), ya := leDWord (slice b 8 8), za := leDWord (slice b 16 8), n := sliceNat b 24 4,
    xf := sliceNat b 28 1, yf := sliceNat b 29 1, zf := sliceNat b 30 1, k := sliceNat b 31 1, zm := sliceNat b 32 1,
    ops := (List.range 8).map fun i => (sliceNat b (64 + 8 * i) 1, leWord (slice b (68 + 8 * i) 4)) }

/-- Bytes of an element of a format code. -/
def elemBytes (code : Nat) : Nat := ((fmtOf code).getD .f32).width / 8

/-- Codes that use the constant, and codes that use y (R145). -/
def chainUsesC (op : Nat) : Bool := op == 1 || op == 2 || op == 5 || op == 6 || op == 7

def chainUsesY (op : Nat) : Bool := op == 3 || op == 4 || op == 5

/-- What makes a descriptor CHAIN_DESC (R146). DESIGN CHOICE: a base that is not aligned makes it so whatever N is; with N = 0, where there is no
element, R146 does not say whether it does or the token is written with 0 (log entry 164). -/
def ChainDesc.bad (d : ChainDesc) (b : List Byte) : Bool :=
  let used := d.ops.take d.k
  2 ^ 24 ≤ d.n || 5 < d.xf || 5 < d.yf || 5 < d.zf || (d.ya == 0#64 && d.yf != 0) || d.k = 0 || 8 < d.k || 8 ≤ d.zm ||
  !zeros b 33 64 || !zeros b (64 + 8 * d.k) 128 ||
  ((List.range d.k).any fun i => !zeros b (65 + 8 * i) (68 + 8 * i)) ||
  (used.any fun o => o.1 = 0 || 0x10 ≤ o.1 || (!chainUsesC o.1 && o.2 != 0#32)) ||
  (d.ya == 0#64 && used.any fun o => chainUsesY o.1) ||
  d.xa.toNat % elemBytes d.xf != 0 || d.za.toNat % elemBytes d.zf != 0 ||
  (d.ya != 0#64 && d.ya.toNat % elemBytes d.yf != 0)

/-- Whether the bytes of Z overlap those of a stream other than by being the same range of equal elements (R146). -/
def ChainDesc.clash (d : ChainDesc) (a : DWord) (f : Nat) : Bool :=
  let za := d.za.toNat % 2 ^ 57
  let aa := a.toNat % 2 ^ 57
  overlaps za (d.n * elemBytes d.zf) aa (d.n * elemBytes f) && !(za == aa && elemBytes d.zf == elemBytes f)

def ChainDesc.overlap (d : ChainDesc) : Bool := d.clash d.xa d.xf || (d.ya != 0#64 && d.clash d.ya d.yf)

/-- |e| and -e of a chain (R145): exact, under R119 and R120 as every operation of the chapter. -/
def signOp (neg : Bool) (f : Fmt) : List FV → Nat × FFlags
  | [.nan s] => (f.qnan, { nv := s })
  | [v] => (f.bits (v.flip (neg || v.neg)), {})
  | _ => (f.qnan, {})

/-- One operation of a chain (R145). -/
def chainOp (ftz : Bool) (op : Nat) (e y c : Word) : FW :=
  match op with
  | 1 => add32 ftz rn e c
  | 2 => mul32 ftz rn e c
  | 3 => add32 ftz rn e y
  | 4 => mul32 ftz rn e y
  | 5 => fma32 ftz rn e c y
  | 6 => toFW (elemOp .f32 ftz (fmaxOp .f32 ftz) [(e.toNat, false), (c.toNat, false)])
  | 7 => toFW (elemOp .f32 ftz (fminOp .f32 ftz) [(e.toNat, false), (c.toNat, false)])
  | 8 => toFW (elemOp .f32 ftz (signOp false .f32) [(e.toNat, false)])
  | 9 => toFW (elemOp .f32 ftz (signOp true .f32) [(e.toNat, false)])
  | 10 => Sfu.word .rcp ftz e
  | 11 => Sfu.word .rsq ftz e
  | 12 => Sfu.word .exp2 ftz e
  | 13 => Sfu.word .log2 ftz e
  | 14 => Sfu.word .tanh ftz e
  | _ => Sfu.word .sqrt ftz e

/-- An element brought to f32 (R145): f32 passes unchanged. -/
def chainIn (ftz : Bool) (f x : Nat) : FW :=
  if f = 1 then (BitVec.ofNat 32 x, {}) else toFW (cvfOf .f32 ((fmtOf f).getD .f32) ftz false rn x)

def chainOut (ftz : Bool) (f zm : Nat) (e : Word) : Nat × FFlags :=
  if f = 1 then (e.toNat, {}) else cvfOf ((fmtOf f).getD .f32) .f32 ftz (zm / 4 % 2 == 1) (zm % 4) e.toNat

/-- The result of one element from the patterns of X and Y. -/
def ChainDesc.element (d : ChainDesc) (ftz : Bool) (x y : Nat) : Nat × FFlags :=
  let e := chainIn ftz d.xf x
  let y := if d.ya == 0#64 then ((0#32, {}) : FW) else chainIn ftz d.yf y
  let r := (d.ops.take d.k).foldl (fun (a : FW) o =>
    let n := chainOp ftz o.1 a.1 y.1 o.2
    (n.1, a.2.or n.2)) (e.1, e.2.or y.2)
  let z := chainOut ftz d.zf d.zm r.1
  (z.1, r.2.or z.2)

/-- The byte ranges of a chain. -/
def ChainDesc.foot (d : ChainDesc) : List (Bool × Bool × Nat × Nat) :=
  [(false, false, d.xa.toNat % 2 ^ 57, d.n * elemBytes d.xf), (true, false, d.za.toNat % 2 ^ 57, d.n * elemBytes d.zf)] ++
  if d.ya == 0#64 then [] else [(false, false, d.ya.toNat % 2 ^ 57, d.n * elemBytes d.yf)]

/-- The ranges that a chain reads, with the element at which each begins and the bytes of an element. -/
def ChainDesc.reads (d : ChainDesc) : List (Nat × Nat × Nat × Nat) :=
  (d.xa.toNat % 2 ^ 57, d.n * elemBytes d.xf, 0, elemBytes d.xf) ::
  if d.ya == 0#64 then [] else [(d.ya.toNat % 2 ^ 57, d.n * elemBytes d.yf, 0, elemBytes d.yf)]

/-- Where a chain's run stands: the state, its flags, its latest completion time, and the fault that has stopped it. -/
structure ChainRun where
  s     : State
  flags : FFlags := {}
  t     : Nat := 0
  done  : Nat := 0
  out   : List (List Byte) := []
  stop  : Option EngStop := none

/-- One element of a chain: its reads, and then its store (R147). While a store to a peer may still be lost no later element is stored. -/
def chainStep (h : Chain) (x : Context) (ftz : Bool) (r : ChainRun) (j : Nat) : ChainRun :=
  if r.stop.isSome || r.s.awaitsPeer h.id then r
  else if (r.s.lostAt h.id).any (· ≤ j) then { r with stop := some (.fault Code.FABRIC_LOST 0#64) }
  else
    let d := chainDesc h.desc
    let at_ := fun (a : DWord) (f : Nat) => a + BitVec.ofNat 64 (j * elemBytes f)
    match r.s.engRead h.core x h.handler (at_ d.xa d.xf) (elemBytes d.xf) with
    | .error e => { r with stop := some e }
    | .ok xs =>
      match (if d.ya == 0#64 then .ok [] else r.s.engRead h.core x h.handler (at_ d.ya d.yf) (elemBytes d.yf)) with
      | .error e => { r with stop := some e }
      | .ok ys =>
        let z := d.element ftz (leNat xs) (leNat ys)
        let s := r.s.engFresh h.core x h.handler (at_ d.xa d.xf) (elemBytes d.xf)
        let s := if d.ya == 0#64 then s else s.engFresh h.core x h.handler (at_ d.ya d.yf) (elemBytes d.yf)
        match s.engWrite h.core h.id j x h.handler (at_ d.za d.zf) (leBytes (elemBytes d.zf) z.1) with
        | .error e => { r with stop := some e }
        | .ok (s, t) => { r with s := s, flags := r.flags.or z.2, t := max r.t t, done := j + 1, out := r.out ++ [leBytes (elemBytes d.zf) z.1] }

/-- The run of a chain from the element that it has come to, as far as it goes. -/
def Chain.run (h : Chain) (ftz : Bool) (s : State) : ChainRun :=
  (List.range ((chainDesc h.desc).n - h.next)).foldl (fun r k => chainStep h h.toEng.ctx ftz r (h.next + k)) { s := s, done := h.next }

/-- Ends a chain: its token is written (R147), and with it its flags reach sr.fflags (R122). -/
def State.endChain (s : State) (h : Chain) (v : Word) : State :=
  let v := s.lostToken h.id v
  let s := if (s.grp h.core h.grp).uid == h.uid then s.orEngineFlags h.core h.grp h.flags else s
  let s : State := { s with chains := s.chains.filter (fun k => k.id != h.id), engLost := s.engLost.filter (·.1 != h.id) }
  s.writeToken h.toEng h.token v

/-- CHAIN_COMPLETION (R147): subject: core and partition. The chain's elements are computed in ascending order, those after a store to a peer once it
is answered; every element below a fault is stored, and none at or above it. A violation freezes the engine, and the token is never written. -/
def State.chainCompletion (s : State) (c part : Nat) : State :=
  match s.chains.find? fun h => h.core == c && h.part == part with
  | none => s
  | some h =>
    if s.engineFrozen c 1 then s
    else match h.outcome, s.engineWaits h.toEng .chainCompletion [c, part] with
      | some v, _ => if s.awaitsPeer h.id then s else s.endChain h v
      | none, some t => t
      | none, none => match s.askPeers h.toEng 0 (chainDesc h.desc).reads with
      | some t => t
      | none =>
        if s.awaitsPeer h.id then s
        else
          let l := s.launch h.node
          let d := chainDesc h.desc
          let r := h.run l.ftz s
          let s := r.s.foldWct c h.grp h.uid h.id r.t
          let at_ := d.za + BitVec.ofNat 64 (h.next * elemBytes d.zf)
          let s := if l.det then s.digestAsync h.toEng (bytesAt at_ (r.out.flatMap fun b => b)) else s
          let h := { h with next := r.done, flags := h.flags ||| r.flags.bits }
          let waits := fun (v : Option Word) => { s with chains := s.chains.map fun k => if k.id == h.id then { h with outcome := v } else k }
          match r.stop with
          | some (.violate a) => (waits none).freezeEngine c 1 a
          | some (.fault code _) =>
            let v := tokenOf code r.done
            if s.awaitsPeer h.id then waits (some v) else s.endChain h v
          | none =>
            if !s.awaitsPeer h.id then s.endChain h (tokenOf 0 d.n)
            else waits (if r.done < d.n then none else some (tokenOf 0 d.n))

def execChainCompletion (s : State) : Host.Outcome State Fault Refusal := .next (s.chainCompletion (s.arg 0) (s.arg 1))

/-- VCHAIN (R143, R146): once, if Active holds a live lane; it stalls while the partition's chain runs, or 16 tokens of the group are pending
(R228). -/
def vchainBody (sd sa : BitVec 8) : Ctx → State → Res := once fun x s =>
  if s.engineFrozen x.c 1 || 16 ≤ x.g.tokens.length || s.chains.any fun h => h.core == x.c && h.part == partOf x.p then .wait s
  else
    let addr := x.sreg64 s sa
    if addr.toNat % 128 != 0 then .fault Code.CHAIN_DESC 0#64 s
    else x.withDesc addr 128 (fun b x s =>
      let d := chainDesc b
      if d.bad b then .fault Code.CHAIN_DESC 0#64 s
      else if d.n = 0 then .ok (x.putS sd 0#32 s)
      else if d.overlap then .fault Code.CHAIN_OVERLAP 0#64 s
      else
        let h : Chain := { toEng := x.engine d.foot s, part := partOf x.p, token := sd.toNat, desc := b }
        .ok ((x.countAsync (x.openToken sd { s with nextId := s.nextId + 1, chains := s.chains ++ [h] })).post .chainCompletion
          [x.c, partOf x.p])) s

def execVchain (g : Guard) (sd sa : BitVec 8) (s : State) : Host.Outcome State Fault Refusal :=
  issue (.vchain g sd sa) g (vchainBody sd sa) s

end Sys2Proof.Machine
end

