-- ==== Sys2Proof/Machine/Matrix.lean ====
section
/-!
DEFINITION. Class MTX (R248 to R273): accumulators and K-steps, register steps, loops from memory, drains, twins, status, save and restore.
MSKETCH stands with the rank tiles and MDRAINC with the collectives.
-/
namespace Sys2Proof.Machine

/-! ### Element types (R249, R255) -/

/-- The format of a type code: none for SH8 and .bx. -/
def mtxFmt (t : Nat) : Fmt :=
  match t with
  | 0 => .bf16
  | 1 => .f16
  | 2 => .e4m3
  | 3 => .e5m2
  | _ => .f64

/-- Bytes of an element of a type code. -/
def mtxBytes (t : Nat) : Nat :=
  match t with
  | 0 => 2
  | 1 => 2
  | 4 => 8
  | _ => 1

/-- The depth K of a step (R249). -/
def stepDepth (ta : Nat) : Nat := if ta = 4 then 16 else if ta = 2 || ta = 3 then 64 else 32

/-- Columns of an accumulator (R248). -/
def accCols (f64 : Bool) : Nat := if f64 then 128 else 256

/-- The legal pairs of types (R255). -/
def legalTypes (ta tb : Nat) : Bool :=
  (ta = 0 && (tb = 0 || tb = 5 || tb = 7)) || (ta = 1 && tb = 1) || ((ta = 2 || ta = 3) && (tb = 2 || tb = 3 || tb = 7)) || (ta = 4 && tb = 4)

/-- An element of a matrix as the unit reads it (R252): flush-to-zero applies to bf16, f16 and f64. -/
def mtxElem (ftz : Bool) (t x : Nat) : FV × FFlags :=
  if t = 5 then (let n := sh8Value x
                 (.fin (n < 0) n.natAbs (-6), {}))
  else (mtxFmt t).input (ftz && t != 2 && t != 3) x

/-- The exact product of an element and its window scale (R251): the scale is never flushed. -/
def scaled (v : FV) (scale : Word) : FV :=
  let s := Fmt.decode .f32 scale.toNat
  if v.isNan || s.isNan then .nan (v.isSig || s.isSig)
  else match v.mul s with
    | some r => r
    | none => .nan true

/-- One chunk (R251, R252): the exact sum of its products is added to the accumulator element with one rounding. DEDUCED: 0 times infinity, and products
that are infinities of opposite sign, raise NV also beside a NaN (log entry 53). -/
def chunkStep (f : Fmt) (ftz : Bool) (ps : List (FV × FV)) (acc : Nat) : Nat × FFlags :=
  if ps.isEmpty then (acc, {})
  else
    let products := (ps.filter fun q => !q.1.isNan && !q.2.isNan).map fun q => q.1.mul q.2
    let infs := (products.filterMap id).filter FV.isInf
    if products.any Option.isNone || (infs.any FV.neg && infs.any fun t => !t.neg) then (f.qnan, { nv := true })
    else fused f ftz rn ps [f.decode acc]

/-- The row of an accumulator element after a step: chunks of four in ascending order, masked rows of B left out. -/
def elemStep (f : Fmt) (ftz : Bool) (a b : List FV) (on : List Bool) (acc : Nat) : Nat × FFlags :=
  let terms := (a.zip b).zip on
  (chunksOf 4 terms.length terms).foldl (fun (r : Nat × FFlags) c =>
    let q := chunkStep f ftz ((c.filter (·.2)).map (·.1)) r.1
    (q.1, r.2.or q.2)) (acc, {})

/-- The columns of a matrix that is given by its rows. -/
def columns (n : Nat) (rows : List (List FV)) : List (List FV) := (List.range n).map fun c => rows.map fun r => r.getD c (.fin false 0 0)

/-- One K-step (R251): A by rows, B by rows, and which rows of B count. -/
def kStepOf (f64 ftz : Bool) (a b : List (List FV)) (on : List Bool) (acc : AMap DWord) : AMap DWord × FFlags :=
  let f : Fmt := if f64 then .f64 else .f32
  let n := accCols f64
  let bc := columns n b
  (a.zipIdx).foldl (fun (r : AMap DWord × FFlags) row =>
    (bc.zipIdx).foldl (fun (r : AMap DWord × FFlags) col =>
      let key := row.2 * n + col.2
      let q := elemStep f ftz row.1 col.1 on (aget 0#64 acc key).toNat
      (aset 0#64 r.1 key (BitVec.ofNat 64 q.1), r.2.or q.2)) r) (acc, {})

/-! ### Accumulators (R248) -/

def State.acc (s : State) (c p m : Nat) : Acc := aget {} (s.grp c p).accs m

def State.setAcc (s : State) (c p m : Nat) (a : Acc) : State :=
  let g := s.grp c p
  s.setGrp c p { g with accs := aset {} g.accs m a }

/-- Banks of a core's matrix unit that are free (R248). -/
def State.freeBanks (s : State) (c : Nat) : Nat :=
  16 - ((s.residents c).map fun p => ((s.grp c p).accs.filter (·.2.bound)).length).sum

/-- Binds an accumulator that is unbound: none when no bank is free. Its fault record stays (R260). DESIGN CHOICE: every element of a bank so bound is
+0; R248 does not say what a bank bound by an MMA or MLOOP, with no MZERO, holds (log entry 168). -/
def State.bindAcc (s : State) (c p m : Nat) (f64 : Bool) : Option State :=
  if (s.acc c p m).bound then some s
  else if s.freeBanks c = 0 then none
  else some (s.setAcc c p m { bound := true, f64 := f64, flt := (s.acc c p m).flt })

/-- MLOOP_FAULT (R260): the recorded address goes to sr.faddr. -/
def Ctx.loopFault (x : Ctx) (a : Acc) (s : State) : Res :=
  .fault Code.MLOOP_FAULT 0#64 (s.faultAt x.c x.p (BitVec.ofNat 64 (a.flt.addr.toNat % 2 ^ 57)))

/-- Whether an MGUIDE of the group or of its twin still has to read an accumulator (R268). -/
def State.guideWaits (s : State) (c p m : Nat) : Bool :=
  let waits := fun (q : Nat) => (s.grp c q).frontier.any fun e => match e.note with
    | 0xB6 :: k :: _ => k == m
    | _ => false
  waits p || ((s.grp c p).twin.map waits).getD false

/-- Whether an MGUIDE of the partner that issued before a number still has to read an accumulator (R268). -/
def State.guideBefore (s : State) (c q m seq : Nat) : Bool :=
  (s.grp c q).frontier.any fun e => match e.note with
    | 0xB6 :: k :: n :: _ => k == m && n < seq
    | _ => false

/-- Whether the group's role is twinned (R31). -/
def State.twinned (s : State) (c p : Nat) : Bool := (((s.launchOf c p).roles[(s.grp c p).role]?).map (·.2.2.2)).getD false

/-- The partner of a twin, while it lives. -/
def State.partner (s : State) (c p : Nat) : Option Nat := (s.grp c p).twin.filter fun q => (s.grp c q).live

/-- Unbinds a pair (R266): loops held for either twin start alone. -/
def State.unbindPair (s : State) (c p : Nat) : State :=
  let both := p :: (s.partner c p).toList
  let uids := both.map fun q => (s.grp c q).uid
  let s := both.foldl (fun s q => let g := s.grp c q
                                  s.setGrp c q { g with bound := false }) s
  let freed := s.mjobs.filter fun j => uids.contains j.uid && j.held
  let s : State := { s with mjobs := s.mjobs.map fun j => if uids.contains j.uid then { j with held := false } else j }
  freed.foldl (fun s j => s.post .kStep [c, j.id]) s

/-! ### Register steps: MZERO, MBQ and MMA -/

/-- MZERO (R256). -/
def mzeroBody (m : BitVec 8) (f64 : Bool) : Ctx → State → Res := once fun x s =>
  if s.guideWaits x.c x.p m.toNat then .wait s 6
  else match s.bindAcc x.c x.p m.toNat f64 with
    | none => .fault Code.ACC_FULL 0#64 s
    | some s => .ok (s.setAcc x.c x.p m.toNat { bound := true, f64 := f64 })

def execMzero (g : Guard) (m : BitVec 8) (f64 : Bool) (s : State) : Host.Outcome State Fault Refusal :=
  issue (.mzero g m f64) g (mzeroBody m f64) s

/-- MBQ (R257). -/
def mbqBody (vq sa : BitVec 8) : Ctx → State → Res := once fun x s =>
  let mask := x.sreg s sa
  if !mmaSet mask x.g.bgrp then .fault Code.MMA_MISMATCH 0#64 s
  else
    let g := s.grp x.c x.p
    .ok (s.setGrp x.c x.p { g with mbq := some (vq.toNat, mask), mmaCount := 0 })

def execMbq (g : Guard) (vq sa : BitVec 8) (s : State) : Host.Outcome State Fault Refusal := issue (.mbq g vq sa) g (mbqBody vq sa) s

/-- What an entry that waits in MMA remembers: its count, accumulator, A register and types. -/
structure MmaReq where
  n  : Nat
  m  : Nat
  va : Nat
  ta : Nat
  tb : Nat
deriving DecidableEq, Repr

def MmaReq.note (r : MmaReq) : List Nat := [0xB2, r.n, r.m, r.va, r.ta, r.tb]

def mmaReq : List Nat → Option MmaReq
  | [0xB2, n, m, va, ta, tb] => some { n := n, m := m, va := va, ta := ta, tb := tb }
  | _ => none

/-- The waiting MMA of a group: its entry and its request. -/
def State.mmaOf (s : State) (c p : Nat) : Option (Nat × MmaReq) :=
  ((List.range (s.grp c p).frontier.length).filterMap fun k =>
    (mmaReq ((s.grp c p).frontier.getD k {}).note).map fun r => (k, r)).head?

/-- The registers of a lane, by consecutive index. -/
def State.laneRegs (s : State) (c p l first n : Nat) : List Word := (List.range n).map fun k => s.v c p l (first + k)

/-- The B registers of a set: by quarter and lane. -/
def State.setQuarters (s : State) (c : Nat) (ps : List Nat) : List (List Word) :=
  let per := 4 / ps.length
  (List.range 4).flatMap fun q =>
    let p := ps.getD (q / per) 0
    let base := (((s.grp c p).mbq.map (·.1)).getD 0) + 32 * (q % per)
    (List.range 32).map fun l => s.laneRegs c p l base 32

/-- Whether an accumulator is bound with the other type. -/
def Acc.otherType (a : Acc) (f64 : Bool) : Bool := a.bound && a.f64 != f64

/-- A fault in every listed participant that waits in MMA. -/
def State.failMma (s : State) (c code : Nat) (ps : List Nat) : State :=
  ps.foldl (fun s p => match s.mmaOf c p with
    | some (k, _) => s.raise { core := c, grp := p, ent := k, count := 0 } code 0#64
    | none => s) s

/-- MLOOP_FAULT in every listed participant that waits in MMA (R260): a fault recorded in its accumulator while it waited. -/
def State.failLoops (s : State) (c : Nat) (qs : List (Nat × Acc)) : State :=
  qs.foldl (fun s q => match s.mmaOf c q.1 with
    | some (k, _) => (s.faultAt c q.1 (BitVec.ofNat 64 (q.2.flt.addr.toNat % 2 ^ 57))).raise { core := c, grp := q.1, ent := k, count := 0 }
        Code.MLOOP_FAULT 0#64
    | none => s) s

/-- Whether the scoreboard stalls the MMA that a participant waits in (R60). -/
def State.mmaStalled (s : State) (c p : Nat) : Bool :=
  match s.mmaOf c p with
  | some (k, _) => !s.unstalled c p ((s.grp c p).frontier.getD k {})
  | none => false

/-- Puts the steps of a whole set in the sequencer, and counts its MMAs. -/
def State.issueMma (s : State) (c : Nat) (ps : List Nat) : State :=
  let b := s.setQuarters c ps
  ps.foldl (fun s p => match s.mmaOf c p with
    | none => s
    | some (_, r) =>
      let g := s.grp c p
      let f64 := r.ta == 4
      let s := (s.bindAcc c p r.m f64).getD s
      let j : MJob := { id := s.nextId, core := c, grp := p, uid := g.uid, node := g.node, slot := g.slot, handler := g.handler, m := r.m,
                        ta := r.ta, tb := r.tb, left := 1, bRegs := b,
                        aRegs := (List.range 32).map fun l => s.laneRegs c p l r.va (if f64 then 32 else 16) }
      let g := s.grp c p
      let s := s.setGrp c p { g with mmaCount := g.mmaCount + 1 }
      ({ s with nextId := s.nextId + 1, mjobs := s.mjobs ++ [j] }).post .kStep [c, j.id]) s

/-- An MMA that has remembered its request waits for its set, and then the whole set issues or faults (R258). DEDUCED: the accumulator
types that may differ are those of bound accumulators (log entry 131). DESIGN CHOICE: the one MTX port that a set or pair takes (R253) is held by the
entry that arrives last; its partners take theirs at their next word (log entry 169). -/
def Ctx.joinMma (x : Ctx) (r : MmaReq) (mask : Word) (s : State) : Res :=
  let slots := (lanesOf mask).map fun b => s.groupAt x.c x.g.slot b
  if slots.any Option.isNone then .fault Code.MMA_LOST 0#64 s
  else
    let ps := slots.filterMap id
    let reqs := ps.map fun p => s.mmaOf x.c p
    if !(reqs.all fun q => (q.map (·.2.n)) == some r.n) then .wait s 6
    else
      let rs := reqs.filterMap id
      let f64 := r.ta == 4
      let accs := (ps.zip rs).map fun q => s.acc x.c q.1 q.2.2.m
      let stopped := (ps.zip accs).filter fun q => q.2.flt.f
      if !stopped.isEmpty then .done (s.failLoops x.c stopped)
      else if (ps.any fun p => ((s.grp x.c p).mbq.map (·.2)) != some mask) || (rs.any fun q => q.2.ta != r.ta || q.2.tb != r.tb) ||
          ((accs.any fun a => a.otherType true) && accs.any fun a => a.otherType false) then
        .done (s.failMma x.c Code.MMA_MISMATCH ps)
      else
        let wrong := ((ps.zip accs).filter fun q => q.2.otherType f64).map (·.1)
        if !wrong.isEmpty then .done (s.failMma x.c Code.ACC_TYPE wrong)
        else if ((ps.zip rs).any fun q => s.guideWaits x.c q.1 q.2.2.m) || ps.any (s.mmaStalled x.c) then .wait s 6
        else if s.freeBanks x.c < (accs.filter fun a => !a.bound).length then .done (s.failMma x.c Code.ACC_FULL ps)
        else
          let t := s.issueMma x.c ps
          .ok ((ps.zip rs).foldl (fun t q => if q.1 = x.p then t else t.advanceEntry x.c q.1 q.2.1) t)

/-- The issuing entry waits for partners: it frees its port (R253). -/
def Ctx.waitForPartners (x : Ctx) (note : List Nat) (s : State) : State :=
  let s := x.remember note s
  let g := s.grp x.c x.p
  match g.frontier[x.n.ent]? with
  | none => s
  | some e => s.setGrp x.c x.p { g with frontier := g.frontier.set x.n.ent { e with holding := false } }

/-- MMA (R258). -/
def mmaBody (m va : BitVec 8) (ta tb : BitVec 3) : Ctx → State → Res := once fun x s =>
  match x.g.mbq with
  | none => .fault Code.MMA_MISMATCH 0#64 s
  | some (_, mask) =>
    let a := s.acc x.c x.p m.toNat
    if a.flt.f then x.loopFault a s
    else match mmaReq x.e.note with
    | some r => match x.joinMma r mask s with
      | .wait s _ => .wait (x.waitForPartners r.note s) 6
      | o => o
    | none =>
      if s.engineFrozen x.c 4 || s.guideWaits x.c x.p m.toNat || (s.mmaOf x.c x.p).isSome then .wait s 6
      else
        let r : MmaReq := { n := x.g.mmaCount + 1, m := m.toNat, va := va.toNat, ta := ta.toNat, tb := tb.toNat }
        match x.joinMma r mask (x.remember r.note s) with
        | .wait s _ => .wait (x.waitForPartners r.note s) 6
        | o => o

def execMma (g : Guard) (m va : BitVec 8) (ta tb : BitVec 3) (s : State) : Host.Outcome State Fault Refusal :=
  issue (.mma g m va ta tb) g (mmaBody m va ta tb) s

/-! ### Loops from memory (R259 to R263) -/

/-- Bit g of a mask of bytes. -/
def maskBit (bs : List Byte) (g : Nat) : Bool := (bs.getD (g / 8) 0#8).getLsbD (g % 8)

/-- The rows of B that the next step of a job counts. -/
def MJob.rows (j : MJob) : List Bool :=
  let k := stepDepth j.ta
  (List.range k).map fun r => !j.masked || maskBit j.mask (j.done * k + r)

/-- The least range that holds every byte of rows read at strides over all steps of a loop. -/
def loopRange (addr : DWord) (rows : Nat) (stride : Int) (steps : Nat) (inc : Int) (width : Nat) : Nat × Nat :=
  let a : Int := (addr.toNat % 2 ^ 57 : Nat)
  let r := (rows - 1 : Nat) * stride
  let t := (steps - 1 : Nat) * inc
  let lo := a + min 0 r + min 0 t
  let hi := a + max 0 r + max 0 t + width
  (lo.toNat, (hi - max lo 0).toNat)

/-- The footprint of a loop into an accumulator of a type: the elements of a window have at most two bytes. -/
def MJob.footOf (j : MJob) (f64 : Bool) : List (Bool × Bool × Nat × Nat) :=
  let k := stepDepth j.ta
  let a := loopRange j.aAddr 32 j.aRow j.left j.aInc (k * mtxBytes j.ta)
  let b := loopRange j.bAddr k j.bRow j.left j.bInc (accCols f64 * (if j.tb = 7 then 2 else mtxBytes j.tb))
  [(false, false, a.1, a.2), (false, false, b.1, b.2)]

/-- The loop of a twin that a new loop of its partner matches: the same place in the order since the pair was bound (R266). -/
def State.matching (s : State) (c p ord : Nat) : Option MJob :=
  (s.partner c p).bind fun q => s.mjobs.find? fun j => j.uid == (s.grp c q).uid && j.held && j.ord == ord

/-- Whether two loops run as one shared loop (R266). -/
def MJob.sharesWith (a b : MJob) : Bool :=
  a.pc == b.pc && a.bAddr == b.bAddr && a.bRow == b.bRow && a.bInc == b.bInc && a.left == b.left && a.tb == b.tb &&
  a.masked == b.masked && a.mask == b.mask

/-- Puts a loop in the sequencer: held for the partner's while the pair is bound. -/
def State.startLoop (s : State) (j : MJob) : State :=
  let c := j.core
  let p := j.grp
  let g := s.grp c p
  let ord := g.loops + 1
  let add := fun (s : State) (j : MJob) => ({ s with nextId := s.nextId + 1, mjobs := s.mjobs ++ [j] } : State)
  if !g.bound || (s.partner c p).isNone then (add s j).post .kStep [c, j.id]
  else
    let s := s.setGrp c p { g with loops := ord }
    match s.matching c p ord with
    | none => add s { j with ord := ord, held := true }
    | some k =>
      if j.sharesWith k then
        let s := add s { j with ord := ord, shared := true }
        let s : State := { s with mjobs := s.mjobs.map fun i => if i.id == k.id then { i with held := false, shared := true } else i }
        s.post .kStep [c, j.id]
      else (add s { j with ord := ord, held := true }).unbindPair c p

/-- MLOOP (R259). -/
def mloopBody (m sa sb sc : BitVec 8) (ta tb : BitVec 3) (msk : Bool) : Ctx → State → Res := once fun x s =>
  let r := fun (k : Nat) => s.sr x.c x.p (sc.toNat + k)
  let n := (r 0).toNat
  let a := s.acc x.c x.p m.toNat
  let f64 := ta == 4#3
  if n = 0 || 65535 < n || (msk && x.g.mbits < n * stepDepth ta.toNat) then .fault Code.MLOOP_ARGS 0#64 s
  else if a.flt.f then x.loopFault a s
  else if a.otherType f64 then .fault Code.ACC_TYPE 0#64 s
  else if s.engineFrozen x.c 4 || s.guideWaits x.c x.p m.toNat then .wait s 6
  else match s.bindAcc x.c x.p m.toNat f64 with
    | none => .fault Code.ACC_FULL 0#64 s
    | some s =>
      let a := s.acc x.c x.p m.toNat
      let s := s.setAcc x.c x.p m.toNat { a with flt := {} }
      let j : MJob := { toEng := x.engine [] s, m := m.toNat, loop := true, ta := ta.toNat, tb := tb.toNat, masked := msk,
                        mask := if msk then x.g.mmask else [], mbits := if msk then x.g.mbits else 0, aAddr := x.sreg64 s sa, bAddr := x.sreg64 s sb, aRow := (r 1).toInt,
                        aInc := (r 2).toInt, bRow := (r 3).toInt, bInc := (r 4).toInt, left := n, pc := x.pc }
      .ok (s.startLoop { j with foot := j.footOf f64 })

def execMloop (g : Guard) (m sa sb sc : BitVec 8) (ta tb : BitVec 3) (msk : Bool) (s : State) : Host.Outcome State Fault Refusal :=
  issue (.mloop g m sa sb sc ta tb msk) g (mloopBody m sa sb sc ta tb msk) s

/-- MMASK (R263). -/
def mmaskBody (sa sb : BitVec 8) : Ctx → State → Res := once fun x s =>
  let ofs := (x.sreg s sa).toNat
  let n := (x.sreg s sb).toNat
  let (base, size) := s.scrSlice x.c x.g.slot
  if n < 32 || 4096 < n || n % 32 != 0 then .fault Code.MLOOP_ARGS 0#64 s
  else match scrFault size ofs (n / 8) 4 with
    | some code => x.scrRaise code ofs s
    | none =>
      if !s.loadsFree x.c x.p x.e.mask then .wait s 4
      else if s.engineHold x.g.uid s.nextId true false (base + ofs) (n / 8) then .wait s
      else
        let g := s.grp x.c x.p
        .ok (s.setGrp x.c x.p { g with mmask := s.poolBytes x.c (base + ofs) (n / 8), mbits := n })

def execMmask (g : Guard) (sa sb : BitVec 8) (s : State) : Host.Outcome State Fault Refusal := issue (.mmask g sa sb) g (mmaskBody sa sb) s

/-! ### K_STEP -/

/-- What the reading of a row gives: its elements with their flags, or why the step cannot be made. -/
abbrev RowRead := Except EngStop (List (FV × FFlags))

/-- Elements of a row that a type code gives. -/
def State.readRow (s : State) (j : MJob) (ftz : Bool) (t : Nat) (addr : DWord) (n : Nat) : RowRead :=
  let w := mtxBytes t
  if addr.toNat % w != 0 then .error (.fault Code.MISALIGN addr)
  else match s.engRead j.core j.toEng.ctx j.handler addr (n * w) with
    | .error e => .error e
    | .ok bs =>
      .ok ((List.range n).map fun k => mtxElem ftz t (sliceNat bs (k * w) w))

/-- The type code of a format window (R183). -/
def windowType (fmt : Nat) : Nat :=
  match fmt with
  | 0 => 0
  | 1 => 2
  | 2 => 3
  | _ => 5

/-- Whether a window may give B for a type of A (R259). -/
def windowFits (ta fmt : Nat) : Bool := if fmt = 0 || fmt = 3 then ta = 0 else ta = 2 || ta = 3

/-- An element of a row that its format window decodes. DEDUCED: a row goes on in a window of the element size that its first element has given, and
one of another size is none for it (log entry 161). -/
def State.windowElem (s : State) (ta : Nat) (ftz : Bool) (size pa : Nat) (addr : DWord) : Except EngStop (FV × FFlags) :=
  match s.windowAt pa with
  | none => .error (.fault Code.WINDOW_NONE addr)
  | some k =>
    if !windowFits ta k.fmt || k.size != size then .error (.fault Code.WINDOW_NONE addr)
    else
      let e := mtxElem ftz (windowType k.fmt) (leNat (s.bytes pa size))
      let v := if k.scl then scaled e.1 (leWord (s.bytes (k.scale + 4 * ((pa - k.lo) / size / 128)) 4)) else e.1
      .ok (v, e.2)

/-- A row of B under .bx: the window of its first element gives the element size. DEDUCED: of several elements that fault the first is recorded (log
entry 48). -/
def State.readWindowRow (s : State) (j : MJob) (ftz : Bool) (addr : DWord) (n : Nat) : RowRead :=
  match s.engPieces j.core j.toEng.ctx false j.handler addr 1 with
  | .error e => .error (windowStop addr e)
  | .ok ps =>
    match s.windowAt ((ps.headD (0, 0)).1) with
    | none => .error (.fault Code.WINDOW_NONE addr)
    | some k =>
      let w := k.size
      if addr.toNat % w != 0 then .error (.fault Code.MISALIGN addr)
      else match s.engPieces j.core j.toEng.ctx false j.handler addr (n * w) with
        | .error e => .error (windowStop addr e)
        | .ok ps =>
          let at_ := ps.flatMap fun q => (List.range (q.2 / w)).map fun i => q.1 + i * w
          (at_.zipIdx).foldr (fun q (r : RowRead) =>
            match s.windowElem j.ta ftz w q.1 (addr + BitVec.ofNat 64 (q.2 * w)) with
            | .error e => .error e
            | .ok v => r.map (v :: ·)) (.ok [])

/-- The rows of a matrix, read in order up to the first that cannot be; a row that does not count is not fetched. -/
def readRows (read : Nat → RowRead) : List (Nat × Bool) → Except EngStop (List (List (FV × FFlags)))
  | [] => .ok []
  | (r, on) :: rest =>
    match (if on then read r else .ok []) with
    | .error e => .error e
    | .ok vs => (readRows read rest).map (vs :: ·)

/-- The flags of the elements that some chunk reads (R252): those of A that face a row of B that counts. -/
def rowFlags (rows : List (List (FV × FFlags))) (on : List Bool) : FFlags :=
  rows.foldl (fun f r => (r.zip on).foldl (fun f e => if e.2 then f.or e.1.2 else f) f) {}

/-- The address of a row. -/
def rowAddr (a : DWord) (stride : Int) (r : Nat) : DWord := a + BitVec.ofInt 64 (r * stride)

/-- A step's B, from memory or registers. -/
def State.stepB (s : State) (j : MJob) (ftz : Bool) : Except EngStop (List (List (FV × FFlags))) :=
  let k := stepDepth j.ta
  let n := accCols (s.acc j.core j.grp j.m).f64
  if j.loop then
    readRows (fun r =>
      if j.tb = 7 then s.readWindowRow j ftz (rowAddr j.bAddr j.bRow r) n
      else s.readRow j ftz j.tb (rowAddr j.bAddr j.bRow r) n) ((List.range k).zip j.rows)
  else
    let quarter := fun (q l : Nat) => j.bRegs.getD (32 * q + l) []
    let bits := fun (r c : Nat) =>
      if j.ta = 4 then
        let lane := quarter (c / 32) (r + 16 * (c % 32 / 16))
        (lane.getD (2 * (c % 16)) 0#32).toNat + (lane.getD (2 * (c % 16) + 1) 0#32).toNat * 2 ^ 32
      else if j.ta = 2 || j.ta = 3 then
        field ((quarter (c / 64) (r % 32)).getD (r / 32 * 16 + c % 64 / 4) 0#32).toNat (8 * (c % 4)) 8
      else field ((quarter (c / 64) r).getD (c % 64 / 2) 0#32).toNat (16 * (c % 2)) 16
    .ok ((List.range k).map fun r => (List.range n).map fun c => mtxElem ftz j.tb (bits r c))

/-- A step's A, from memory or registers. -/
def State.stepA (s : State) (j : MJob) (ftz : Bool) : Except EngStop (List (List (FV × FFlags))) :=
  let k := stepDepth j.ta
  if j.loop then readRows (fun r => s.readRow j ftz j.ta (rowAddr j.aAddr j.aRow r) k) ((List.range 32).map fun r => (r, true))
  else
    let bits := fun (i e : Nat) =>
      let lane := j.aRegs.getD i []
      if j.ta = 4 then (lane.getD (2 * e) 0#32).toNat + (lane.getD (2 * e + 1) 0#32).toNat * 2 ^ 32
      else if j.ta = 2 || j.ta = 3 then field (lane.getD (e / 4) 0#32).toNat (8 * (e % 4)) 8
      else field (lane.getD (e / 2) 0#32).toNat (16 * (e % 2)) 16
    .ok ((List.range 32).map fun i => (List.range k).map fun e => mtxElem ftz j.ta (bits i e))

def State.dropJob (s : State) (id : Nat) : State := { s with mjobs := s.mjobs.filter (·.id != id) }

def State.setJob (s : State) (j : MJob) : State := { s with mjobs := s.mjobs.map fun k => if k.id == j.id then j else k }

/-- The other loop of a shared pair. -/
def State.sharer (s : State) (j : MJob) : Option MJob :=
  if !j.shared then none
  else s.mjobs.find? fun k => k.id != j.id && k.shared && k.core == j.core && k.ord == j.ord && k.pc == j.pc &&
    ((s.grp j.core j.grp).twin == some k.grp)

/-- A loop stops before a step (R260): the accumulator's record keeps the code, the steps and the address; a shared loop's other half runs
on alone. -/
def State.stopLoop (s : State) (j : MJob) (code : Nat) (addr : DWord) : State :=
  let a := s.acc j.core j.grp j.m
  let s := s.setAcc j.core j.grp j.m { a with flt := { f := true, code := code, done := j.done, addr := addr } }
  let s := match s.sharer j with
    | some k => s.setJob { k with shared := false }
    | none => s
  s.dropJob j.id

/-- The effect of one step on its accumulator and flags; the job goes on, or ends with its last step. -/
def State.applyStep (s : State) (j : MJob) (ftz : Bool) (a b : List (List FV)) (f : FFlags) : State :=
  let acc := s.acc j.core j.grp j.m
  let s := if j.loop then s.freshenFoot { j.toEng with foot := { j with left := 1 }.footOf acc.f64 } else s
  let r := kStepOf acc.f64 ftz a b j.rows acc.elems
  let acc := { acc with elems := r.1, flt := if j.loop then { acc.flt with done := j.done + 1 } else acc.flt }
  let s := (s.setAcc j.core j.grp j.m acc).orEngineFlags j.core j.grp (r.2.or f).bits
  if j.left ≤ 1 then s.dropJob j.id
  else
    let j' := { j with left := j.left - 1, done := j.done + 1, aAddr := j.aAddr + BitVec.ofInt 64 j.aInc,
                       bAddr := j.bAddr + BitVec.ofInt 64 j.bInc }
    (s.setJob { j' with foot := j'.footOf acc.f64 }).post .kStep [j.core, j.id]

/-- Steps one job on a B that has been read. -/
def State.stepWith (s : State) (j : MJob) (ftz : Bool) (b : List (List (FV × FFlags))) : State :=
  if j.rows.all (!·) then s.applyStep j ftz [] [] {}
  else match s.stepA j ftz with
    | .error (.fault code addr) => s.stopLoop j code addr
    | .error (.violate addr) => s.freezeEngine j.core 4 addr
    | .ok a => s.applyStep j ftz (a.map (·.map (·.1))) (b.map (·.map (·.1)))
        ((rowFlags a j.rows).or (rowFlags b (List.replicate (accCols (s.acc j.core j.grp j.m).f64) true)))

/-- K_STEP (R251): subject: core and job. A shared loop fetches B once for both twins (R266); a loop of an aborted or late launch stops at
the boundary (R347, R363). -/
def State.kStep (s : State) (c id : Nat) : State :=
  match s.mjobs.find? (·.id == id) with
  | none => s
  | some j =>
    let other := s.sharer j
    let both := j :: other.toList
    let l := s.launch j.node
    if s.engineFrozen c 4 || j.held then s
    else if l.abort.isSome then both.foldl (fun s k => s.dropJob k.id) s
    else if j.loop && (s.node j.node).missed then both.foldl (fun s k => s.stopLoop k Code.DEADLINE_MISS 0#64) s
    else match both.findSome? fun k => s.engineWaits k.toEng .kStep [c, id] with
      | some t => t
      | none =>
        if (s.mjobs.any fun k => k.uid == j.uid && k.m == j.m && k.id < j.id) then s.post .kStep [c, id]
        else match s.stepB j l.ftz with
          | .error (.fault code addr) => both.foldl (fun s k => s.stopLoop k code addr) s
          | .error (.violate addr) => s.freezeEngine c 4 addr
          | .ok b => both.foldl (fun s k => s.stepWith k l.ftz b) s

def execKStep (s : State) : Host.Outcome State Fault Refusal := .next (s.kStep (s.arg 0) (s.arg 1))

/-- TWIN_HOLD_TIMEOUT (R266): subject: core and group; 4,096 cycles have passed in a hold. -/
def State.twinTimeout (s : State) (c p : Nat) : State :=
  if s.mjobs.any fun j => j.core == c && j.grp == p && j.held && 4096 ≤ j.heldFor then s.unbindPair c p else s

def execTwinHoldTimeout (s : State) : Host.Outcome State Fault Refusal := .next (s.twinTimeout (s.arg 0) (s.arg 1))

/-! ### Drains and guidance (R264, R268) -/

/-- The elements of chunk c of an accumulator: 32 rows (R264). An unbound one drains as f32 zeros. -/
def Acc.chunk (a : Acc) (c : Nat) : List (List Nat) :=
  let w := if a.f64 then 16 else 32
  (List.range 32).map fun i => (List.range w).map fun j => (aget 0#64 a.elems (i * accCols a.f64 + w * c + j)).toNat

/-- A row as the words that a drain writes, with its flags. -/
def drainRow (f64 bf16 ftz : Bool) (r : List Nat) : List Word × FFlags :=
  if f64 then (r.flatMap fun x => [BitVec.ofNat 32 x, BitVec.ofNat 32 (x / 2 ^ 32)], {})
  else if bf16 then
    let q := r.map fun x => cvfOf .bf16 .f32 ftz false rn x
    ((List.range (r.length / 2)).map fun k => BitVec.ofNat 32 ((q.getD (2 * k) (0, {})).1 + (q.getD (2 * k + 1) (0, {})).1 * 2 ^ 16),
     q.foldl (fun f e => f.or e.2) {})
  else (r.map fun x => BitVec.ofNat 32 x, {})

/-- Where a drain goes: vector registers, row i in virtual lane i, or scratchpad rows at an offset. -/
inductive DrainTo where
  | regs (d : Nat)
  | slice (ofs : Nat)
deriving DecidableEq, Repr

/-- Writes the rows of a drain; a scratchpad range is checked whole before any effect (R187). Its stores take their place in the slice's order
at the drain's issue (R275): the group's engine work that is older comes first. -/
def Ctx.drainOut (x : Ctx) (seq : Nat) (to_ : DrainTo) (rows : List (List Word)) (fin : State → State) (s : State) : Res :=
  match to_ with
  | .regs d => .ok (fin ((rows.zipIdx).foldl (fun t r => t.setVs x.c x.p r.2 d r.1) s))
  | .slice ofs =>
    let (base, size) := s.scrSlice x.c x.g.slot
    let bs := rows.flatMap fun r => r.flatMap fun w => leBytes 4 w.toNat
    match scrFault size ofs bs.length 4 with
    | some code => x.scrRaise code ofs s
    | none =>
      if s.clobbers x.c (base + ofs) bs.length then x.scrRaise Code.BARRIER_CLOBBER ofs s
      else if !s.storesFree x.c x.p x.e.mask then .wait s 4
      else if s.engineHold x.g.uid seq true true (base + ofs) bs.length then .wait s
      else .ok (fin (s.setPoolBytes x.c (base + ofs) bs).wakeWaits)

/-- Releases the bank of an accumulator (R248): the record of its latest loop stays, which MZERO and MSTAT.clr alone clear (R260, R270). -/
def Ctx.release (x : Ctx) (rel : Bool) (m : Nat) (s : State) : State :=
  if rel then s.setAcc x.c x.p m { flt := (s.acc x.c x.p m).flt } else s

/-- MDRAIN in both forms (R264). -/
def mdrainBody (to_ : Ctx → State → DrainTo) (m sb : BitVec 8) (bf16 rel : Bool) : Ctx → State → Res := once fun x s =>
  let a := s.acc x.c x.p m.toNat
  let c := (x.sreg s sb).toNat
  if 7 < c then .fault Code.MLOOP_ARGS 0#64 s
  else if a.flt.f then x.loopFault a s
  else if bf16 && a.f64 then .fault Code.ACC_TYPE 0#64 s
  else if rel && s.guideWaits x.c x.p m.toNat then .wait s 6
  else
    let rows := (a.chunk c).map (drainRow a.f64 bf16 (x.ftz s))
    let f := rows.foldl (fun f r => f.or r.2) ({} : FFlags)
    x.drainOut s.nextId (to_ x s) (rows.map (·.1)) (fun t => (x.release rel m.toNat t).orFlags x.c x.p f.bits) s

def execMdrain (g : Guard) (d m sb : BitVec 8) (bf16 rel : Bool) (s : State) : Host.Outcome State Fault Refusal :=
  issue (.mdrain g d m sb bf16 rel) g (mdrainBody (fun _ _ => .regs d.toNat) m sb bf16 rel) s

def execMdrainS (g : Guard) (sd m sb : BitVec 8) (bf16 rel : Bool) (s : State) : Host.Outcome State Fault Refusal :=
  issue (.mdrainS g sd m sb bf16 rel) g (mdrainBody (fun x s => .slice (x.sreg s sd).toNat) m sb bf16 rel) s

/-- The conditional twin of a pair: the even group of the role (R31). -/
def State.conditional (s : State) (c p q : Nat) : Nat := if (s.grp c p).bgrp < (s.grp c q).bgrp then p else q

/-- One element of a guided value (R268): the difference is rounded first, then one rounding of g * d + u. -/
def guided (ftz : Bool) (g c u : Word) : FW :=
  let d := add32 ftz rn c (u ^^^ 0x80000000#32)
  let r := fma32 ftz rn g d.1 u
  (r.1, d.2.or r.2)

/-- The rows of a guided chunk. -/
def guidedRows (ftz : Bool) (g : Word) (ac au : Acc) (c : Nat) : List (List FW) :=
  ((ac.chunk c).zip (au.chunk c)).map fun r => (r.1.zip r.2).map fun e => guided ftz g (BitVec.ofNat 32 e.1) (BitVec.ofNat 32 e.2)

/-- What an MGUIDE that has issued remembers: its accumulator, its place among the group's work, the scratchpad bytes that it is to write (none
for the register form), and the operands that it has read. -/
structure GuideReq where
  m    : Nat
  seq  : Nat
  lo   : Nat
  n    : Nat
  c    : Nat
  gain : Nat
  ofs  : Nat
deriving DecidableEq, Repr

def GuideReq.note (r : GuideReq) : List Nat := [0xB6, r.m, r.seq, r.lo, r.n, r.c, r.gain, r.ofs]

def guideReq : List Nat → Option GuideReq
  | [0xB6, m, seq, lo, n, c, gain, ofs] => some { m := m, seq := seq, lo := lo, n := n, c := c, gain := gain, ofs := ofs }
  | _ => none

/-- The end of MGUIDE's wait: its tests, and the drain (R268). -/
def Ctx.guide (x : Ctx) (d : VS) (r : GuideReq) (bf16 rel : Bool) (s : State) : Res :=
  let m := r.m
  match s.partner x.c x.p with
  | none => .fault Code.TWIN_LOST 0#64 s
  | some q =>
    let own := s.acc x.c x.p m
    let pc := s.conditional x.c x.p q
    let pu := if pc = q then x.p else q
    let ac := s.acc x.c pc m
    let au := s.acc x.c pu m
    if own.flt.f then x.loopFault own s
    else if !ac.bound || !au.bound || ac.f64 || au.f64 || ac.flt.f || au.flt.f then .fault Code.MGUIDE_SHAPE 0#64 s
    else
      let g := guidedRows (x.ftz s) (BitVec.ofNat 32 r.gain) ac au r.c
      let f := g.foldl (fun f r => r.foldl (fun f e => f.or e.2) f) ({} : FFlags)
      let rows := g.map fun r => drainRow false bf16 (x.ftz s) (r.map (·.1.toNat))
      let f := rows.foldl (fun f r => f.or r.2) f
      x.drainOut r.seq (if d.sc then .slice r.ofs else .regs d.n.toNat) (rows.map (·.1))
        (fun t => (x.release rel m t).orEngineFlags x.c x.p f.bits) s

/-- The request of an MGUIDE that issues now. -/
def Ctx.guideStart (x : Ctx) (d : VS) (m c : Nat) (gain : Word) (bf16 : Bool) (s : State) : GuideReq :=
  let (base, size) := s.scrSlice x.c x.g.slot
  let ofs := if d.sc then (x.sreg s d.n).toNat else 0
  let n := if bf16 then 2048 else 4096
  { m := m, seq := s.nextId, lo := base + ofs, n := if d.sc && (scrFault size ofs n 4).isNone then n else 0, c := c, gain := gain.toNat,
    ofs := ofs }

/-- MGUIDE (R268): the pair is unbound at issue, and the entry waits until both accumulators have completed the steps issued before. The release
of a bank that the partner's older MGUIDE has still to read is held. -/
def mguideBody (d : VS) (m sb sc : BitVec 8) (bf16 rel : Bool) : Ctx → State → Res := once fun x s =>
  let c := (x.sreg s sb).toNat
  match guideReq x.e.note with
  | some r =>
    let uids := x.g.uid :: ((s.partner x.c x.p).map fun q => (s.grp x.c q).uid).toList
    if (s.mjobs.any fun j => uids.contains j.uid && j.m == r.m && j.id < r.seq) ||
       (rel && ((s.partner x.c x.p).map fun q => s.guideBefore x.c q r.m r.seq).getD false) then .wait s 6
    else x.guide d r bf16 rel s
  | none =>
    if !s.twinned x.c x.p then .fault Code.TWIN_NONE 0#64 s
    else if (s.partner x.c x.p).isNone then .fault Code.TWIN_LOST 0#64 s
    else if 7 < c then .fault Code.MLOOP_ARGS 0#64 s
    else
      let s := s.unbindPair x.c x.p
      let r := x.guideStart d m.toNat c (x.sreg s sc) bf16 s
      .wait (x.remember r.note { s with nextId := r.seq + 1 }) 6

def execMguide (g : Guard) (d : VS) (m sb sc : BitVec 8) (bf16 rel : Bool) (s : State) : Host.Outcome State Fault Refusal :=
  issue (.mguide g d m sb sc bf16 rel) g (mguideBody d m sb sc bf16 rel) s

/-! ### Twins (R267) -/

/-- The entry of a group that waits in MTWIN. -/
def State.twinWait (s : State) (c p : Nat) : Option Nat := firstIdx (fun e => e.note == [0xB7, 1, 1]) (s.grp c p).frontier

/-- MTWIN (R267, R276): both twins issue together; loops held for either start alone, as part of the old matching, and the pair is bound. -/
def mtwinBody : Ctx → State → Res := once fun x s =>
  if !s.twinned x.c x.p then .fault Code.TWIN_NONE 0#64 s
  else match s.partner x.c x.p with
    | none => .fault Code.TWIN_LOST 0#64 s
    | some q =>
      match s.twinWait x.c q with
      | none => .wait (x.waitForPartners [0xB7, 1, 1] s) 6
      | some k =>
        let s := [x.p, q].foldl (fun s p => let g := s.grp x.c p
                                            s.setGrp x.c p { g with bound := true, loops := 0 }) (s.unbindPair x.c x.p)
        .ok (s.advanceEntry x.c q k)

def execMtwin (g : Guard) (s : State) : Host.Outcome State Fault Refusal := issue (.mtwin g) g mtwinBody s

/-! ### Status, save and restore (R270 to R272) -/

/-- The status word of an accumulator (R270). -/
def State.mstatOf (s : State) (c p m : Nat) : Word :=
  let g := s.grp c p
  let a := s.acc c p m
  BitVec.ofNat 32 (boolNat a.flt.f * 2 ^ 31 + a.flt.code * 2 ^ 24 + boolNat a.bound * 2 ^ 19 + boolNat (a.bound && a.f64) * 2 ^ 18 +
    boolNat (s.twinned c p && g.bound) * 2 ^ 17 + boolNat (s.mjobs.any fun j => j.uid == g.uid && j.m == m) * 2 ^ 16 +
    a.flt.done % 2 ^ 16)

def mstatBody (sd m : BitVec 8) (clr : Bool) : Ctx → State → Res := once fun x s =>
  let v := s.mstatOf x.c x.p m.toNat
  let a := s.acc x.c x.p m.toNat
  let s := x.putS sd v s
  .ok (if clr then s.setAcc x.c x.p m.toNat { a with flt := {} } else s)

def execMstat (g : Guard) (sd m : BitVec 8) (clr : Bool) (s : State) : Host.Outcome State Fault Refusal :=
  issue (.mstat g sd m clr) g (mstatBody sd m clr) s

/-- The bank of an accumulator as bytes: row i at byte 1,024 i (R248). -/
def Acc.image (a : Acc) : List Byte :=
  (List.range (32 * accCols a.f64)).flatMap fun k => leBytes (if a.f64 then 8 else 4) (aget 0#64 a.elems k).toNat

/-- The record of a save image (R271): of a loop that it suspends, the steps that the loop has completed. -/
def saveRecord (a : Acc) (j : Option MJob) (mbits : Nat) : List Byte :=
  let n := fun (f : MJob → Nat) => (j.map f).getD 0
  let i := fun (f : MJob → Int) => (BitVec.ofInt 32 ((j.map f).getD 0)).toNat
  if !a.bound then List.replicate 128 0#8
  else
    leBytes 8 (n fun j => j.aAddr.toNat) ++ leBytes 8 (n fun j => j.bAddr.toNat) ++ leBytes 4 (n (·.left)) ++ leBytes 4 (i (·.aRow)) ++
    leBytes 4 (i (·.aInc)) ++ leBytes 4 (i (·.bRow)) ++ leBytes 4 (i (·.bInc)) ++ leBytes 1 (n (·.ta)) ++ leBytes 1 (n (·.tb)) ++
    leBytes 1 (1 + 2 * boolNat a.f64 + 4 * n (fun j => boolNat j.masked) + 8 * boolNat a.flt.f) ++ leBytes 1 a.flt.code ++
    leBytes 4 ((j.map (·.done)).getD a.flt.done) ++ leBytes 4 mbits ++ List.replicate 80 0#8

/-- Bytes as one store for each line of 128, from an aligned virtual address: none when some line cannot be translated. -/
def Ctx.lineStores (x : Ctx) (addr : DWord) (bs : List Byte) (s : State) : Except EngStop (List Access) :=
  ((chunksOf 128 bs.length bs).zipIdx).foldr (fun q (r : Except EngStop (List Access)) =>
    let a := addr + BitVec.ofNat 64 (128 * q.2)
    match x.elemPhys true a s q.1.length with
    | .error e => .error e
    | .ok pa => match r with
      | .error e => .error e
      | .ok as => .ok ({ x.baseAccess s with
          lane := 32, kind := .store, pa := pa, n := q.1.length, data := q.1, addr := a,
          afterRel := s.gatesOf x.c x.p x.e.mask } :: as)) (.ok [])

/-- Stops the loop of an accumulator at its boundary: it counts as complete, and a loop shared with it runs on alone. -/
def State.suspend (s : State) (j : Option MJob) : State :=
  match j with
  | none => s
  | some j =>
    let s := match s.sharer j with
      | some k => s.setJob { k with shared := false }
      | none => s
    s.dropJob j.id

/-- With .rel the bank of a bound accumulator is released once the n stores of its image, from a number on, are performed (R271). -/
def Ctx.releaseLater (x : Ctx) (rel : Bool) (m first n : Nat) (s : State) : State :=
  let g := s.grp x.c x.p
  if rel && (s.acc x.c x.p m).bound then s.setGrp x.c x.p { g with freeing := g.freeing ++ [(m, List.range' first n)] } else s

/-- MSAVE (R271): queued MMA steps complete first; then the loop is suspended and the image stored, and with .rel the bank is released once it is. -/
def msaveBody (sa m : BitVec 8) (rel : Bool) : Ctx → State → Res := once fun x s =>
  let addr := x.sreg64 s sa
  let a := s.acc x.c x.p m.toNat
  let mine := s.mjobs.filter fun j => j.uid == x.g.uid && j.m == m.toNat
  if addr.toNat % 128 != 0 then x.memRaise Code.MISALIGN addr s
  else if s.engineFrozen x.c 4 && !mine.isEmpty then .wait s 6
  else if mine.any (fun j => !j.loop) || (rel && s.guideWaits x.c x.p m.toNat) then .wait s 6
  else
    let loop := mine.head?
    let (m0, bits) := match loop with
      | some j => if j.masked then (j.mask, j.mbits) else (x.g.mmask, x.g.mbits)
      | none => (x.g.mmask, x.g.mbits)
    let img := a.image ++ saveRecord a loop bits ++ slice m0 0 512
    match x.lineStores addr img s with
    | .error (.fault code at_) => x.memRaise code at_ s
    | .error (.violate at_) => .done (s.freezeCore x.c at_)
    | .ok as =>
      if s.linesFull x.c (linesOf as) then .wait s
      else .ok (x.releaseLater rel m.toNat s.nextId as.length ((s.suspend loop).addAccesses as))

def execMsave (g : Guard) (sa m : BitVec 8) (rel : Bool) (s : State) : Host.Outcome State Fault Refusal :=
  issue (.msave g sa m rel) g (msaveBody sa m rel) s

/-- Whether a save image is bad (R272): a reserved byte or bit, types that R255 does not allow, or VALID = 0 beside any other field. -/
def imageBad (b : List Byte) : Bool :=
  let r := (b.drop 32768).take 128
  let fl := sliceNat r 38 1
  let ta := sliceNat r 36 1
  let tb := sliceNat r 37 1
  !zeros r 48 128 || 16 ≤ fl || !legalTypes ta tb || (fl % 2 = 0 && !r.all (· == 0#8))

/-- The elements of a saved bank. -/
def imageElems (b : List Byte) (f64 : Bool) : AMap DWord :=
  let w := if f64 then 8 else 4
  (List.range (32 * accCols f64)).filterMap fun k =>
    let v := BitVec.ofNat 64 (sliceNat b (w * k) w)
    if v == 0#64 then none else some (k, v)

/-- MRSTR (R272). The address of a restored fault record is not in the image: a free value. An image with VALID = 0 binds its accumulator to f32
as any other does (log entry 50). -/
def mrstrBody (m sa : BitVec 8) : Ctx → State → Res := once fun x s =>
  let addr := x.sreg64 s sa
  if addr.toNat % 128 != 0 then x.memRaise Code.MISALIGN addr s
  else if s.guideWaits x.c x.p m.toNat then .wait s 6
  else x.withDesc addr 33408 (fun b x s =>
    let r := (b.drop 32768).take 128
    let fl := sliceNat r 38 1
    let f64 := fl / 2 % 2 == 1
    if imageBad b then .fault Code.MSTATE_BAD 0#64 s
    else if s.engineFrozen x.c 4 then .wait s 6
    else match s.bindAcc x.c x.p m.toNat f64 with
      | none => .fault Code.ACC_FULL 0#64 s
      | some s =>
        let failed := fl / 8 % 2 == 1
        let code := if failed then sliceNat r 39 1 % 128 else 0
        let at_ := if !failed then 0#64 else pair64 (Config.freeWord s.freeCount 0) 0#32
        let s := s.setAcc x.c x.p m.toNat { bound := true, f64 := f64, elems := imageElems b f64,
                                            flt := { f := failed, code := code, done := sliceNat r 40 4, addr := at_ } }
        let g := s.grp x.c x.p
        let mbits := sliceNat r 44 4
        let s := s.setGrp x.c x.p { g with mmask := (b.drop 32896).take ((mbits + 7) / 8), mbits := mbits }
        let rem := sliceNat r 16 4
        if rem = 0 then .ok s
        else
          let i := fun (k : Nat) => toSigned 32 (sliceNat r k 4)
          let j : MJob := { toEng := x.engine [] s, m := m.toNat, loop := true, ta := sliceNat r 36 1, tb := sliceNat r 37 1,
                            masked := fl / 4 % 2 == 1, mask := (b.drop 32896).take ((mbits + 7) / 8), mbits := mbits, aAddr := leDWord (slice r 0 8),
                            bAddr := leDWord (slice r 8 8), aRow := i 20, aInc := i 24, bRow := i 28, bInc := i 32, left := rem,
                            done := sliceNat r 40 4, pc := x.pc }
          let s := s.unbindPair x.c x.p
          .ok (s.startLoop { j with foot := j.footOf f64 })) s

def execMrstr (g : Guard) (m sa : BitVec 8) (s : State) : Host.Outcome State Fault Refusal := issue (.mrstr g m sa) g (mrstrBody m sa) s

end Sys2Proof.Machine
end

