-- ==== Sys2Proof/Machine/Work.lean ====
section
/-!
DEFINITION. Work entries, trigger counters and packets (R310 to R319, R331): PUT, PUTS, PUTR, GET, QARM, TCNT and QSTAT, what arrives from
peers, and the links.
-/
namespace Sys2Proof.Machine

/-! ### Entries and counters (R314 to R318) -/

def State.workAt (s : State) (e : Nat) : Work := aget {} s.work e

def State.setWork (s : State) (e : Nat) (w : Work) : State := { s with work := aset {} s.work e w }

def State.ctr (s : State) (n : Nat) : Word := aget 0#32 s.ctrs n

def Work.ctx (w : Work) : Context := { root := w.root, v := w.rootV }

/-- The peer address of an entry's block, and the peer's device (R315). -/
def Work.peer (w : Work) : Nat := (blockPair w.block 2).toNat
def Work.fid (w : Work) : Nat := w.peer / 2 ^ 40 % 256

/-- A failed entry keeps its code until it is read (R318). -/
def State.failWork (s : State) (e code : Nat) : State :=
  let w := s.workAt e
  s.setWork e { w with state := .failed, code := code }

/-- A lost packet of an entry: the entry fails, and the queue pair goes to ERROR (R318). -/
def State.loseWork (s : State) (e : Nat) : State :=
  let f := (s.workAt e).fid
  (({ s with qperr := if s.qperr.contains f then s.qperr else s.qperr ++ [f] } : State)).failWork e Code.FABRIC_LOST

/-- The lines of ranges that are pinned. -/
def State.pinsIn (s : State) (ps : List (Nat × Nat)) : List Nat :=
  (s.pins.filter fun q => ps.any fun r => overlaps r.1 r.2 (128 * q.line) 128).map (·.line)

/-- Whether a pin refuses part of ranges of memory (R210); ports have no core of their own. -/
def State.pinnedIn (s : State) (ps : List (Nat × Nat)) : Bool := !(s.pinsIn ps).isEmpty

/-- Sends the packets of an entry in order; a packet that no route takes is lost with the entry. -/
def State.sendAll (s : State) (e : Nat) (qs : List Packet) : State :=
  qs.foldl (fun s q => if (s.workAt e).state != .fired then s
    else match s.sendPacket q with
      | none => s.loseWork e
      | some s => s) s

/-- The packets of a fired entry, with the bytes that it has read. -/
def Work.packets (w : Work) (e : Nat) (data : List Byte) : List Packet :=
  let base := w.peer % 2 ^ 40
  let packet := fun (kind : PacketKind) (b : Nat × Nat) =>
    ({ kind := kind, dst := w.fid, tag := e, addr := base + b.1, nums := [b.1, b.2], bytes := (data.drop b.1).take b.2, waiting := true,
       owner := w.id } : Packet)
  let bs := blocks512 base w.size
  match w.kind with
  | .put => bs.map (packet .put)
  | .puts => bs.map (packet .put) ++
      [{ kind := .signal, dst := w.fid, tag := e, nums := [(blockWord w.block 6).toNat, w.size], waiting := true, owner := w.id }]
  | .putr => bs.map (packet (.reduce (blockWord w.block 7 == 1#32)))
  | .get => bs.map (packet .getReq)

/-- Whether an entry to the same peer that fired earlier has yet to send (R317). -/
def State.workBehind (s : State) (w : Work) : Bool :=
  s.work.any fun e => e.2.state == .fired && !e.2.sent && e.2.order < w.order && e.2.fid == w.fid

/-- A fired entry reads its local bytes and sends its packets (R317); a fault of the local access fails it (R318). -/
def State.tryWork (s : State) (e : Nat) : State :=
  let w := s.workAt e
  if w.state != .fired || w.sent || s.engineFrozen w.core 6 then s
  else if s.workBehind w then s.timer true (s.cycle + 64) .entryCompletion [e]
  else
    let pieces := if w.kind == .get then .ok [] else s.engPieces w.core w.ctx false w.handler w.local_ w.size
    match pieces with
    | .error (.fault code _) => s.failWork e code
    | .error (.violate a) => s.freezeEngine w.core 6 a
    | .ok ps =>
      if s.pinnedIn ps || s.sequencerHeld w.uid w.id false ps then s.retryStep (s.pinsIn ps) .entryCompletion [e]
      else (s.setWork e { w with sent := true }).sendAll e (w.packets e (s.readPieces ps))

/-- An entry fires (R316 to R318), and its accesses are issued: on a queue pair in ERROR it fails at once. -/
def State.fire (s : State) (e : Nat) : State :=
  let w := s.workAt e
  let s : State := { (s.setWork e { w with state := .fired, id := s.nextId, order := s.nextOrder }) with
    nextId := s.nextId + 1, nextOrder := s.nextOrder + 1 }
  if s.qperr.contains w.fid then s.failWork e Code.FABRIC_LOST else s.tryWork e

/-- Changes a trigger counter; every armed entry is tested, in ascending number (R316, R319). -/
def State.setCtr (s : State) (n : Nat) (v : Word) : State :=
  let s : State := { s with ctrs := aset 0#32 s.ctrs n v }
  (s.work.filter fun e => e.2.state == .armed && e.2.ctr == n && e.2.threshold ≤ v.toNat).foldl (fun s e => s.fire e.1) s

/-- Adds to a counter, stopping at its greatest value (R319). -/
def State.addCtr (s : State) (n k : Nat) : State := s.setCtr n (BitVec.ofNat 32 (min ((s.ctr n).toNat + k) (2 ^ 32 - 1)))

/-- Adds 1 to a completion counter, if one is named. -/
def State.countUp (s : State) (n : Word) : State := if n == 0xFFFFFFFF#32 then s else s.addCtr n.toNat 1

/-- ENTRY_COMPLETION (R317): subject: the entry. It completes once every answer has come and device time has passed the write-completion time of
its local writes: its counter rises by 1, and it is FREE. -/
def State.entryCompletion (s : State) (e : Nat) : State :=
  let w := s.workAt e
  if w.state != .fired || s.engineFrozen w.core 6 then s
  else if !w.sent then s.tryWork e
  else if (s.lostAt w.id).isSome then s.loseWork e
  else if s.awaitsPeer w.id then s
  else if s.dtime < w.t then s.timer false w.t .entryCompletion [e]
  else ((s.foldWct w.core w.grp w.uid w.id w.t).setWork e {}).countUp (blockWord w.block 5)

def execEntryCompletion (s : State) : Host.Outcome State Fault Refusal := .next (s.entryCompletion (s.arg 0))

/-! ### The instructions -/

/-- The eight registers of a block. -/
def Ctx.block8 (x : Ctx) (s : State) (sa : BitVec 8) : List Word := (List.range 8).map fun k => s.sr x.c x.p (sa.toNat + k)

/-- Whether a range of bytes lies in the remote-device window and names no device but peers (R10, R315); a hole at a peer is refused by it (R318). -/
def State.peerRange (s : State) (a n : Nat) : Bool :=
  0x1000000000000 ≤ a && a + n ≤ 0x2000000000000 && a / 2 ^ 40 % 256 != s.fid && (a + n - 1) / 2 ^ 40 % 256 != s.fid

/-- Whether a word names a completion counter, or none. -/
def ctrNamed (w : Word) : Bool := w == 0xFFFFFFFF#32 || w.toNat < 4096

/-- A well-formed signal target (R315). -/
def targetOk (t : Word) : Bool :=
  if t.getLsbD 31 then t.toNat % 2 ^ 31 < 4096 else field t.toNat 30 1 == 0 && field t.toNat 21 9 < 384 && t.toNat % 8 == 0

/-- Whether a block breaks R315. -/
def State.blockBad (s : State) (k : WorkKind) (b : List Word) : Bool :=
  let n := (blockWord b 4).toNat
  let peer := (blockPair b 2).toNat
  n = 0 || 2 ^ 24 ≤ n || !ctrNamed (blockWord b 5) ||
  (if k == .puts then !targetOk (blockWord b 6) else blockWord b 6 != 0#32) ||
  (if k == .putr then 1 < (blockWord b 7).toNat || n % 4 != 0 || peer % 4 != 0 || (blockPair b 0).toNat % 4 != 0 else blockWord b 7 != 0#32) ||
  !s.peerRange peer n

/-- PUT, PUTS, PUTR and GET (R315): builds an entry. -/
def buildWork (k : WorkKind) (sd sa : BitVec 8) : Ctx → State → Res := once fun x s =>
  let b := x.block8 s sa
  if s.blockBad k b then .fault Code.COL_ARGS 0#64 s
  else match s.pickFree 2048 fun e => (s.workAt e).state == .free with
    | none => .fault Code.WORK_FULL 0#64 s
    | some e =>
      let l := s.launchOf x.c x.p
      let w : Work := { state := .built, kind := k, id := s.nextId, owner := x.g.node, core := x.c, grp := x.p, uid := x.g.uid, block := b,
                        root := l.root, rootV := l.rootV, handler := x.g.handler }
      .ok (x.putS sd (BitVec.ofNat 32 e) (({ s with nextId := s.nextId + 1 } : State).setWork e w))

def execPut (g : Guard) (sd sa : BitVec 8) (s : State) : Host.Outcome State Fault Refusal := issue (.put g sd sa) g (buildWork .put sd sa) s

def execPuts (g : Guard) (sd sa : BitVec 8) (s : State) : Host.Outcome State Fault Refusal := issue (.puts g sd sa) g (buildWork .puts sd sa) s

def execPutr (g : Guard) (sd sa : BitVec 8) (s : State) : Host.Outcome State Fault Refusal := issue (.putr g sd sa) g (buildWork .putr sd sa) s

def execGet (g : Guard) (sd sa : BitVec 8) (s : State) : Host.Outcome State Fault Refusal := issue (.get g sd sa) g (buildWork .get sd sa) s

/-- The operands of an instruction that waits for its release: those that it read as it issued, or else those that stand in its registers now. -/
def Ctx.operands (x : Ctx) (now : List Word) : List Word := match x.e.note with
  | [] => now
  | note => (note.drop 2).map (BitVec.ofNat 32)

/-- Performs a release of a scope at the first attempt, which keeps the instruction's operands, and goes on once it is complete and the entry's gates
are open (R202). -/
def afterRelease (scope : Nat) (ops : List Word) (body : Ctx → State → Res) (x : Ctx) (s : State) : Res :=
  match x.e.note with
  | [] => let (id, s) := s.startRelease x.c x.p scope
          .wait (x.remember (0xF8 :: id :: ops.map BitVec.toNat) s) 4
  | _ :: rest => if s.relOpen (rest.headD 0) || !s.storesFree x.c x.p x.e.mask then .wait s 4 else body x s

/-- QARM (R316): its faults, the release at device scope, and then the entry is armed, or fires at once. -/
def qarmBody (sa sb sc : BitVec 8) : Ctx → State → Res := once fun x s =>
  let ops := x.operands [x.sreg s sa, x.sreg s sb, x.sreg s sc]
  let e := (ops.getD 0 0#32).toNat
  let n := (ops.getD 1 0#32).toNat
  let c := (ops.getD 2 0#32).toNat
  let w := s.workAt e
  if 2048 ≤ e || w.state != .built || w.owner != x.g.node then .fault Code.COL_ENTRY 0#64 s
  else if 4096 ≤ n then .fault Code.COL_ARGS 0#64 s
  else afterRelease 6 ops (fun _ s =>
    let s := s.setWork e { w with state := .armed, ctr := n, threshold := c }
    .ok (if c ≤ (s.ctr n).toNat then s.fire e else s)) x s

def execQarm (g : Guard) (sa sb sc : BitVec 8) (s : State) : Host.Outcome State Fault Refusal :=
  issue (.qarm g sa sb sc) g (qarmBody sa sb sc) s

/-- TCNT (R319). -/
def tcntBody (sd sa : BitVec 8) (b : VS) (op : Nat) : Ctx → State → Res := once fun x s =>
  let ops := x.operands [x.sreg s sa, x.sreg s b.n]
  let n := (ops.getD 0 0#32).toNat
  let v := ops.getD 1 0#32
  if 4096 ≤ n then .fault Code.COL_ARGS 0#64 s
  else if op = 0 then
    if !s.loadsFree x.c x.p x.e.mask then .wait s 4 else .ok (x.putS sd (s.ctr n) (x.acquire 6 s))
  else afterRelease 6 ops (fun x s =>
    let old := s.ctr n
    if op = 1 then
      let new := BitVec.ofNat 32 (min (old.toNat + v.toNat) (2 ^ 32 - 1))
      .ok (x.putS sd new (s.setCtr n new))
    else .ok (x.putS sd old (s.setCtr n v))) x s

def execTcnt (g : Guard) (sd sa : BitVec 8) (b : VS) (op : BitVec 2) (s : State) : Host.Outcome State Fault Refusal :=
  issue (.tcnt g sd sa b op) g (tcntBody sd sa b op.toNat) s

/-- The lowest failed entry as QSTAT.wfault reads it (R331). -/
def State.firstFailed (s : State) : Option Nat := (s.work.find? fun e => e.2.state == .failed).map (·.1)

/-- QSTAT (R331). -/
def qstatBody (sd sa : BitVec 8) (sel : Nat) (rst : Bool) : Ctx → State → Res := once fun x s =>
  let a := (x.sreg s sa).toNat
  if (sel = 1 || sel = 2) && 256 ≤ a || (rst && sel != 2) then .fault Code.COL_ARGS 0#64 s
  else match sel with
    | 0 =>
      let slots := 256 - (s.colls.filter fun e => e.2.state != .free).length
      let free := 2048 - (s.work.filter fun e => e.2.state != .free).length
      .ok (x.putS sd (BitVec.ofNat 32 (slots + free * 2 ^ 16)) s)
    | 1 => .ok (x.putS sd (BitVec.ofNat 32 ((s.ctlSlot (0x10000 + 8 * a)).toNat % 2 ^ 15)) s)
    | 2 =>
      let v := boolNat (s.qperr.contains a)
      .ok (x.putS sd (BitVec.ofNat 32 v) (if rst then { s with qperr := s.qperr.filter (· != a) } else s))
    | _ => match s.firstFailed with
      | none => .ok (x.putS sd 0#32 s)
      | some e => .ok (x.putS sd (BitVec.ofNat 32 (2 ^ 31 + (s.workAt e).code * 2 ^ 24 + e)) (s.setWork e {}))

def execQstat (g : Guard) (sd sa : BitVec 8) (sel : BitVec 2) (rst : Bool) (s : State) : Host.Outcome State Fault Refusal :=
  issue (.qstat g sd sa sel rst) g (qstatBody sd sa sel.toNat rst) s

/-! ### Packets that arrive from peers (R313, R317) -/

/-- Puts off a step until a time, with what it acts on; a packet keeps its place in the order of those put off. -/
def State.putOff (s : State) (byCycle : Bool) (due : Nat) (what : Instr) : State :=
  let place := if s.subject.value == 0#64 then BitVec.ofNat 64 s.nextOrder else s.subject.value
  { s with nextOrder := s.nextOrder + 1,
           timers := s.timers ++ [{ byCycle := byCycle, at_ := due, ev := { what := what, sub := { s.subject with value := place } } }] }

/-- Puts off a step that must not touch ranges yet, for 64 cycles (R210). -/
def State.putOffPinned (s : State) (ps : List (Nat × Nat)) (what : Instr) : State :=
  (s.refuseLines (s.pinsIn ps) (.step what s.subject.nums (s.cycle + 64))).putOff true (s.cycle + 64) what

/-- Whether a packet of a source that came earlier on its channel is still put off (R313). -/
def State.sourceBehind (s : State) (src : Nat) : Bool :=
  (s.timers.map (·.ev) ++ s.agenda).any fun e =>
    (e.what == .putPacket || e.what == .putWithSignal || e.what == .writeWithReduce || e.what == .getRequest) &&
    e.sub.nums.headD 0 == src && e.sub.value != 0#64 && (s.subject.value == 0#64 || e.sub.value.toNat < s.subject.value.toNat)

/-- Runs a step that touches memory for a source, unless an earlier packet of it, or a pin, keeps it waiting (R210, R313). -/
def State.forSource (s : State) (src : Nat) (rs : List (Nat × Nat)) (what : Instr) (body : State → State) : State :=
  if s.sourceBehind src then s.putOff true (s.cycle + 64) what
  else if s.pinnedIn rs then s.putOffPinned rs what
  else body s

/-- An answer to a source: refused, or from the time at which the write it answers is complete (R214), which is remembered for a later signal of that
source, whether or not a route takes the answer (R215). -/
def State.answer (s : State) (src tag : Nat) (refused : Bool) (t : Nat) : State :=
  let s : State := if refused then s else { s with srcDone := aset 0 s.srcDone src (max t (aget 0 s.srcDone src)) }
  (s.sendPacket { kind := .ack refused, dst := src, tag := tag, nums := [t], sent := t }).getD s

/-- Whether a range lies in this device's memory. -/
def inDevice (a n : Nat) : Bool := n != 0 && a + n ≤ devTop

/-- A write by a peer, performed at its home: the state, and its write-completion time (R208). -/
def State.peerWrite (s : State) (a : Nat) (bs : List Byte) : State × Nat :=
  let t := (List.range ((a + bs.length - 1) / 128 + 1 - a / 128)).foldl (fun t k => max t (s.wctOf (a / 128 + k))) s.dtime
  ((s.setBytes a bs).wakeWaits, t)

/-- PUT_PACKET (R317): subject: source, tag, address; bytes. -/
def execPutPacket (s : State) : Host.Outcome State Fault Refusal :=
  let src := s.arg 0
  let a := s.arg 2
  let bs := s.subject.bytes
  .next (if !inDevice a bs.length then s.answer src (s.arg 1) true s.dtime
    else s.forSource src [(a, bs.length)] .putPacket fun s =>
      let r := s.peerWrite a bs
      r.1.answer src (s.arg 1) false r.2)

/-- The device time from which every write of a source is complete. -/
def State.sourceDone (s : State) (src : Nat) : Nat := aget 0 s.srcDone src

/-- The signal of a PUTS (R317): on a tagged object BYTES falls by the size and one arrival is made; on a counter 1 is added. None when the peer
leaves its target unchanged (R318). -/
def State.applySignal (s : State) (target size : Nat) : Option State :=
  if target / 2 ^ 31 = 1 then some (s.addCtr (target % 4096) 1)
  else
    let c := field target 21 9
    let a := target % 2 ^ 21
    if !s.tagged c a then none
    else ((s.barObj c a).arrive (-(size : Int)) 1).map fun o => (s.setBarObj c a o).wakeWaits

/-- PUT_WITH_SIGNAL (R215, R317): subject: source, tag, target, size. The signal waits until every earlier write of its queue pair is complete. -/
def execPutWithSignal (s : State) : Host.Outcome State Fault Refusal :=
  let src := s.arg 0
  .next (if s.dtime < s.sourceDone src then s.putOff false (s.sourceDone src) .putWithSignal
    else s.forSource src [] .putWithSignal fun s =>
      match s.applySignal (s.arg 2) (s.arg 3) with
      | none => s.answer src (s.arg 1) true s.dtime
      | some t => t.answer src (s.arg 1) false s.dtime)

/-- One element of a write with reduce (R317). -/
def reduceWord (s32 : Bool) (m v : Word) : Word := if s32 then m + v else (add32 false rn m v).1

/-- WRITE_WITH_REDUCE (R317): subject: source, tag, address, whether the elements are integers; bytes. -/
def execWriteWithReduce (s : State) : Host.Outcome State Fault Refusal :=
  let src := s.arg 0
  let a := s.arg 2
  let bs := s.subject.bytes
  .next (if !inDevice a bs.length then s.answer src (s.arg 1) true s.dtime
    else s.forSource src [(a, bs.length)] .writeWithReduce fun s =>
      let new := (List.range (bs.length / 4)).flatMap fun k =>
        leBytes 4 (reduceWord s.subject.flag (leWord (s.bytes (a + 4 * k) 4)) (leWord (slice bs (4 * k) 4))).toNat
      let r := s.peerWrite a new
      r.1.answer src (s.arg 1) false r.2)

/-- GET_REQUEST (R317): subject: source, tag, address, size. The bytes are read and sent back. -/
def execGetRequest (s : State) : Host.Outcome State Fault Refusal :=
  let src := s.arg 0
  let a := s.arg 2
  let n := s.arg 3
  .next (if !inDevice a n then s.answer src (s.arg 1) true s.dtime
    else s.forSource src [(a, n)] .getRequest fun s =>
      (s.sendPacket { kind := .getData, dst := src, tag := s.arg 1, addr := a, bytes := s.bytes a n }).getD s)

/-! ### Answers (R313, R317) -/

/-- ACKNOWLEDGEMENT (R313, R318): subject: source, the number of the packet that is answered, whether the peer has refused it. -/
def State.acknowledge (s : State) (src id : Nat) (refused : Bool) : State :=
  match s.packets.find? fun q => q.id == id && q.dst == src && q.waiting && !q.held with
  | none => s
  | some q =>
    match q.kind with
    | .coreRead => if q.owner = 0 then s else (s.donePacket id).wakeEngine q.owner
    | .coreWrite => if q.owner = 0 then s.remoteAnswer q.tag else (s.donePacket id).wakeOwner q.owner
    | .coreAtomic => s.remoteAnswer q.tag
    | kind =>
      let s := s.donePacket id
      match s.workOf q.owner with
      | none => s
      | some e =>
        if refused then s.failWork e (if kind == .signal then Code.SIGNAL_NONE else Code.PHYS_HOLE)
        else s.post .entryCompletion [e]

def execAcknowledgement (s : State) : Host.Outcome State Fault Refusal := .next (s.acknowledge (s.arg 0) (s.arg 1) s.subject.flag)

/-- GET_DATA (R317): subject: source, the number of the request; bytes. They are written locally. -/
def State.getData (s : State) (src id : Nat) (bs : List Byte) : State :=
  match s.packets.find? fun q => q.id == id && q.dst == src && q.kind == .getReq && q.waiting && !q.held with
  | none => s
  | some q =>
    let done := fun (s : State) => s.donePacket id
    match s.workOf q.owner with
    | none => done s
    | some e =>
      let w := s.workAt e
      let ofs := q.nums.headD 0
      let data := slice bs 0 (q.nums.getD 1 0)
      match s.engPieces w.core w.ctx true w.handler (w.local_ + BitVec.ofNat 64 ofs) data.length with
      | .error (.fault code _) => (done s).failWork e code
      | .error (.violate a) => (done s).freezeEngine w.core 6 a
      | .ok ps =>
        if s.pinnedIn ps || s.sequencerHeld w.uid w.id true ps then s.putOffPinned ps .getData
        else
          let r := s.storePieces w.core w.id ofs ps data s.dtime
          let s := (done r.1).wakeWaits
          (s.setWork e { s.workAt e with t := max w.t r.2 }).post .entryCompletion [e]

def execGetData (s : State) : Host.Outcome State Fault Refusal := .next (s.getData (s.arg 0) (s.arg 1) s.subject.bytes)

/-! ### Losses and links (R311, R312) -/

/-- A packet is lost (R311, R318): what it belongs to learns of it. -/
def State.losePacket (s : State) (q : Packet) : State :=
  match q.kind with
  | .coreRead =>
    if q.owner = 0 then s.loseAccess q.tag
    else ({ s.donePacket q.id with engLost := s.engLost ++ [(q.owner, q.nums.headD 0, 0)] } : State).wakeEngine q.owner
  | .coreAtomic => s.loseAccess q.tag
  | .coreWrite =>
    if q.owner = 0 then s.loseAccess q.tag
    else
      let s : State := { s.donePacket q.id with engLost := s.engLost ++ [(q.owner, q.nums.headD 0, q.bytes.length)] }
      s.wakeOwner q.owner
  | .put | .signal | .reduce _ | .getReq =>
    let s := s.donePacket q.id
    match s.workOf q.owner with
    | none => s
    | some e => s.loseWork e
  | _ => s.donePacket q.id

/-- PACKET_TIMEOUT (R311): subject: the packet. No answer has come 50,000 ns after it was sent. -/
def execPacketTimeout (s : State) : Host.Outcome State Fault Refusal :=
  .next (match s.packets.find? (·.id == s.arg 0) with
    | none => s
    | some q => if q.waiting && !q.held && q.sent + 50000 ≤ s.dtime then s.losePacket q else s)

/-- LINK_DOWN (R311): subject: the port. Its packets in flight are lost, and so are packets held for a device that no route reaches any more. -/
def State.linkDown (s : State) (port : Nat) : State :=
  let s : State := { s with linksDown := if s.linksDown.contains port then s.linksDown else s.linksDown ++ [port] }
  let gone := s.packets.filter fun q => (q.waiting && !q.held && q.port == port) || (q.held && (s.portTo q.dst).isNone)
  (gone.foldl (fun s q => s.losePacket q) s).pokeColls

def execLinkDown (s : State) : Host.Outcome State Fault Refusal := .next (s.linkDown (s.arg 0))

/-- LINK_UP (R311): subject: the port. -/
def execLinkUp (s : State) : Host.Outcome State Fault Refusal :=
  .next ({ s with linksDown := s.linksDown.filter (· != s.arg 0) } : State).pokeColls

/-- ROUTE_SWITCH (R311): subject: a fabric identifier. Once nothing sent on another port is still to be answered, the packets held for the device
leave by the port that now leads there, in order; those that a write of its route register has lost (R311) do not. -/
def State.routeSwitch (s : State) (f : Nat) : State :=
  let s := (s.packets.filter fun q => q.gone && q.dst == f).foldl (fun s q => s.losePacket q) s
  match s.portTo f with
  | none => (s.packets.filter fun q => q.held && q.dst == f).foldl (fun s q => s.losePacket q) s
  | some port =>
    if s.packets.any fun q => q.dst == f && !q.held && q.waiting && q.port != port then s
    else
      let held := s.packets.filter fun q => q.held && q.dst == f
      let s : State := { s with packets := s.packets.map fun q =>
        if q.held && q.dst == f then { q with held := false, port := port, sent := s.dtime } else q }
      held.foldl (fun s q => if q.waiting then s.timer false (s.dtime + 50000) .packetTimeout [q.id] else s) s

def execRouteSwitch (s : State) : Host.Outcome State Fault Refusal := .next (s.routeSwitch (s.arg 0))

/-- FLIT_RESEND (R312): subject: the port. A flit is sent again; no data change. -/
def execFlitResend (s : State) : Host.Outcome State Fault Refusal :=
  .next { s with resent := aset 0 s.resent (s.arg 0) (aget 0 s.resent (s.arg 0) + 1) }

/-- PACKET_FORWARDING (R311): subject: the port by which a packet came, and its device. It leaves by this device's route, if there is one. -/
def execPacketForwarding (s : State) : Host.Outcome State Fault Refusal :=
  .next (match s.portTo (s.arg 1) with
    | none => s
    | some port => { s with forwarded := s.forwarded ++ [(s.arg 1, port)] })

end Sys2Proof.Machine
end

