-- ==== Sys2Proof/Machine/Coll.lean ====
section
/-!
DEFINITION. Posted collectives (R320 to R332): teams, tickets and the coordinator, the ring of chunks, QPOST, QTICK, QRING, QCOMP, QCANCEL, and
MDRAINC, which feeds a contribution from an accumulator (R265).
-/
namespace Sys2Proof.Machine

/-! ### Teams and slots -/

def State.teamCfg (s : State) (n : Nat) : DWord := s.ctlReg (0x20000 + 8 * n)

/-- Members of a team, this device's rank, and the device of a rank (R320). -/
def State.teamSize (s : State) (n : Nat) : Nat := bitsOf (s.teamCfg n) 7 0 + 1
def State.teamRank (s : State) (n : Nat) : Nat := bitsOf (s.teamCfg n) 15 8
def State.teamFid (s : State) (n r : Nat) : Nat := (aget 0#8 s.teamMem (256 * n + r)).toNat

def State.coll (s : State) (slot : Nat) : Coll := aget {} s.colls slot

def State.setColl (s : State) (slot : Nat) (k : Coll) : State := { s with colls := aset {} s.colls slot k }

/-- The fields of a block (R329). -/
def blockTeam (b : List Word) : Nat := field (blockWord b 0).toNat 0 6
def blockOp (b : List Word) : Nat := field (blockWord b 0).toNat 8 4
def blockType (b : List Word) : Nat := field (blockWord b 0).toNat 12 4
def blockRoot (b : List Word) : Nat := field (blockWord b 0).toNat 16 8
def blockDrain (b : List Word) : Bool := (blockWord b 0).getLsbD 24
def blockCount (b : List Word) : Nat := (blockWord b 1).toNat
def Coll.op (k : Coll) : Nat := blockOp k.block
def Coll.ty (k : Coll) : Nat := blockType k.block
def Coll.count (k : Coll) : Nat := blockCount k.block
def Coll.tmo (k : Coll) : Nat := (blockWord k.block 6).toNat

/-- Whether m timeouts have passed since a collective started (R327), or the time to which a checkpoint has cut them (R389). -/
def Coll.lateAt (k : Coll) (m now : Nat) : Bool :=
  (k.tmo != 0 && k.start + m * k.tmo ≤ now) || (match k.cut with
    | none => false
    | some t => t ≤ now)

def Coll.ctx (k : Coll) : Context := { root := k.root, v := k.rootV }

/-- Bytes of an element of the contribution, and of the result (R326). -/
def srcSize (ty : Nat) : Nat := if ty = 1 || ty = 2 then 2 else 4
def dstSize (ty : Nat) : Nat := if ty = 2 then 2 else 4

/-- Whether the route to a device names a port on a die without a staging ring (R325). -/
def State.unstaged (s : State) (f : Nat) : Bool :=
  match s.portTo f with
  | none => false
  | some port => bitsOf (s.ctlReg (0x3000 + 8 * (port / 3))) 2 0 == 0

/-- Why a block does not post (R325, R326, R329). -/
def State.postBad (s : State) (b : List Word) : Option Nat :=
  let n := blockTeam b
  let op := blockOp b
  let ty := blockType b
  let c := blockCount b
  let drain := blockDrain b
  let src := blockPair b 2
  let dst := blockPair b 4
  let size := s.teamSize n
  if !(s.teamCfg n).getLsbD 63 then some Code.COL_TEAM
  else if (blockWord b 0).toNat / 2 ^ 25 != 0 || field (blockWord b 0).toNat 6 2 != 0 || 4 < op || 3 < ty || !ctrNamed (blockWord b 7) ||
    (if op = 4 then c != 0 || dst != 0#64 else c = 0 || 2 ^ 24 ≤ c) ||
    ((drain || op = 4) && src != 0#64) || (drain && (ty != 0 || 1 < op || c % 1024 != 0)) ||
    (op = 3 && size ≤ blockRoot b) || (op = 1 && c % size != 0) ||
    src.toNat % srcSize ty != 0 || dst.toNat % dstSize ty != 0 ||
    s.unstaged (s.teamFid n ((s.teamRank n + 1) % size)) then some Code.COL_ARGS
  else none

/-! ### Messages (R321, R323) -/

/-- A message to a device: a packet, or a step of this device where it names itself. -/
def State.message (s : State) (f : Nat) (kind : PacketKind) (what : Instr) (nums : List Nat) : State :=
  if f = s.fid then s.post what nums else (s.sendPacket { kind := kind, dst := f, nums := nums }).getD s

/-- A slot ends (R323, R327): its completion counter rises, and the node that posted it completes. -/
def State.endSlot (s : State) (slot : Nat) (st : SlotState) (code : Nat) : State :=
  let k := s.coll slot
  let s := (s.setColl slot { k with state := st, code := code, chunks := [], out := [], inq := [], drain := [] }).foldWct k.core k.grp k.uid k.id k.pass
  let s := s.countUp (blockWord k.block 7)
  let s := match k.node with
    | none => s
    | some n => s.post .nodeCompletion [n]
  let s := match k.owner with
    | none => s
    | some n => s.post .nodeCompletion [n]
  s.pokeColls

/-- The memory that a sequencer reads and writes for a collective as a rank of n (R326, R329). -/
def collFoot (b : List Word) (n rank : Nat) : List (Bool × Bool × Nat × Nat) :=
  let op := blockOp b
  let ty := blockType b
  let c := blockCount b
  let src := (blockPair b 2).toNat % 2 ^ 57
  let dst := (blockPair b 4).toNat % 2 ^ 57
  let e := dstSize ty
  (if blockDrain b || op = 4 || (op = 3 && blockRoot b != rank) then [] else [(false, false, src, srcSize ty * c)]) ++
  match op with
  | 1 => [(true, false, dst + e * (rank * (c / n)), e * (c / n))]
  | 2 => [(true, false, dst, e * c * n)]
  | 4 => []
  | _ => [(true, false, dst, e * c)]

/-- Posts a collective in a free slot (R321, R329). -/
def State.postSlot (s : State) (b : List Word) (mk : Coll) : Except Nat (Nat × State) :=
  match s.postBad b with
  | some code => .error code
  | none => match s.pickFree 256 fun k => (s.coll k).state == .free with
    | none => .error Code.COL_FULL
    | some slot =>
      let n := blockTeam b
      let num := aget 0 s.postCount n + 1
      let k := { mk with state := .posted, id := s.nextId, block := b, team := n, rank := s.teamRank n, number := num, clk := s.ticketClock,
                         posted := s.dtime, foot := collFoot b (s.teamSize n) (s.teamRank n) }
      let s := ({ s with nextId := s.nextId + 1, postCount := aset 0 s.postCount n num } : State).setColl slot k
      let s := s.message (s.teamFid n 0) .post .postMessage [n, k.rank, num, k.op, k.ty, k.count, s.ticketClock]
      .ok (slot, if k.tmo = 0 then s else s.timer false (s.dtime + k.tmo) .postTimeout [slot])

/-- Sends a cancel for a POSTED slot (R323). -/
def State.cancelSlot (s : State) (slot : Nat) : State :=
  let k := s.coll slot
  if k.state != .posted then s
  else (s.setColl slot { k with state := .cancelSent }).message (s.teamFid k.team 0) .cancel .cancelMessage [k.team, k.rank, k.number]

/-- POST_TIMEOUT (R323): subject: the slot. -/
def execPostTimeout (s : State) : Host.Outcome State Fault Refusal :=
  let k := s.coll (s.arg 0)
  .next (if k.state == .posted && k.tmo != 0 && k.posted + k.tmo ≤ s.dtime then s.cancelSlot (s.arg 0) else s)

/-- The slot that a message of a team and post number concerns. -/
def State.slotFor (s : State) (team num : Nat) : Option Nat :=
  (s.colls.find? fun e => e.2.team == team && e.2.number == num && (e.2.state == .posted || e.2.state == .cancelSent)).map (·.1)

/-- TICKET_MESSAGE (R321, R323): subject: team, post number, ticket. -/
def execTicketMessage (s : State) : Host.Outcome State Fault Refusal :=
  .next (match s.slotFor (s.arg 0) (s.arg 1) with
    | none => s
    | some slot =>
      let t := s.arg 2
      let s : State := { s with ticketClock := max s.ticketClock (t / 256) % 2 ^ 56 }
      (s.setColl slot { s.coll slot with state := .ticketed, ticket := t }).pokeColls)

/-- MISMATCH_MESSAGE (R323): subject: team, post number. -/
def execMismatchMessage (s : State) : Host.Outcome State Fault Refusal :=
  .next (match s.slotFor (s.arg 0) (s.arg 1) with
    | none => s
    | some slot => s.endSlot slot .failed Code.COL_MISMATCH)

/-- CANCELLED_MESSAGE (R323): subject: team, post number. -/
def execCancelledMessage (s : State) : Host.Outcome State Fault Refusal :=
  .next (match s.slotFor (s.arg 0) (s.arg 1) with
    | none => s
    | some slot => s.endSlot slot .cancelled 0)

/-! ### The coordinator (R321, R323) -/

def State.setRec (s : State) (r : MatchRec) : State :=
  { s with recs := (s.recs.filter fun q => !(q.team == r.team && q.number == r.number)) ++ [r] }

def State.dropRec (s : State) (r : MatchRec) : State :=
  { s with recs := s.recs.filter fun q => !(q.team == r.team && q.number == r.number) }

def State.recOf (s : State) (team num : Nat) : Option MatchRec := s.recs.find? fun q => q.team == team && q.number == num

/-- Whether the posts of a record agree in operation, type and count. -/
def MatchRec.agree (r : MatchRec) : Bool :=
  match r.posts with
  | [] => true
  | p :: ps => ps.all fun q => q.2.1 == p.2.1 && q.2.2.1 == p.2.2.1 && q.2.2.2.1 == p.2.2.2.1

/-- The last post of a record has come: a ticket to every member, or a mismatch. The record, whose members are all answered, is free. -/
def State.matched (s : State) (r : MatchRec) : State :=
  let members := List.range (s.teamSize r.team)
  let s := s.dropRec r
  if r.agree then
    let c := 1 + r.posts.foldl (fun m p => max m p.2.2.2.2) s.lastTicket
    let t := c * 256 + s.fid
    members.foldl (fun s k => s.message (s.teamFid r.team k) .ticket .ticketMessage [r.team, r.number, t]) { s with lastTicket := c }
  else members.foldl (fun s k => s.message (s.teamFid r.team k) .mismatch .mismatchMessage [r.team, r.number]) s

/-- A cancelled record answers a member; with the last one it is free. -/
def State.answerCancelled (s : State) (r : MatchRec) (rank : Nat) : State :=
  let r := { r with answered := if r.answered.contains rank then r.answered else r.answered ++ [rank] }
  let s := s.message (s.teamFid r.team rank) .cancelled .cancelledMessage [r.team, r.number]
  if s.teamSize r.team ≤ r.answered.length then s.dropRec r else s.setRec r

/-- Whether a message of the same member to this coordinator came earlier and still waits for a record (R313, R321). -/
def State.memberBehind (s : State) (team rank : Nat) : Bool :=
  s.agenda.any fun e => (e.what == .postMessage || e.what == .cancelMessage) && e.sub.value != 0#64 &&
    s.teamFid (e.sub.nums.headD 0) (e.sub.nums.getD 1 0) == s.teamFid team rank &&
    (s.subject.value == 0#64 || e.sub.value.toNat < s.subject.value.toNat)

/-- A message waits its turn, and keeps its place among those of its source. -/
def State.queueMessage (s : State) (what : Instr) : State :=
  let place := if s.subject.value == 0#64 then BitVec.ofNat 64 s.nextOrder else s.subject.value
  { s with nextOrder := s.nextOrder + 1, agenda := s.agenda ++ [{ what := what, sub := { s.subject with value := place } }] }

/-- POST_MESSAGE (R321): subject: team, rank, post number, operation, type, count, clock. A post that finds no free record waits, and later messages
of its source wait behind it. -/
def State.postMessage (s : State) (team rank num : Nat) (rest : Nat × Nat × Nat × Nat) : State :=
  if s.memberBehind team rank then s.queueMessage .postMessage
  else match s.recOf team num with
    | some r =>
      if r.state == .cancelled then s.answerCancelled r rank
      else
        let r := { r with posts := r.posts ++ [(rank, rest)] }
        if s.teamSize team ≤ r.posts.length then s.matched r else s.setRec r
    | none =>
      if 1024 ≤ s.recs.length then s.queueMessage .postMessage
      else s.setRec { team := team, number := num, posts := [(rank, rest)] }

def execPostMessage (s : State) : Host.Outcome State Fault Refusal :=
  .next (s.postMessage (s.arg 0) (s.arg 1) (s.arg 2) (s.arg 3, s.arg 4, s.arg 5, s.arg 6))

/-- CANCEL_MESSAGE (R323): subject: team, rank, post number. It comes after its own post (R313). -/
def execCancelMessage (s : State) : Host.Outcome State Fault Refusal :=
  .next (if s.agenda.any fun e => e.what == .postMessage && e.sub.nums.take 3 == [s.arg 0, s.arg 1, s.arg 2] then
      { s with agenda := s.agenda ++ [{ what := .cancelMessage, sub := s.subject }] }
    else if s.memberBehind (s.arg 0) (s.arg 1) then s.queueMessage .cancelMessage
    else match s.recOf (s.arg 0) (s.arg 2) with
      | none => s
      | some r =>
        if r.state != .collecting then s
        else
          let r := { r with state := .cancelled }
          r.posts.foldl (fun s p => match s.recOf r.team r.number with
            | none => s
            | some r => s.answerCancelled r p.1) (s.setRec r))

/-! ### Chunks (R324, R326, R327) -/

/-- Chunks of a contribution: 128 elements each, one empty chunk of a barrier. -/
def Coll.nchunks (k : Coll) : Nat := if k.op = 4 then 1 else ceilDiv k.count 128

/-- Elements of chunk c. -/
def Coll.len (k : Coll) (c : Nat) : Nat := if k.op = 4 then 0 else min 128 (k.count - 128 * c)

/-- Whether the operation folds. -/
def Coll.folds (k : Coll) : Bool := k.op = 0 || k.op = 1 || k.op = 4

/-- The key of a chunk: by index, and for ALLGATHER by rank and index. -/
def Coll.key (k : Coll) (origin c : Nat) : Nat := if k.op = 2 then origin * k.nchunks + c else c

def Coll.chunk (k : Coll) (key : Nat) : Chunk := aget {} k.chunks key

/-- Every key of a collective of n members. -/
def Coll.keys (k : Coll) (n : Nat) : List Nat := List.range (if k.op = 2 then n * k.nchunks else k.nchunks)

/-- The elements of chunk c that a rank of n writes: first and last + 1, as elements of the result (R326). -/
def Coll.part (k : Coll) (n rank c : Nat) : Nat × Nat :=
  let lo := 128 * c
  let hi := lo + k.len c
  if k.op = 1 then (max lo (rank * (k.count / n)), min hi ((rank + 1) * (k.count / n))) else (lo, hi)

/-- Whether a rank writes part of a chunk. -/
def Coll.mine (k : Coll) (n rank c : Nat) : Bool :=
  if k.op = 1 then decide ((k.part n rank c).1 < (k.part n rank c).2) else true

/-- The elements of a result chunk that a rank writes: what it has been sent of them alone, or their part of a whole chunk. -/
def Coll.partOf (k : Coll) (n rank : Nat) (o : OutChunk) : List Word :=
  let q := k.part n rank o.chunk
  if o.elems.length ≤ q.2 - q.1 then o.elems else (o.elems.drop (q.1 - 128 * o.chunk)).take (q.2 - q.1)

/-- Whether a chunk is settled on this device. -/
def Coll.settledKey (k : Coll) (n key : Nat) : Bool :=
  let c := k.chunk key
  (!k.folds || c.sent) && (c.written || c.missing || !(k.mine n k.rank key))

/-- Where the credits that a rank has granted for a ticket stand. -/
def creditKey (ticket rank : Nat) : Nat := 256 * ticket + rank

/-- Sends chunks in order, each when its receiver has granted a credit (R313); those without one stay, and are dropped from 2T on (R327). -/
def State.flushOut (slot : Nat) : List OutChunk → State → State
  | [], s => s
  | o :: rest, s =>
    let k := s.coll slot
    let at_ := creditKey k.ticket o.to_
    match aget 0 s.credits at_ with
    | 0 => State.flushOut slot rest (if k.late2 then s else s.setColl slot { k with out := k.out ++ [o] })
    | n + 1 =>
      let s : State := { s with credits := aset 0 s.credits at_ n }
      let q : Packet := { kind := if o.result then .result else .fold, dst := s.teamFid k.team o.to_,
                          nums := [k.ticket, o.chunk, o.first, o.count, boolNat o.partl], bytes := o.elems.flatMap fun w => leBytes 4 w.toNat }
      State.flushOut slot rest ((s.sendPacket q).getD s)

/-- Sends what can be sent; a collective whose chunks are all settled and sent is to end. -/
def State.flushColl (s : State) (slot : Nat) : State :=
  let k := s.coll slot
  let s := if s.engineFrozen k.core 6 then s else State.flushOut slot k.out (s.setColl slot { k with out := [] })
  let k := s.coll slot
  if k.state == .started && k.out.isEmpty && k.inq.isEmpty && (k.keys (s.teamSize k.team)).all (k.settledKey (s.teamSize k.team)) then
    s.post .collectiveEnd [slot] else s

/-- Grants credits to the sequencer of a rank (R313). -/
def State.grant (s : State) (k : Coll) (rank n : Nat) : State := s.message (s.teamFid k.team rank) .credit .credit [k.ticket, n, k.rank]

/-- The contribution of this device to a chunk: its elements, none while it is not there, or the fault of its reading (R329). -/
inductive Own where
  | ready (ws : List Word)
  | later
  | retry (ps : List (Nat × Nat))
  | gone (code : Nat)
  | violate (addr : DWord)
deriving DecidableEq, Repr

/-- A bf16 element widened to FP32 (R137, R324): a NaN becomes the canonical one (R120). -/
def widenBf16 (x : Nat) : Word := if 0x7F80 < x % 2 ^ 15 then 0x7FC00000#32 else BitVec.ofNat 32 (x * 2 ^ 16)

def State.contribution (s : State) (k : Coll) (c : Nat) : Own :=
  let n := k.len c
  if k.code != 0 then .gone k.code
  else if n = 0 then .ready []
  else if blockDrain k.block then
    if 128 * c + n ≤ k.drain.length then .ready ((k.drain.drop (128 * c)).take n) else .later
  else
    let e := srcSize k.ty
    match s.engPieces k.core k.ctx false k.handler (blockPair k.block 2 + BitVec.ofNat 64 (e * 128 * c)) (e * n) with
    | .error (.fault code _) => .gone code
    | .error (.violate a) => .violate a
    | .ok ps =>
      if s.pinnedIn ps || s.sequencerHeld k.uid k.id false ps then .retry ps
      else
        let bs := s.readPieces ps
        .ready ((List.range n).map fun i =>
          if e = 2 then widenBf16 (sliceNat bs (2 * i) 2) else BitVec.ofNat 32 (sliceNat bs (4 * i) 4))

/-- One element of a fold (R324). -/
def foldWord (ty : Nat) (a b : Word) : Word := if ty = 3 then a + b else (add32 false rn a b).1

/-- Bytes of result elements (R326). -/
def resultBytes (ty : Nat) (ws : List Word) : List Byte :=
  if ty = 2 then ws.flatMap fun w => leBytes 2 (cvfOf .bf16 .f32 false false rn w.toNat).1 else ws.flatMap fun w => leBytes 4 w.toNat

/-- What the writing of a result chunk comes to. -/
inductive Wrote where
  | ok (s : State) (t : Nat)
  | retry (ps : List (Nat × Nat))
  | fault (code : Nat)
  | violate (addr : DWord)

/-- Writes this device's part of a result chunk (R326). -/
def State.writeResult (s : State) (k : Coll) (o : OutChunk) : Wrote :=
  let n := s.teamSize k.team
  let q := k.part n k.rank o.chunk
  let first := if k.op = 2 then o.first * k.count + q.1 else q.1
  let ws := k.partOf n k.rank o
  let bs := resultBytes k.ty ws
  match s.engPieces k.core k.ctx true k.handler (blockPair k.block 4 + BitVec.ofNat 64 (dstSize k.ty * first)) bs.length with
  | .error (.fault code _) => .fault code
  | .error (.violate a) => .violate a
  | .ok ps =>
    if s.pinnedIn ps || s.sequencerHeld k.uid k.id true ps then .retry ps
    else
      let r := s.storePieces k.core k.id first ps bs s.dtime
      .ok r.1.wakeWaits r.2

/-- Where a result chunk goes on to from this device, if anywhere (R326): a REDUCE_SCATTER sends each rank its own part alone. -/
def Coll.onward (k : Coll) (n : Nat) (o : OutChunk) : List OutChunk :=
  let next := (k.rank + 1) % n
  match k.op with
  | 1 => if k.rank + 1 = n then
      ((List.range (n - 1)).filter fun r => k.mine n r o.chunk).map fun r =>
        { o with to_ := r, first := r, elems := k.partOf n r o } else []
  | 2 => if next = o.first then [] else [{ o with to_ := next }]
  | 3 => if next = o.first then [] else [{ o with to_ := next }]
  | _ => if k.rank + 2 = n then [] else [{ o with to_ := next }]

/-- Takes the result chunks that have arrived: each is written, unless it is given up or the slot has failed, and goes on. -/
def State.takeResults (slot : Nat) : Nat → State → State
  | 0, s => s
  | fuel + 1, s =>
    let k := s.coll slot
    match k.inq with
    | [] => s
    | o :: rest =>
      let n := s.teamSize k.team
      let key := k.key o.first o.chunk
      let c := k.chunk key
      let move := fun (s : State) (k : Coll) => State.takeResults slot fuel (s.setColl slot { k with inq := rest, out := k.out ++ k.onward n o })
      let skip := fun (k : Coll) => { k with chunks := aset {} k.chunks key { c with missing := true }, missing := min 65535 (k.missing + 1) }
      if c.written || c.missing || !k.mine n k.rank o.chunk then move s k
      else if k.code != 0 then move s (skip k)
      else match s.writeResult k o with
        | .retry ps => s.retryStep (s.pinsIn ps) .collectiveStart [slot]
        | .violate a => s.freezeEngine k.core 6 a
        | .fault code => move s (skip { k with code := code })
        | .ok s t =>
          let k := s.coll slot
          move s { k with chunks := aset {} k.chunks key { c with written := true }, pass := max k.pass t,
                          foldMin := some (min (k.foldMin.getD o.count) o.count),
                          anyPart := k.anyPart || o.partl || o.count != n }

/-- A fold leaves this rank: to the next, or from the last rank as a result (R324). -/
def State.emitFold (s : State) (slot c first count : Nat) (partl : Bool) (ws : List Word) : State :=
  let k := s.coll slot
  let n := s.teamSize k.team
  let o : OutChunk := { result := false, to_ := k.rank + 1, chunk := c, first := first, count := count, partl := partl, elems := ws }
  let k := { k with chunks := aset {} k.chunks c { k.chunk c with sent := true, fold := none } }
  if k.rank + 1 < n then s.setColl slot { k with out := k.out ++ [o] }
  else State.takeResults slot 1 (s.setColl slot { k with inq := { o with result := true, to_ := 0, first := 0 } :: k.inq })

/-- What stands for a contribution that has met a fault (R329): the spec gives no value, and these are free (log 70). -/
def State.noElems (s : State) (k : Coll) (c : Nat) : List Word := (List.range (k.len c)).map fun i => Config.freeWord s.freeCount (128 * c + i)

/-- Folds chunk c if it can be folded now (R324, R327): on rank 0 from the start, on another rank when the fold of the rank before it has come, and on
any rank once T has passed. A device whose contribution has met a fault passes a fold on as PARTIAL. -/
def State.tryFold (s : State) (slot c : Nat) : State :=
  let k := s.coll slot
  let x := k.chunk c
  if x.sent || !(k.rank = 0 || x.fold.isSome || k.late1) then s
  else match s.contribution k c with
    | .later => s
    | .retry ps => s.retryStep (s.pinsIn ps) .collectiveStart [slot]
    | .violate a => s.freezeEngine k.core 6 a
    | .gone code =>
      let s := s.setColl slot { k with code := code }
      match x.fold with
      | some (first, count, _, ws) => s.emitFold slot c first count true ws
      | none => s.emitFold slot c k.rank 0 true (s.noElems k c)
    | .ready own =>
      match x.fold with
      | some (first, count, partl, ws) =>
        s.emitFold slot c first (count + 1) partl (if count = 0 then own else (ws.zip own).map fun e => foldWord k.ty e.1 e.2)
      | none => s.emitFold slot c k.rank 1 (k.rank != 0) own

/-- This device's own elements of an operation without a fold (R326): they are written here and go round the ring, once. A device whose source has
met a fault writes none, and sends a chunk marked PARTIAL that counts no contribution, so that the other members complete (R329). -/
def State.ownChunk (s : State) (slot c : Nat) : State :=
  let k := s.coll slot
  let x := k.chunk (k.key k.rank c)
  let n := s.teamSize k.team
  if x.sent then s
  else match s.contribution k c with
    | .later => s
    | .retry ps => s.retryStep (s.pinsIn ps) .collectiveStart [slot]
    | .violate a => s.freezeEngine k.core 6 a
    | .gone code =>
      let o : OutChunk := { result := true, to_ := 0, chunk := c, first := k.rank, count := 0, partl := true, elems := s.noElems k c }
      s.setColl slot { k with code := code, chunks := aset {} k.chunks (k.key k.rank c) { x with sent := true }, inq := k.inq ++ [o] }
    | .ready own =>
      let o : OutChunk := { result := true, to_ := 0, chunk := c, first := k.rank, count := n, partl := false, elems := own }
      s.setColl slot { k with chunks := aset {} k.chunks (k.key k.rank c) { x with sent := true }, inq := k.inq ++ [o] }

/-- Once every chunk of its contribution has been read, a collective has its source no longer to read (R216). -/
def Coll.readOut (k : Coll) : Coll :=
  if (List.range k.nchunks).all fun c => (k.chunk (k.key k.rank c)).sent then { k with foot := k.foot.filter (·.1) } else k

/-- Whatever a started collective can do now. -/
def State.progress (s : State) (slot : Nat) : State :=
  let k := s.coll slot
  if k.state != .started || s.engineFrozen k.core 6 then s
  else
    let s := if k.folds then (List.range k.nchunks).foldl (fun s c => s.tryFold slot c) s
      else if k.op = 2 || blockRoot k.block = k.rank then (List.range k.nchunks).foldl (fun s c => s.ownChunk slot c) s
      else s
    let s := s.setColl slot (s.coll slot).readOut
    (State.takeResults slot ((s.coll slot).inq.length) s).flushColl slot

/-- Whether a port has a context of its sequencer free, and its die 64 staging slots (R322, R324): each started collective holds one and 64. DEDUCED:
a staging slot holds one chunk, 512 bytes of the die's staging ring (log entry 128). -/
def State.stagingRoom (s : State) (port : Nat) : Bool :=
  let on := fun (f : Nat → Bool) => (s.colls.filter fun e => e.2.state == .started && e.2.port != 31 && f e.2.port).length
  on (· == port) < 8 && 64 * (on (fun p => p / 3 == port / 3) + 1) ≤ 2 ^ 15 * bitsOf (s.ctlReg (0x3000 + 8 * (port / 3))) 2 0

/-- COLLECTIVE_START (R322, R325): subject: the slot. A ticketed slot starts once the three conditions hold, and not while a checkpoint is under way
(R389); a started one goes on. -/
def State.startColl (s : State) (slot : Nat) : State :=
  let k := s.coll slot
  if k.state == .started then s.progress slot
  else if k.state != .ticketed || s.engineFrozen k.core 6 || s.dev == .checkpoint then s
  else
    let n := s.teamSize k.team
    let least := s.colls.all fun e => e.2.state != .ticketed || k.ticket ≤ e.2.ticket
    let clear := s.colls.all fun e => !(e.2.state == .posted || e.2.state == .cancelSent) || k.ticket < (e.2.clk + 1) * 256
    let next := s.teamFid k.team ((k.rank + 1) % n)
    let port := (s.portTo next).getD 31
    if !least || !clear then s
    else if s.unstaged next then s.endSlot slot .failed Code.COL_ARGS
    else if port != 31 && !s.stagingRoom port then s
    else
      let k := { k with state := .started, start := s.dtime, port := port }
      let s := s.setColl slot k
      let before := (k.rank + n - 1) % n
      let s := s.grant k before 64
      let s := if k.op = 1 && k.rank + 1 != n && before + 1 != n then s.grant k (n - 1) 64 else s
      let s := if k.tmo = 0 then s
        else (s.timer false (s.dtime + k.tmo) .collectiveTimeout [slot]).timer false (s.dtime + 2 * k.tmo) .collectiveResultTimeout [slot]
      (s.progress slot).pokeColls

def execCollectiveStart (s : State) : Host.Outcome State Fault Refusal := .next (s.startColl (s.arg 0))

/-- The started slot of a ticket. -/
def State.slotOfTicket (s : State) (t : Nat) : Option Nat := (s.colls.find? fun e => e.2.ticket == t && e.2.state == .started).map (·.1)

/-- FOLD_CHUNK (R324, R327): subject: ticket, chunk, FIRST, COUNT, PARTIAL; elements. A fold whose chunk has been sent is late. -/
def execFoldChunk (s : State) : Host.Outcome State Fault Refusal :=
  .next (match s.slotOfTicket (s.arg 0) with
    | none => s
    | some slot =>
      let k := s.coll slot
      let c := s.arg 1
      let n := s.teamSize k.team
      let s := s.grant k ((k.rank + n - 1) % n) 1
      if !k.folds || k.nchunks ≤ c then s
      else if (k.chunk c).sent then s.setColl slot { k with late := min 65535 (k.late + 1) }
      else
        let x : Chunk := { k.chunk c with fold := some (s.arg 2, s.arg 3, s.subject.flag, s.subject.elems.take (k.len c)) }
        let k : Coll := { k with chunks := aset {} k.chunks c x }
        (s.setColl slot k).progress slot)

/-- RESULT_CHUNK (R326): subject: ticket, chunk, rank, COUNT, PARTIAL; elements. -/
def execResultChunk (s : State) : Host.Outcome State Fault Refusal :=
  .next (match s.slotOfTicket (s.arg 0) with
    | none => s
    | some slot =>
      let k := s.coll slot
      let n := s.teamSize k.team
      let s := s.grant k (if k.op = 1 then n - 1 else (k.rank + n - 1) % n) 1
      if k.nchunks ≤ s.arg 1 || n ≤ s.arg 2 then s
      else
        let o : OutChunk := { result := true, to_ := k.rank, chunk := s.arg 1, first := s.arg 2, count := s.arg 3, partl := s.subject.flag,
                              elems := s.subject.elems.take (k.len (s.arg 1)) }
        (s.setColl slot { k with inq := k.inq ++ [o] }).progress slot)

/-- CREDIT (R313): subject: ticket, how many, and the rank that grants them. They may come before this device has started. -/
def execCredit (s : State) : Host.Outcome State Fault Refusal :=
  let t := s.arg 0
  let at_ := creditKey t (s.arg 2)
  let s : State := { s with credits := aset 0 s.credits at_ (aget 0 s.credits at_ + s.arg 1) }
  .next (match s.slotOfTicket t with
    | none => s
    | some slot => s.flushColl slot)

/-- COLLECTIVE_TIMEOUT (R327): subject: the slot. -/
def execCollectiveTimeout (s : State) : Host.Outcome State Fault Refusal :=
  let k := s.coll (s.arg 0)
  .next (if k.state == .started && k.lateAt 1 s.dtime then (s.setColl (s.arg 0) { k with late1 := true }).progress (s.arg 0)
    else s)

/-- COLLECTIVE_RESULT_TIMEOUT (R327): subject: the slot. Missing results are given up, and chunks without credit dropped. -/
def State.giveUp (s : State) (slot : Nat) : State :=
  let k := s.coll slot
  if !(k.state == .started && k.lateAt 2 s.dtime) || s.engineFrozen k.core 6 then s
  else
    let n := s.teamSize k.team
    let k := (k.keys n).foldl (fun (k : Coll) key =>
      let c := k.chunk key
      let miss := !c.written && !c.missing && k.mine n k.rank key
      { k with chunks := aset {} k.chunks key { c with sent := true, missing := c.missing || miss, fold := none },
               missing := if miss then min 65535 (k.missing + 1) else k.missing }) k
    (s.setColl slot { k with late2 := true, out := [], inq := [] }).flushColl slot

def execCollectiveResultTimeout (s : State) : Host.Outcome State Fault Refusal := .next (s.giveUp (s.arg 0))

/-- COLLECTIVE_END (R327): subject: the slot. Every chunk is settled, every write performed, and device time has passed their completion time. -/
def State.endColl (s : State) (slot : Nat) : State :=
  let k := s.coll slot
  let n := s.teamSize k.team
  if k.state != .started || !k.out.isEmpty || !k.inq.isEmpty || !(k.keys n).all (k.settledKey n) then s
  else if s.engineFrozen k.core 6 || s.awaitsPeer k.id then s
  else if s.dtime < k.pass then s.timer false k.pass .collectiveEnd [slot]
  else
    let lost := (s.lostAt k.id).isSome
    let s : State := { s with credits := s.credits.filter fun e => e.1 / 256 != k.ticket, engLost := s.engLost.filter (·.1 != k.id) }
    if k.code = 0 && lost then s.endSlot slot .failed Code.FABRIC_LOST
    else if k.code != 0 then s.endSlot slot .failed k.code
    else s.endSlot slot (if k.missing = 0 && !k.anyPart then .done else .partl) 0

def execCollectiveEnd (s : State) : Host.Outcome State Fault Refusal := .next (s.endColl (s.arg 0))

/-! ### The instructions (R329 to R331) -/

/-- QPOST (R329): its faults, the release at device scope, and then the post. -/
def qpostBody (sd sa : BitVec 8) : Ctx → State → Res := once fun x s =>
  let b := x.operands (x.block8 s sa)
  let l := s.launchOf x.c x.p
  let mk : Coll := { owner := some x.g.node, core := x.c, grp := x.p, uid := x.g.uid, root := l.root, rootV := l.rootV, handler := x.g.handler }
  match s.postSlot b mk with
  | .error code => .fault code 0#64 s
  | .ok _ => afterRelease 6 b (fun x s => match s.postSlot b mk with
    | .error code => .fault code 0#64 s
    | .ok (slot, s) => .ok (x.putS sd (BitVec.ofNat 32 slot) s)) x s

def execQpost (g : Guard) (sd sa : BitVec 8) (s : State) : Host.Outcome State Fault Refusal := issue (.qpost g sd sa) g (qpostBody sd sa) s

/-- Runs a slot instruction, after COL_SLOT (R330). -/
def withSlot (sa : BitVec 8) (body : Nat → Ctx → State → Res) : Ctx → State → Res := once fun x s =>
  let a := (x.sreg s sa).toNat
  let k := s.coll a
  if 256 ≤ a || k.state == .free || k.owner != some x.g.node then .fault Code.COL_SLOT 0#64 s else body a x s

def SlotState.code : SlotState → Nat
  | .free => 0
  | .posted => 1
  | .cancelSent => 2
  | .ticketed => 3
  | .started => 4
  | .done => 5
  | .partl => 6
  | .cancelled => 7
  | .failed => 8

def SlotState.ended (k : SlotState) : Bool := 5 ≤ k.code

/-- QTICK (R330). -/
def execQtick (g : Guard) (sd sa : BitVec 8) (tr : Bool) (s : State) : Host.Outcome State Fault Refusal :=
  issue (.qtick g sd sa tr) g
    (withSlot sa fun a x s =>
      let k := s.coll a
      if 3 ≤ k.state.code then .ok (x.putS64 sd (BitVec.ofNat 64 k.ticket) s)
      else if tr then .ok (x.putS64 sd 0#64 s) else .wait s) s

/-- QCANCEL (R330). -/
def execQcancel (g : Guard) (sd sa : BitVec 8) (s : State) : Host.Outcome State Fault Refusal :=
  issue (.qcancel g sd sa) g
    (withSlot sa fun a x s =>
      if (s.coll a).state == .posted then .ok (x.putS sd 1#32 (s.cancelSlot a)) else .ok (x.putS sd 0#32 s)) s

/-- The four words of QCOMP (R330). -/
def Coll.words (k : Coll) : List Word :=
  [BitVec.ofNat 32 (k.state.code * 2 ^ 28 + (if k.state == .failed then k.code else 0) * 2 ^ 21 + k.foldMin.getD 0 * 2 ^ 12 + k.rank),
   BitVec.ofNat 32 (k.missing * 2 ^ 16 + k.late), BitVec.ofNat 32 k.ticket, BitVec.ofNat 32 (k.ticket / 2 ^ 32)]

/-- QCOMP (R330). -/
def execQcomp (g : Guard) (sd sa : BitVec 8) (nw fre : Bool) (s : State) : Host.Outcome State Fault Refusal :=
  issue (.qcomp g sd sa nw fre) g
    (withSlot sa fun a x s =>
      let k := s.coll a
      let put := fun (s : State) => k.words.zipIdx.foldl (fun s w => s.setSr x.c x.p (sd.toNat + w.2) w.1) s
      if k.state.ended then .ok (put (x.acquire 6 (if fre then s.setColl a {} else s)))
      else if nw then .ok (put s) else .wait s) s

/-- QRING (R331): a number that names no team in force gives all ones. -/
def qringWord (s : State) (n : Nat) : Word :=
  if 64 ≤ n || !(s.teamCfg n).getLsbD 63 then 0xFFFFFFFF#32
  else
    let r := s.teamRank n
    BitVec.ofNat 32 (r + (s.teamSize n - 1) * 2 ^ 8 + s.teamFid n ((r + 1) % s.teamSize n) * 2 ^ 16 + s.teamFid n 0 * 2 ^ 24)

def execQring (g : Guard) (sd sa : BitVec 8) (s : State) : Host.Outcome State Fault Refusal :=
  issue (.qring g sd sa) g (once fun x s => .ok (x.putS sd (qringWord s (x.sreg s sa).toNat) s)) s

/-- MDRAINC (R265): the next 4 KiB of the contribution to a started FP32 reduction. -/
def mdraincBody (m sb sc : BitVec 8) (rel : Bool) : Ctx → State → Res := once fun x s =>
  let a := s.acc x.c x.p m.toNat
  let c := (x.sreg s sb).toNat
  let slot := (x.sreg s sc).toNat
  let k := s.coll slot
  if 7 < c then .fault Code.MLOOP_ARGS 0#64 s
  else if a.flt.f then x.loopFault a s
  else if a.f64 then .fault Code.ACC_TYPE 0#64 s
  else if 256 ≤ slot || k.state != .started || k.owner != some x.g.node || k.ty != 0 || 1 < k.op || !blockDrain k.block ||
      k.count < k.drain.length + 1024 then .fault Code.MDRAINC_JOB 0#64 s
  else if rel && s.guideWaits x.c x.p m.toNat then .wait s 6
  else
    let ws := (a.chunk c).flatMap fun r => r.map fun v => BitVec.ofNat 32 v
    .ok ((x.release rel m.toNat (s.setColl slot { k with drain := k.drain ++ ws })).progress slot)

def execMdrainc (g : Guard) (m sb sc : BitVec 8) (rel : Bool) (s : State) : Host.Outcome State Fault Refusal :=
  issue (.mdrainc g m sb sc rel) g (mdraincBody m sb sc rel) s

end Sys2Proof.Machine
end

