-- ==== Sys2Proof/Machine/Hatch.lean ====
section
/-!
DEFINITION. Hatch sets (R149 to R167): ring tables and their slots, HRING and its commit, and the set operations.
-/
namespace Sys2Proof.Machine

/-! ### Exact values of the extended line -/

/-- An exact rational (denominator above 0), or an end of the line. -/
inductive XR where
  | ninf
  | pinf
  | q (n : Int) (d : Nat)
deriving DecidableEq, Repr

def XR.lt : XR → XR → Bool
  | .ninf, .ninf => false
  | .ninf, _ => true
  | _, .ninf => false
  | .pinf, _ => false
  | _, .pinf => true
  | .q n d, .q n' d' => n * d' < n' * d

def Dy.xr (a : Dy) : XR := if 0 ≤ a.e then .q (a.n * 2 ^ a.e.toNat) 1 else .q a.n (2 ^ (-a.e).toNat)

def XR.neg : XR → XR
  | .ninf => .pinf
  | .pinf => .ninf
  | .q n d => .q (-n) d

/-- 1 / x for x not zero, from above or below: the limit at an end of the line is 0. -/
def XR.inv : XR → XR
  | .ninf => .q 0 1
  | .pinf => .q 0 1
  | .q n d => .q (if n < 0 then -(d : Int) else d) n.natAbs

/-! ### Rings (R149, R150) -/

/-- The ring values of a table (R153). -/
def ringP (t : List Byte) (k : Nat) : Word := leWord (slice t (4 * k) 4)

/-- The index of the point at infinity. -/
def ringM (t : List Byte) : Nat := ((List.range 8).find? fun k => ringP t k == 0x7F800000#32).getD 0

def ringVal (t : List Byte) (k : Nat) : Dy := FV.dy (Fmt.decode .f32 (ringP t k).toNat)

/-- Whether a table's values form a ring and its reserved bytes are zero (R149, R153). -/
def ringValid (t : List Byte) : Bool :=
  let m := ringM t
  let ok := fun (k : Nat) => match Fmt.decode .f32 (ringP t k).toNat with
    | .fin n v _ => v != 0 && n == decide (m < k)
    | _ => false
  let rising := fun (k : Nat) => (ringVal t k).cmp (ringVal t (k + 1)) == .lt
  t.length == 1664 && zeros t 32 128 && ringP t 0 == 0#32 && m != 0 &&
  ((List.range 8).filter fun k => ringP t k == 0x7F800000#32).length == 1 &&
  ((List.range 8).all fun k => k = 0 || k = m || ok k) &&
  ((List.range 7).all fun k => k = 0 || k = m || k + 1 = m || rising k)

/-- The ends of an element (R150): equal for a point; an arc that touches infinity ends at an end of the line. -/
def ringLo (t : List Byte) (e : Nat) : XR := if e / 2 = ringM t then .ninf else (ringVal t (e / 2)).xr

def ringHi (t : List Byte) (e : Nat) : XR :=
  let k := (e + 1) / 2 % 8
  if k = ringM t then .pinf else (ringVal t k).xr

/-- Whether element e meets a point or an open interval (R154); infinity never does. -/
def meets (t : List Byte) (point : Bool) (a b : XR) (e : Nat) : Bool :=
  if e = 2 * ringM t then false
  else if e % 2 = 0 then
    let p := ringLo t e
    if point then !(p.lt a) && !(a.lt p) else a.lt p && p.lt b
  else if point then (ringLo t e).lt a && a.lt (ringHi t e)
  else (ringLo t e).lt b && a.lt (ringHi t e)

/-- The mask of the elements for which a test holds. -/
def elemMask (f : Nat → Bool) : Word := (List.range 16).foldl (fun m e => if f e then m ||| bitMask e else m) 0#32

/-- NEG and RCP of an element (R156). -/
def ringNeg (t : List Byte) (e : Nat) : Word :=
  if e = 0 || e = 2 * ringM t then bitMask e
  else elemMask (meets t (e % 2 == 0) (ringHi t e).neg (ringLo t e).neg)

def XR.isZero : XR → Bool
  | .q n _ => n == 0
  | _ => false

def ringRcp (t : List Byte) (e : Nat) : Word :=
  if e = 0 then bitMask (2 * ringM t)
  else if e = 2 * ringM t then 1#32
  else
    let lo := ringLo t e
    let hi := ringHi t e
    let a := if hi.isZero then .ninf else hi.inv
    let b := if lo.isZero then .pinf else lo.inv
    elemMask (meets t (e % 2 == 0) a b)

/-- An entry of one of the three tables (R153). -/
def ringEntry (t : List Byte) (base i j : Nat) : Word := BitVec.ofNat 32 (sliceNat t (base + 2 * (16 * i + j)) 2)

/-- The elements of a mask: bits 15:0 (R150). -/
def elems (a : Word) : List Nat := (List.range 16).filter fun e => a.getLsbD e

/-- U of R164. -/
def unionOf (t : List Byte) (base : Nat) (a b : Word) : Word :=
  (elems a).foldl (fun m i => (elems b).foldl (fun m j => m ||| ringEntry t base i j) m) 0#32

def mapOf (f : Nat → Word) (a : Word) : Word := (elems a).foldl (fun m e => m ||| f e) 0#32

/-- The element that holds a value (R162): the whole line for a NaN. -/
def elementOf (t : List Byte) (f : Fmt) (x : Nat) : Word × FFlags :=
  match f.decode x with
  | .nan s => (0xFFFF#32, { nv := s })
  | .inf _ => (bitMask (2 * ringM t), {})
  | v => (elemMask (meets t true v.dy.xr v.dy.xr), {})

/-- The word of a bound (R163): a ring value, or an end of the line. -/
def boundWord (t : List Byte) (low : Bool) (e : Nat) : Word :=
  let k := if low then e / 2 else (e + 1) / 2 % 8
  if k = ringM t then (if low then 0xFF800000#32 else 0x7F800000#32) else ringP t k

/-- HTOF (R163): lower and upper bound. -/
def boundsOf (t : List Byte) (a : Word) : DWord :=
  let es := elems a
  if es.isEmpty then pair64 0x7FC00000#32 0x7FC00000#32
  else if es.contains (2 * ringM t) then pair64 0xFF800000#32 0x7F800000#32
  else
    let lo := es.foldl (fun (b : Option Nat) e => match b with
      | some o => if (ringLo t e).lt (ringLo t o) then some e else some o
      | none => some e) none
    let hi := es.foldl (fun (b : Option Nat) e => match b with
      | some o => if (ringHi t o).lt (ringHi t e) then some e else some o
      | none => some e) none
    pair64 (boundWord t true (lo.getD 0)) (boundWord t false (hi.getD 0))

/-! ### HATCH8 (R151, R152) -/

/-- The length of the run of clear bits that starts at element e, around the cycle. -/
def clearRun (a : Word) (e : Nat) : Nat → Nat
  | 0 => 0
  | n + 1 => if a.getLsbD (e % 16) then 0 else 1 + clearRun a (e + 1) n

/-- Compression (R152): the complement of the longest run of clear bits, the lowest first element among equals. -/
def arcOf (a : Word) : Word :=
  let m := a &&& 0xFFFF#32
  if m == 0#32 then 0x0F#32
  else if m == 0xFFFF#32 then 0x1F#32
  else
    let starts := (List.range 16).filter fun e => !m.getLsbD e && m.getLsbD ((e + 15) % 16)
    let best := starts.foldl (fun (b : Nat × Nat) e =>
      let n := clearRun m e 16
      if b.2 < n then (e, n) else b) (0, 0)
    BitVec.ofNat 32 ((best.1 + best.2) % 16 * 16 + (15 - best.2))

/-- Expansion (R151): none for a reserved code. -/
def expandOf (x : Nat) : Option Word :=
  let s := x / 16 % 16
  let n := x % 16
  if n = 15 then (if s = 0 then some 0#32 else if s = 1 then some 0xFFFF#32 else none)
  else some ((List.range (n + 1)).foldl (fun m k => m ||| bitMask ((s + k) % 16)) 0#32)

/-- Maximal cyclic runs of 1 bits (R167). -/
def runsOf (a : Word) : Nat :=
  let m := a &&& 0xFFFF#32
  if m == 0xFFFF#32 then 1
  else ((List.range 16).filter fun e => m.getLsbD e && !m.getLsbD ((e + 15) % 16)).length

/-! ### Ring slots (R157) -/

/-- Runs an instruction on the table of a slot: it stalls on the group's own pending load, and RING_EMPTY stands for a slot of no or
another launch. DEDUCED: it is raised without a live lane too (log entry 150). -/
def withRing (k : BitVec 2) (body : List Byte → Ctx → State → Res) (x : Ctx) (s : State) : Res :=
  let r := aget {} (s.core x.c).slots k.toNat
  if s.slotPending x.c x.p k.toNat then .wait s 1
  else if r.owner != some x.g.node then .fault Code.RING_EMPTY 0#64 s
  else body r.table x s

/-- Begins HRING (R161): 13 loads, one for each line. DESIGN CHOICE: of the faults of several lines that of the lowest is raised (log entry 175). -/
def hringStart (addr : DWord) (k : Nat) (x : Ctx) (s : State) : Res :=
  let lines := (List.range 13).map fun i => addr + BitVec.ofNat 64 (128 * i)
  let pas := lines.map fun a => (a, s.translate x.c (s.launchOf x.c x.p).context { handler := x.g.handler } a)
  match pas.find? fun q => match q.2 with
    | .error _ => true
    | .ok _ => false with
  | some (a, .error code) => x.memRaise code a s
  | _ =>
    let base := x.baseAccess s
    let as := pas.map fun q => { base with lane := 32, n := 128, keep := true, addr := q.1, pa := match q.2 with
      | .ok pa => pa
      | .error _ => 0 }
    if s.linesFull x.c 13 then .wait s
    else .wait (x.remember (0xA7 :: k :: List.range' s.nextId 13) (s.addAccesses as))

/-- HRING (R161): the table is read, checked as read, and handed to the commit; the entry waits for its 13 lines.
DESIGN CHOICE: a misaligned address raises RING_BAD before any line is translated (log entry 175). -/
def hringBody (sa : BitVec 8) (k : BitVec 2) (ofs : BitVec 25) : Ctx → State → Res := once fun x s =>
  let addr := x.sreg64 s sa + (128#64 * ofs.signExtend 64)
  match x.e.note with
  | [] =>
    if s.slotPending x.c x.p k.toNat then .wait s 1
    else if addr.toNat % 128 != 0 then .fault Code.RING_BAD 0#64 s
    else hringStart addr k.toNat x s
  | note =>
    let ids := note.drop 2
    if ids.any fun i => match s.access i with
      | some a => !a.done
      | none => true
    then .wait s
    else
      let t := ids.flatMap fun i => match s.access i with
        | some a => a.value
        | none => []
      let s : State := { s with accesses := s.accesses.filter fun a => !ids.contains a.id }
      if !ringValid t then .fault Code.RING_BAD 0#64 s
      else
        let c := s.core x.c
        let r := aget {} c.slots k.toNat
        let s := s.setCore x.c { c with slots := aset {} c.slots k.toNat { r with loading := r.loading ++ [(x.g.uid, x.g.node, t)] } }
        .ok (s.timer true (s.cycle + 16) .ringSlotCommit [x.c, k.toNat])

def execHring (g : Guard) (sa : BitVec 8) (k : BitVec 2) (ofs : BitVec 25) (s : State) : Host.Outcome State Fault Refusal :=
  issue (.hring g sa k ofs) g (hringBody sa k ofs) s

/-- RING_SLOT_COMMIT (R157): subject: core and slot. The table checked first replaces the slot whole. -/
def State.commitRing (s : State) (c k : Nat) : State :=
  let core := s.core c
  let r := aget {} core.slots k
  match r.loading with
  | [] => s
  | (_, node, t) :: rest =>
    s.setCore c { core with slots := aset {} core.slots k { owner := some node, table := t, loading := rest } }

def execRingSlotCommit (s : State) : Host.Outcome State Fault Refusal := .next (s.commitRing (s.arg 0) (s.arg 1))

/-! ### Instructions (R162 to R167) -/

/-- A set operation of one source on a slot. -/
def hatch1 (d a : VS) (k : BitVec 2) (f : List Byte → Word → Word) : Ctx → State → Res :=
  withRing k fun t x s => .ok (x.put d (fun l => f t (x.src s a l)) s)

/-- A set operation of two sources on a slot. -/
def hatch2 (d a b : VS) (k : BitVec 2) (f : List Byte → Word → Word → Word) : Ctx → State → Res :=
  withRing k fun t x s => .ok (x.put d (fun l => f t (x.src s a l) (x.src s b l)) s)

def addBase : Nat := 128
def mulBase : Nat := 640
def divBase : Nat := 1152

def execHfrom (g : Guard) (d a : VS) (k : BitVec 2) (f64 : Bool) (s : State) : Host.Outcome State Fault Refusal :=
  issue (.hfrom g d a k f64) g
    (withRing k fun t x s => .ok (x.putF d (fun l =>
      if f64 then elementOf t .f64 (x.src64 s a l).toNat else elementOf t .f32 (x.src s a l).toNat) s)) s

def execHtof (g : Guard) (d a : VS) (k : BitVec 2) (s : State) : Host.Outcome State Fault Refusal :=
  issue (.htof g d a k) g (withRing k fun t x s => .ok (x.put64 d (fun l => boundsOf t (x.src s a l)) s)) s

def execHadd (g : Guard) (d a b : VS) (k : BitVec 2) (s : State) : Host.Outcome State Fault Refusal :=
  issue (.hadd g d a b k) g (hatch2 d a b k fun t => unionOf t addBase) s

def execHsub (g : Guard) (d a b : VS) (k : BitVec 2) (s : State) : Host.Outcome State Fault Refusal :=
  issue (.hsub g d a b k) g (hatch2 d a b k fun t a b => unionOf t addBase a (mapOf (ringNeg t) b)) s

def execHmul (g : Guard) (d a b : VS) (k : BitVec 2) (s : State) : Host.Outcome State Fault Refusal :=
  issue (.hmul g d a b k) g (hatch2 d a b k fun t => unionOf t mulBase) s

def execHdiv (g : Guard) (d a b : VS) (k : BitVec 2) (s : State) : Host.Outcome State Fault Refusal :=
  issue (.hdiv g d a b k) g (hatch2 d a b k fun t => unionOf t divBase) s

def execHneg (g : Guard) (d a : VS) (k : BitVec 2) (s : State) : Host.Outcome State Fault Refusal :=
  issue (.hneg g d a k) g (hatch1 d a k fun t => mapOf (ringNeg t)) s

def execHrcp (g : Guard) (d a : VS) (k : BitVec 2) (s : State) : Host.Outcome State Fault Refusal :=
  issue (.hrcp g d a k) g (hatch1 d a k fun t => mapOf (ringRcp t)) s

def execHsq (g : Guard) (d a : VS) (k : BitVec 2) (s : State) : Host.Outcome State Fault Refusal :=
  issue (.hsq g d a k) g (hatch1 d a k fun t => mapOf fun e => ringEntry t mulBase e e) s

def execHuni (g : Guard) (d a b : VS) (s : State) : Host.Outcome State Fault Refusal :=
  issue (.huni g d a b) g (alu2 d a b fun a b => (a ||| b) &&& 0xFFFF#32) s

def execHcap (g : Guard) (d a b : VS) (s : State) : Host.Outcome State Fault Refusal :=
  issue (.hcap g d a b) g (alu2 d a b fun a b => (a &&& b) &&& 0xFFFF#32) s

/-- HIN.flt (R165). -/
def execHinFlt (g : Guard) (p : BitVec 8) (a b : VS) (k : BitVec 2) (f64 : Bool) (s : State) : Host.Outcome State Fault Refusal :=
  issue (.hinFlt g p a b k f64) g
    (withRing k fun t x s => .ok (x.putPF p (fun l =>
      let f : Fmt := if f64 then .f64 else .f32
      let v := if f64 then (x.src64 s b l).toNat else (x.src s b l).toNat
      let e := elementOf t f v
      (!(f.decode v).isNan && (e.1 &&& x.src s a l) != 0#32, e.2)) s)) s

/-- HIN.sub (R165). -/
def execHinSub (g : Guard) (p : BitVec 8) (a b : VS) (s : State) : Host.Outcome State Fault Refusal :=
  issue (.hinSub g p a b) g
    (fun x s => .ok (x.putP p (fun l => (x.src s a l &&& ~~~(x.src s b l)) &&& 0xFFFF#32 == 0#32) s)) s

def execHarc (g : Guard) (d a : VS) (s : State) : Host.Outcome State Fault Refusal :=
  issue (.harc g d a) g (alu1 d a arcOf) s

/-- HEXP (R166): a reserved code gives the whole line and raises NV. -/
def execHexp (g : Guard) (d a : VS) (s : State) : Host.Outcome State Fault Refusal :=
  issue (.hexp g d a) g
    (fun x s => .ok (x.putF d (fun l => match expandOf ((x.src s a l).toNat % 256) with
      | some w => (w, {})
      | none => (0xFFFF#32, { nv := true })) s)) s

def execHcnt (g : Guard) (d a : VS) (runs : Bool) (s : State) : Host.Outcome State Fault Refusal :=
  issue (.hcnt g d a runs) g
    (alu1 d a fun a => BitVec.ofNat 32 (if runs then runsOf a else popCount (a &&& 0xFFFF#32))) s

end Sys2Proof.Machine
end

