-- ==== Sys2Proof/Machine/Burnish.lean ====
section
/-!
DEFINITION. The arithmetic of rank tiles (R289, R294 to R306): every operation rounds once to the tile's element type, and the flags are
gathered on the way. Elements are bit patterns; a factor is a list of columns.
-/
namespace Sys2Proof.Machine

/-- A computation that gathers flags. -/
abbrev FM := StateM FFlags

/-- What the arithmetic of one tile needs: its element type, and whether the launch flushes subnormals. -/
structure TEnv where
  f   : Fmt
  ftz : Bool

/-- Adds flags. -/
def flag (g : FFlags) : FM Unit := modify fun h => h.or g

/-- An operand: flushed under R119. -/
def TEnv.rd (t : TEnv) (x : Nat) : FM FV := do
  let r := Fmt.input t.f t.ftz x
  flag r.2
  return r.1

/-- A rounded result. -/
def giveBits (r : Nat × FFlags) : FM Nat := do
  flag r.2
  return r.1

def TEnv.add (t : TEnv) (a b : Nat) : FM Nat := do giveBits (faddFV t.f t.ftz rn (← t.rd a) (← t.rd b))

def TEnv.mul (t : TEnv) (a b : Nat) : FM Nat := do giveBits (fmulFV t.f t.ftz rn (← t.rd a) (← t.rd b))

def TEnv.fma (t : TEnv) (a b c : Nat) : FM Nat := do giveBits (ffmaFV t.f t.ftz rn (← t.rd a) (← t.rd b) (← t.rd c))

def TEnv.div (t : TEnv) (a b : Nat) : FM Nat := do giveBits (fdivFV t.f t.ftz rn (← t.rd a) (← t.rd b))

def TEnv.sqrt (t : TEnv) (a : Nat) : FM Nat := do giveBits (fsqrtFV t.f t.ftz rn (← t.rd a))

/-- The sign bit of an element. -/
def TEnv.signBit (t : TEnv) : Nat := 2 ^ (if t.f = .f64 then 63 else 31)

/-- Exact negation (R289). -/
def TEnv.neg (t : TEnv) (a : Nat) : Nat := a.xor t.signBit

/-- The element with its sign cleared. -/
def TEnv.abs (t : TEnv) (a : Nat) : Nat := a % t.signBit

def TEnv.one (t : TEnv) : Nat := Fmt.bits t.f (.fin false 1 0)

/-- The value as comparisons see it. -/
def TEnv.val (t : TEnv) (a : Nat) : FV := (Fmt.input t.f t.ftz a).1

def TEnv.isZero (t : TEnv) (a : Nat) : Bool := (t.val a).cmp (.fin false 0 0) == some .eq

def TEnv.below (t : TEnv) (a : Nat) : Bool := (t.val a).cmp (.fin false 0 0) == some .lt

def TEnv.above (t : TEnv) (a : Nat) : Bool := (t.val a).cmp (.fin false 0 0) == some .gt

/-- An ordered comparison: false when a NaN stands on either side (R303). -/
def TEnv.le (t : TEnv) (a b : Nat) : Bool :=
  match (t.val a).cmp (t.val b) with
  | some .lt => true
  | some .eq => true
  | _ => false

/-- A NaN or an infinity. -/
def TEnv.wild (t : TEnv) (a : Nat) : Bool :=
  match t.val a with
  | .fin _ _ _ => false
  | _ => true

/-- A sum (R289): a chain of fma in ascending order. -/
def TEnv.sum (t : TEnv) (xs ys : List Nat) (start : Nat) : FM Nat :=
  (xs.zip ys).foldlM (fun s q => t.fma q.1 q.2 s) start

/-- The value of a tile: nothing stored, rows of elements, or the columns of its two factors (R281). -/
inductive TVal where
  | zero
  | dense (rows : List (List Nat))
  | low (l r : List (List Nat))
deriving DecidableEq, Repr

/-- Rows and columns exchanged: n is the length of the inner lists. -/
def transposed (n : Nat) (m : List (List Nat)) : List (List Nat) := (List.range n).map fun i => m.map fun r => r.getD i 0

/-- The n by n identity, by columns. -/
def TEnv.eye (t : TEnv) (n : Nat) : List (List Nat) :=
  (List.range n).map fun c => (List.range n).map fun i => if i = c then t.one else 0

/-- The product of a matrix by rows and one by columns: every element a sum over the inner index. -/
def TEnv.product (t : TEnv) (rows cols : List (List Nat)) : FM (List (List Nat)) :=
  rows.mapM fun r => cols.mapM fun c => t.sum r c 0

/-! ### The burnisher (R300 to R304) -/

/-- A Householder reflector: its first row, its vector and its beta (R301). -/
structure Refl where
  j    : Nat
  v    : List Nat
  beta : Nat
deriving DecidableEq, Repr

/-- Applies a reflector to a vector, from row j downward. -/
def TEnv.reflect (t : TEnv) (q : Refl) (y : List Nat) : FM (List Nat) := do
  let d ← t.sum (q.v.drop q.j) (y.drop q.j) 0
  let f ← t.div (← t.add d d) q.beta
  let low ← ((q.v.drop q.j).zip (y.drop q.j)).mapM fun e => t.fma (t.neg f) e.1 e.2
  return y.take q.j ++ low

/-- A factor under way through its QR: its columns, its reflectors in order (none for an identity), and the diagonal. -/
structure Qr where
  cols  : List (List Nat)
  refls : List (Option Refl) := []
  diag  : List Nat := []
deriving DecidableEq, Repr

/-- Column j of the QR (R301). -/
def TEnv.qrStep (t : TEnv) (q : Qr) (j : Nat) : FM Qr := do
  let x := q.cols.getD j []
  let s ← t.sum (x.drop j) (x.drop j) 0
  let nu ← t.sqrt s
  if t.isZero nu then return { q with refls := q.refls ++ [none], diag := q.diag ++ [0] }
  let sgnu := if t.below (x.getD j 0) then t.neg nu else nu
  let top ← t.add (x.getD j 0) sgnu
  let v := List.replicate j 0 ++ [top] ++ x.drop (j + 1)
  let beta ← t.sum (v.drop j) (v.drop j) 0
  let r : Refl := { j := j, v := v, beta := beta }
  let rest ← (q.cols.drop (j + 1)).mapM fun y => t.reflect r y
  return { cols := q.cols.take (j + 1) ++ rest, refls := q.refls ++ [some r], diag := q.diag ++ [t.neg sgnu] }

/-- The QR of a factor with h rows and k columns. -/
def TEnv.qr (t : TEnv) (h : Nat) (cols : List (List Nat)) : FM Qr :=
  (List.range (min h cols.length)).foldlM t.qrStep { cols := cols }

/-- The triangular factor, by rows. -/
def Qr.tri (q : Qr) (k : Nat) : List (List Nat) :=
  (List.range q.diag.length).map fun a => (List.range k).map fun c =>
    if c = a then q.diag.getD a 0 else if a < c then (q.cols.getD c []).getD a 0 else 0

/-- Q(y): the reflectors from the last to the first. -/
def TEnv.applyQ (t : TEnv) (q : Qr) (y : List Nat) : FM (List Nat) :=
  q.refls.reverse.foldlM (fun y r => match r with
    | none => pure y
    | some r => t.reflect r y) y

/-- One rotation of a pair of columns. -/
def TEnv.turn (t : TEnv) (c s : Nat) (m : List (List Nat)) (p q : Nat) : FM (List (List Nat)) := do
  let both ← ((m.getD p []).zip (m.getD q [])).mapM fun e => do
    let x ← t.fma c e.1 (t.neg (← t.mul s e.2))
    let y ← t.fma c e.2 (← t.mul s e.1)
    return (x, y)
  return (m.set p (both.map (·.1))).set q (both.map (·.2))

/-- A Jacobi rotation of columns p and q of A and V (R302): none when the columns are orthogonal; an infinite square changes nothing. -/
def TEnv.jacobi (t : TEnv) (m : List (List Nat) × List (List Nat)) (pq : Nat × Nat) : FM (List (List Nat) × List (List Nat)) := do
  let a := m.1.getD pq.1 []
  let b := m.1.getD pq.2 []
  let al ← t.sum a a 0
  let be ← t.sum b b 0
  let ga ← t.sum a b 0
  if t.isZero ga then return m
  let ze ← t.div (← t.add be (t.neg al)) (← t.add ga ga)
  let z2 ← t.fma ze ze t.one
  if (t.val z2).isInf then return m
  let sg := if t.below ze then t.neg t.one else t.one
  let tt ← t.div sg (← t.add (t.abs ze) (← t.sqrt z2))
  let c ← t.div t.one (← t.sqrt (← t.fma tt tt t.one))
  let s ← t.mul c tt
  return (← t.turn c s m.1 pq.1 pq.2, ← t.turn c s m.2 pq.1 pq.2)

/-- The pairs of a sweep, cyclic by rows. -/
def sweepPairs (p : Nat) : List (Nat × Nat) :=
  (List.range p).flatMap fun i => ((List.range p).filter fun j => i < j).map fun j => (i, j)

/-- Whether one singular value comes strictly before another: descending, a NaN above infinity (R303). -/
def TEnv.before (t : TEnv) (a b : Nat) : Bool :=
  match t.val a, t.val b with
  | .nan _, .nan _ => false
  | .nan _, _ => true
  | _, .nan _ => false
  | x, y => x.cmp y == some .gt

/-- Inserts an index before the first that does not come strictly before it. -/
def insertBy (lt : Nat → Nat → Bool) (x : Nat) : List Nat → List Nat
  | [] => [x]
  | y :: ys => if lt y x then y :: insertBy lt x ys else x :: y :: ys

/-- The stable order of the singular values. -/
def TEnv.order (t : TEnv) (sig : List Nat) : List Nat :=
  (List.range sig.length).foldr (insertBy fun i j => t.before (sig.getD i 0) (sig.getD j 0)) []

/-- The least rank that passes the test of the mode (R303). -/
def TEnv.rank (t : TEnv) (s : List Nat) (tol : Nat) (abs : Bool) : FM Nat := do
  let n := s.length
  if abs then return ((List.range n).find? fun r => t.le (s.getD r 0) tol).getD n
  let bound ← t.mul tol (← t.sqrt (← t.sum s s 0))
  let tails ← (List.range n).mapM fun r => do
    let u := (s.drop r).reverse
    t.sqrt (← t.sum u u 0)
  return (firstIdx (fun x => t.le x bound) tails).getD n

/-- The burnisher (R300 to R304): factors of m and n rows, a tolerance and a mode, to factors of least rank. -/
def TEnv.burnish (t : TEnv) (m n : Nat) (l r : List (List Nat)) (tol : Nat) (abs : Bool) : FM TVal := do
  if l.isEmpty then return .zero
  if (l ++ r).any fun c => c.any t.wild then
    flag { nv := true }
    return .low [List.replicate m t.f.qnan] [List.replicate n t.f.qnan]
  let ql ← t.qr m l
  let qr ← t.qr n r
  let rl := ql.tri l.length
  let rr := qr.tri r.length
  let a ← t.product rr rl
  let sweep := fun m => (sweepPairs rr.length).foldlM t.jacobi m
  let av ← (List.range 6).foldlM (fun m _ => sweep m) (a, t.eye rr.length)
  let sig ← av.1.mapM fun c => do t.sqrt (← t.sum c c 0)
  let pi := t.order sig
  let k ← t.rank (pi.map fun j => sig.getD j 0) tol abs
  let pad := fun (h : Nat) (c : List Nat) => c ++ List.replicate (h - c.length) 0
  let left ← (pi.take k).mapM fun j => t.applyQ ql (pad m (av.1.getD j []))
  let right ← (pi.take k).mapM fun j => t.applyQ qr (pad n (av.2.getD j []))
  return if k = 0 then .zero else .low left right

/-! ### Tile arithmetic (R294 to R299) -/

/-- Expansion of a tile to m by n elements (R299). -/
def TEnv.expand (t : TEnv) (m n : Nat) (v : TVal) : FM (List (List Nat)) :=
  match v with
  | .zero => pure (List.replicate m (List.replicate n 0))
  | .dense rows => pure rows
  | .low l r => t.product (transposed m l) (transposed n r)

/-- TADD (R294). -/
def TEnv.tadd (t : TEnv) (a b : TVal) : FM TVal := do
  let mixed := fun (d l r : List (List Nat)) => (d.zipIdx).mapM fun row => (row.1.zipIdx).mapM fun e =>
    t.sum (l.map fun c => c.getD row.2 0) (r.map fun c => c.getD e.2 0) e.1
  match a, b with
  | .zero, x => return x
  | x, .zero => return x
  | .dense d, .dense e => return .dense (← (d.zip e).mapM fun q => (q.1.zip q.2).mapM fun u => t.add u.1 u.2)
  | .dense d, .low l r => return .dense (← mixed d l r)
  | .low l r, .dense d => return .dense (← mixed d l r)
  | .low l r, .low l' r' => return .low (l ++ l') (r ++ r')

/-- TSCL (R295). -/
def TEnv.tscl (t : TEnv) (alpha : Nat) (v : TVal) : FM TVal := do
  let scale := fun (m : List (List Nat)) => m.mapM fun c => c.mapM fun x => t.mul alpha x
  if t.abs alpha = 0 then return .zero
  match v with
  | .zero => return .zero
  | .dense d => return .dense (← scale d)
  | .low l r => return .low (← scale l) r

/-- TMUL (R296): A has m rows, B has n columns. -/
def TEnv.tmul (t : TEnv) (m n : Nat) (a b : TVal) : FM TVal := do
  match a, b with
  | .zero, _ => return .zero
  | _, .zero => return .zero
  | .dense d, .dense e => return .dense (← t.product d (transposed n e))
  | .dense d, .low l r => return .low (transposed l.length (← t.product d l)) r
  | .low l r, .dense e => return .low l (transposed r.length (← t.product (transposed n e) r))
  | .low l r, .low l' r' =>
    let k := l'.length
    let mm ← t.product r l'
    if l.length ≤ k then return .low l (transposed l.length (← t.product (transposed n r') mm))
    return .low (transposed k (← t.product (transposed m l) (transposed k mm))) r'

/-- A tile's transpose, exact (R297): n is its column count. -/
def TVal.flip (n : Nat) : TVal → TVal
  | .zero => .zero
  | .dense d => .dense (transposed n d)
  | .low l r => .low r l

/-- A tile negated, exact (R297). -/
def TEnv.tneg (t : TEnv) : TVal → TVal
  | .zero => .zero
  | .dense d => .dense (d.map fun r => r.map t.neg)
  | .low l r => .low (l.map fun c => c.map t.neg) r

/-- TMULV (R298): the elements of the product. -/
def TEnv.tmulv (t : TEnv) (m : Nat) (v : TVal) (x : List Nat) : FM (List Nat) := do
  match v with
  | .zero => return List.replicate m 0
  | .dense d => d.mapM fun r => t.sum r x 0
  | .low l r =>
    let u ← r.mapM fun c => t.sum c x 0
    (transposed m l).mapM fun row => t.sum row u 0

/-! ### Solvers (R305, R306) -/

/-- TPOTRF under way: the columns of L so far, and the failing column + 1. -/
structure Potrf where
  cols : List (List Nat) := []
  info : Nat := 0
deriving DecidableEq, Repr

/-- Column j of the factorisation; m rows. -/
def TEnv.potrfStep (t : TEnv) (m : Nat) (a : List (List Nat)) (p : Potrf) (j : Nat) : FM Potrf := do
  let nan := List.replicate m t.f.qnan
  if p.info != 0 then return { p with cols := p.cols ++ [nan] }
  let l := fun (i c : Nat) => (p.cols.getD c []).getD i 0
  let el := fun (i : Nat) => (a.getD i []).getD j 0
  let chain := fun (i : Nat) => (List.range j).foldlM (fun s c => t.fma (t.neg (l i c)) (l j c) s) (el i)
  let s ← chain j
  if !t.above s then
    flag { nv := true }
    return { cols := p.cols ++ [nan], info := j + 1 }
  let d ← t.sqrt s
  let rest ← (List.range' (j + 1) (m - (j + 1))).mapM fun i => do t.div (← chain i) d
  return { p with cols := p.cols ++ [List.replicate j 0 ++ [d] ++ rest] }

/-- TPOTRF (R305): rows of L and INFO. -/
def TEnv.potrf (t : TEnv) (m : Nat) (a : List (List Nat)) : FM (List (List Nat) × Nat) := do
  let p ← (List.range m).foldlM (t.potrfStep m a) {}
  return (transposed m p.cols, p.info)

/-- A triangular solve (R306): T by rows, lower or upper. -/
def TEnv.solve (t : TEnv) (m : List (List Nat)) (lower unit : Bool) (b : List Nat) : FM (List Nat) := do
  let s := b.length
  let el := fun (i c : Nat) => (m.getD i []).getD c 0
  let step := fun (y : List Nat) (i : Nat) => do
    let cs := if lower then List.range i else List.range' (i + 1) (s - (i + 1))
    let v ← cs.foldlM (fun v c => t.fma (t.neg (el i c)) (y.getD c 0) v) (b.getD i 0)
    let v ← if unit then pure v else t.div v (el i i)
    return y.set i v
  (if lower then List.range s else (List.range s).reverse).foldlM step (List.replicate s 0)

/-- TTRSM (R306): s is the size of T, n the column count of the right-hand side. -/
def TEnv.ttrsm (t : TEnv) (s n : Nat) (m : List (List Nat)) (b : TVal) (rgt tr up un : Bool) : FM TVal := do
  let m' := if tr then transposed s m else m
  let lower := up == tr
  if rgt then
    let mt := transposed s m'
    match b with
    | .zero => return .zero
    | .dense d => return .dense (← d.mapM fun r => t.solve mt (!lower) un r)
    | .low l r => return .low l (← r.mapM fun c => t.solve mt (!lower) un c)
  match b with
  | .zero => return .zero
  | .dense d => return .dense (transposed s (← (transposed n d).mapM fun c => t.solve m' lower un c))
  | .low l r => return .low (← l.mapM fun c => t.solve m' lower un c) r

end Sys2Proof.Machine
end

