-- ==== Sys2Proof/Machine/Rank.lean ====
section
/-!
DEFINITION. Class RNK (R278 to R307): tile descriptors, the block's factor heap, the burnisher and its queue, BURN nodes (R338), and MSKETCH,
which reads a tile.
-/
namespace Sys2Proof.Machine

/-! ### Descriptors (R279, R280) -/

/-- The element type. -/
def TDesc.fmt (d : TDesc) : Fmt := if d.et = 1 then .f64 else .f32

def TDesc.image (d : TDesc) : DWord :=
  BitVec.ofNat 64 (d.kind * 2 ^ 62 + d.et * 2 ^ 61 + d.rows * 2 ^ 58 + d.cols * 2 ^ 55 + d.k * 2 ^ 49 + d.kcap * 2 ^ 43 + d.pol * 2 ^ 41 +
    d.mode * 2 ^ 40 + d.toli * 2 ^ 34 + d.rsv * 2 ^ 28 + d.ofs * 2 ^ 14 + d.size)

/-- Bytes that a dense tile takes, and those of factors of a rank. -/
def TDesc.denseBytes (d : TDesc) : Nat := d.m * d.n * d.e
def TDesc.lowBytes (d : TDesc) (k : Nat) : Nat := (d.m + d.n) * k * d.e

/-- A valid descriptor (R280). -/
def TDesc.valid (d : TDesc) (heapsz : Nat) : Bool :=
  d.kind != 3 && d.rows ≤ 5 && d.cols ≤ 5 && d.rsv == 0 && d.k ≤ 32 && d.kcap ≤ 32 &&
  (if d.kind = 2 then 1 ≤ d.k && d.k ≤ d.kcap && d.lowBytes d.kcap ≤ 128 * d.size else d.k == 0) &&
  (d.kind != 1 || d.denseBytes ≤ 128 * d.size) && d.ofs + d.size ≤ heapsz / 128

/-- One shape and element type. -/
def TDesc.like (a b : TDesc) : Bool := a.rows == b.rows && a.cols == b.cols && a.et == b.et

/-- The map bits of a descriptor's storage (R282). -/
def granules (ofs size : Nat) : Nat := (2 ^ size - 1) * 2 ^ ofs

/-- Whether a descriptor's storage is allocated; nothing is missing where there is none. -/
def TDesc.allocated (d : TDesc) (map : Nat) : Bool := map &&& granules d.ofs d.size == granules d.ofs d.size

/-- The lowest run of free granules that is long enough (R282). -/
def freeRun (map total n : Nat) : Option Nat := (List.range (total + 1 - n)).find? fun k => map &&& granules k n == 0

/-! ### Where a job's tiles and heap stand -/

def State.tile (s : State) (c p t : Nat) : Tile := aget {} (s.grp c p).tiles t

def State.burnOf (s : State) (n : Nat) : Option BurnJob := s.burns.find? (·.node == n)

def State.setBurn (s : State) (b : BurnJob) : State := { s with burns := s.burns.map fun k => if k.node == b.node then b else k }

/-- A descriptor register as a job names it: its group's, or the BURN node's own (R338). -/
def State.jobTile (s : State) (j : RJob) (t : Nat) : Tile :=
  match j.burn with
  | none => s.tile j.core j.grp t
  | some n => aget {} ((s.burnOf n).getD {}).tiles t

def State.setJobTile (s : State) (j : RJob) (t : Nat) (x : Tile) : State :=
  match j.burn with
  | none => let g := s.grp j.core j.grp
            s.setGrp j.core j.grp { g with tiles := aset {} g.tiles t x }
  | some n => match s.burnOf n with
    | none => s
    | some b => s.setBurn { b with tiles := aset {} b.tiles t x }

/-- Size of a job's heap in bytes. -/
def State.jobHeapSize (s : State) (j : RJob) : Nat :=
  match j.burn with
  | none => (s.heapSlice j.core j.slot).2
  | some n => ((s.burnOf n).getD {}).size

/-- Bytes of a job's heap. -/
def State.heapBytes (s : State) (j : RJob) (o n : Nat) : List Byte :=
  match j.burn with
  | none => s.poolBytes j.core ((s.heapSlice j.core j.slot).1 + o) n
  | some k => (List.range n).map fun i => aget 0#8 ((s.burnOf k).getD {}).heap (o + i)

def State.setHeapBytes (s : State) (j : RJob) (o : Nat) (bs : List Byte) : State :=
  match j.burn with
  | none => s.setPoolBytes j.core ((s.heapSlice j.core j.slot).1 + o) bs
  | some k => match s.burnOf k with
    | none => s
    | some b => s.setBurn { b with heap := bs.zipIdx.foldl (fun m x => aset 0#8 m (o + x.2) x.1) b.heap }

def State.jobMap (s : State) (j : RJob) : Nat :=
  match j.burn with
  | none => (s.blkAt j.core j.slot).heapMap
  | some n => ((s.burnOf n).getD {}).map

def State.setJobMap (s : State) (j : RJob) (m : Nat) : State :=
  match j.burn with
  | none => let b := s.blkAt j.core j.slot
            s.setBlk j.core j.slot { b with heapMap := m }
  | some n => match s.burnOf n with
    | none => s
    | some b => s.setBurn { b with map := m }

/-- Sets the heap record of the job's block (R293). -/
def State.setHeapFlt (s : State) (j : RJob) (f : Nat × DWord) : State :=
  match j.burn with
  | none => let b := s.blkAt j.core j.slot
            s.setBlk j.core j.slot { b with heapFlt := f }
  | some n => match s.burnOf n with
    | none => s
    | some b => s.setBurn { b with heapFlt := f }

/-- The value of a tile (R281). -/
def State.tileVal (s : State) (j : RJob) (d : TDesc) : TVal :=
  let el := fun (o : Nat) => leNat (s.heapBytes j (128 * d.ofs + d.e * o) d.e)
  match d.kind with
  | 0 => .zero
  | 1 => .dense ((List.range d.m).map fun i => (List.range d.n).map fun k => el (i * d.n + k))
  | _ => .low ((List.range d.k).map fun c => (List.range d.m).map fun i => el (c * d.m + i))
              ((List.range d.k).map fun c => (List.range d.n).map fun i => el (d.m * d.kcap + c * d.n + i))

/-- Elements as bytes. -/
def rowBytes (e : Nat) (xs : List (List Nat)) : List Byte := xs.flatMap fun r => r.flatMap fun x => leBytes e x

/-- Elements from bytes, in lines of w. -/
def elemLines (e w n : Nat) (bs : List Byte) : List (List Nat) :=
  (List.range n).map fun i => (List.range w).map fun k => sliceNat bs (e * (i * w + k)) e

/-! ### Commit and growth (R287) -/

/-- The tolerance that a descriptor names (R300). -/
def TDesc.tol (d : TDesc) : Nat := if d.toli = 0 then 0 else Fmt.bits d.fmt (.fin false 1 (-(d.toli : Int)))

/-- Step 3: what becomes of a LOWRANK result above the capacity, by the policy; none for RANKCAP. -/
def TEnv.grow (t : TEnv) (d : TDesc) (v : TVal) (burnt : Bool) : FM (Option (TDesc × TVal)) := do
  match v with
  | .low l r =>
    if l.length ≤ d.kcap then return some (d, v)
    match d.pol with
    | 0 => return if l.length ≤ 32 then some ({ d with kcap := min 32 (max l.length (2 * d.kcap)) }, v) else none
    | 1 =>
      let w ← if burnt then pure v else t.burnish d.m d.n l r d.tol (d.mode == 1)
      match w with
      | .low l r => return some (d, if d.kcap = 0 then .zero else .low (l.take d.kcap) (r.take d.kcap))
      | w => return some (d, w)
    | 2 => return some (d, .dense (← t.expand d.m d.n v))
    | _ => return none
  | v => return some (d, v)

/-- Steps 1, 2 and 4: the result reaches the heap and the descriptor; none for HEAP_FULL. -/
def State.commitTile (s : State) (j : RJob) (t info : Nat) (d : TDesc) (v : TVal) : Option State :=
  let put := fun (s : State) (d : TDesc) => s.setJobTile j t { img := d.image, info := info }
  match v with
  | .zero => some (put s { d with kind := 0, k := 0 })
  | v =>
    let d := match v with
      | .low l _ => { d with kind := 2, k := l.length }
      | _ => { d with kind := 1, k := 0 }
    let n := ceilDiv (match v with
      | .low _ _ => d.lowBytes d.kcap
      | _ => d.denseBytes) 128
    let write := fun (s : State) (d : TDesc) => match v with
      | .low l r => (s.setHeapBytes j (128 * d.ofs) (rowBytes d.e l)).setHeapBytes j (128 * d.ofs + d.e * d.m * d.kcap) (rowBytes d.e r)
      | .dense rows => s.setHeapBytes j (128 * d.ofs) (rowBytes d.e rows)
      | .zero => s
    if n ≤ d.size then some (put (write s d) d)
    else match freeRun (s.jobMap j) (s.jobHeapSize j / 128) n with
      | none => none
      | some k =>
        let old := granules d.ofs d.size
        let d := { d with ofs := k, size := n }
        let s := write (s.setJobMap j (s.jobMap j ||| granules k n)) d
        let s := put s d
        some (s.setJobMap j (s.jobMap j ^^^ old))

/-! ### What is checked at issue (R284, R285) -/

/-- What the operands of a rank-tile instruction name. -/
structure RankSrc where
  tile    : Nat → Tile
  heapsz  : Nat
  heapFlt : Nat × DWord
  count   : Nat
  sr      : BitVec 8 → Word
  sr64    : BitVec 8 → DWord
  v       : Nat → Nat → Word

/-- Why a rank-tile instruction does not issue: a fault of its own, a descriptor's recorded one, or that of the block's heap. -/
inductive RankStop where
  | code (c : Nat)
  | recorded (c : Nat) (addr : DWord)
  | heap (c : Nat) (addr : DWord)
deriving DecidableEq, Repr

/-- What a rank-tile instruction takes into the burnisher. -/
structure RankReq where
  words : List DWord := []
  xs    : List Nat := []
  vdst  : List Nat := []
  sdst  : List Nat := []
  foot  : List (Bool × Bool × Nat × Nat) := []
deriving DecidableEq, Repr

def RankSrc.d (e : RankSrc) (t : BitVec 8) : TDesc := TDesc.of (e.tile t.toNat).img

/-- The first check that fails, then the first recorded fault of the named descriptors. -/
def RankSrc.check (e : RankSrc) (fs : List (Bool × Nat)) (ts : List (BitVec 8)) (r : RankReq) : Except RankStop RankReq :=
  match fs.find? (!·.1) with
  | some f => .error (.code f.2)
  | none => match ts.find? fun t => (e.tile t.toNat).code != 0 with
    | some t => .error (.recorded (e.tile t.toNat).code (e.tile t.toNat).addr)
    | none => .ok r

/-- The rows of a dense image in memory: first address and length of each. -/
def imageRows (d : TDesc) (a : DWord) (stride : Word) : List (Nat × Nat) :=
  (List.range d.m).map fun i => ((a + BitVec.ofInt 64 (Int.ofNat i * stride.toInt)).toNat % 2 ^ 57, d.n * d.e)

/-- The footprint of ranges of memory. -/
def rangesFoot (w : Bool) (rs : List (Nat × Nat)) : List (Bool × Bool × Nat × Nat) := rs.map fun r => (w, false, r.1, r.2)

/-- A record word of TDESC.rec names a cause, or none (R286). -/
def recordOk (w : Word) : Bool :=
  let code := field w.toNat 24 7
  if w.getLsbD 31 then 1 ≤ code && code ≤ 0x4D else code == 0

/-- Bytes of a heap image (R293): the slice and its padded map. -/
def heapImageBytes (heapsz : Nat) : Nat := heapsz + 128 * ceilDiv (ceilDiv (heapsz / 128) 8) 128

/-- The checks of a heap form (R293). -/
def RankSrc.heapForm (e : RankSrc) (write : Bool) (sa : BitVec 8) : Except RankStop RankReq :=
  let a := e.sr64 sa
  if a.toNat % 128 != 0 then .error (.code Code.TILE_BAD)
  else if e.heapFlt.1 != 0 then .error (.heap e.heapFlt.1 e.heapFlt.2)
  else .ok { words := [a], foot := rangesFoot write [(a.toNat % 2 ^ 57, heapImageBytes e.heapsz)] }

/-- The checks of each rank-tile instruction, and what it takes with it. -/
def rankReq (i : Instr) (e : RankSrc) : Except RankStop RankReq :=
  match i with
  | .tdesc _ _ sa b rcd =>
    let img := e.sr64 sa
    let r := if rcd then e.sr b.n else 0#32
    e.check [((TDesc.of img).valid e.heapsz && recordOk r, Code.TILE_BAD)] [] { words := [img, r.setWidth 64] }
  | .tdescRd _ sd _ => .ok { sdst := [sd.toNat, sd.toNat + 1] }
  | .trank _ sd _ _ => .ok { sdst := [sd.toNat] }
  | .tzero _ _ => .ok {}
  | .thfre _ _ => .ok {}
  | .thalc _ t => e.check [((e.d t).size != 0, Code.TILE_BAD)] [t] {}
  | .tld _ t sa sb =>
    let a := e.sr64 sa
    let k := e.sr sb
    e.check [(a.toNat % (e.d t).e == 0 && k.toNat % (e.d t).e == 0, Code.TILE_BAD)] [t]
      { words := [a, k.setWidth 64], foot := rangesFoot false (imageRows (e.d t) a k) }
  | .tldf _ t sa sb =>
    let a := e.sr64 sa
    let k := (e.sr sb).toNat
    e.check [(a.toNat % (e.d t).e == 0 && 1 ≤ k && k ≤ 32, Code.TILE_BAD)] [t]
      { words := [a, BitVec.ofNat 64 k], foot := rangesFoot false [(a.toNat % 2 ^ 57, (e.d t).lowBytes k)] }
  | .tstD _ sa t sc =>
    let a := e.sr64 sa
    let k := e.sr sc
    e.check [(a.toNat % (e.d t).e == 0 && k.toNat % (e.d t).e == 0, Code.TILE_BAD)] [t]
      { words := [a, k.setWidth 64], foot := rangesFoot true (imageRows (e.d t) a k) }
  | .tstF _ sa t =>
    let a := e.sr64 sa
    e.check [(a.toNat % (e.d t).e == 0, Code.TILE_BAD), ((e.d t).kind == 2, Code.TILE_KIND)] [t]
      { words := [a], foot := rangesFoot true [(a.toNat % 2 ^ 57, (e.d t).lowBytes (e.d t).k)] }
  | .tldHeap _ sa => e.heapForm false sa
  | .tstHeap _ sa => e.heapForm true sa
  | .tadd _ t a b => e.check [((e.d a).like (e.d t) && (e.d b).like (e.d t), Code.TILE_SHAPE)] [t, a, b] {}
  | .tmul _ t a b =>
    let d := e.d t
    let x := e.d a
    let y := e.d b
    e.check [(x.cols == y.rows && d.rows == x.rows && d.cols == y.cols && x.et == d.et && y.et == d.et, Code.TILE_SHAPE)] [t, a, b] {}
  | .tupd _ t a b =>
    let d := e.d t
    let x := e.d a
    let y := e.d b
    e.check [(x.cols == y.cols && d.rows == x.rows && d.cols == y.rows && x.et == d.et && y.et == d.et, Code.TILE_SHAPE)] [t, a, b] {}
  | .tscl _ t a sb =>
    let wide := (e.d a).et == 1
    e.check [((e.d a).like (e.d t), Code.TILE_SHAPE)] [t, a]
      { words := [if wide then e.sr64 sb else (e.sr sb).setWidth 64] }
  | .tmulv _ d a vb =>
    let x := e.d a
    let w := x.e / 4
    let ny := w * ceilDiv x.m 32
    e.check [] [a]
      { xs := (List.range x.n).map fun k =>
          let r := vb.toNat + w * (k / 32)
          (e.v (k % 32) r).toNat + (if w = 2 then (e.v (k % 32) (r + 1)).toNat * 2 ^ 32 else 0),
        vdst := List.range' d.toNat ny }
  | .trnd _ t a b st _ =>
    let wide := (e.d a).et == 1
    e.check [((e.d a).kind != 1, Code.TILE_KIND), ((e.d a).like (e.d t), Code.TILE_SHAPE)] [t, a]
      { words := if st then [if wide then e.sr64 b.n else (e.sr b.n).setWidth 64] else [] }
  | .ttod _ t a => e.check [((e.d a).like (e.d t), Code.TILE_SHAPE)] [t, a] {}
  | .ttol _ t a => e.check [((e.d a).kind != 2, Code.TILE_KIND), ((e.d a).like (e.d t), Code.TILE_SHAPE)] [t, a] {}
  | .tpotrf _ t a =>
    e.check [((e.d a).kind == 1, Code.TILE_KIND), ((e.d a).rows == (e.d a).cols && (e.d a).like (e.d t), Code.TILE_SHAPE)] [t, a] {}
  | .ttrsm _ t a b rgt _ _ _ =>
    let x := e.d a
    let y := e.d b
    e.check [(x.kind == 1, Code.TILE_KIND),
             (x.rows == x.cols && x.rows == (if rgt then y.cols else y.rows) && x.et == y.et && y.like (e.d t), Code.TILE_SHAPE)] [t, a, b] {}
  | _ => .error (.code Code.ILLEGAL_OP)

/-! ### The burnisher's work -/

/-- Where the record of an instruction is set (R285): a tile, or the block's heap record; none for those that never record. -/
inductive RecordAt where
  | tile (t : Nat)
  | heap
  | none
deriving DecidableEq, Repr

def recordAt (i : Instr) : RecordAt :=
  match i with
  | .tstD _ _ t _ => .tile t.toNat
  | .tstF _ _ t => .tile t.toNat
  | .tmulv _ _ a _ => .tile a.toNat
  | .tldHeap _ _ => .heap
  | .tstHeap _ _ => .heap
  | i => match tileDest i with
    | some t => .tile t
    | none => .none

/-- Sets the record of a job that has no other effect. -/
def State.recordRank (s : State) (j : RJob) (code : Nat) (addr : DWord) : State :=
  match recordAt j.what with
  | .tile t => s.setJobTile j t { s.jobTile j t with code := code, addr := addr, info := 0 }
  | .heap => s.setHeapFlt j (code, addr)
  | .none => s

/-- How a job ends. -/
inductive RankEnd where
  | done (s : State) (f : FFlags) (t : Nat) (written : List (Nat × Byte))
  | record (code : Nat) (addr : DWord)
  | violate (addr : DWord)

def RankEnd.stop : EngStop → RankEnd
  | .fault code a => .record code a
  | .violate a => .violate a

/-- An instruction that computes a result for tile t from sources: HEAP_BAD first, then the result, its growth and its commit. -/
def State.computed (s : State) (j : RJob) (t : Nat) (srcs : List Nat) (burnt : Bool) (f : TEnv → TDesc → FM (TVal × Nat)) : RankEnd :=
  let desc := fun k => TDesc.of (s.jobTile j k).img
  if (t :: srcs).any fun k => !((desc k).allocated (s.jobMap j)) then .record Code.HEAP_BAD 0#64
  else
    let d := desc t
    let env : TEnv := { f := d.fmt, ftz := (s.launch j.node).ftz }
    let r : FM (Option (TDesc × TVal) × Nat) := do
      let v ← f env d
      let w ← env.grow d v.1 burnt
      return (w, v.2)
    let out := r.run {}
    match out.1.1 with
    | none => .record Code.RANKCAP 0#64
    | some (d, v) => match s.commitTile j t out.1.2 d v with
      | none => .record Code.HEAP_FULL 0#64
      | some s => .done s out.2 s.dtime []

/-- Whether regions of a BURN node cover a range (R217, R338). -/
def coveredBy (regions : List (Nat × Nat × Bool)) (write : Bool) : Nat → Nat → Nat → Bool
  | 0, _, n => n == 0
  | fuel + 1, a, n =>
    n == 0 || match regions.find? fun r => r.1 ≤ a && a < r.1 + r.2.1 && (!write || r.2.2) with
      | none => false
      | some r => let k := r.1 + r.2.1 - a
                  coveredBy regions write fuel (a + k) (n - k)

/-- Whether a job may touch a range: a BURN node's within its declared regions. -/
def State.rankCovered (s : State) (j : RJob) (write : Bool) (a n : Nat) : Bool :=
  match j.burn with
  | none => true
  | some k => let rs := (s.node k).regions
              coveredBy rs write (rs.length + 1) a n

/-- Reads ranges of memory one after another. -/
def State.rankRead (s : State) (j : RJob) : List (Nat × Nat) → Except EngStop (List Byte)
  | [] => .ok []
  | r :: rest =>
    if !s.rankCovered j false r.1 r.2 then .error (.violate (BitVec.ofNat 64 r.1))
    else match s.engRead j.core j.ctx j.handler (BitVec.ofNat 64 r.1) r.2 with
      | .error e => .error e
      | .ok bs => match s.rankRead j rest with
        | .error e => .error e
        | .ok more => .ok (bs ++ more)

/-- Stores bytes to ranges of memory one after another; the completion time of the last. -/
def State.rankWrite (s : State) (j : RJob) : List (Nat × Nat) → List Byte → Nat → Except EngStop (State × Nat)
  | [], _, t => .ok (s, t)
  | r :: rest, bs, t =>
    if !s.rankCovered j true r.1 r.2 then .error (.violate (BitVec.ofNat 64 r.1))
    else match s.engWrite j.core j.id r.1 j.ctx j.handler (BitVec.ofNat 64 r.1) (bs.take r.2) with
      | .error e => .error e
      | .ok (s, u) => s.rankWrite j rest (bs.drop r.2) (max t u)

/-- A load of a tile from ranges of memory. -/
def State.tileLoad (s : State) (j : RJob) (t : Nat) (rs : List (Nat × Nat)) (f : TDesc → List Byte → TVal) : RankEnd :=
  if !((TDesc.of (s.jobTile j t).img).allocated (s.jobMap j)) then .record Code.HEAP_BAD 0#64
  else match s.rankRead j rs with
    | .error e => .stop e
    | .ok bs => s.computed j t [] false fun _ d => pure (f d bs, 0)

/-- A store of bytes to ranges of memory. -/
def State.tileStore (s : State) (j : RJob) (rs : List (Nat × Nat)) (bs : List Byte) : RankEnd :=
  match s.rankWrite j rs bs s.dtime with
  | .error e => .stop e
  | .ok (s, t) =>
    let w := (rs.foldl (fun (a : List (Nat × Byte) × List Byte) r =>
      (a.1 ++ bytesAt (BitVec.ofNat 64 r.1) (a.2.take r.2), a.2.drop r.2)) ([], bs)).1
    .done s.wakeWaits {} t (if (s.launch j.node).det then w else [])

/-- The heap image of a job's block (R293). -/
def State.heapImage (s : State) (j : RJob) : List Byte :=
  let n := s.jobHeapSize j
  s.heapBytes j 0 n ++ leBytes (heapImageBytes n - n) (s.jobMap j)

/-- Restores a heap image. -/
def State.restoreHeap (s : State) (j : RJob) (bs : List Byte) : State :=
  let n := s.jobHeapSize j
  (s.setHeapBytes j 0 (bs.take n)).setJobMap j (leNat (bs.drop n) % 2 ^ (n / 128))

/-- Writes words to scalar registers that a job names. -/
def State.rankScalars (s : State) (j : RJob) (ws : List Word) : State :=
  if j.burn.isSome || (s.grp j.core j.grp).uid != j.uid then s
  else s.putDest j.core j.grp j.handler (.scalar (j.sdst.headD 0)) ws

/-- The word of TRANK (R286). -/
def trankWord (t : Tile) : Word :=
  let d := TDesc.of t.img
  BitVec.ofNat 32 ((if t.code = 0 then 0 else 2 ^ 31 + t.code * 2 ^ 24) + t.info % 256 * 2 ^ 16 + d.kind * 2 ^ 6 + d.k)

/-- Writes the elements of TMULV (R298). -/
def State.rankVector (s : State) (j : RJob) (w : Nat) (ys : List Nat) : State :=
  if j.burn.isSome || (s.grp j.core j.grp).uid != j.uid then s
  else ys.zipIdx.foldl (fun s y =>
    let r := j.vdst.headD 0 + w * (y.2 / 32)
    let s := s.setV j.core j.grp (y.2 % 32) r (BitVec.ofNat 32 y.1)
    if w = 2 then s.setV j.core j.grp (y.2 % 32) (r + 1) (BitVec.ofNat 32 (y.1 / 2 ^ 32)) else s) s

/-- The effect of a job, all of it at its commit: the burnisher runs one job at a time, so nothing changes its sources meanwhile. -/
def State.runRank (s : State) (j : RJob) : RankEnd :=
  let word := fun k => (j.words.getD k 0#64)
  let desc := fun (t : BitVec 8) => TDesc.of (s.jobTile j t.toNat).img
  let val := fun (t : BitVec 8) => s.tileVal j (desc t)
  let fin := fun (s : State) => RankEnd.done s {} s.dtime []
  match j.what with
  | .tdesc _ t _ _ _ =>
    let r := (word 1).toNat
    fin (s.setJobTile j t.toNat { img := word 0, code := if r / 2 ^ 31 = 1 then field r 24 7 else 0, info := field r 16 8 })
  | .tdescRd _ _ t => let x := (s.jobTile j t.toNat).img
                      fin (s.rankScalars j [lo32 x, hi32 x])
  | .trank _ _ t clr =>
    let x := s.jobTile j t.toNat
    let s := s.rankScalars j [trankWord x]
    fin (if clr then s.setJobTile j t.toNat { x with code := 0, addr := 0#64, info := 0 } else s)
  | .tzero _ t => fin (s.setJobTile j t.toNat { img := { desc t with kind := 0, k := 0 }.image })
  | .thalc _ t =>
    let d := desc t
    match freeRun (s.jobMap j) (s.jobHeapSize j / 128) d.size with
    | none => .record Code.HEAP_FULL 0#64
    | some k => fin ((s.setJobMap j (s.jobMap j ||| granules k d.size)).setJobTile j t.toNat { img := { d with ofs := k }.image })
  | .thfre _ t =>
    let d := desc t
    if !d.allocated (s.jobMap j) then .record Code.HEAP_BAD 0#64
    else fin ((s.setJobMap j (s.jobMap j ^^^ granules d.ofs d.size)).setJobTile j t.toNat
      { img := { d with kind := 0, k := 0, ofs := 0, size := 0 }.image })
  | .tld _ t _ _ =>
    s.tileLoad j t.toNat (imageRows (desc t) (word 0) ((word 1).setWidth 32)) fun d bs => .dense (elemLines d.e d.n d.m bs)
  | .tldf _ t _ _ =>
    let k := (word 1).toNat
    s.tileLoad j t.toNat [((word 0).toNat % 2 ^ 57, (desc t).lowBytes k)] fun d bs =>
      .low (elemLines d.e d.m k bs) (elemLines d.e d.n k (bs.drop (d.e * d.m * k)))
  | .tstD _ _ t _ =>
    let d := desc t
    let env : TEnv := { f := d.fmt, ftz := (s.launch j.node).ftz }
    if !d.allocated (s.jobMap j) then .record Code.HEAP_BAD 0#64
    else
      let out := (env.expand d.m d.n (val t)).run {}
      match s.tileStore j (imageRows d (word 0) ((word 1).setWidth 32)) (rowBytes d.e out.1) with
      | .done s _ u w => .done s out.2 u w
      | e => e
  | .tstF _ _ t =>
    let d := desc t
    if !d.allocated (s.jobMap j) then .record Code.HEAP_BAD 0#64
    else match val t with
      | .low l r => s.tileStore j [((word 0).toNat % 2 ^ 57, d.lowBytes d.k)] (rowBytes d.e (l ++ r))
      | _ => fin s
  | .tldHeap _ _ =>
    match s.rankRead j [((word 0).toNat % 2 ^ 57, heapImageBytes (s.jobHeapSize j))] with
    | .error e => .stop e
    | .ok bs => fin (s.restoreHeap j bs)
  | .tstHeap _ _ => s.tileStore j [((word 0).toNat % 2 ^ 57, heapImageBytes (s.jobHeapSize j))] (s.heapImage j)
  | .tadd _ t a b => s.computed j t.toNat [a.toNat, b.toNat] false fun e _ => do return (← e.tadd (val a) (val b), 0)
  | .tmul _ t a b =>
    s.computed j t.toNat [a.toNat, b.toNat] false fun e d => do return (← e.tmul d.m d.n (val a) (val b), 0)
  | .tupd _ t a b =>
    s.computed j t.toNat [a.toNat, b.toNat] false fun e d => do
      let p ← e.tmul d.m d.n (val a) ((val b).flip (desc b).n)
      return (← e.tadd (val t) (e.tneg p), 0)
  | .tscl _ t a _ => s.computed j t.toNat [a.toNat] false fun e _ => do return (← e.tscl (word 0).toNat (val a), 0)
  | .tmulv _ _ a _ =>
    let d := desc a
    let env : TEnv := { f := d.fmt, ftz := (s.launch j.node).ftz }
    if !d.allocated (s.jobMap j) then .record Code.HEAP_BAD 0#64
    else
      let out := (env.tmulv d.m (val a) j.xs).run {}
      .done (s.rankVector j (d.e / 4) out.1) out.2 s.dtime []
  | .trnd _ t a _ st abs =>
    s.computed j t.toNat [a.toNat] true fun e d => do
      match val a with
      | .low l r => return (← e.burnish d.m d.n l r (if st then (word 0).toNat else d.tol) (if st then abs else d.mode == 1), 0)
      | v => return (v, 0)
  | .ttod _ t a => s.computed j t.toNat [a.toNat] false fun e d => do return (.dense (← e.expand d.m d.n (val a)), 0)
  | .ttol _ t a =>
    s.computed j t.toNat [a.toNat] true fun e d => do
      match val a with
      | .dense rows =>
        let l := if d.n ≤ d.m then transposed d.n rows else e.eye d.m
        let r := if d.n ≤ d.m then e.eye d.n else rows
        return (← e.burnish d.m d.n l r d.tol (d.mode == 1), 0)
      | _ => return (.zero, 0)
  | .tpotrf _ t a =>
    s.computed j t.toNat [a.toNat] false fun e d => do
      match val a with
      | .dense rows => let r ← e.potrf d.m rows
                       return (.dense r.1, r.2)
      | v => return (v, 0)
  | .ttrsm _ t a b rgt tr up un =>
    s.computed j t.toNat [a.toNat, b.toNat] false fun e d => do
      match val a with
      | .dense rows => return (← e.ttrsm (desc a).m d.n rows (val b) rgt tr up un, 0)
      | v => return (v, 0)
  | _ => fin s

/-- The kind and rank of a sum and of a product (R294, R296). -/
def sumKind (a b : Nat × Nat) : Nat × Nat :=
  if a.1 = 0 then b else if b.1 = 0 then a else if a.1 = 2 && b.1 = 2 then (2, a.2 + b.2) else (1, 0)

def productKind (a b : Nat × Nat) : Nat × Nat :=
  if a.1 = 0 || b.1 = 0 then (0, 0) else if a.1 = 1 && b.1 = 1 then (1, 0)
  else if a.1 = 1 then b else if b.1 = 1 then a else (2, min a.2 b.2)

/-- The phase boundaries of a burnish of rank k (R301 to R304): a column of each factor, the core product, six sweeps, the sort and rank choice,
and the rebuild. -/
def burnPhases (d : TDesc) (k : Nat) : Nat := if k = 0 then 0 else min d.m k + min d.n k + 9

/-- Those of the commit of a result: a burnish under FUSE where the rank exceeds the capacity (R287). -/
def fusePhases (d : TDesc) (v : Nat × Nat) : Nat := if v.1 = 2 && d.kcap < v.2 && d.pol = 1 then burnPhases d v.2 else 0

/-- The phase boundaries inside a job (R307). TSCL by ±0 gives ZERO in one phase (R295), as TTRSM does of a ZERO tile (R306), and
TPOTRF stops at the column that fails (R305). -/
def State.phasesOf (s : State) (j : RJob) : Nat :=
  let desc := fun (t : BitVec 8) => TDesc.of (s.jobTile j t.toNat).img
  let env := fun (t : BitVec 8) => ({ f := (desc t).fmt, ftz := (s.launch j.node).ftz } : TEnv)
  let kind := fun (t : BitVec 8) => ((desc t).kind, (desc t).k)
  match j.what with
  | .tld _ t _ _ => (desc t).denseBytes / 4096
  | .tldf _ t _ _ =>
    let k := (j.words.getD 1 0#64).toNat
    (desc t).lowBytes k / 4096 + fusePhases (desc t) (2, k)
  | .tstD _ _ t _ => (desc t).denseBytes / 4096
  | .tstF _ _ t => (desc t).lowBytes (desc t).k / 4096
  | .tldHeap _ _ => heapImageBytes (s.jobHeapSize j) / 4096
  | .tstHeap _ _ => heapImageBytes (s.jobHeapSize j) / 4096
  | .trnd _ _ a _ _ _ => burnPhases (desc a) (desc a).k
  | .ttol _ _ a => if (desc a).kind = 1 then burnPhases (desc a) (min (desc a).m (desc a).n) else 0
  | .tadd _ t a b => fusePhases (desc t) (sumKind (kind a) (kind b))
  | .tmul _ t a b => fusePhases (desc t) (productKind (kind a) (kind b))
  | .tupd _ t a b => fusePhases (desc t) (sumKind (kind t) (productKind (kind a) (kind b)))
  | .tscl _ t a _ => if (env t).abs (j.words.getD 0 0#64).toNat = 0 then 0 else fusePhases (desc t) (kind a)
  | .tpotrf _ t a => match s.tileVal j (desc a) with
    | .dense rows => let info := (((env t).potrf (desc t).m rows).run {}).1.2
                     if info = 0 then (desc a).m else info
    | _ => (desc a).m
  | .ttrsm _ t _ b rgt _ _ _ =>
    (if (desc b).kind = 0 then 0 else if (desc b).kind = 2 then (desc b).k else if rgt then (desc b).m else (desc b).n) + fusePhases (desc t) (kind b)
  | _ => 0

/-! ### BURN nodes (R338) -/

/-- What a BURN job does while it cannot make the accesses to virtual ranges that are its next: as engine work does, it tries again, by the step of its
burnisher that names its node. -/
def State.burnWaits (s : State) (b : BurnJob) (fetch : Bool) (rs : List (Nat × Nat)) (what : Instr) (nums : List Nat) : Option State :=
  let x : Context := { root := (s.node b.node).root, v := true }
  let ps := rs.flatMap fun r => match s.translateRange b.core x { fetch := fetch } (BitVec.ofNat 64 r.1) r.2 with
    | .ok ps => ps
    | .error _ => []
  if s.linesFull b.core (min 1 ps.length) then some (s.post what nums)
  else match s.pinnedBy b.core ps with
    | [] => none
    | ls => some (s.retryStep ls what nums)

/-- The images of a BURN job in memory: the descriptors of its tiles, and its heap (R293, R338). -/
def BurnJob.images (b : BurnJob) : List (Nat × Nat) := [(b.tileAddr.toNat % 2 ^ 57, 128), (b.heapAddr.toNat % 2 ^ 57, heapImageBytes b.size)]

/-- Ends a BURN node: its images are written back in every case. Its code is ILLEGAL_OP where that stopped it, or that of the lowest descriptor with
a record, then that of the heap record, then the fault of the instruction that stopped it (DEDUCED, log entry 126). -/
def State.endBurn (s : State) (b : BurnJob) : State :=
  let l := s.node b.node
  let j : RJob := { id := b.uid, core := b.core, uid := b.uid, node := b.node, root := l.root, rootV := true, what := .tzero ⟨false, 7#3⟩ 0#8,
                    burn := some b.node }
  let imgs := (List.range 16).flatMap fun t => leBytes 8 (aget {} b.tiles t).img.toNat
  let first := (List.range 16).findSome? fun t => let x : Tile := aget {} b.tiles t
                                                  if x.code = 0 then none else some x.code
  let heap := if b.heapFlt.1 = 0 then none else some b.heapFlt.1
  let code := if b.stop == some Code.ILLEGAL_OP then Code.ILLEGAL_OP else ((first.orElse fun _ => heap).orElse fun _ => b.stop).getD 0
  let drop := fun (s : State) (code t : Nat) =>
    let s := s.setBurn { b with ended := some code }
    (s.setNode b.node { s.node b.node with wct := max (s.node b.node).wct t }).post .nodeCompletion [b.node]
  match s.burnWaits b false b.images .burnisherPhaseBoundary [b.core, b.node] with
  | some t => t.setBurn { b with closing := true }
  | none => match s.rankWrite j b.images (imgs ++ s.heapImage j) s.dtime with
  | .ok (s, t) => drop s.wakeWaits code t
  | .error (.fault c _) => drop s (if code = 0 then c else code) 0
  | .error (.violate a) => s.freezeEngine b.core 5 a

/-- A BURN node whose images have been written back, and answered by the peers that have them, ends with its code (R342); FABRIC_LOST for an image
that was lost. -/
def State.dropBurn (s : State) (n : Nat) : State :=
  match s.burns.find? (·.node == n) with
  | none => s
  | some b => match b.ended with
    | none => s
    | some code =>
      if s.awaitsPeer b.uid then s
      else
        let code := if code = 0 && (s.lostAt b.uid).isSome then Code.FABRIC_LOST else code
        let s : State := { s with burns := s.burns.filter (·.node != n), engLost := s.engLost.filter (·.1 != b.uid) }
        s.setNode n { s.node n with code := code }

/-- What a BURN job's instruction finds where it names a register: a job has tiles of its own and no other registers, so every other operand
is a value that the spec leaves open. -/
def State.burnSrc (s : State) (b : BurnJob) : RankSrc :=
  { tile := aget {} b.tiles, heapsz := b.size, heapFlt := b.heapFlt, count := 256,
    sr := fun n => Config.freeWord s.freeCount n.toNat,
    sr64 := fun n => pair64 (Config.freeWord s.freeCount n.toNat) (Config.freeWord s.freeCount (n.toNat + 1)),
    v := fun l r => Config.freeWord s.freeCount (512 + 256 * l + r) }

/-- Whether a word of a BURN clause acts: its predicate other than p7 is a value that the spec leaves open. -/
def State.burnActs (s : State) (g : Guard) : Bool :=
  if g.p == 7#3 then !g.neg else (Config.freeWord s.freeCount (300 + g.p.toNat)).getLsbD 0 != g.neg

/-- The guard of a rank-tile instruction; none for every other. -/
def rankGuard (i : Instr) : Option Guard :=
  match i with
  | .tdesc g _ _ _ _ => some g
  | .tdescRd g _ _ => some g
  | .tld g _ _ _ => some g
  | .tldHeap g _ => some g
  | .tldf g _ _ _ => some g
  | .tstD g _ _ _ => some g
  | .tstF g _ _ => some g
  | .tstHeap g _ => some g
  | .tzero g _ => some g
  | .tadd g _ _ _ => some g
  | .tscl g _ _ _ => some g
  | .tmul g _ _ _ => some g
  | .tmulv g _ _ _ => some g
  | .trnd g _ _ _ _ _ => some g
  | .trank g _ _ _ => some g
  | .ttod g _ _ => some g
  | .ttol g _ _ => some g
  | .tpotrf g _ _ => some g
  | .ttrsm g _ _ _ _ _ _ _ => some g
  | .tupd g _ _ _ => some g
  | .thalc g _ => some g
  | .thfre g _ => some g
  | _ => none

/-- A word of memory at a virtual address, as a BURN node fetches it. -/
def State.burnWord (s : State) (b : BurnJob) (a : DWord) : Except Nat DWord :=
  match s.translate b.core { root := (s.node b.node).root, v := true } { fetch := true } a with
  | .error e => .error e
  | .ok pa => .ok (s.dword pa)

/-- The words of its clause that a BURN job reads next: the header, and the word after its last instruction while the clause has one. -/
def State.burnWords (s : State) (b : BurnJob) : List (Nat × Nat) :=
  let word := ((wordAddr b.clause b.idx).toNat % 2 ^ 57, 8)
  (b.clause.toNat % 2 ^ 57, 8) :: match s.burnWord b b.clause with
    | .error _ => []
    | .ok h => if (decodeHeader h).any fun k => b.idx ≤ k.count.toNat then [word] else []

/-- The next instruction of a BURN clause: none at its end, or the code that stops the node. -/
def State.burnFetch (s : State) (b : BurnJob) : Except Nat (Option Instr) :=
  match s.burnWord b b.clause with
  | .error e => .error e
  | .ok h =>
    match (if b.clause.toNat % 8 = 0 && isHeader h then decodeHeader h else none) with
    | none => .error Code.ILLEGAL_OP
    | some k =>
      if k.cls != 5#3 then .error Code.ILLEGAL_OP
      else if k.count.toNat < b.idx then .ok none
      else match s.burnWord b (wordAddr b.clause b.idx) with
        | .error e => .error e
        | .ok w => match decodeWord w with
          | .error _ => .error Code.ILLEGAL_OP
          | .ok i => if (rankGuard i).isSome then .ok (some i) else .error Code.ILLEGAL_OP

/-- Brings a BURN job to its next instruction, which enters the burnisher after those already there; none does while a checkpoint is under way
(R389). -/
def State.burnNext (n : Nat) : Nat → State → State
  | 0, s => s
  | fuel + 1, s =>
    match s.burnOf n with
    | none => s
    | some b =>
      if s.dev == .checkpoint || s.engineFrozen b.core 5 || b.ended.isSome || s.rjobs.any (·.burn == some n) then s
      else if b.closing then s.endBurn b
      else match s.burnWaits b true (s.burnWords b) .burnisherPhaseBoundary [b.core, n] with
      | some t => t
      | none => match s.burnFetch b with
      | .error code => s.endBurn { b with stop := some code }
      | .ok none => s.endBurn b
      | .ok (some i) =>
        let s := s.setBurn { b with idx := b.idx + 1 }
        if !s.burnActs ((rankGuard i).getD ⟨false, 7#3⟩) then State.burnNext n fuel s
        else if tileOdd (aget {} b.tiles) i then s.endBurn { b with stop := some Code.ILLEGAL_OP }
        else if (tileRegs (aget {} b.tiles) i).any (256 ≤ ·) then s.endBurn { b with stop := some Code.REGIDX }
        else match rankReq i (s.burnSrc b) with
          | .error (.code c) => s.endBurn { b with stop := some c }
          | .error (.recorded c _) => s.endBurn { b with stop := some c }
          | .error (.heap c _) => s.endBurn { b with stop := some c }
          | .ok r =>
            let j : RJob := { id := s.nextId, core := b.core, uid := b.uid, node := n, root := (s.node n).root, rootV := true,
                              foot := r.foot, what := i, words := r.words, xs := r.xs, vdst := [], sdst := [], burn := some n }
            ({ s with nextId := s.nextId + 1, rjobs := s.rjobs ++ [j] } : State).post .burnisherPhaseBoundary [b.core]

/-- Starts a BURN node on a core's burnisher: the node runs, the body's images are read, and its first instruction enters the burnisher; a body that
does not serve ends the node with a code, and images that cannot be read yet leave it ready. -/
def State.startBurn (s : State) (n c : Nat) (img : List Byte) : Except Nat State :=
  let size := sliceNat img 24 4
  if size % 128 != 0 || size < 128 || 131072 < size || !zeros img 28 32 then .error Code.GRAPH_DESC
  else if sliceNat img 16 8 % 128 != 0 then .error Code.TILE_BAD
  else
    let d := s.node n
    let b : BurnJob := { node := n, core := c, uid := s.nextId, size := size, clause := BitVec.ofNat 64 (sliceNat img 0 8 % 2 ^ 57),
                         tileAddr := BitVec.ofNat 64 (sliceNat img 8 8), heapAddr := BitVec.ofNat 64 (sliceNat img 16 8) }
    let j : RJob := { id := b.uid, core := c, uid := b.uid, node := n, root := d.root, rootV := true, what := .tzero ⟨false, 7#3⟩ 0#8,
                      burn := some n }
    match s.burnWaits b false b.images .nodeDispatch [n] with
    | some t => .ok t
    | none =>
    let s : State := { s with nextId := s.nextId + 1, burns := s.burns ++ [b] }
    let s := s.setNode n { d with state := .running }
    match s.rankRead j b.images with
    | .error (.fault code _) => .error code
    | .error (.violate a) => .ok (s.freezeEngine c 5 a)
    | .ok bs =>
      let tiles := (List.range 16).foldl (fun m t => aset {} m t ({ img := leDWord (slice bs (8 * t) 8) } : Tile)) []
      if (List.range 16).any fun t => !((TDesc.of (leDWord (slice bs (8 * t) 8))).valid size) then .error Code.TILE_BAD
      else
        let s := (s.setBurn { b with tiles := tiles }).restoreHeap j (bs.drop 128)
        .ok (State.burnNext n 64 s)

/-! ### The queue (R278, R307) -/

/-- The job that a core's burnisher has before it. -/
def State.rankHead (s : State) (c : Nat) : Option RJob := s.rjobs.find? (·.core == c)

def State.setRjob (s : State) (j : RJob) : State := { s with rjobs := s.rjobs.map fun k => if k.id == j.id then j else k }

/-- Takes a job out of the burnisher; a BURN job goes on to its next instruction. -/
def State.leaveRank (s : State) (j : RJob) : State :=
  let s : State := { s with rjobs := s.rjobs.filter (·.id != j.id), engLost := s.engLost.filter (·.1 != j.id) }
  let s := match j.burn with
    | none => s
    | some n => State.burnNext n 64 s
  if s.rjobs.any (·.core == j.core) then s.post .burnisherPhaseBoundary [j.core] else s

/-- TDESC.rd and TRANK only read: a passed deadline does not keep them from it (the example of R307). -/
def rankReads (i : Instr) : Bool := recordAt i == .none

/-- Whether a job is to be abandoned at a boundary: its launch's deadline has passed (R307), or its launch is aborted (R363). -/
def State.abandons (s : State) (j : RJob) : Option State :=
  if (s.launch j.node).abort.isSome then some (s.leaveRank j)
  else if s.deadlinePassed j.node && !rankReads j.what then some ((s.recordRank j Code.DEADLINE_MISS 0#64).leaveRank j)
  else none

/-- The next step of a job that has started: a boundary, or its commit. -/
def State.rankGoesOn (s : State) (j : RJob) : State :=
  if j.left = 0 then s.post .burnisherCommit [j.core] else s.post .burnisherPhaseBoundary [j.core]

/-- Starts the first job of a burnisher that is idle: the deadline is tested, and its accesses must be free to be made (R202, R216). -/
def State.startRank (s : State) (c : Nat) : State :=
  match s.rankHead c with
  | none => s
  | some j =>
    if j.started || s.engineFrozen c 5 then s
    else match s.abandons j with
      | some t => t
      | none => match s.engineWaits j.toEng .burnisherPhaseBoundary [c] with
        | some t => t
        | none =>
          let j := { j with started := true, left := s.phasesOf j }
          (s.setRjob j).rankGoesOn j

/-- BURNISHER_PHASE_BOUNDARY (R307): subject: core; with a node, its BURN job comes to its next instruction. An idle burnisher starts its first job; a
job under way passes a boundary, or is abandoned there. -/
def State.rankBoundary (s : State) (c : Nat) : State :=
  match s.rankHead c with
  | none => s
  | some j =>
    if s.engineFrozen c 5 then s
    else if !j.started then s.startRank c
    else if j.left = 0 then s
    else match s.abandons j with
      | some t => t
      | none =>
        let j := { j with left := j.left - 1 }
        (s.setRjob j).rankGoesOn j

def execBurnisherPhaseBoundary (s : State) : Host.Outcome State Fault Refusal :=
  .next (match s.subject.nums with
    | [_, n] => State.burnNext n 64 s
    | _ => s.rankBoundary (s.arg 0))

/-- A job whose stores have all been answered leaves the burnisher: its flags reach sr.fflags, or FABRIC_LOST is recorded for a store that was
lost, with its address (R285, R289, R311). -/
def State.settleRank (s : State) (j : RJob) : State :=
  let s := match s.lostAt j.id with
    | some a => s.recordRank j Code.FABRIC_LOST (BitVec.ofNat 64 a)
    | none => if j.burn.isSome || (s.grp j.core j.grp).uid != j.uid then s else s.orEngineFlags j.core j.grp j.flags
  let s := match j.burn with
    | some n => s.setNode n { s.node n with wct := max (s.node n).wct j.t }
    | none => s
  ((s.foldWct j.core j.grp j.uid j.id j.t).digestAsync j.toEng j.written).leaveRank j

/-- BURNISHER_COMMIT (R287, R288): subject: core. The job's result and flags take effect together, or its record is set; the next job
starts. -/
def State.rankCommit (s : State) (c : Nat) : State :=
  match s.rankHead c with
  | none => s
  | some j =>
    if s.engineFrozen c 5 || !j.started || j.left != 0 then s
    else if j.outcome.isSome then (if s.awaitsPeer j.id then s else (s.settleRank j).startRank c)
    else match s.engineWaits j.toEng .burnisherCommit [c] with
    | some t => t
    | none => match s.askPeers j.toEng 0 ((j.foot.filter fun f => !f.1).map fun f => (f.2.2.1, f.2.2.2, f.2.2.1, 1)) with
    | some t => t
    | none =>
      match s.lostAt j.id with
      | some a => ((s.recordRank j Code.FABRIC_LOST (BitVec.ofNat 64 a)).leaveRank j).startRank c
      | none => match (s.freshenFoot j.toEng).runRank j with
      | .violate a => s.freezeEngine c 5 a
      | .record code addr => ((s.recordRank j code addr).leaveRank j).startRank c
      | .done t f u w =>
        let j := { j with t := u, written := w, flags := f.bits }
        if t.awaitsPeer j.id then t.setRjob { j with outcome := some 0#32 } else (t.settleRank j).startRank c

def execBurnisherCommit (s : State) : Host.Outcome State Fault Refusal := .next (s.rankCommit (s.arg 0))

/-! ### The instructions at issue -/

/-- What a group's rank-tile instruction reads. -/
def Ctx.rankSrc (x : Ctx) (s : State) : RankSrc :=
  { tile := s.tile x.c x.p, heapsz := (s.heapSlice x.c x.g.slot).2, heapFlt := (s.blkAt x.c x.g.slot).heapFlt, count := x.g.count,
    sr := x.sreg s, sr64 := x.sreg64 s, v := s.v x.c x.p }

/-- Whether a rank-tile instruction stores to memory. -/
def rankStores (i : Instr) : Bool :=
  match i with
  | .tstD _ _ _ _ => true
  | .tstF _ _ _ => true
  | .tstHeap _ _ => true
  | _ => false

/-- A rank-tile instruction issues: its checks, and then it enters the burnisher (R278, R284). A recorded fault that is raised brings its
address; the heap record ends with its raising. A frozen burnisher accepts no work (R364). -/
def rankBody (i : Instr) : Ctx → State → Res := once fun x s =>
  match rankReq i (x.rankSrc s) with
  | .error (.code c) => .fault c 0#64 s
  | .error (.recorded c a) => x.memRaise c a s
  | .error (.heap c a) =>
    let b := s.blkAt x.c x.g.slot
    x.memRaise c a (s.setBlk x.c x.g.slot { b with heapFlt := (0, 0#64) })
  | .ok r =>
    if s.engineFrozen x.c 5 then .wait s 1
    else
    let e := x.engine r.foot s
    let j : RJob := { toEng := e, what := i, words := r.words, xs := r.xs, vdst := r.vdst, sdst := r.sdst }
    let s : State := { s with nextId := s.nextId + 1, rjobs := s.rjobs ++ [j] }
    .ok ((if rankStores i then x.countAsync s else s).post .burnisherPhaseBoundary [x.c])

def execTdesc (g : Guard) (t sa : BitVec 8) (b : VS) (rcd : Bool) (s : State) : Host.Outcome State Fault Refusal :=
  issue (.tdesc g t sa b rcd) g (rankBody (.tdesc g t sa b rcd)) s

def execTdescRd (g : Guard) (sd t : BitVec 8) (s : State) : Host.Outcome State Fault Refusal :=
  issue (.tdescRd g sd t) g (rankBody (.tdescRd g sd t)) s

def execTld (g : Guard) (t sa sb : BitVec 8) (s : State) : Host.Outcome State Fault Refusal :=
  issue (.tld g t sa sb) g (rankBody (.tld g t sa sb)) s

def execTldHeap (g : Guard) (sa : BitVec 8) (s : State) : Host.Outcome State Fault Refusal :=
  issue (.tldHeap g sa) g (rankBody (.tldHeap g sa)) s

def execTldf (g : Guard) (t sa sb : BitVec 8) (s : State) : Host.Outcome State Fault Refusal :=
  issue (.tldf g t sa sb) g (rankBody (.tldf g t sa sb)) s

def execTstD (g : Guard) (sa t sc : BitVec 8) (s : State) : Host.Outcome State Fault Refusal :=
  issue (.tstD g sa t sc) g (rankBody (.tstD g sa t sc)) s

def execTstF (g : Guard) (sa t : BitVec 8) (s : State) : Host.Outcome State Fault Refusal :=
  issue (.tstF g sa t) g (rankBody (.tstF g sa t)) s

def execTstHeap (g : Guard) (sa : BitVec 8) (s : State) : Host.Outcome State Fault Refusal :=
  issue (.tstHeap g sa) g (rankBody (.tstHeap g sa)) s

def execTzero (g : Guard) (t : BitVec 8) (s : State) : Host.Outcome State Fault Refusal :=
  issue (.tzero g t) g (rankBody (.tzero g t)) s

def execTadd (g : Guard) (t ta tb : BitVec 8) (s : State) : Host.Outcome State Fault Refusal :=
  issue (.tadd g t ta tb) g (rankBody (.tadd g t ta tb)) s

def execTscl (g : Guard) (t ta sb : BitVec 8) (s : State) : Host.Outcome State Fault Refusal :=
  issue (.tscl g t ta sb) g (rankBody (.tscl g t ta sb)) s

def execTmul (g : Guard) (t ta tb : BitVec 8) (s : State) : Host.Outcome State Fault Refusal :=
  issue (.tmul g t ta tb) g (rankBody (.tmul g t ta tb)) s

def execTmulv (g : Guard) (d ta vb : BitVec 8) (s : State) : Host.Outcome State Fault Refusal :=
  issue (.tmulv g d ta vb) g (rankBody (.tmulv g d ta vb)) s

def execTrnd (g : Guard) (t ta : BitVec 8) (b : VS) (st abs : Bool) (s : State) : Host.Outcome State Fault Refusal :=
  issue (.trnd g t ta b st abs) g (rankBody (.trnd g t ta b st abs)) s

def execTrank (g : Guard) (sd ta : BitVec 8) (clr : Bool) (s : State) : Host.Outcome State Fault Refusal :=
  issue (.trank g sd ta clr) g (rankBody (.trank g sd ta clr)) s

def execTtod (g : Guard) (t ta : BitVec 8) (s : State) : Host.Outcome State Fault Refusal :=
  issue (.ttod g t ta) g (rankBody (.ttod g t ta)) s

def execTtol (g : Guard) (t ta : BitVec 8) (s : State) : Host.Outcome State Fault Refusal :=
  issue (.ttol g t ta) g (rankBody (.ttol g t ta)) s

def execTpotrf (g : Guard) (t ta : BitVec 8) (s : State) : Host.Outcome State Fault Refusal :=
  issue (.tpotrf g t ta) g (rankBody (.tpotrf g t ta)) s

def execTtrsm (g : Guard) (t ta tb : BitVec 8) (rgt tr up un : Bool) (s : State) : Host.Outcome State Fault Refusal :=
  issue (.ttrsm g t ta tb rgt tr up un) g (rankBody (.ttrsm g t ta tb rgt tr up un)) s

def execTupd (g : Guard) (t ta tb : BitVec 8) (s : State) : Host.Outcome State Fault Refusal :=
  issue (.tupd g t ta tb) g (rankBody (.tupd g t ta tb)) s

def execThalc (g : Guard) (t : BitVec 8) (s : State) : Host.Outcome State Fault Refusal :=
  issue (.thalc g t) g (rankBody (.thalc g t)) s

def execThfre (g : Guard) (t : BitVec 8) (s : State) : Host.Outcome State Fault Refusal :=
  issue (.thfre g t) g (rankBody (.thfre g t)) s

/-! ### MSKETCH (R262) -/

/-- Whether a score is above the threshold, and the flags of that comparison: FZ for a subnormal that is flushed, and NV for a signalling NaN
(DEDUCED from R119 and R126, log entry 127). -/
def TEnv.exceeds (t : TEnv) (p c : Nat) : FM Bool := do
  let u ← t.rd p
  let v ← t.rd c
  flag { nv := u.isSig || v.isSig }
  return u.cmp v == some .gt

/-- The mask bits of a sketch: for each column, whether some row's score is above the threshold; with the flags of the scores. -/
def sketch (ftz : Bool) (l r : List (List Nat)) (x : List (List Nat)) (c : Nat) : FM (List Bool) := do
  let t : TEnv := { f := .f32, ftz := ftz }
  let z ← x.mapM fun row => l.mapM fun col => t.sum row col 0
  let n := (r.headD []).length
  (transposed n r).mapM fun col => do
    let ps ← z.mapM fun zi => t.sum zi col 0
    ps.foldlM (fun hit p => do return (← t.exceeds p c) || hit) false

/-- Bits as words of a mask. -/
def maskWords (bs : List Bool) : List Byte :=
  leBytes (4 * ceilDiv bs.length 32) (bs.zipIdx.foldl (fun m b => m + boolNat b.1 * 2 ^ b.2) 0)

/-- MSKETCH (R262, R278): waits for the rank-tile instructions that issued on the core before it; then its faults, the sketch, and the mask
words stored to scratchpad. DEDUCED: a tile that is not allocated, whose use meets HEAP_BAD (R282), raises it precisely, as no commit could record it
(log entry 162). -/
def msketchBody (sd t sb sc : BitVec 8) : Ctx → State → Res := once fun x s =>
  let earlier := match x.e.note with
    | [] => (s.rjobs.filter (·.core == x.c)).map (·.id)
    | _ :: ids => ids.filter fun id => s.rjobs.any (·.id == id)
  if !earlier.isEmpty then .wait (if x.e.note.isEmpty then x.remember (0xC1 :: earlier) s else s) 1
  else
    let tl := s.tile x.c x.p t.toNat
    let d := TDesc.of tl.img
    let j : RJob := { toEng := x.engine [] s, what := .tzero ⟨false, 7#3⟩ 0#8 }
    let xo := (x.sreg s sb).toNat
    let mo := (x.sreg s sd).toNat
    let nb := 4 * ceilDiv d.n 32
    let (base, size) := s.scrSlice x.c x.g.slot
    if d.kind = 1 || d.et = 1 then .fault Code.MSKETCH_TILE 0#64 s
    else if tl.code != 0 then x.memRaise tl.code tl.addr s
    else if !d.allocated (s.jobMap j) then x.memRaise Code.HEAP_BAD 0#64 s
    else match scrFault size xo (128 * d.m) 4 with
      | some code => x.scrRaise code xo s
      | none => match scrFault size mo nb 4 with
        | some code => x.scrRaise code mo s
        | none =>
          if s.clobbers x.c (base + mo) nb then x.scrRaise Code.BARRIER_CLOBBER mo s
          else if !s.storesFree x.c x.p x.e.mask || s.engineHold x.g.uid s.nextId true false (base + xo) (128 * d.m) ||
                  s.engineHold x.g.uid s.nextId true true (base + mo) nb then .wait s
          else
            let xs := elemLines 4 d.m 32 (s.poolBytes x.c (base + xo) (128 * d.m))
            let out := match s.tileVal j d with
              | .low l r => (sketch (x.ftz s) l r xs (x.sreg s sc).toNat).run {}
              | _ => let hit := (TEnv.exceeds { f := .f32, ftz := x.ftz s } 0 (x.sreg s sc).toNat).run {}
                     (List.replicate d.n hit.1, hit.2)
            .ok (((s.setPoolBytes x.c (base + mo) (maskWords out.1)).wakeWaits).orEngineFlags x.c x.p out.2.bits)

def execMsketch (g : Guard) (sd t sb sc : BitVec 8) (s : State) : Host.Outcome State Fault Refusal :=
  issue (.msketch g sd t sb sc) g (msketchBody sd t sb sc) s

end Sys2Proof.Machine
end

