-- ==== Sys2Proof/Machine/Nodes.lean ====
section
/-!
DEFINITION. The nodes of the task graph (R337 to R343): descriptors, footprints, edges and states, how a node ends, and the order in which ready
nodes are dispatched; and the completion records of host commands (R385).
-/
namespace Sys2Proof.Machine

/-! ### Completion records (R385) -/

/-- An operand of a command: the k-th 8 bytes after its code. -/
def Command.operand (k : Command) (i : Nat) : Nat := sliceNat k.args (8 * i) 8

/-- Completes a command: its 16-byte record is written if it names one, and a RESYNC that has waited for it may go on (R387). DESIGN CHOICE: a
record over running code (R47) is not written, and freezes nothing (log entry 132). -/
def State.completeCmd (s : State) (k : Command) (status code : Nat) : State :=
  let s : State := { s with cmds := s.cmds.filter (· != k) }
  let s := match s.cmds.find? (·.queue == k.queue) with
    | some r => if r.code = 6 then s.post .resync [k.queue, 1] else s
    | none => s
  if k.rec_ = 0 || s.holdsCode (hostAddr k.rec_) 16 then s
  else (s.setBytes (hostAddr k.rec_) (leBytes 4 status ++ leBytes 4 code ++ leBytes 8 k.index)).wakeWaits

/-! ### Descriptors (R337) -/

/-- A field of a node's descriptor. -/
def descKind (b : List Byte) : Nat := sliceNat b 0 1
def descNreg (b : List Byte) : Nat := sliceNat b 2 1
def descFlags (b : List Byte) : Nat := sliceNat b 3 1
def descNcore (b : List Byte) : Nat := sliceNat b 4 2
def descBody (b : List Byte) : DWord := BitVec.ofNat 64 (sliceNat b 8 8)
def descExpect (b : List Byte) : DWord := BitVec.ofNat 64 (sliceNat b 24 8)

/-- The declared regions: base, size, W. -/
def descRegions (b : List Byte) : List (Nat × Nat × Bool) :=
  (List.range (descNreg b)).map fun k =>
    let w := sliceNat b (32 + 12 * k) 8
    (w % 2 ^ 57, sliceNat b (40 + 12 * k) 4, w / 2 ^ 63 == 1)

/-- Whether a descriptor breaks R337: a reserved byte that is not zero, or a field out of range. -/
def descBad (b : List Byte) : Bool :=
  let kind := descKind b
  let nreg := descNreg b
  3 < kind || 3 < sliceNat b 1 1 || 8 < nreg || ((kind = 1 || kind = 3) && nreg != 0) || 4 ≤ descFlags b ||
  384 < descNcore b || (kind != 0 && descNcore b != 0) || !zeros b 6 8 ||
  (List.range 8).any fun k =>
    if k < nreg then sliceNat b (32 + 12 * k) 8 / 2 ^ 57 % 64 != 0 || sliceNat b (40 + 12 * k) 4 = 0
    else !zeros b (32 + 12 * k) (44 + 12 * k)

/-! ### States (R340) -/

def NodeState.code : NodeState → Nat
  | .free => 0
  | .built => 1
  | .waiting => 2
  | .ready => 3
  | .running => 4
  | .done => 5
  | .partl => 6
  | .failed => 7
  | .deadlineMiss => 8
  | .cancelled => 9

def NodeState.ended (k : NodeState) : Bool := 5 ≤ k.code

/-- Whether a node has been submitted and has not ended. -/
def NodeState.pending (k : NodeState) : Bool := k == .waiting || k == .ready || k == .running

/-- The translation context of a command queue (R355). -/
def State.queueCtx (s : State) (q : Nat) : Context :=
  let r := s.ctlReg (qBase q + 32)
  { root := bitsOf r 51 12 * 4096, v := r.getLsbD 0 }

def State.freeNode (s : State) (n : Nat) : State := s.setNode n {}

/-- The first word of a node's status (R350). -/
def Node.status (d : Node) (n : Nat) : Word :=
  BitVec.ofNat 32 (d.state.code * 2 ^ 28 + d.code % 2 ^ 7 * 2 ^ 21 + boolNat d.reex * 2 ^ 20 + n)

/-- Writes a node's status to three scalar registers (R350). DEDUCED: the low half of the digest goes to the first of its two registers, as in every
pair (log entry 146). -/
def State.putStatus (s : State) (c p d n : Nat) : State :=
  let k := s.node n
  ((s.setSr c p d (k.status n)).setSr c p (d + 1) (lo32 k.digest)).setSr c p (d + 2) (hi32 k.digest)

/-! ### The order of dispatch (R343) -/

/-- Whether a node stands before another in the ready pool: higher PRIO first, and then the earlier submission. -/
def readyBefore (a b : Node) : Bool := b.prio < a.prio || (a.prio == b.prio && a.order < b.order)

/-- Whether a running kernel still has blocks to place. -/
def State.placing (s : State) (n : Nat) : Bool :=
  let l := s.launch n
  l.running && l.abort.isNone && ((l.nextBlk < l.blocks && !(s.node n).missed) || !l.saved.isEmpty)

/-- Whether a kernel is held back: one before it waits for cores, or still has blocks to place. -/
def State.heldBack (s : State) (n : Nat) : Bool :=
  s.nodes.any fun e => e.1 != n && readyBefore e.2 (s.node n) && descKind e.2.desc = 0 &&
    (e.2.state == .ready || (e.2.state == .running && s.placing e.1))

/-! ### How a node ends (R340, R350, R386) -/

/-- An entry that waits in GWAIT for a node, among those that a test admits: its group, its place in the frontier and its first destination. -/
def State.waiterOf (s : State) (n : Nat) (admits : Nat → Nat → Entry → Bool) : Option (Nat × Nat × Nat × Nat) :=
  s.groups.findSome? fun g =>
    if g.2.trap.isSome then none
    else (firstIdx (fun e => e.note.take 2 == [0xF1, n] && admits (g.1 / 64) (g.1 % 64) e) g.2.frontier).map fun k =>
      (g.1 / 64, g.1 % 64, k, ((g.2.frontier.getD k {}).note.getD 2 0))

/-- Whether an entry still waits in GWAIT for a node. -/
def State.awaited (s : State) (n : Nat) : Bool := (s.waiterOf n fun _ _ _ => true).isSome

/-- Completes the GWAITs that wait for a node (R350): its registers, an acquire, and the entry goes on. One that the scoreboard stalls finds the node
ended at its next attempt (R60). -/
def State.wakeGwaits (n : Nat) : Nat → State → State
  | 0, s => s
  | fuel + 1, s =>
    match s.waiterOf n s.unstalled with
    | none => s
    | some (c, p, k, d) =>
      let g := s.grp c p
      let e := g.frontier.getD k {}
      let s := s.acquire c p e.mask 7
      let g := s.grp c p
      let s := s.setGrp c p { g with frontier := g.frontier.set k { e with note := [0xF2] } }
      State.wakeGwaits n fuel ((s.putStatus c p d n).advanceEntry c p k)

/-- The host's WAIT commands for a node. -/
def State.hostWaits (s : State) (n : Nat) : List Command := s.cmds.filter fun k => k.code == 2 && k.operand 0 == n

/-- Serves those who wait for a node that has ended, and frees it when its status has been read or it has AUTO (R340). -/
def State.serveNode (s : State) (n : Nat) : State :=
  let d := s.node n
  let hosts := s.hostWaits n
  let read := !hosts.isEmpty || s.awaited n
  let s := State.wakeGwaits n ((s.groups.map fun g => g.2.frontier.length).sum) s
  let s := hosts.foldl (fun s k => s.completeCmd k d.state.code d.code) s
  if (read || d.auto) && !s.awaited n then s.freeNode n else s

/-- Takes an ended node out of the predecessors of another. -/
def Node.without (m : Node) (n : Nat) (ok : Bool) : Node :=
  if !m.preds.contains n then m
  else
    let ps := m.preds.filter (· != n)
    { m with preds := ps, poisoned := m.poisoned || !ok, state := if ok && m.state == .waiting && ps.isEmpty then .ready else m.state }

/-- Ends nodes with one state each, and cancels every node that depends on one that has not ended well (R340); a node stands in the list once, so
that twice the table's 4,096 entries suffice. -/
def State.endNodes : Nat → List (Nat × NodeState × Nat) → State → State
  | 0, _, s => s
  | _, [], s => s
  | fuel + 1, (n, st, code) :: rest, s =>
    let d := s.node n
    if d.state == .free || d.state.ended then State.endNodes fuel rest s
    else
      let ok := st == .done || st == .partl
      let hit := if ok then [] else (s.nodes.filter fun e => e.2.preds.contains n && (e.2.state == .waiting || e.2.state == .ready) &&
        !(rest.any (·.1 == e.1))).map (·.1)
      let s := s.setNode n { d with state := st, code := code }
      let s : State := { s with nodes := s.nodes.map fun e => (e.1, e.2.without n ok) }
      State.endNodes fuel (rest ++ hit.map fun m => (m, .cancelled, 0)) (s.serveNode n)

/-- Ends one node (R340). -/
def State.endNode (s : State) (n : Nat) (st : NodeState) (code : Nat) : State := State.endNodes 8192 [(n, st, code)] s

/-! ### Building, edges and submission (R341, R349) -/

/-- Builds a node in a free entry of the table: GRAPH_FULL when there is none. -/
def State.buildNode (s : State) (b : List Byte) (owner : Option Nat) (queue prio : Nat) : Except Nat (Nat × State) :=
  match s.pickFree 4096 fun k => (s.node k).state == .free with
  | none => .error Code.GRAPH_FULL
  | some n =>
    let t := sliceNat b 16 8
    let d : Node := { state := .built, desc := b, owner := owner, queue := queue, root := (s.queueCtx queue).root, prio := prio,
                      auto := (descFlags b).testBit 1, deadline := t, born := s.nextOrder }
    let s : State := { s with nextOrder := s.nextOrder + 1 }
    let s := s.setNode n d
    .ok (n, if t = 0 then s else if t ≤ s.dtime then s.post .deadlinePassed [n] else s.timer false t .deadlinePassed [n])

/-- Bytes that the command processor reads at a virtual address of a queue's context, or their fault. -/
def State.cpRead (s : State) (q : Nat) (addr : DWord) (n : Nat) : Except Nat (List Byte) :=
  match s.translateRange 384 (s.queueCtx q) {} addr n with
  | .error (code, _) => .error code
  | .ok ps => .ok (s.readPieces ps)

/-- The lines of a range that the command processor reads and a core has pinned, which refuse it (R210). -/
def State.cpPins (s : State) (q : Nat) (addr : DWord) (n : Nat) : List Nat :=
  match s.translateRange 384 (s.queueCtx q) {} addr n with
  | .error _ => []
  | .ok ps => s.pinnedBy 384 ps

/-- Bytes of a node's body (R335 to R337). -/
def bodySize (desc : List Byte) : Nat :=
  match descKind desc with
  | 0 => 128
  | 1 => 64
  | _ => 32

/-- The lines that refuse the reading of a node's body. -/
def State.bodyPins (s : State) (q : Nat) (desc : List Byte) : List Nat := s.cpPins q (descBody desc) (bodySize desc)

/-- The lines that refuse what the submission of a node reads: the body of a COPY or a COLL node (R338). -/
def State.footPins (s : State) (q : Nat) (desc : List Byte) : List Nat :=
  if descKind desc = 1 || descKind desc = 3 then s.bodyPins q desc else []

/-- The eight words of a COLL node's body. -/
def bodyWords (b : List Byte) : List Word := (List.range 8).map fun k => BitVec.ofNat 32 (sliceNat b (4 * k) 4)

/-- The footprint of a node (R338): the declared regions, those of its card, or the ranges of its collective; a body that cannot be read has
none. -/
def State.footprint (s : State) (d : Node) : List (Nat × Nat × Bool) :=
  match descKind d.desc with
  | 1 => match s.cpRead d.queue (descBody d.desc) 64 with
    | .error _ => []
    | .ok b => ((cardOf b).foot 0).map fun f => (f.2.2.1, f.2.2.2, f.1)
  | 3 => match s.cpRead d.queue (descBody d.desc) 32 with
    | .error _ => []
    | .ok b =>
      let w := bodyWords b
      let n := blockCount w
      let all := if blockOp w = 2 then n * s.teamSize (blockTeam w) else n
      if blockOp w = 4 then []
      else (if blockDrain w then [] else [((blockPair w 2).toNat % 2 ^ 57, n * srcSize (blockType w), false)]) ++
        [((blockPair w 4).toNat % 2 ^ 57, all * dstSize (blockType w), true)]
  | _ => descRegions d.desc

/-- Whether regions of two nodes call for an edge (R341): a shared byte, with W in at least one. -/
def regionsMeet (a b : List (Nat × Nat × Bool)) : Bool :=
  a.any fun x => b.any fun y => (x.2.2 || y.2.2) && overlaps x.1 x.2.1 y.1 y.2.1

/-- Entries of the buffer-handle table: the distinct regions of nodes submitted and not ended, by context. -/
def State.handles (s : State) (more : List (Nat × Nat × Nat)) : Nat :=
  ((s.nodes.filter (·.2.state.pending)).foldl (fun (a : List (Nat × Nat × Nat)) e =>
    e.2.regions.foldl (fun a r => if a.contains (e.2.root, r.1, r.2.1) then a else a ++ [(e.2.root, r.1, r.2.1)]) a) more).length

/-- Submits a BUILT node (R341): its edges are derived, and it waits, is ready, or is cancelled. -/
def State.submitNode (s : State) (n : Nat) : Except Nat State :=
  let d := s.node n
  let rs := s.footprint d
  let derived := (s.nodes.filter fun e => e.1 != n && e.2.state.pending && e.2.root == d.root && regionsMeet rs e.2.regions).map (·.1)
  let ps := derived.foldl (fun a m => if a.contains m then a else a ++ [m]) d.preds
  let more := rs.foldl (fun a r => if a.contains (d.root, r.1, r.2.1) then a else a ++ [(d.root, r.1, r.2.1)]) []
  if 64 < ps.length || 16384 < s.handles more then .error Code.GRAPH_FULL
  else
    let s : State := { s with nextOrder := s.nextOrder + 1 }
    let s := s.setNode n { d with
      state := if ps.isEmpty then .ready else .waiting, preds := ps, regions := rs, flush := d.flush || !ps.isEmpty, order := s.nextOrder }
    .ok (if d.poisoned then s.endNode n .cancelled 0 else s)

/-- Adds an edge from node a to the BUILT node b (R349): met at once by one that has ended well. -/
def State.addEdge (s : State) (a b : Nat) : Except Nat State :=
  let x := s.node a
  let y := s.node b
  if x.state == .done || x.state == .partl then .ok (s.setNode b { y with flush := true })
  else if x.state.ended then .ok (s.setNode b { y with poisoned := true })
  else if y.preds.contains a then .ok s
  else if 64 ≤ y.preds.length then .error Code.GRAPH_FULL
  else .ok (s.setNode b { y with preds := y.preds ++ [a], flush := true })

/-- Nodes that a node depends on through nodes that have not ended. -/
def State.ancestors (s : State) : Nat → List Nat → List Nat
  | 0, xs => xs
  | fuel + 1, xs =>
    let ys := xs.foldl (fun a n => (s.node n).preds.foldl (fun a m => if a.contains m then a else a ++ [m]) a) xs
    if ys.length = xs.length then xs else s.ancestors fuel ys

/-- Whether node n is node own or depends on it (R350). -/
def State.dependsOn (s : State) (n own : Nat) : Bool := (s.ancestors 4096 [n]).contains own

/-- Whether an instruction of a launch may name a node (R349): one of its own, one of the host's, or its own launch. -/
def Node.nameable (d : Node) (n own : Nat) : Bool := n == own || d.owner.isNone || d.owner == some own

end Sys2Proof.Machine
end

