-- ==== Sys2Proof/Machine/Place.lean ====
section
/-!
DEFINITION. Launches (R334 to R336, R339, R342 to R347): headers, the dispatch of nodes, the placement of blocks and their groups, the end of
groups and blocks, pre-emption's saved blocks (R366), completion and digests, and deadlines.
-/
namespace Sys2Proof.Machine

/-! ### The launch header (R334, R335) -/

/-- Groups of one block. -/
def Launch.groups (l : Launch) : Nat := (l.roles.map (·.2.2.1)).sum

/-- The blocks of a launch that one core holds at most (R171). -/
def Launch.slots (l : Launch) : Nat := min ((0x200000 - (l.scr + l.heap + l.l1)) / max 1 l.baseBytes) (64 / max 1 l.groups)

/-- A role as a header gives it: entry offset, registers, groups, twin. -/
def headerRole (b : List Byte) (k : Nat) : Nat × Nat × Nat × Bool :=
  let o := 64 + 16 * k
  (sliceNat b o 4, sliceNat b (o + 4) 2, sliceNat b (o + 6) 1, sliceNat b (o + 7) 1 == 1)

/-- What a header says of its launch. -/
def headerLaunch (b : List Byte) : Launch :=
  let f := sliceNat b 30 1
  let fair := sliceNat b 40 2
  let lease := sliceNat b 42 2
  { code := leDWord (slice b 0 8), liveTab := leDWord (slice b 8 8), args := leDWord (slice b 16 8), blocks := sliceNat b 24 4,
    cblk := sliceNat b 28 1, nrole := sliceNat b 29 1, fuse := f.testBit 0, det := f.testBit 1, ftz := f.testBit 2, split := f.testBit 3,
    scr := 4096 * sliceNat b 32 2, heap := 4096 * sliceNat b 34 2, l1 := 4096 * sliceNat b 36 2, priv := sliceNat b 38 2,
    fair := if fair = 0 then 256 else fair, lease := if lease = 0 then 256 else lease,
    roles := (List.range (sliceNat b 29 1)).map (headerRole b) }

/-- Whether a role breaks R31 or R334. -/
def roleBad (b : List Byte) (k : Nat) : Bool :=
  let r := headerRole b k
  r.1 % 8 != 0 || r.2.1 = 0 || 256 < r.2.1 || r.2.2.1 = 0 || 32 < r.2.2.1 || 1 < sliceNat b (64 + 16 * k + 7) 1 ||
  !zeros b (64 + 16 * k + 8) (64 + 16 * k + 16) || (r.2.2.2 && r.2.2.1 % 2 != 0)

/-- Whether a header breaks R31, R32, R334 or, for a number of logical cores under DET, R344. -/
def headerBad (b : List Byte) (ncore : Nat) : Bool :=
  let l := headerLaunch b
  let fair := sliceNat b 40 2
  let lease := sliceNat b 42 2
  l.code.toNat % 8 != 0 || l.cblk = 0 || 8 < l.cblk || l.nrole = 0 || 4 < l.nrole || l.blocks = 0 || l.blocks % l.cblk != 0 ||
  16 ≤ sliceNat b 30 1 || !zeros b 31 32 || !zeros b 44 64 || 16384 < l.priv ||
  (fair != 0 && (fair < 16 || 4096 < fair)) || (lease != 0 && (lease < 32 || 4096 < lease)) ||
  (List.range 4).any (fun k => if k < l.nrole then roleBad b k else !zeros b (64 + 16 * k) (80 + 16 * k)) ||
  32 < l.groups || 0x200000 < l.scr + l.heap + l.l1 + l.baseBytes ||
  (l.det && 1 < l.cblk && (48 % l.cblk != 0 || ncore % l.cblk != 0))

/-- NCORE, where 0 means 384. -/
def Node.cores (d : Node) : Nat := if descNcore d.desc = 0 then 384 else descNcore d.desc

/-- The launch that a KERNEL node's body gives (R335), or the code with which the node ends. A nonzero NCORE belongs to a DET kernel only
(R337). -/
def State.launchFor (s : State) (n : Nat) : Except Nat Launch :=
  let d := s.node n
  let q := d.queue
  if (descBody d.desc).toNat % 128 != 0 then .error Code.LAUNCH_BAD
  else match s.cpRead q (descBody d.desc) 128 with
    | .error code => .error code
    | .ok b =>
      let l := headerLaunch b
      if headerBad b d.cores then .error Code.LAUNCH_BAD
      else if !l.det && descNcore d.desc != 0 then .error Code.GRAPH_DESC
      else .ok { l with
        running := true, queue := q, root := (s.queueCtx q).root, rootV := (s.queueCtx q).v, ncore := d.cores,
        tvec := s.ctlReg (qBase q + 40), dvec := s.ctlReg (qBase q + 48), hbase := s.ctlReg (qBase q + 56) }

/-! ### Where units go (R19, R170, R171, R344) -/

/-- Blocks that are placed together on neighbouring cores: a cluster, and one block when a launch runs serially (R346). -/
def Launch.unit (l : Launch) : Nat := if l.serial then 1 else l.cblk

/-- Logical clusters of a DET launch (R344). -/
def Launch.clusters (l : Launch) : Nat := l.ncore / max 1 l.cblk

/-- The blocks of a launch that stand on a core, by slot. -/
def State.slotsOn (s : State) (c : Nat) : List Nat := (List.range 64).filter fun k => (s.blkAt c k).live

/-- Whether a core has room for a block of a launch. -/
def State.coreOpen (s : State) (n : Nat) (l : Launch) (c : Nat) : Bool :=
  let k := s.core c
  !k.frozen && (k.launch.isNone || (k.launch == some n && (s.slotsOn c).length < l.slots && (s.residents c).length + l.groups ≤ 64))

/-- Whether the cores from c take a unit of a launch: a cluster stands on one die. -/
def State.unitFits (s : State) (n : Nat) (l : Launch) (c : Nat) : Bool :=
  c + l.unit ≤ 384 && c % l.unit = 0 && c / 48 = (c + l.unit - 1) / 48 && (List.range l.unit).all fun k => s.coreOpen n l (c + k)

/-- Bytes of a private window (R176), in whole pages. -/
def Launch.windowSize (l : Launch) : Nat := ceilDiv (l.priv * 128) 4096 * 4096

/-- The private windows in use: first byte and size. -/
def State.windows (s : State) : List (Nat × Nat) :=
  ((s.groups.filter (·.2.live)).map fun e => (e.2.window, (s.launch e.2.node).windowSize)) ++
  (s.blocks.flatMap fun e => e.2.yielded.map fun y => (y.2.window, (s.launch y.2.node).windowSize)) ++
  s.launches.flatMap fun e => e.2.saved.flatMap fun b => b.block.yielded.map fun y => (y.2.window, e.2.windowSize)

/-- The save slots in reserved memory that are taken (R389): first byte and size. -/
def State.reservedPlaces (s : State) : List (Nat × Nat) :=
  let of := fun (g : Group) => g.reserved.toList ++ g.lastSlot.toList
  s.groups.flatMap (of ·.2) ++ (s.blocks.flatMap fun e => e.2.yielded.flatMap (of ·.2)) ++
  s.launches.flatMap fun e => e.2.saved.flatMap fun b => b.block.yielded.flatMap (of ·.2)

/-- The physical ranges to which the tables from one of a level on map pages: first byte and size. -/
def State.mapped (s : State) : Nat → Nat → List (Nat × Nat)
  | 0, _ => []
  | level + 1, table => (List.range 512).flatMap fun k =>
    if !(s.byte (table + 8 * k)).getLsbD 0 then []
    else
      let e := s.dword (table + 8 * k)
      let bits := if e.getLsbD 7 then 16 else 12 + 9 * level
      if pteBad e (level + 1) then []
      else if e.getLsbD 1 then [(pteAddr e / 2 ^ bits * 2 ^ bits, 2 ^ bits)]
      else s.mapped level (pteAddr e)

/-- The memory in which a launch's virtual space lies (R176). -/
def State.virtualSpace (s : State) (l : Launch) : List (Nat × Nat) := if l.rootV then s.mapped 5 l.root else []

/-- The eighths of a range that begin on an 8 GiB boundary (R192). -/
def eighths (r : Nat × Nat) : List Nat :=
  ((List.range 8).map fun d => r.1 + d * ((r.2 - r.1) / 8)).filter (· % 2 ^ 33 == 0)

/-- A place for a launch's private windows of a size (R176, R192), on a page boundary of device memory where it meets no other window, no save slot in
reserved memory (R389) and nothing that the launch's tables map, and outside local-placement ranges or at the start of such an eighth: the first at or
above page k when the step picks k + 1, else, or when there is none, the highest. Other windows may be given that are about to be taken. DESIGN
CHOICE: an empty window stands at address 0 (log entry 153). -/
def State.freeWindow (s : State) (l : Launch) (more : List (Nat × Nat)) (size : Nat) : Option Nat :=
  if size = 0 then some 0
  else
    let ranges := (List.range 16).filterMap fun k => lplaceRange (s.ctlReg (0x1000 + 8 * k))
    let used := more ++ s.windows ++ s.reservedPlaces ++ s.virtualSpace l
    let bars := used ++ ranges.map fun r => (r.1, r.2 - r.1)
    let starts := ranges.flatMap eighths
    let fits := fun (a : Nat) => a + size ≤ devTop && !((if starts.contains a then used else bars).any fun u => overlaps u.1 u.2 a size)
    let best := fun (f : Nat → Nat → Nat) (as : List Nat) => (as.filter fits).foldl (fun (b : Option Nat) a => some (b.elim a (f a))) none
    let from_ := 4096 * (s.pick - 1)
    let low := if s.pick = 0 then none else best min ((from_ :: (bars.map fun u => (u.1 + u.2 + 4095) / 4096 * 4096) ++ starts).filter (from_ ≤ ·))
    (low.or (best max (((devTop :: bars.map (·.1)).filter (size ≤ ·)).map fun a => (a - size) / 4096 * 4096))).or (best max starts)

/-- The unit that a DET launch places next on the logical cluster that starts at core c. -/
def Launch.detUnit (l : Launch) (c : Nat) : Option Nat :=
  if c % max 1 l.cblk != 0 || l.clusters ≤ c / max 1 l.cblk then none
  else
    let j := c / max 1 l.cblk
    let u := j + l.clusters * aget 0 l.perCore j
    if u < l.blocks / max 1 l.cblk then some u else none

/-- Whether n groups placed one after another all find their windows. -/
def State.windowsFit (s : State) (l : Launch) : Nat → List (Nat × Nat) → Bool
  | 0, _ => true
  | n + 1, more => match s.freeWindow l more l.windowSize with
    | none => false
    | some a => s.windowsFit l n ((a, l.windowSize) :: more)

/-- The new unit that may be placed at core c now. DESIGN CHOICE: while device memory has no place for the private windows of its groups, it waits (log
entry 177). -/
def State.nextUnit (s : State) (n : Nat) (l : Launch) (c : Nat) : Option Nat :=
  let unit :=
    if !s.unitFits n l c then none
    else if l.serial then
      if c = 0 && l.nextBlk < l.blocks && !(s.blocks.any fun e => e.2.live && e.2.node == n) then some l.nextBlk else none
    else if l.det then l.detUnit c
    else s.pickFree (l.blocks / max 1 l.cblk) fun u => aget 0 l.perCore u == 0
  unit.filter fun _ => s.windowsFit l (l.groups * l.unit) []

/-- Whether what a saved group did before it yielded has been performed, so that the release of R366 holds. -/
def State.savedReady (s : State) (b : SavedBlock) : Bool :=
  b.block.yielded.all fun e => !(s.accesses.any (·.uid == e.2.uid)) && !(s.engineWork.any (·.uid == e.2.uid)) && e.2.wct ≤ s.dtime

/-- Whether each partition of a core has room for the groups of a saved block that stood on it (R19). -/
def State.partsFit (s : State) (c : Nat) (b : SavedBlock) : Bool :=
  (List.range 4).all fun k =>
    ((s.residents c).filter fun p => partOf p == k).length + (b.block.yielded.filter fun y => y.2.part == k).length ≤ 16

/-- The saved blocks that may be placed again from core c now: those of one unit, the first saved, and all saved ones before a new unit; outside
`.det` R19 leaves the order open, and this is the model's choice (log 118). -/
def State.savedUnit (s : State) (n : Nat) (l : Launch) (c : Nat) : List SavedBlock :=
  match l.saved.find? fun b => !l.det || l.serial || c / max 1 l.cblk = b.block.blk / max 1 l.cblk % max 1 l.clusters with
  | none => []
  | some b =>
    let mine := l.saved.filter fun k => k.block.blk / l.unit = b.block.blk / l.unit
    let fits := mine.all fun k => s.partsFit (c + k.block.blk % l.unit) k
    if s.unitFits n l c && (!l.serial || c = 0) && mine.all s.savedReady && fits then mine else []

/-- Whether blocks of a launch may be placed at all now. -/
def State.mayPlace (s : State) (n : Nat) : Bool :=
  s.dev == .ready && s.placing n && !(s.launch n).preempt && !s.heldBack n

/-- Whether a unit of a launch can be placed at core c now. -/
def State.placeable (s : State) (n : Nat) (l : Launch) (c : Nat) : Bool :=
  !(s.savedUnit n l c).isEmpty || (!(s.node n).missed && (s.nextUnit n l c).isSome)

/-- Whether a READY node can be dispatched now (R343). -/
def State.dispatchable (s : State) (n : Nat) : Bool :=
  let d := s.node n
  s.dev == .ready && d.state == .ready &&
  match descKind d.desc with
  | 0 => !s.heldBack n && (match s.launchFor n with
    | .error _ => true
    | .ok l => (List.range 384).any fun c => (s.nextUnit n l c).isSome)
  | 1 => (List.range 384).any fun c => !s.engineFrozen c 3 && (s.cards.filter (·.core == c)).length < 1024
  | 2 => (List.range 384).any fun c => !s.engineFrozen c 5 && !(s.burns.any (·.core == c))
  | _ => true

/-- Puts on the agenda what the command processor can do next: the first dispatchable node in order, and a unit of each launch that may place. -/
def State.pokeTasks (s : State) : State :=
  let best := s.nodes.foldl (fun (b : Option (Nat × Node)) e =>
    if !s.dispatchable e.1 then b
    else match b with
      | none => some e
      | some q => if readyBefore e.2 q.2 then some e else b) none
  let s := match best with
    | none => s
    | some e => s.post .nodeDispatch [e.1]
  s.launches.foldl (fun s e =>
    if !s.mayPlace e.1 then s
    else match (List.range 384).find? fun c => s.placeable e.1 e.2 c with
      | none => s
      | some c => s.post .blockPlacement [e.1, c]) s

/-! ### Groups (R19, R31, R171, R192, R247) -/

/-- The partition that a new group goes to: the fewest resident groups, the lowest number of equals (R19). -/
def State.freePart (s : State) (c : Nat) : Nat :=
  let load := fun (part : Nat) => ((s.residents c).filter fun p => partOf p == part).length
  (List.range 4).foldl (fun b k => if load k < load b then k else b) 0

/-- A free physical group of a partition. -/
def State.freeIn (s : State) (c part : Nat) : Nat := (s.pickFree 64 fun p => partOf p == part && !(s.grp c p).live).getD 0

/-- The physical group that a new group takes: a free one of its partition. -/
def State.freePlace (s : State) (c : Nat) : Nat := s.freeIn c (s.freePart c)

/-- A place's registers read zero when a group starts (R247, R139). -/
def State.clearRegs (s : State) (c p : Nat) : State :=
  let k := gid c p
  { s with
      vreg := aclear s.vreg (k * 32 * 256) ((k + 1) * 32 * 256)
      sreg := aclear s.sreg (k * 128) ((k + 1) * 128)
      pred := aclear s.pred (k * 8) ((k + 1) * 8)
      qreg := aclear s.qreg (k * 32 * 8) ((k + 1) * 32 * 8) }

/-- Starts one group of a new block (R31, R247); the groups of a block are placed together. -/
def State.placeGroup (s : State) (n c slot blk bgrp role : Nat) : State :=
  let l := s.launch n
  let r := l.roles.getD role (0, 0, 0, false)
  let p := s.freePlace c
  let s := s.clearRegs c p
  let hdr := codeAddr (l.code + BitVec.ofNat 64 r.1)
  let g : Group := { live := true, uid := s.nextId, node := n, slot := slot, bgrp := bgrp, role := role, part := partOf p, placed := s.nextOrder,
                     baseRegs := r.2.1, vmap := (List.range 32).map fun i => { grp := p, lane := i }, window := (s.freeWindow l [] l.windowSize).getD 0,
                     launched := 0xFFFFFFFF#32, liveMask := 0xFFFFFFFF#32, bound := r.2.2.2 }
  let s : State := { s with nextId := s.nextId + 1 }
  let s := s.setLaunch n { l with uids := l.uids ++ [s.nextId - 1] }
  let s := s.setGrp c p g
  let s := s.setGrp c p { g with frontier := [s.arrive c p hdr 0xFFFFFFFF#32 0#64] }
  let b := s.blkAt c slot
  s.setBlk c slot { b with node := n, blk := blk, groups := b.groups ++ [p] }

/-- The index of a twin's partner within the block (R31): the neighbour within its role. -/
def Launch.partnerIndex (l : Launch) (bgrp : Nat) : Option Nat :=
  let role := l.roleList.getD bgrp 0
  let first := (firstIdx (· == role) l.roleList).getD 0
  if (l.roles.getD role (0, 0, 0, false)).2.2.2 then
    some (if (bgrp - first) % 2 = 0 then bgrp + 1 else bgrp - 1) else none

/-- Tells the twins of a block where their partners stand. -/
def State.pairTwins (s : State) (n c slot : Nat) : State :=
  (s.residents c).foldl (fun s p =>
    let g := s.grp c p
    if g.slot != slot then s
    else s.setGrp c p { g with twin := ((s.launch n).partnerIndex g.bgrp).bind fun k => s.groupAt c slot k }) s

/-- A launch that takes a free core writes the boundary registers (R170); with its first block on the core it clears the barometer, with a later one or
a saved one it does not (R376). -/
def State.openCore (s : State) (n c : Nat) : State :=
  let k := s.core c
  let l := s.launch n
  if k.launch == some n then s
  else
    let l1 := 0x200000 - l.l1
    s.setCore c { k with
      launch := some n, nb := l.slots, baro := if l.opened.contains c then k.baro else [], poolL1 := BitVec.ofNat 32 l1,
      poolHeap := BitVec.ofNat 32 (l1 - l.heap), poolScr := BitVec.ofNat 32 (l1 - l.heap - l.scr) }

/-- The memory of a dependent node's regions, translated at its start in its own context (R342): parts that are not mapped are skipped. -/
def State.regionPieces (s : State) (n root : Nat) (rootV : Bool) : List (Nat × Nat) :=
  let d := s.node n
  if !d.flush then []
  else
    let e : Eng := { core := 384, root := root, rootV := rootV, foot := d.regions.map fun r => (r.2.2, false, r.1, r.2.1) }
    (s.footPieces e).map fun q => (q.2.2.1, q.2.2.2)

/-- A core drops the lines of pieces of memory from its caches. -/
def State.dropPieces (s : State) (c : Nat) (ps : List (Nat × Nat)) : State :=
  let hit := fun (y : L1Copy) => ps.any fun q => overlaps q.1 q.2 (128 * y.line) 128
  if ps.isEmpty then s
  else { s with
    l1 := s.l1.filter fun y => y.core != s.l1Of c y.line || !hit y
    stipple := s.stipple.filter fun y => y.core != c || !hit y }

/-- A core that takes its first block of a dependent node drops the lines of the node's regions from its caches (R342). -/
def State.dropRegions (s : State) (n c : Nat) : State :=
  let l := s.launch n
  if l.opened.contains c then s else (s.setLaunch n { l with opened := l.opened ++ [c] }).dropPieces c l.flushes

/-- The lowest free block slot of a core (R171). -/
def State.freeSlot (s : State) (c : Nat) : Nat := ((List.range 64).find? fun k => !(s.blkAt c k).live).getD 0

/-- Places one new block (R19, R171). -/
def State.placeBlock (s : State) (n c blk : Nat) : State :=
  let s := (s.openCore n c).dropRegions n c
  let l := s.launch n
  let slot := s.freeSlot c
  let s := s.setBlk c slot { live := true, node := n, blk := blk, size := l.groups }
  let s := l.roleList.zipIdx.foldl (fun s r => s.placeGroup n c slot blk r.2 r.1) s
  State.pairTwins { s with nextOrder := s.nextOrder + 1 } n c slot

/-! ### Pre-emption: what is saved and placed again (R366) -/

/-- The first 1,280 bytes of a group's save slot: in the buffer of its launch (R365), or in reserved device memory (R389). -/
def State.saveSlot (s : State) (c : Nat) (g : Group) (write : Bool) : Except (Nat × DWord) (List (Nat × Nat)) :=
  match g.reserved with
  | some (pa, _) => .ok [(pa, 1280)]
  | none => s.translateRange c (s.launch g.node).context { write := write, handler := true } g.saveAddr 1280

/-- A group in its handler with code RESUME: its frame is put back into its handler area, again after 64 cycles while another core pins a line of
either place (R210). -/
def State.resumeGroup (s : State) (c p : Nat) : State :=
  let g := s.grp c p
  let l := s.launchOf c p
  let (saved, from_) : Option (List Byte) × List Nat := match s.saveSlot c g false with
    | .error _ => (none, [])
    | .ok ps => (some (s.readPieces ps), s.pinnedBy c ps)
  if l.tvec == 0#64 then s.abortLaunch g.node Code.RESUME
  else match saved, s.translateRange c l.context { write := true, handler := true } (l.area c p) 1280 with
    | some f, .ok ps =>
      if ps.any fun q => s.holdsCode q.1 q.2 then s.freezeCore c (l.area c p)
      else if !(from_ ++ s.pinnedBy c ps).isEmpty then
        (s.setGrp c p { g with trap := some { code := Code.RESUME } }).retryStep (from_ ++ s.pinnedBy c ps) .trapEntry [c, p]
      else
      let s := (ps.foldl (fun (a : State × List Byte) q => ((a.1.storeNow c q.1 (a.2.take q.2)).1, a.2.drop q.2)) (s, f)).1
      s.setGrp c p { g with
        handler := true, trap := none, shadow := shadowAt (l.area c p) g.saveAddr g.saveSize Code.RESUME Code.RESUME, tcode := BitVec.ofNat 32 Code.RESUME,
        tcause := 0#64, tpc := 0#64,
        frontier := [{ prio := 255, hdr := l.tvec, idx := 0, mask := g.liveMask }] }
    | _, _ => s.abortLaunch g.node Code.DOUBLE_FAULT

/-- A core that takes up groups from another drops its own copies of memory: so of two loads of a lane, one on each core, the second never gives the
older value (R198, R218). -/
def State.dropCopies (s : State) (c : Nat) : State :=
  { s with l1 := s.l1.filter fun y => y.core != s.l1Of c y.line, stipple := s.stipple.filter (·.core != c) }

/-- Starts the groups of a saved block again, in the order of their indices, each with what was kept of it and on a partition of the number that it had
(R19); the lanes' places follow the groups to their new places. -/
def State.placeSaved (s : State) (n c : Nat) (b : SavedBlock) : State :=
  let s := ((s.openCore n c).dropRegions n c).dropCopies c
  let slot := s.freeSlot c
  let base := (s.scrSlice c slot).1
  let s := s.setBlk c slot { b.block with live := true, groups := [], yielded := [] }
  let s := b.slice.foldl (fun s e => s.setPoolByte c (base + e.1) e.2) s
  let s : State := { s with tags := s.tags ++ b.tags.map fun t => poolKey c (base + t) }
  let r := b.block.yielded.foldl (fun (a : State × List (Nat × Nat)) e =>
    let p := a.1.freeIn c e.2.part
    let s := a.1.clearRegs c p
    (s.setGrp c p { e.2 with
        live := true, slot := slot, placed := s.nextOrder, kept := moveKept 0 base e.2.kept }, a.2 ++ [(e.1, p)])) (s, [])
  let move := fun (x : Place) => { x with grp := ((r.2.find? (·.1 == x.grp)).map (·.2)).getD x.grp }
  let s := r.2.foldl (fun s q =>
    let g := s.grp c q.2
    let bk := s.blkAt c slot
    (s.setGrp c q.2 { g with vmap := g.vmap.map move, places := g.places.map (·.map move), dealt := g.dealt.map (·.map move) }).setBlk c slot
      { bk with groups := bk.groups ++ [q.2] }) r.1
  let s := State.pairTwins { s with nextOrder := s.nextOrder + 1 } n c slot
  r.2.foldl (fun s q => if (s.grp c q.2).liveMask == 0#32 then s else s.resumeGroup c q.2) s

/-- BLOCK_PLACEMENT (R344, R366): subject: node and first core. Saved blocks come before new ones. -/
def State.blockPlacement (s : State) (n c : Nat) : State :=
  let l := s.launch n
  if !s.mayPlace n || !s.placeable n l c then s
  else match s.savedUnit n l c with
    | b :: bs =>
      let s := s.setLaunch n { l with saved := l.saved.filter fun k => !(b :: bs).contains k }
      ((b :: bs).foldl (fun s k => s.placeSaved n (c + k.block.blk % l.unit) k) s).pokeTasks
    | [] => match s.nextUnit n l c with
      | none => s
      | some u =>
        let j := if l.det then c / max 1 l.cblk else u
        let s := s.setLaunch n { l with nextBlk := l.nextBlk + l.unit, perCore := aset 0 l.perCore j (aget 0 l.perCore j + 1) }
        ((List.range l.unit).foldl (fun s k => s.placeBlock n (c + k) (u * l.unit + k)) s).pokeTasks

def execBlockPlacement (s : State) : Host.Outcome State Fault Refusal := .next (s.blockPlacement (s.arg 0) (s.arg 1))

/-! ### The end of groups and blocks (R74, R174, R211, R366) -/

/-- Dirty lines of a group's private window leave L1: they are dropped, or written back (R174). -/
def State.cleanWindow (s : State) (c : Nat) (g : Group) (back : Bool) : State :=
  let n := (s.launch g.node).windowSize
  let k := s.core c
  let mine := fun (e : Nat × Byte) => g.window ≤ e.1 && e.1 < g.window + n
  let s := if back then (k.dirty.filter mine).foldl (fun s e => s.setByte e.1 e.2) s else s
  s.setCore c { k with dirty := k.dirty.filter fun e => !mine e }

/-- Takes a group off its core: its registers and banks are free; dirty private lines are dropped, or written back (R174). -/
def State.removeGroup (s : State) (c p : Nat) (back : Bool) : State :=
  let s := s.cleanWindow c (s.grp c p) back
  let k := s.core c
  (s.setCore c { k with xwaits := k.xwaits.filter (·.grp != p) }).setGrp c p {}

/-- The command records of a pre-emption that is complete, and its end (R365, R386). -/
def State.preemptCheck (s : State) (n : Nat) : State :=
  let l := s.launch n
  if !l.preempt || s.groups.any fun e => e.2.live && e.2.node == n then s
  else
    let s := s.setLaunch n { l with preempt := false }
    (s.cmds.filter fun k => k.code == 4 && k.operand 0 == n).foldl (fun s k => s.completeCmd k 0 0) s

/-- What follows when a group has left a block's slot: with the last one the block ends, or is saved if some of its groups have yielded, whose private
lines are written back (R366), or dropped in an aborted launch (R193); a core without a block is free (R170). -/
def State.leaveSlot (s : State) (c slot : Nat) : State :=
  let b := s.blkAt c slot
  if (s.residents c).any fun p => (s.grp c p).slot == slot then s
  else
    let (base, size) := s.scrSlice c slot
    let l := s.launch b.node
    let s := s.unpinBlock c slot
    let mine := fun (t : Nat) => overlaps t 1 (poolKey c base) size
    let s := if b.yielded.isEmpty then s
      else if l.abort.isSome then b.yielded.foldl (fun s y => s.cleanWindow c y.2 false) s
      else
        let bytes := (List.range size).foldl (fun m k => aset 0#8 m k (s.poolByte c (base + k))) ([] : AMap Byte)
        let s := b.yielded.foldl (fun s y => s.cleanWindow c y.2 true) s
        let k : SavedBlock := { slice := bytes, tags := (s.tags.filter mine).map (· - poolKey c base),
                                block := { b with heapMap := 0, heapFlt := (0, 0#64), live := false } }
        s.setLaunch b.node { l with saved := l.saved ++ [k] }
    let s : State := { s with tags := s.tags.filter fun t => !mine t }
    let s := s.setBlk c slot {}
    let s := if (s.slotsOn c).isEmpty then s.setCore c { s.core c with launch := none } else s
    ((s.preemptCheck b.node).post .nodeCompletion [b.node]).pokeTasks

/-- Whether a group's last writes have been made: in an aborted launch no work of its engines is left. -/
def State.groupDone (s : State) (c p : Nat) : Bool :=
  let u := (s.grp c p).uid
  if (s.launchOf c p).abort.isSome then
    !(s.accesses.any fun a => a.uid == u && a.dest != .none) && !(s.ops.any (·.uid == u)) && !(s.chains.any (·.uid == u)) &&
    !(s.mjobs.any (·.uid == u)) && !(s.rjobs.any (·.uid == u))
  else (s.grp c p).places.isNone && s.scoreboardEmpty c p

/-- A group yields (R366): its frame goes to its save slot, where running code is a violation of the core (R47, R364), its lines and pins are given
up, and what the command processor keeps of it waits for the block to be placed again. -/
def State.yieldGroup (s : State) (c p : Nat) (frame : List Byte) : State :=
  let g := s.grp c p
  match (if frame.isEmpty then .ok [] else s.saveSlot c g true) with
  | .error _ => s.abortLaunch g.node Code.DOUBLE_FAULT
  | .ok ps =>
    if ps.any fun q => s.holdsCode q.1 q.2 then s.freezeCore c g.saveAddr
    else
    let s := (ps.foldl (fun (a : State × List Byte) q => ((a.1.storeNow c q.1 (a.2.take q.2)).1, a.2.drop q.2)) (s, frame)).1
    let s := s.unpinBlock c g.slot
    let s := s.setLaunch g.node { s.launch g.node with wct := max (s.launch g.node).wct g.wct }
    let s := s.removeGroup c p true
    let kept : Group := { g with
      live := false, ext := 0, handler := false, trap := none, frontier := [], parked := [], shadow := [], accs := [], freeing := [], tiles := [], mmask := [],
      mbits := 0, tokens := [], gates := [], acqs := [], requests := g.requests, fair := [], rotate := 0, preempted := false,
      twin := none, lastIssue := [], kept := moveKept (s.scrSlice c g.slot).1 0 g.kept }
    let b := s.blkAt c g.slot
    let s := s.setBlk c g.slot { b with yielded := b.yielded ++ [(p, kept)], groups := b.groups.erase p }
    (s.afterFree c).leaveSlot c g.slot

/-- A twin whose last lane has exited (R269): its held and shared loops stop, the other half of a shared loop runs on alone, and the pair is unbound. -/
def State.endTwin (s : State) (c p : Nat) : State :=
  let g := s.grp c p
  if g.twin.isNone || g.places.isSome then s
  else
    let mine := s.mjobs.filter fun j => j.uid == g.uid && (j.held || j.shared)
    let s := mine.foldl (fun s j => s.suspend (some j)) s
    s.unbindPair c p

/-- GROUP_END (R74, R221, R266, R345): subject: core and group. -/
def State.groupEnd (s : State) (c p : Nat) : State :=
  let g := s.grp c p
  let s := if g.live && g.liveMask == 0#32 && !(s.core c).frozen then s.endTwin c p else s
  if !g.live || g.liveMask != 0#32 then s
  else if g.places.isSome && (s.launch g.node).preempt && (s.launch g.node).abort.isNone && !(s.core c).frozen && s.scoreboardEmpty c p then s.yieldGroup c p []
  else if (s.core c).frozen || !s.groupDone c p then s.post .groupEnd [c, p]
  else
    let s := match g.twin with
      | none => s
      | some q => s.setGrp c q { s.grp c q with twin := none }
    let l := s.launch g.node
    let blk := (s.blkAt c g.slot).blk
    let s := s.setLaunch g.node { l with
      wct := max l.wct g.wct, digests := if l.det then aset 0#64 l.digests blk (aget 0#64 l.digests blk + g.digest) else l.digests }
    let s := (s.removeGroup c p false).afterFree c
    let s := (List.range 16).foldl (fun s n => s.barCheck c g.slot n) s
    let s := ((s.residents c).filter fun q => (s.grp c q).slot == g.slot && (s.grp c q).regrp.isSome).foldl (fun s q => s.regrpCheck c q) s
    s.leaveSlot c g.slot

def execGroupEnd (s : State) : Host.Outcome State Fault Refusal := .next (s.groupEnd (s.arg 0) (s.arg 1))

/-- Whether the slots of a buffer with numbers ks lie in device memory, clear of memory in use. -/
def slotsClear (used : List (Nat × Nat)) (bad : Nat → Bool) (base : Int) (size : Nat) (ks : List Nat) : Bool :=
  ks.all fun k =>
    let a := base + size * k
    0 ≤ a && a.toNat + size ≤ devTop && !(used.any fun u => overlaps u.1 u.2 a.toNat size) && !bad a.toNat

/-- The base of a save buffer of a launch in reserved memory, for slots with numbers ks (R365, R389): with the first of them where it is wanted, or else
with one of them after some memory in use. All are clear of other slots, private windows and what running launches map, at addresses that the launch's
tables do not map; where there is no such base, of slots and windows. -/
def State.reserveBase (s : State) (l : Launch) (want size : Nat) (ks : List Nat) : Option Int :=
  let kept := s.reservedPlaces ++ s.windows
  let mapped := (s.launches.filter (·.2.running)).flatMap fun e => s.virtualSpace e.2
  let named := fun (a : Nat) => (List.range (size / 4096 + 1)).any fun k => match s.leaf 384 l.context (a + 4096 * k) with
    | .ok _ => true
    | .error _ => false
  let base := fun (a k : Nat) => (a : Int) - size * k
  let first := ks.foldl min (ks.headD 0)
  let find := fun (used : List (Nat × Nat)) (bad : Nat → Bool) =>
    (base want first :: base 0 first :: used.flatMap fun u => ks.map (base ((u.1 + u.2 + 2047) / 2048 * 2048))).find? fun b =>
      slotsClear used bad b size ks
  (find (kept ++ mapped) named).or (find kept fun _ => false)

/-- The save buffer in reserved memory for slots of a launch: the one that it had before if they are still clear there, so that an image that is
restored holds their frames in place (R389); else a new one. DESIGN CHOICE: its size and place (log entry 86). -/
def State.reserveFor (s : State) (n : Nat) (ks : List Nat) : Option (Int × Nat) :=
  let size := 2048 * (1 + Config.reservedUnits n % 512)
  let fresh := (s.reserveBase (s.launch n) (Config.reservedSlot n % devTop / 2048 * 2048) size ks).map fun b => (b, size)
  match (s.launch n).reserve with
  | none => fresh
  | some (b, z) =>
    let own := ks.map fun (k : Nat) => ((b + z * k).toNat, z)
    if slotsClear ((s.reservedPlaces ++ s.windows).filter fun u => !own.contains u) (fun _ => false) b z ks then some (b, z) else fresh

/-- The number of a group's save slot (R365). -/
def State.slotNumber (s : State) (c p : Nat) : Nat := 32 * (s.blkAt c (s.grp c p).slot).blk + (s.grp c p).bgrp

/-- Gives a group its save slot in a buffer in reserved memory: the launch's, or where that has none the slot that the group had before or one of its
own. -/
def State.reserveSlot (s : State) (c p n : Nat) (whole : Option (Int × Nat)) : State :=
  let g := s.grp c p
  let k := s.slotNumber c p
  let slot := fun (q : Int × Nat) => ((q.1 + q.2 * k).toNat, q.2)
  match (whole.map slot).or (g.reserved.or ((s.reserveFor n [k]).map slot)) with
  | none => s
  | some (place, size) =>
    s.setGrp c p { g with saveAddr := BitVec.ofNat 64 place, saveSize := size, reserved := some (place, size), lastSlot := g.reserved }

/-- Asks every resident group of a launch to pre-empt itself (R365): save slots in the host's buffer, or in one in reserved memory (R389, log 86).
A group that a regrouping has left without lanes has no code to run and yields by its GROUP_END step. -/
def State.preemptLaunch (s : State) (n : Nat) (buffer : Option (DWord × Nat)) : State :=
  let s := s.setLaunch n { s.launch n with preempt := true }
  let mine := s.groups.filter fun e => e.2.live && e.2.node == n
  let whole := if buffer.isSome then none else s.reserveFor n (mine.map fun e => s.slotNumber (e.1 / 64) (e.1 % 64))
  let s := if whole.isSome then s.setLaunch n { s.launch n with reserve := whole } else s
  let s := mine.foldl (fun s e =>
    let c := e.1 / 64
    let p := e.1 % 64
    let g := s.grp c p
    let s := match buffer with
      | some (a, size) => s.setGrp c p { g with
          saveAddr := a + BitVec.ofNat 64 (size * s.slotNumber c p), saveSize := size, reserved := none, lastSlot := g.reserved }
      | none => s.reserveSlot c p n whole
    if g.liveMask == 0#32 then s.post .groupEnd [c, p]
    else s.request c p Code.PREEMPT 0#64) s
  s.preemptCheck n

/-! ### Completion (R339, R345, R346) -/

/-- The digest of a task (R345). -/
def Launch.taskDigest (l : Launch) : DWord :=
  (List.range l.blocks).foldl (fun t b => digestMix (t ^^^ aget 0#64 l.digests b)) 0#64

/-- A launch whose blocks have all ended gives up what it has not used (R314, R332). -/
def State.endOfLaunch (s : State) (n : Nat) : State :=
  let s : State := { s with work := s.work.filter fun e => !(e.2.owner == n && (e.2.state == .built || e.2.state == .armed)) }
  (s.colls.filter fun e => e.2.owner == some n && e.2.state == .posted).foldl (fun s e => s.cancelSlot e.1) s

/-- Whether everything that a launch has started has been performed and its completion times have passed (R339). -/
def State.launchQuiet (s : State) (n : Nat) : Bool :=
  let l := s.launch n
  !(s.accesses.any fun a => l.uids.contains a.uid) && !(s.engineWork.any (·.node == n)) && l.wct ≤ s.dtime &&
  !(s.colls.any fun e => e.2.owner == some n && !e.2.state.ended)

/-- Frees what belonged to a launch: nodes that it built (R340), slots, handles and ring slots (R157, R241), and its fetched code. -/
def State.dropLaunch (s : State) (n : Nat) : State :=
  let s : State := { s with
    launches := adel s.launches n
    colls := s.colls.filter fun e => e.2.owner != some n
    cores := s.cores.map fun e => (e.1, { e.2 with
      handles := e.2.handles.filter fun h => h.2.owner != some n
      slots := e.2.slots.filterMap fun k =>
        let r : RingSlot := { k.2 with loading := k.2.loading.filter fun l => l.2.1 != n }
        let r := if r.owner == some n then { r with owner := none, table := [] } else r
        if r == {} then none else some (k.1, r)
      fetched := e.2.fetched.filter fun f => f.1 != n, held := e.2.held.filter fun f => f.1 != n })
    nodes := s.nodes.filterMap fun e =>
      if e.2.owner != some n then some e
      else if e.2.state == .built || e.2.state.ended then none
      else some (e.1, { e.2 with auto := true, owner := some 4096 }) }
  s

/-- Whether a region that a node writes overlaps one that it reads (R346). -/
def Node.selfOverlap (d : Node) : Bool :=
  d.regions.any fun x => x.2.2 && d.regions.any fun y => !y.2.2 && overlaps x.1 x.2.1 y.1 y.2.1

/-- The end of a KERNEL node whose work is done: an abort's code, DEADLINE_MISS, or by its digest DONE, a serial run, or DIGEST_MISMATCH. -/
def State.finishKernel (s : State) (n : Nat) : State :=
  let d := s.node n
  let l := s.launch n
  let t := if l.det then l.taskDigest else 0#64
  let close := fun (s : State) (st : NodeState) (code : Nat) (reex : Bool) =>
    let s := (s.setNode n { s.node n with digest := t, reex := reex }).dropLaunch n
    let s : State := { s with ended := if l.det then (t :: s.ended).take 64 else s.ended }
    (s.endNode n st code).pokeTasks
  match l.abort with
  | some code => close s .failed code false
  | none =>
    if d.missed then close s .deadlineMiss Code.DEADLINE_MISS false
    else if !(l.det && (descFlags d.desc).testBit 0) || t == descExpect d.desc then close s .done 0 l.serial
    else if l.serial || d.selfOverlap then close s .failed Code.DIGEST_MISMATCH false
    else (s.setLaunch n { l with nextBlk := 0, perCore := [], digests := [], serial := true }).pokeTasks

/-- NODE_COMPLETION (R338, R339): subject: node. A node that has not completed is tested again. -/
def State.nodeCompletion (s : State) (n : Nat) : State :=
  let d := s.node n
  let final := fun (s : State) (late : Bool) =>
    let d := s.node n
    if d.code == Code.DEADLINE_MISS || (d.code = 0 && late) then s.endNode n .deadlineMiss Code.DEADLINE_MISS
    else if d.code != 0 then s.endNode n .failed d.code else s.endNode n .done 0
  if d.state != .running then s
  else match descKind d.desc with
    | 0 =>
      let l := s.launch n
      let allOver := !(s.blocks.any fun e => e.2.live && e.2.node == n) && l.saved.isEmpty && (l.blocks ≤ l.nextBlk || d.missed || l.abort.isSome)
      if !allOver then s
      else
        let s := s.endOfLaunch n
        if s.launchQuiet n then s.finishKernel n else s.post .nodeCompletion [n]
    | 1 => if s.cards.any (·.copy == some n) then s else (final s d.missed).pokeTasks
    | 2 =>
      let s := s.dropBurn n
      if s.burns.any (·.node == n) then s
      else if s.dtime < (s.node n).wct || s.rjobs.any (·.burn == some n) then s.post .nodeCompletion [n]
      else (final s false).pokeTasks
    | _ => match s.colls.find? fun e => e.2.node == some n with
      | none => s
      | some e =>
        if !e.2.state.ended then s
        else
          let s := s.setColl e.1 {}
          (if d.missed then s.endNode n .deadlineMiss Code.DEADLINE_MISS
           else match e.2.state with
            | .done => s.endNode n .done 0
            | .partl => s.endNode n .partl 0
            | _ => s.endNode n .failed e.2.code).pokeTasks

def execNodeCompletion (s : State) : Host.Outcome State Fault Refusal := .next (s.nodeCompletion (s.arg 0))

/-! ### Dispatch (R338, R343) -/

/-- The core whose request engine runs a COPY node: one of the die that homes its first destination byte, the first that accepts work; a destination
outside device memory is homed on no die of this device. -/
def State.copyCore (s : State) (d : Node) (k : Card) : Option Nat :=
  let open_ := fun (c : Nat) => !s.engineFrozen c 3 && (s.cards.filter (·.core == c)).length < 1024
  let cores := match s.translate 384 (s.queueCtx d.queue) { write := true } (BitVec.ofNat 64 k.dst) with
    | .ok pa => if windowOf pa == some Window.device then List.range' (48 * s.stackOf pa) 48 else List.range 384
    | .error _ => List.range 384
  cores.find? open_

/-- Starts a COPY node (R235, R338): the core that makes the copy drops the lines of a dependent node's regions (R342). -/
def State.startCopy (s : State) (n : Nat) (b : List Byte) : State :=
  let d := s.node n
  let k := cardOf b
  if (descBody d.desc).toNat % 64 != 0 || k.bad b || k.space != 0 || !k.noBo then s.endNode n .failed Code.KICK_CARD
  else match s.copyCore d k with
    | none => s
    | some c =>
      let x := s.queueCtx d.queue
      let id := s.nextId
      let j : CardJob := { id := id, core := c, uid := id, node := n, root := x.root, rootV := x.v, foot := k.foot 0, op := k.op 0, copy := some n }
      let s : State := { s.dropPieces c (s.regionPieces n x.root x.v) with nextId := id + 1, cards := s.cards ++ [j] }
      (s.setNode n { d with state := .running }).post .cardCompletion [id]

/-- The clause at an address, as fetches of a launch or of its handlers read it (R354): its pieces of memory and its instruction words; none where no
header stands (R38). -/
def State.clauseAt (s : State) (x : Context) (addr : DWord) : Option (List (Nat × Nat) × List DWord) :=
  if addr.toNat % 8 != 0 then none
  else match s.translateRange 384 x { fetch := true, handler := true } addr 8 with
    | .ok [(pa, _)] => match decodeHeader (s.dword pa) with
      | none => none
      | some h => match s.translateRange 384 x { fetch := true, handler := true } addr (8 * (h.count.toNat + 2)) with
        | .ok ps => some (ps, ((chunksOf 8 (8 * (h.count.toNat + 2)) (s.readPieces ps)).drop 1).map leDWord)
        | .error _ => none
    | _ => none

/-- The target that an instruction word at an address names by its offset (R55, R70). -/
def wordTarget (at_ w : DWord) : Option DWord :=
  let to_ := fun (o : BitVec 32) => some (codeAddr (at_ + 8#64 * o.signExtend 64))
  match decodeWord w with
  | .ok (.bra _ _ o) => to_ o
  | .ok (.call _ _ _ o) => to_ o
  | .ok (.loop _ _ _ o) => to_ o
  | .ok (.iter _ _ _ _ _ o) => to_ o
  | _ => none

/-- The memory of the clauses that are reached from addresses by falling through and by the targets that instruction words name (R46, R70). -/
def State.codeFrom (s : State) (x : Context) : Nat → List DWord → List DWord → List (Nat × Nat)
  | 0, _, _ => []
  | _ + 1, [], _ => []
  | fuel + 1, a :: todo, seen =>
    if seen.contains a then s.codeFrom x fuel todo seen
    else match s.clauseAt x a with
      | none => s.codeFrom x fuel todo (a :: seen)
      | some (ps, ws) =>
        let word := fun (k : Nat) => a + BitVec.ofNat 64 (8 * (k + 1))
        ps ++ s.codeFrom x fuel (codeAddr (word ws.length) :: (ws.zipIdx.filterMap fun w => wordTarget (word w.2) w.1) ++ todo) (a :: seen)

/-- Whether an instruction word leads to an address that a register or a frame holds (R70, R371). -/
def leadsAnywhere (w : DWord) : Bool :=
  match decodeWord w with
  | .ok (.brx _ _) => true
  | .ok (.callx _ _ _) => true
  | .ok (.ret _ _) => true
  | .ok (.rte _ _) => true
  | _ => false

/-- The executable pages that the tables from a level downward map (R178, R179): virtual and physical address and address bits of each. -/
def State.codePages (s : State) : Nat → Nat → Nat → List (Nat × Nat × Nat)
  | 0, _, _ => []
  | level + 1, table, va =>
    let listed := ((s.mem.filter fun b => table ≤ b.1 && b.1 < table + 4096).map fun b => (b.1 - table) / 8).eraseDups
    listed.flatMap fun k =>
      let e := s.dword (table + 8 * k)
      let v := va + k * 2 ^ (12 + 9 * level)
      if !e.getLsbD 0 || pteBad e (level + 1) then []
      else if !e.getLsbD 1 then s.codePages level (pteAddr e) v
      else if !e.getLsbD 5 then []
      else
        let bits := if e.getLsbD 7 then 16 else 12 + 9 * level
        [(v / 2 ^ bits * 2 ^ bits, pteAddr e / 2 ^ bits * 2 ^ bits, bits)]

/-- The addresses of a context at which executable memory holds a whole clause. -/
def State.clausesOf (s : State) (x : Context) : List DWord :=
  if !x.v then []
  else (s.codePages 5 x.root 0).eraseDups.flatMap fun q => s.mem.filterMap fun b =>
    let a := BitVec.ofNat 64 (q.1 + (b.1 - 7 - q.2.1))
    if b.1 % 8 == 7 && b.2.toNat / 16 == 0xC && q.2.1 ≤ b.1 && b.1 < q.2.1 + 2 ^ q.2.2 &&
        (match s.clauseAt x a with
          | some (_, ws) => ws.all fun w => (decodeWord w).isOk
          | none => false) then some a
    else none

/-- The memory that holds the code of a launch as it starts: the clauses that its words reach from CODE, from its handlers' vectors and from the entry
of each role; where one of them leads to an address that a register or a frame holds, every clause of the context's executable memory may be reached.
DEDUCED: the spec names no extent (log entry 11). -/
def State.launchCodes (s : State) (l : Launch) : List (Nat × Nat) :=
  let x := l.context
  let roots := (l.code :: [l.tvec, l.dvec].filter (· != 0#64) ++ l.roles.map fun r => l.code + BitVec.ofNat 64 r.1).map codeAddr
  let named := s.codeFrom x 1048576 roots []
  if named.any fun q => (chunksOf 8 q.2 (s.readAt q.1 q.2)).any fun b => leadsAnywhere (leDWord b) then
    s.codeFrom x 1048576 (roots ++ s.clausesOf x) []
  else named

/-- Starts a KERNEL node: its launch stands with the memory of its code (R47) and of the regions that it reads (R342), and its first blocks can be
placed. -/
def State.startKernel (s : State) (n : Nat) (l : Launch) : State :=
  (s.setNode n { s.node n with state := .running }).setLaunch n
    { l with codes := s.launchCodes l, flushes := s.regionPieces n l.root l.rootV }

/-- NODE_DISPATCH (R338, R343): subject: node. A body that does not serve ends the node FAILED with its code; a pinned one is read again (R210). -/
def State.nodeDispatch (s : State) (n : Nat) : State :=
  let d := s.node n
  let first := !(s.nodes.any fun e => e.1 != n && readyBefore e.2 d && s.dispatchable e.1)
  if !s.dispatchable n || !first then s
  else if !(s.bodyPins d.queue d.desc).isEmpty then s.retryStep (s.bodyPins d.queue d.desc) .nodeDispatch [n]
  else
    let s := match descKind d.desc with
      | 0 => match s.launchFor n with
        | .error code => s.endNode n .failed code
        | .ok l => s.startKernel n l
      | 1 => match s.cpRead d.queue (descBody d.desc) 64 with
        | .error code => s.endNode n .failed code
        | .ok b => s.startCopy n b
      | 2 => match s.cpRead d.queue (descBody d.desc) 32, (List.range 384).find? fun c => !s.engineFrozen c 5 && !(s.burns.any (·.core == c)) with
        | .error code, _ => s.endNode n .failed code
        | .ok _, none => s
        | .ok b, some c => match (s.dropPieces c (s.regionPieces n (s.queueCtx d.queue).root (s.queueCtx d.queue).v)).startBurn n c b with
          | .error code => s.endNode n .failed code
          | .ok t => t
      | _ => match s.cpRead d.queue (descBody d.desc) 32 with
        | .error code => s.endNode n .failed code
        | .ok b =>
          let x := s.queueCtx d.queue
          match s.postSlot (bodyWords b) { node := some n, core := 384, uid := s.nextId, root := x.root, rootV := x.v } with
          | .error code => s.endNode n .failed code
          | .ok (_, t) => t.setNode n { d with state := .running }
    s.pokeTasks

def execNodeDispatch (s : State) : Host.Outcome State Fault Refusal := .next (s.nodeDispatch (s.arg 0))

/-! ### Deadlines (R347) -/

/-- DEADLINE_PASSED (R347): subject: node. One that has not started ends; a running one is marked, and its work stops at its boundaries. -/
def State.passDeadline (s : State) (n : Nat) : State :=
  let d := s.node n
  if !s.deadlinePassed n || d.missed then s
  else match d.state with
    | .built => (s.endNode n .deadlineMiss Code.DEADLINE_MISS).pokeTasks
    | .waiting => (s.endNode n .deadlineMiss Code.DEADLINE_MISS).pokeTasks
    | .ready => (s.endNode n .deadlineMiss Code.DEADLINE_MISS).pokeTasks
    | .running =>
      let s := s.setNode n { d with missed := true }
      let s := match s.colls.find? fun e => e.2.node == some n with
        | none => s
        | some e => s.cancelSlot e.1
      (s.post .nodeCompletion [n]).pokeTasks
    | _ => s

def execDeadlinePassed (s : State) : Host.Outcome State Fault Refusal := .next (s.passDeadline (s.arg 0))

end Sys2Proof.Machine
end

