-- ==== Sys2Proof/Machine/Tasks.lean ====
section
/-!
DEFINITION. The eight task and launch instructions (R348 to R352).
-/
namespace Sys2Proof.Machine

/-- Runs a body on the 128 bytes of a node descriptor (R349): GRAPH_DESC for a misaligned address and for a field that breaks R337. -/
def withNodeDesc (addr : DWord) (body : List Byte → Ctx → State → Res) (x : Ctx) (s : State) : Res :=
  if addr.toNat % 128 != 0 then .fault Code.GRAPH_DESC 0#64 s
  else x.withDesc addr 128 (fun b x s => if descBad b then .fault Code.GRAPH_DESC 0#64 s else body b x s) s

/-- GNODE (R349). -/
def gnodeBody (sd sa : BitVec 8) : Ctx → State → Res := once fun x s =>
  withNodeDesc (x.sreg64 s sa) (fun b x s =>
    match s.buildNode b (some x.g.node) (s.launch x.g.node).queue (sliceNat b 1 1) with
    | .error code => .fault code 0#64 s
    | .ok (n, t) => .ok (x.putS sd (BitVec.ofNat 32 n) t)) x s

def execGnode (g : Guard) (sd sa : BitVec 8) (s : State) : Host.Outcome State Fault Refusal := issue (.gnode g sd sa) g (gnodeBody sd sa) s

/-- GEDGE (R349): B must be BUILT and of this launch, A submitted. -/
def gedgeBody (sa sb : BitVec 8) : Ctx → State → Res := once fun x s =>
  let a := (x.sreg s sa).toNat
  let b := (x.sreg s sb).toNat
  let y := s.node b
  if 4096 ≤ a || 4096 ≤ b || (s.node a).state == .free || (s.node a).state == .built || !(s.node a).nameable a x.g.node ||
      y.state != .built || y.owner != some x.g.node then .fault Code.GRAPH_NODE 0#64 s
  else match s.addEdge a b with
    | .error code => .fault code 0#64 s
    | .ok t => .ok t

def execGedge (g : Guard) (sa sb : BitVec 8) (s : State) : Host.Outcome State Fault Refusal := issue (.gedge g sa sb) g (gedgeBody sa sb) s

/-- GSUB (R349): a release at system scope, and then its faults and the submission. -/
def gsubBody (sa : BitVec 8) : Ctx → State → Res := once fun x s =>
  let ops := x.operands [x.sreg s sa]
  let n := (ops.getD 0 0#32).toNat
  afterRelease 7 ops (fun x s =>
    if 4096 ≤ n || (s.node n).state != .built || (s.node n).owner != some x.g.node then .fault Code.GRAPH_NODE 0#64 s
    else match s.footPins (s.node n).queue (s.node n).desc with
      | [] => match s.submitNode n with
        | .error code => .fault code 0#64 s
        | .ok t => .ok t.pokeTasks
      | ls => x.refused ls s) x s

def execGsub (g : Guard) (sa : BitVec 8) (s : State) : Host.Outcome State Fault Refusal := issue (.gsub g sa) g (gsubBody sa) s

/-- GWAIT (R350): an ended node's status is read and the node freed; .try reads any state. A wait ends with its node, which the last entry that waits
for it frees. What a node that has not ended depends on is checked when the instruction first comes to issue. -/
def gwaitBody (sd sa : BitVec 8) (tr : Bool) : Ctx → State → Res := once fun x s =>
  let n := match x.e.note with
    | [0xF1, n, _] => n
    | _ => (x.sreg s sa).toNat
  let d := s.node n
  if 4096 ≤ n || d.state == .free || !d.nameable n x.g.node then .fault Code.GRAPH_NODE 0#64 s
  else if x.e.note.isEmpty && !d.state.ended && s.dependsOn n x.g.node then .fault Code.GRAPH_WAIT 0#64 s
  else if d.state.ended then
    let t := x.acquire 7 ((x.remember [] s).putStatus x.c x.p sd.toNat n)
    .ok (if t.awaited n then t else t.freeNode n)
  else if tr then .ok (s.putStatus x.c x.p sd.toNat n)
  else .wait (x.remember [0xF1, n, sd.toNat] s) 4

def execGwait (g : Guard) (sd sa : BitVec 8) (tr : Bool) (s : State) : Host.Outcome State Fault Refusal :=
  issue (.gwait g sd sa tr) g (gwaitBody sd sa tr) s

/-- LAUNCH (R349): its release comes first; then GNODE, GEDGE from the launch's own node and GSUB, whose faults are decided together. -/
def launchBody (sd sa : BitVec 8) : Ctx → State → Res := once fun x s =>
  let ops := x.operands [x.sreg s sa, s.sr x.c x.p (sa.toNat + 1)]
  afterRelease 7 ops (fun x s => withNodeDesc (pair64 (ops.getD 0 0#32) (ops.getD 1 0#32)) (fun b x s =>
    if descKind b != 0 then .fault Code.GRAPH_DESC 0#64 s
    else match s.buildNode b (some x.g.node) (s.launch x.g.node).queue (sliceNat b 1 1) with
      | .error code => .fault code 0#64 s
      | .ok (n, t) => match t.addEdge x.g.node n with
        | .error code => .fault code 0#64 s
        | .ok t => match t.submitNode n with
          | .error code => .fault code 0#64 s
          | .ok t => .ok (x.putS sd (BitVec.ofNat 32 n) t.pokeTasks)) x s) x s

def execLaunch (g : Guard) (sd sa : BitVec 8) (s : State) : Host.Outcome State Fault Refusal := issue (.launch g sd sa) g (launchBody sd sa) s

/-- Sets a node's deadline (R351): 0 removes it, and a time that has passed takes effect at the next boundary. -/
def State.setDeadline (s : State) (n t : Nat) : State :=
  let s := s.setNode n { s.node n with deadline := t }
  if t = 0 then s else if t ≤ s.dtime then s.post .deadlinePassed [n] else s.timer false t .deadlinePassed [n]

/-- DLINE (R351): 0xFFFFFFFF names the launch's own node. -/
def dlineBody (sa sb : BitVec 8) : Ctx → State → Res := once fun x s =>
  let a := (x.sreg s sa).toNat
  let n := if a = 0xFFFFFFFF then x.g.node else a
  let d := s.node n
  if 4096 ≤ n || d.state == .free || !d.nameable n x.g.node then .fault Code.GRAPH_NODE 0#64 s
  else if d.state.ended then .ok s
  else .ok (s.setDeadline n (x.sreg64 s sb).toNat)

def execDline (g : Guard) (sa sb : BitVec 8) (s : State) : Host.Outcome State Fault Refusal := issue (.dline g sa sb) g (dlineBody sa sb) s

/-- DGST (R352): after every earlier store and atomic is acknowledged, the group's digest. -/
def dgstBody (sd : BitVec 8) : Ctx → State → Res := once fun x s =>
  if !(s.launchOf x.c x.p).det then .fault Code.DET_OFF 0#64 s
  else afterOpen (fun s => s.openStores x.g.uid) 0#64 (fun _ x s => .ok (x.putS64 sd (s.grp x.c x.p).digest s)) x s

def execDgst (g : Guard) (sd : BitVec 8) (s : State) : Host.Outcome State Fault Refusal := issue (.dgst g sd) g (dgstBody sd) s

/-- DGCHK (R352): waits in the same way, and compares. -/
def dgchkBody (sa : BitVec 8) : Ctx → State → Res := once fun x s =>
  if !(s.launchOf x.c x.p).det then .fault Code.DET_OFF 0#64 s
  else afterOpen (fun s => s.openStores x.g.uid) (x.sreg64 s sa)
    (fun want x s => if (s.grp x.c x.p).digest == want then .ok s else .fault Code.DIGEST_MISMATCH 0#64 s) x s

def execDgchk (g : Guard) (sa : BitVec 8) (s : State) : Host.Outcome State Fault Refusal := issue (.dgchk g sa) g (dgchkBody sa) s

end Sys2Proof.Machine
end

