-- ==== Sys2Proof/Machine/System.lean ====
section
/-!
DEFINITION. The system, trap and debug instructions (R354 to R377): traps and the return from them, special registers, the saving of live registers,
stops, the trace ring and the barometer; and the step TRAP_ENTRY.
-/
namespace Sys2Proof.Machine

/-! ### Trap entry (R356, R370, R374) -/

/-- TRAP_ENTRY (R356): subject: core and group. The handler is entered once every pending write of the group has been made. -/
def State.trapEntry (s : State) (c p : Nat) : State :=
  let g := s.grp c p
  match g.trap with
  | none => s
  | some t =>
    if (s.core c).frozen || s.loadsPending c p then s.post .trapEntry [c, p]
    else if t.code == Code.RESUME then s.resumeGroup c p
    else s.enterTrap c p { t with fe := t.place g.frontier }

def execTrapEntry (s : State) : Host.Outcome State Fault Refusal := .next (s.trapEntry (s.arg 0) (s.arg 1))

/-- TRAP (R370): DETAIL is the operand, or 0. -/
def trapBody (a : VS) : Ctx → State → Res := once fun x s =>
  .trap Code.TRAP (if a.sc then (x.sreg s a.n).setWidth 64 else 0#64) s

def execTrap (g : Guard) (a : VS) (s : State) : Host.Outcome State Fault Refusal := issue (.trap g a) g (trapBody a) s

/-- BKPT (R374): BREAK with the id; it has no effect in handler mode (R360). -/
def bkptBody (id : BitVec 16) : Ctx → State → Res := once fun x s =>
  if x.g.handler then .ok s else .trap Code.BREAK (id.setWidth 64) s

def execBkpt (g : Guard) (id : BitVec 16) (s : State) : Host.Outcome State Fault Refusal := issue (.bkpt g id) g (bkptBody id) s

/-- HALTB (R374): every group of the block takes STOP at its next boundary, one that has yielded after its return; .abort aborts the launch (R363). -/
def haltbBody (sa : BitVec 8) (abt : Bool) : Ctx → State → Res := once fun x s =>
  if abt then .done (s.abortLaunch x.g.node Code.ABORTED)
  else
    let detail := (x.sreg s sa).setWidth 64
    let s := s.advance x.n
    let b := s.blkAt x.c x.g.slot
    let s := s.setBlk x.c x.g.slot { b with yielded := b.yielded.map fun y => (y.1, { y.2 with requests := y.2.requests ++ [(Code.STOP, detail)] }) }
    .done (((s.residents x.c).filter fun q => (s.grp x.c q).slot == x.g.slot).foldl (fun s q => s.request x.c q Code.STOP detail) s)

def execHaltb (g : Guard) (sa : BitVec 8) (abt : Bool) (s : State) : Host.Outcome State Fault Refusal :=
  issue (.haltb g sa abt) g (haltbBody sa abt) s

/-! ### The return (R365, R366, R371) -/

/-- Regroupings that waited for a group in its handler are tested again. -/
def State.afterReturn (s : State) (c p : Nat) : State :=
  let g := s.grp c p
  let s := ((s.residents c).filter fun q => (s.grp c q).slot == g.slot && (s.grp c q).regrp.isSome).foldl (fun s q => s.regrpCheck c q) s
  (s.blkAt c g.slot).regroups.foldl (fun s m => s.ungrpCheck c g.slot m) s

/-- Whether a store or an atomic of a group, or of its engine work (R216), is still to be performed. -/
def State.storesPending (s : State) (uid : Nat) : Bool :=
  (s.accesses.any fun a => a.uid == uid && a.kind != .load && !a.done) ||
  s.engineWork.any fun e => e.uid == uid && s.engRuns e && e.foot.any (·.1)

/-- The lines that RTE touches and another core has pinned (R210): those of the frame, and those of the save slot to which a group that yields
copies it. -/
def State.framePins (s : State) (c p : Nat) : List Nat :=
  let g := s.grp c p
  let l := s.launchOf c p
  let of := fun (r : Except (Nat × DWord) (List (Nat × Nat))) => match r with
    | .ok ps => s.pinnedBy c ps
    | .error _ => []
  of (s.translateRange c l.context { handler := true } (l.area c p) 1280) ++ if g.preempted then of (s.saveSlot c g true) else []

/-- RTE (R371): it waits for the group's earlier stores and for the ten lines of the frame (R17), and restores the frame; from a PREEMPT entry, and as
.yield, the group yields (R365). -/
def rteBody (yld : Bool) : Ctx → State → Res := once fun x s =>
  if !x.g.handler then .fault Code.PRIV 0#64 s
  else if s.storesPending x.g.uid then .wait s 12
  else if s.linesFull x.c 10 then .wait s
  else if !(s.framePins x.c x.p).isEmpty then x.refused (s.framePins x.c x.p) s
  else if !x.g.preempted then
    if yld then .done (s.abortLaunch x.g.node Code.DOUBLE_FAULT)
    else .done (((s.leaveTrap x.c x.p x.pc).afterReturn x.c x.p).serveRequests x.c x.p)
  else if !s.scoreboardEmpty x.c x.p || s.accesses.any (·.uid == x.g.uid) then .wait s 12
  else match s.readFrame x.c x.p with
    | none => .done (s.abortLaunch x.g.node Code.DOUBLE_FAULT)
    | some f => .done (s.yieldGroup x.c x.p f)

def execRte (g : Guard) (yld : Bool) (s : State) : Host.Outcome State Fault Refusal := issue (.rte g yld) g (rteBody yld) s

/-! ### Live registers (R367, R368) -/

/-- Which registers of each file are live, as bits. -/
structure LiveSet where
  v  : Nat := 0
  sr : Nat := 0
  p  : Nat := 0
  q  : Nat := 0
deriving DecidableEq, Repr

def LiveSet.all : LiveSet := { v := 2 ^ 256 - 1, sr := 2 ^ 128 - 1, p := 127, q := 255 }

def LiveSet.union (a b : LiveSet) : LiveSet := { v := a.v ||| b.v, sr := a.sr ||| b.sr, p := a.p ||| b.p, q := a.q ||| b.q }

/-- The set that a record or the head of a saved area names (R367, R368). -/
def LiveSet.of (b : List Byte) (v sr p q : Nat) : LiveSet :=
  { v := sliceNat b v 32, sr := sliceNat b sr 16, p := sliceNat b p 1 % 128, q := sliceNat b q 1 }

/-- What keeps a handler from reading memory: a fault at an address, or lines that another core has pinned (R210). -/
inductive ReadStop
  | fault (code : Nat) (addr : DWord)
  | pinned (lines : List Nat)
deriving DecidableEq, Repr

/-- Bytes that the group's handler reads at a virtual address. -/
def State.groupRead (s : State) (c p : Nat) (addr : DWord) (n : Nat) : Except ReadStop (List Byte) :=
  match s.translateRange c (s.launchOf c p).context { handler := true } addr n with
  | .error (code, a) => .error (.fault code a)
  | .ok ps => if (s.pinnedBy c ps).isEmpty then .ok (s.readPieces ps) else .error (.pinned (s.pinnedBy c ps))

/-- Finds the record of an offset among the records from index k on. -/
def State.findLive (s : State) (c p : Nat) (tab : DWord) (ofs : Nat) : Nat → Nat → Except ReadStop (Option LiveSet)
  | 0, _ => .ok none
  | fuel + 1, k =>
    match s.groupRead c p (tab + BitVec.ofNat 64 (128 + 64 * k)) 64 with
    | .error e => .error e
    | .ok b => if sliceNat b 0 4 = ofs then .ok (some (LiveSet.of b 8 40 56 57)) else s.findLive c p tab ofs fuel (k + 1)

/-- The live set of a position (R367): every register where there is no table or no record. -/
def State.liveAt (s : State) (c p : Nat) (addr : DWord) : Except ReadStop LiveSet :=
  let l := s.launchOf c p
  if l.liveTab == 0#64 then .ok LiveSet.all
  else match s.groupRead c p l.liveTab 128 with
    | .error e => .error e
    | .ok h =>
      let ofs := (addr - l.code).toNat % 2 ^ 57
      match s.findLive c p l.liveTab ofs (sliceNat h 0 4) 0 with
      | .error e => .error e
      | .ok r => .ok (r.getD LiveSet.all)

/-- The positions at which a frame's entries and parked lanes resume: the addresses of their instruction words. -/
def framePositions (f : List Byte) : List DWord :=
  let at_ := fun (w : Nat) => wordAddr (BitVec.ofNat 64 (w % 2 ^ 57)) (w / 2 ^ 57 % 16)
  ((List.range 32).filterMap fun k => let w := sliceNat f (64 + 16 * k) 8
                                      if w / 2 ^ 63 = 0 then none else some (at_ w)) ++
  ((List.range 32).filterMap fun l => let w := sliceNat f (832 + 8 * l) 8
                                      if w / 2 ^ 61 % 4 = 0 then none else some (at_ w))

/-- The live set of a group in its handler (R368): the union over its frame, with vector registers below its count. -/
def State.liveSet (s : State) (c p : Nat) : Except ReadStop LiveSet :=
  match s.groupRead c p ((s.launchOf c p).area c p) 1280 with
  | .error e => .error e
  | .ok f =>
    match (framePositions f).foldl (fun (a : Except ReadStop LiveSet) w => match a with
        | .error e => .error e
        | .ok x => match s.liveAt c p w with
          | .error e => .error e
          | .ok y => .ok (x.union y)) (.ok {}) with
    | .error e => .error e
    | .ok x => .ok { x with v := x.v % 2 ^ (s.grp c p).count }

/-- The indices of a set's bits. -/
def bitsUp (n m : Nat) : List Nat := (List.range n).filter m.testBit

/-- Words, padded with zeros to a multiple of 128 bytes. -/
def padded (ws : List Word) : List Byte :=
  let bs := ws.flatMap fun w => leBytes 4 w.toNat
  bs ++ List.replicate (ceilDiv bs.length 128 * 128 - bs.length) 0#8

/-- The area that SAVELIVE writes (R368). -/
def State.liveImage (s : State) (c p : Nat) (x : LiveSet) : List Byte :=
  leBytes 32 x.v ++ leBytes 16 x.sr ++ leBytes 1 x.p ++ leBytes 1 x.q ++ leBytes 2 0 ++ leBytes 4 (s.grp c p).count ++ leBytes 8 0 ++
  List.replicate 64 0#8 ++
  ((bitsUp 256 x.v).flatMap fun r => (List.range 32).flatMap fun l => leBytes 4 (s.v c p l r).toNat) ++
  ((bitsUp 8 x.q).flatMap fun k => (List.range 32).flatMap fun l => leBytes 4 (s.q c p l k).toNat) ++
  padded ((bitsUp 128 x.sr).map (s.sraw c p)) ++ padded ((List.range 7).map (s.p c p))

/-- Whether a register of the set still has a write pending (R60). -/
def Ctx.livePending (x : Ctx) (s : State) (y : LiveSet) : Bool :=
  (s.pendingV x.c x.p).any y.v.testBit || (s.pendingS x.c x.p).any y.sr.testBit

/-- SAVELIVE (R368): it reads the frame and the table as loads of the group, after the group's earlier stores (R198). -/
def saveliveBody (sd sa : BitVec 8) : Ctx → State → Res := once fun x s =>
  let addr := x.sreg64 s sa
  if !x.g.handler then .fault Code.PRIV 0#64 s
  else if addr.toNat % 128 != 0 then x.memRaise Code.MISALIGN addr s
  else if !s.loadsFree x.c x.p x.e.mask then .wait s 4
  else if s.storesPending x.g.uid then .wait s
  else match s.liveSet x.c x.p with
    | .error (.fault code a) => x.memRaise code a s
    | .error (.pinned ls) => x.refused ls s
    | .ok y =>
      if x.livePending s y then .wait s 1
      else
        let img := s.liveImage x.c x.p y
        match x.lineStores addr img s with
        | .error (.fault code a) => x.memRaise code a s
        | .error (.violate a) => .done (s.freezeCore x.c a)
        | .ok as =>
          if s.linesFull x.c (linesOf as) then .wait s
          else .ok (x.putS sd (BitVec.ofNat 32 img.length) (s.addAccesses as))

def execSavelive (g : Guard) (sd sa : BitVec 8) (s : State) : Host.Outcome State Fault Refusal := issue (.savelive g sd sa) g (saveliveBody sd sa) s

/-- Restores registers of one file from an area, in ascending index: each takes n bytes. -/
def restoreEach (put : State → Nat → List Byte → State) (n : Nat) (ks : List Nat) (b : List Byte) (s : State) : State :=
  ks.zipIdx.foldl (fun s k => put s k.1 (slice b (n * k.2) n)) s

/-- The registers that an area names take their saved values (R368). -/
def State.restoreLive (s : State) (c p : Nat) (y : LiveSet) (b : List Byte) : State :=
  let vs := bitsUp 256 y.v
  let qs := bitsUp 8 y.q
  let ss := bitsUp 128 y.sr
  let word := fun (b : List Byte) (k : Nat) => BitVec.ofNat 32 (sliceNat b (4 * k) 4)
  let o := 128 + 128 * vs.length
  let o2 := o + 128 * qs.length
  let o3 := o2 + ceilDiv (4 * ss.length) 128 * 128
  let s := restoreEach (fun s r b => (List.range 32).foldl (fun s l => s.setV c p l r (word b l)) s) 128 vs (b.drop 128) s
  let s := restoreEach (fun s k b => (List.range 32).foldl (fun s l => s.setQ c p l k (word b l)) s) 128 qs (b.drop o) s
  let s := restoreEach (fun s r b => s.setSraw c p r (word b 0)) 4 ss (b.drop o2) s
  (bitsUp 7 y.p).foldl (fun s k => s.setP c p k (word (b.drop o3) k)) s

/-- Length of the area of a set. -/
def LiveSet.length (y : LiveSet) : Nat :=
  256 + 128 * ((bitsUp 256 y.v).length + (bitsUp 8 y.q).length) + ceilDiv (4 * (bitsUp 128 y.sr).length) 128 * 128

/-- RESTLIVE (R368). -/
def restliveBody (sa : BitVec 8) : Ctx → State → Res := once fun x s =>
  let addr := x.sreg64 s sa
  if !x.g.handler then .fault Code.PRIV 0#64 s
  else if addr.toNat % 128 != 0 then x.memRaise Code.MISALIGN addr s
  else x.withDesc addr 64 (fun h x s =>
    let y := LiveSet.of h 0 32 48 49
    if (bitsUp 256 y.v).any fun r => x.g.count ≤ r then .fault Code.REGIDX 0#64 s
    else if x.livePending s y then .wait s 1
    else x.withDesc addr y.length (fun b x s => .ok (s.restoreLive x.c x.p y b)) s) s

def execRestlive (g : Guard) (sa : BitVec 8) (s : State) : Host.Outcome State Fault Refusal := issue (.restlive g sa) g (restliveBody sa) s

/-! ### Special registers (R121, R372) -/

/-- Whether work of a group that may still raise a flag is under way (R122). -/
def State.flagsPending (s : State) (uid : Nat) : Bool :=
  s.chains.any (·.uid == uid) || s.mjobs.any (·.uid == uid) || s.rjobs.any (·.uid == uid) ||
  (s.accesses.any fun a => a.uid == uid && a.win.isSome) ||
  s.groups.any fun e => e.2.uid == uid && e.2.frontier.any fun y => (guideReq y.note).isSome

/-- A special register as lane l reads it (R372). -/
def Ctx.special (x : Ctx) (s : State) (n l : Nat) : Word :=
  let g := s.grp x.c x.p
  let launch := s.launchOf x.c x.p
  let k := s.core x.c
  let pl := g.placeOf x.p l
  let win := BitVec.ofNat 64 (s.privAddr x.c x.p l 0)
  let word := fun (v : Nat) => BitVec.ofNat 32 v
  match n with
  | 0x00 => word l
  | 0x01 => word (pl.grp * 256 + pl.lane)
  | 0x02 => word g.bgrp
  | 0x03 => word x.c
  | 0x04 => word (x.c / 48)
  | 0x05 => word (s.blkAt x.c g.slot).blk
  | 0x06 => word g.node
  | 0x07 => lo32 launch.args
  | 0x08 => word ((hi32 launch.args).toNat % 2 ^ 25)
  | 0x09 => word s.fid
  | 0x0A => word (s.scrSlice x.c g.slot).1
  | 0x0B => word (s.scrSlice x.c g.slot).2
  | 0x0C => word (s.heapSlice x.c g.slot).2
  | 0x0D => k.poolScr
  | 0x0E => k.poolHeap
  | 0x0F => k.poolL1
  | 0x10 => lo32 win
  | 0x11 => hi32 win
  | 0x12 => word ((List.range 4).foldl (fun m j => m + boolNat ((aget {} k.slots j).owner == some g.node) * 2 ^ j) 0)
  | 0x13 => word s.dtime
  | 0x14 => word (s.dtime / 2 ^ 32)
  | 0x15 => word g.wct
  | 0x16 => word (g.wct / 2 ^ 32)
  | 0x18 => g.fflags.setWidth 32
  | 0x19 => g.xlane
  | 0x1A => g.emask
  | 0x1B => g.gmask
  | 0x1C => lo32 g.faddr
  | 0x1D => hi32 g.faddr
  | 0x20 => g.tcode
  | 0x21 => lo32 g.tcause
  | 0x22 => hi32 g.tcause
  | 0x23 => lo32 g.tpc
  | _ => hi32 g.tpc

/-- SRD (R369, R372): the trap registers are privileged (R354); a read of sr.fflags waits as R122 says. DEDUCED: one of
sr.rings waits for no HRING (log entry 151). -/
def srdBody (d : VS) (n : Nat) : Ctx → State → Res := once fun x s =>
  if 0x20 ≤ n && !x.g.handler then .fault Code.PRIV 0#64 s
  else if n = 0x18 && s.flagsPending x.g.uid then .wait s 1
  else .ok (x.put d (x.special s n) s)

def execSrd (g : Guard) (d : VS) (n : BitVec 8) (s : State) : Host.Outcome State Fault Refusal := issue (.srd g d n) g (srdBody d n.toNat) s

/-- SWR (R372): the fault registers and sr.emask are written in handler mode only (R354). -/
def swrBody (n : Nat) (sa : BitVec 8) : Ctx → State → Res := once fun x s =>
  let g := s.grp x.c x.p
  let v := x.sreg s sa
  if (n = 0x1A || n = 0x1C || n = 0x1D) && !x.g.handler then .fault Code.PRIV 0#64 s
  else if n = 0x18 && s.flagsPending x.g.uid then .wait s 1
  else .ok (s.setGrp x.c x.p (match n with
    | 0x18 => { g with fflags := v.setWidth 6 }
    | 0x19 => { g with xlane := v }
    | 0x1A => { g with emask := v, skipLanes := v }
    | 0x1B => { g with gmask := v }
    | 0x1C => { g with faddr := pair64 v (hi32 g.faddr) }
    | _ => { g with faddr := pair64 (lo32 g.faddr) (v &&& 0x01FFFFFF#32) }))

def execSwr (g : Guard) (n sa : BitVec 8) (s : State) : Host.Outcome State Fault Refusal := issue (.swr g n sa) g (swrBody n.toNat sa) s

/-! ### The trace ring and the barometer (R375 to R377) -/

/-- The record of PMARK (R375). -/
def Ctx.traceRecord (x : Ctx) (s : State) (id : BitVec 16) : List Byte :=
  let b := s.blkAt x.c x.g.slot
  leBytes 8 s.dtime ++ leBytes 2 x.c ++ leBytes 1 x.g.bgrp ++ [0#8] ++ leBytes 4 x.g.node ++ leBytes 4 b.blk ++ leBytes 4 b.phase ++
  leBytes 2 id.toNat ++ leBytes 2 0 ++ leBytes 4 x.pc.toNat

/-- PMARK (R375): nothing without a ring; a full ring drops the record; a record over running code freezes the core (R47). -/
def pmarkBody (id : BitVec 16) : Ctx → State → Res := once fun x s =>
  let k := s.core x.c
  match k.ring with
  | none => .ok s
  | some (base, size, n) =>
    let pa := base + 32 * n
    if size ≤ n then .ok s
    else if s.holdsCode pa 32 then .done (s.freezeCore x.c (BitVec.ofNat 64 pa))
    else if s.linesFull x.c 1 then .wait s
    else if !(s.pinnedLines x.c pa 32).isEmpty then x.refused (s.pinnedLines x.c pa 32) s
    else
      let s := s.setCore x.c { k with ring := some (base, size, n + 1) }
      match windowOf pa with
      | some .device => .ok (s.setBytes pa (x.traceRecord s id))
      | some .host => .ok (s.setBytes pa (x.traceRecord s id))
      | _ => .ok s

def execPmark (g : Guard) (id : BitVec 16) (s : State) : Host.Outcome State Fault Refusal := issue (.pmark g id) g (pmarkBody id) s

/-- RDBARO (R377). -/
def rdbaroBody (sd sa : BitVec 8) (clr : Bool) : Ctx → State → Res := once fun x s =>
  let k := s.core x.c
  let n := (x.sreg s sa).toNat
  let v := if n ≤ 16 || (32 ≤ n && n ≤ 45) then aget 0#64 k.baro (64 * x.g.part + n) else 0#64
  let s := if clr then s.setCore x.c { k with baro := aclear k.baro (64 * x.g.part) (64 * x.g.part + 64) } else s
  .ok (x.putS64 sd v s)

def execRdbaro (g : Guard) (sd sa : BitVec 8) (clr : Bool) (s : State) : Host.Outcome State Fault Refusal :=
  issue (.rdbaro g sd sa clr) g (rdbaroBody sd sa clr) s

end Sys2Proof.Machine
end

