-- ==== Sys2Proof/Machine/Verify.lean ====
section
/-!
DEFINITION. The check of a firmware image (R388): SHA-256 (FIPS 180-4) and the verification of an ECDSA signature over the curve P-256 (FIPS 186-5,
SP 800-186). R388 names the algorithms and gives no steps of theirs. PRESUMED: they are those of the standards (log entry 101).
-/
namespace Sys2Proof.Machine

/-! ### SHA-256 -/

/-- The first 64 primes, from which SHA-256 takes its constants. -/
def shaPrimes : List Nat :=
  [2, 3, 5, 7, 11, 13, 17, 19, 23, 29, 31, 37, 41, 43, 47, 53, 59, 61, 67, 71, 73, 79, 83, 89, 97, 101, 103, 107, 109, 113, 127, 131] ++
  [137, 139, 149, 151, 157, 163, 167, 173, 179, 181, 191, 193, 197, 199, 211, 223, 227, 229, 233, 239, 241, 251, 257, 263, 269, 271, 277,
   281, 283, 293, 307, 311]

/-- The greatest number whose power does not exceed a bound, found bit by bit. -/
def rootBelow (pow bound : Nat) : Nat → Nat → Nat
  | 0, r => r
  | bits + 1, r => rootBelow pow bound bits (if (r + 2 ^ bits) ^ pow ≤ bound then r + 2 ^ bits else r)

/-- The first 32 bits of the fraction of the square root (pow 2) or the cube root (pow 3) of a prime. -/
def rootFraction (pow p : Nat) : Word := BitVec.ofNat 32 (rootBelow pow (p * 2 ^ (32 * pow)) 40 0)

def shaK : List Word := shaPrimes.map (rootFraction 3)

def shaInit : List Word := (shaPrimes.take 8).map (rootFraction 2)

/-- A word from four bytes, the first the most significant. -/
def beWord (b : List Byte) (k : Nat) : Word := BitVec.ofNat 32 ((b.drop (4 * k)).take 4 |>.foldl (fun n x => 256 * n + x.toNat) 0)

/-- A number as n bytes, the most significant first. -/
def beBytes (n v : Nat) : List Byte := (leBytes n v).reverse

/-- The message schedule of a block of 64 bytes. -/
def shaSchedule (block : List Byte) : List Word :=
  (List.range 48).foldl (fun w k =>
    let at_ := fun (i : Nat) => w.getD (16 + k - i) 0#32
    let a := at_ 15
    let b := at_ 2
    let s0 := a.rotateRight 7 ^^^ a.rotateRight 18 ^^^ a >>> 3
    let s1 := b.rotateRight 17 ^^^ b.rotateRight 19 ^^^ b >>> 10
    w ++ [at_ 16 + s0 + at_ 7 + s1]) ((List.range 16).map (beWord block))

/-- One round on the eight working words. -/
def shaRound (h : List Word) (kw : Word × Word) : List Word :=
  match h with
  | [a, b, c, d, e, f, g, i] =>
    let t1 := i + (e.rotateRight 6 ^^^ e.rotateRight 11 ^^^ e.rotateRight 25) + ((e &&& f) ^^^ (~~~e &&& g)) + kw.1 + kw.2
    let t2 := (a.rotateRight 2 ^^^ a.rotateRight 13 ^^^ a.rotateRight 22) + ((a &&& b) ^^^ (a &&& c) ^^^ (b &&& c))
    [t1 + t2, a, b, c, d + t1, e, f, g]
  | h => h

/-- The message with its padding: a one bit, zeros, and its length in bits. -/
def shaPadded (m : List Byte) : List Byte :=
  m ++ [0x80#8] ++ List.replicate ((119 - m.length % 64) % 64) 0#8 ++ beBytes 8 (8 * m.length)

/-- The digest of SHA-256: 32 bytes. -/
def sha256 (m : List Byte) : List Byte :=
  let p := shaPadded m
  let h := (chunksOf 64 p.length p).foldl (fun h b => List.zipWith (· + ·) h ((shaK.zip (shaSchedule b)).foldl shaRound h)) shaInit
  h.flatMap fun w => beBytes 4 w.toNat

/-! ### ECDSA over P-256 -/

def p256 : Nat := 2 ^ 256 - 2 ^ 224 + 2 ^ 192 + 2 ^ 96 - 1

/-- The order of the base point. -/
def p256n : Nat := 0xFFFFFFFF00000000FFFFFFFFFFFFFFFFBCE6FAADA7179E84F3B9CAC2FC632551

def p256b : Nat := 0x5AC635D8AA3A93E7B3EBBD55769886BC651D06B0CC53B0F63BCE3C3E27D2604B

/-- The base point. -/
def p256g : Nat × Nat :=
  (0x6B17D1F2E12C4247F8BCE6E563A440F277037D812DEB33A0F4A13945D898C296,
   0x4FE342E2FE1A7F9B8EE7EB4A7C0F9E162BCE33576B315ECECBB6406837BF51F5)

/-- Powers modulo m, by the bits of the exponent. -/
def powMod (m : Nat) : Nat → Nat → Nat → Nat
  | 0, _, _ => 1 % m
  | bits + 1, a, e => powMod m bits (a * a % m) (e / 2) * (if e % 2 = 1 then a else 1) % m

/-- The inverse modulo a prime below 2^256. -/
def invMod (m a : Nat) : Nat := powMod m 256 (a % m) (m - 2)

/-- A point of the curve: none is the point at infinity. -/
abbrev CurvePoint := Option (Nat × Nat)

/-- Whether coordinates name a point of the curve y^2 = x^3 - 3x + b. -/
def onP256 (q : Nat × Nat) : Bool :=
  q.1 < p256 && q.2 < p256 && q.2 * q.2 % p256 == (q.1 * q.1 * q.1 + (p256 - 3) * q.1 + p256b) % p256

/-- The sum of two points. -/
def addPoints : CurvePoint → CurvePoint → CurvePoint
  | none, q => q
  | p, none => p
  | some (x, y), some (u, v) =>
    if x = u && (y + v) % p256 = 0 then none
    else
      let l := if x = u then (3 * x * x + (p256 - 3)) * invMod p256 (2 * y) % p256
               else (v + (p256 - y)) * invMod p256 (u + (p256 - x)) % p256
      let w := (l * l + (p256 - x) + (p256 - u)) % p256
      some (w, (l * (x + (p256 - w)) + (p256 - y)) % p256)

/-- A multiple of a point, by the bits of the factor. -/
def mulPoint : Nat → Nat → CurvePoint → CurvePoint
  | 0, _, _ => none
  | bits + 1, k, q => addPoints (if k % 2 = 1 then q else none) (mulPoint bits (k / 2) (addPoints q q))

/-- Whether (r, t) is a signature of a digest under a key. -/
def ecdsaVerifies (key : Nat × Nat) (digest : List Byte) (r t : Nat) : Bool :=
  let e := digest.foldl (fun n b => 256 * n + b.toNat) 0
  let w := invMod p256n t
  onP256 key && 0 < r && r < p256n && 0 < t && t < p256n &&
  match addPoints (mulPoint 256 (e * w % p256n) (some p256g)) (mulPoint 256 (r * w % p256n) (some key)) with
  | none => false
  | some (x, _) => x % p256n == r

end Sys2Proof.Machine
end

