-- ==== Sys2Proof/Machine/Host.lean ====
section
/-!
DEFINITION. The host (R382 to R390): its commands and the summary of RESYNC, checkpoint and restore, its writes to control space, its accesses
over CXL.mem, bring-up, the SPDM mailbox, and the limits of power and temperature.
-/
namespace Sys2Proof.Machine

/-! ### Taking a command (R385, R386) -/

/-- Takes the next command, if it is this queue's turn and its code is as asked: HEAD goes on. -/
def State.takeCommand (s : State) (q : Nat) (is : Nat → Bool) : Option (Command × State) :=
  let b := s.qCommand q
  let code := sliceNat b 0 8
  if s.nextQueue != some q || !is code then none
  else
    let h := s.qHead q
    some ({ queue := q, index := h, rec_ := sliceNat b 56 8, code := code, args := slice b 8 48 },
          s.setCtl (qBase q + 24) (BitVec.ofNat 64 ((h + 1) % 2 ^ 32)))

/-- Whether every byte of a command beyond its first operands is zero. -/
def Command.only (k : Command) (n : Nat) : Bool := zeros k.args (8 * n) 48

/-- Refuses a command (R386): status 1 and a fault code, or 0 for a code, byte or operand that no command may have. -/
def State.refuse (s : State) (k : Command) (code : Nat) : State := s.completeCmd k 1 code

/-- A command that is not complete at once. -/
def State.keepCmd (s : State) (k : Command) : State := { s with cmds := s.cmds ++ [k] }

/-- Runs the effect of a command, and looks for the next one. -/
def State.command (s : State) (is : Nat → Bool) (effect : Command → State → State) : Host.Outcome State Fault Refusal :=
  let q := s.arg 0
  .next (match s.takeCommand q is with
    | none => s
    | some (k, t) => (effect k t).pollQueues)

/-- SUBMIT (R386): as GNODE and GSUB, owned by no launch, with the priority of the queue (R343); a fault of theirs refuses it with its code. -/
def State.submitCmd (k : Command) (s : State) : State :=
  let a := BitVec.ofNat 64 (k.operand 0)
  if k.code != 1 || !k.only 1 then s.refuse k 0
  else if a.toNat % 128 != 0 then s.refuse k Code.GRAPH_DESC
  else match s.cpRead k.queue a 128 with
    | .error code => s.refuse k code
    | .ok b =>
      if descBad b then s.refuse k Code.GRAPH_DESC
      else match s.buildNode b none k.queue (bitsOf (s.ctlReg (qBase k.queue + 8)) 5 4) with
        | .error code => s.refuse k code
        | .ok (n, t) => match t.submitNode n with
          | .error code => s.refuse k code
          | .ok t => (t.completeCmd k 0 0).pokeTasks

/-- A code that no other command has: SUBMIT, and the codes that R386 does not name. -/
def submitCode (code : Nat) : Bool := code < 2 || 9 < code

/-- The lines that refuse what the next SUBMIT of a queue reads (R210): its descriptor, and then the node's body. -/
def State.submitPins (s : State) (q : Nat) : List Nat :=
  let b := s.qCommand q
  let a := BitVec.ofNat 64 (sliceNat b 8 8)
  if s.nextQueue != some q || !submitCode (sliceNat b 0 8) then []
  else s.cpPins q a 128 ++ match s.cpRead q a 128 with
    | .error _ => []
    | .ok d => s.footPins q d

def execSubmit (s : State) : Host.Outcome State Fault Refusal :=
  match s.submitPins (s.arg 0) with
  | [] => s.command submitCode State.submitCmd
  | ls => .next (s.retryStep ls .submit [s.arg 0])

/-- WAIT (R386): as GWAIT. -/
def State.waitCmd (k : Command) (s : State) : State :=
  let n := k.operand 0
  let d := s.node n
  if !k.only 1 then s.refuse k 0
  else if 4096 ≤ n || d.state == .free then s.refuse k Code.GRAPH_NODE
  else if d.state.ended then (s.completeCmd k d.state.code d.code).freeNode n
  else s.keepCmd k

def execWait (s : State) : Host.Outcome State Fault Refusal := s.command (· == 2) State.waitCmd

/-- INVAL (R180, R386): entries of the queue's context that map a page of the range. -/
def State.invalCmd (k : Command) (s : State) : State :=
  let a := k.operand 0
  let n := k.operand 1
  let root := (s.queueCtx k.queue).root
  if !k.only 2 || 2 ^ 57 ≤ a || 2 ^ 45 < n then s.refuse k 0
  else
    let s : State := { s with tlb := s.tlb.filter fun t => !(t.root == root && overlaps (t.page * 2 ^ t.bits) (2 ^ t.bits) (a / 4096 * 4096) (4096 * n)) }
    s.completeCmd k 0 0

def execInval (s : State) : Host.Outcome State Fault Refusal := s.command (· == 3) State.invalCmd

/-- PREEMPT (R365, R386): status 2 unless the node is a running launch; its record is written when the launch has left the cores. -/
def State.preemptCmd (k : Command) (s : State) : State :=
  let n := k.operand 0
  let size := k.operand 2
  if !k.only 3 || 4096 ≤ n || 2 ^ 32 ≤ size then s.refuse k 0
  else if !(s.launch n).running || (s.node n).state != .running then s.completeCmd k 2 0
  else if (s.launch n).preempt then s.keepCmd k
  else (s.keepCmd k).preemptLaunch n (some (BitVec.ofNat 64 (k.operand 1), size))

def execPreempt (s : State) : Host.Outcome State Fault Refusal := s.command (· == 4) State.preemptCmd

/-- Puts the next steps of a core's engines on the agenda, and lets its groups take the requests that wait for them. -/
def State.resumeEngines (s : State) (c : Nat) : State :=
  let s := (s.ops.filter (·.core == c)).foldl (fun s j => s.post .asyncCompletion [j.id]) s
  let s := (s.cards.filter (·.core == c)).foldl (fun s j => s.post .cardCompletion [j.id]) s
  let s := (s.chains.filter (·.core == c)).foldl (fun s j => s.post .chainCompletion [c, j.part]) s
  let s := (s.mjobs.filter (·.core == c)).foldl (fun s j => s.post .kStep [c, j.id]) s
  let s := if s.rjobs.any (·.core == c) then (s.post .burnisherPhaseBoundary [c]).post .burnisherCommit [c] else s
  let s := (s.burns.filter (·.core == c)).foldl (fun s b => s.post .burnisherPhaseBoundary [c, b.node]) s
  let s := (s.work.filter fun e => e.2.core == c && e.2.state == .fired).foldl (fun s e => s.post .entryCompletion [e.1]) s
  let mine := s.colls.filter fun e => e.2.core == c && e.2.state == .started
  let s := mine.foldl (fun s e => s.post .collectiveStart [e.1]) s
  let s := (mine.filter fun e => e.2.lateAt 2 s.dtime && !e.2.late2).foldl (fun s e => s.post .collectiveResultTimeout [e.1]) s
  (s.residents c).foldl (fun s p => s.serveRequests c p) s.pokeColls

/-- Whether a number names an engine class that a violation can freeze, or 0 for the core itself. -/
def engineClass (n : Nat) : Bool := n = 0 || n = 1 || n = 3 || n = 4 || n = 5 || n = 6

/-- RELEASE (R364, R386): the master goes on from its boundary with its record cleared; a master that is not frozen leaves nothing to do. -/
def State.releaseCmd (k : Command) (s : State) : State :=
  let c := k.operand 0
  let cls := k.operand 1
  let there := if cls = 0 then (s.core c).frozen else s.frozenEng.any fun f => f.1 == c && f.2.1 == cls
  if !k.only 2 || 384 ≤ c || !engineClass cls then s.refuse k 0
  else if !there then s.completeCmd k 2 0
  else
    let s : State := if cls = 0 then s.setCore c { s.core c with frozen := false, record := none }
      else { s with frozenEng := s.frozenEng.filter fun f => !(f.1 == c && f.2.1 == cls) }
    ((s.resumeEngines c).completeCmd k 0 0).pokeTasks

def execRelease (s : State) : Host.Outcome State Fault Refusal := s.command (· == 5) State.releaseCmd

/-- TRACE (R375, R386). -/
def State.traceCmd (k : Command) (s : State) : State :=
  let c := k.operand 0
  let base := k.operand 1
  let n := k.operand 2
  if !k.only 3 || 384 ≤ c || 2 ^ 52 ≤ base then s.refuse k 0
  else (s.setCore c { s.core c with ring := if n = 0 then none else some (base, n, 0) }).completeCmd k 0 0

def execTrace (s : State) : Host.Outcome State Fault Refusal := s.command (· == 8) State.traceCmd

/-! ### Re-synchronising (R387) -/

/-- The 128 nodes that have been in the table longest: number and node, oldest first. -/
def State.oldestNodes (s : State) : List (Nat × Node) :=
  let ins := fun (xs : List (Nat × Node)) (e : Nat × Node) => (xs.filter (·.2.born < e.2.born)) ++ [e] ++ xs.filter (!·.2.born < e.2.born)
  ((s.nodes.filter (·.2.state != .free)).foldl ins []).take 128

/-- A list of bytes cut or filled up with zeros to a length. -/
def fitBytes (n : Nat) (bs : List Byte) : List Byte := bs.take n ++ List.replicate (n - bs.length) 0#8

/-- Engine states of a die: busy cards, running copies, loops, burnisher jobs and started collectives. DESIGN CHOICE: what the command processor
has started for a node counts at die 0 (log entry 97). -/
def State.dieState (s : State) (d : Nat) : List Byte :=
  let on := fun (c : Nat) => c % 384 / 48 == d
  let counts := [(s.cards.filter fun j => on j.core).length, (s.ops.filter fun j => on j.core).length,
    (s.mjobs.filter fun j => j.loop && on j.core).length, (s.rjobs.filter fun j => on j.core).length,
    (s.colls.filter fun e => e.2.state == .started && on e.2.core).length]
  fitBytes 128 (counts.flatMap fun n => leBytes 4 n)

/-- The summary of R387. -/
def State.summary (s : State) : List Byte :=
  let frozen := (List.range 384).foldl (fun m c => if (s.core c).frozen then m + 2 ^ c else m) 0
  ((List.range 64).flatMap fun q => leBytes 4 (s.qHead q) ++ leBytes 4 (s.qTail q)) ++ leBytes 48 frozen ++
  fitBytes 976 (s.frozenEng.flatMap fun f => leBytes 2 f.1 ++ leBytes 1 f.2.1 ++ leBytes 5 f.2.2.toNat) ++
  fitBytes 1024 (s.oldestNodes.flatMap fun e => leBytes 4 e.1 ++ leBytes 2 e.2.state.code ++ leBytes 2 e.2.code) ++
  ((List.range 8).flatMap s.dieState) ++ fitBytes 512 (s.ended.flatMap fun t => leBytes 8 t.toNat)

/-- Writes the summary, once every earlier command of its queue is complete; running code is read-only (R47, log entry 132). -/
def State.resyncNow (k : Command) (s : State) : State :=
  let a := hostAddr (k.operand 0)
  (if s.holdsCode a 4096 then s else (s.setBytes a s.summary).wakeWaits).completeCmd k 0 0

/-- RESYNC (R387): it waits for the commands of its queue that are not complete. -/
def State.resyncCmd (k : Command) (s : State) : State :=
  if !k.only 1 || 2 ^ 51 ≤ k.operand 0 then s.refuse k 0
  else if s.cmds.any (·.queue == k.queue) then s.keepCmd k
  else s.resyncNow k

def execResync (s : State) : Host.Outcome State Fault Refusal :=
  match s.arg 1, s.cmds.find? (·.queue == s.arg 0) with
  | 0, _ => s.command (· == 6) State.resyncCmd
  | _, some k => .next (if k.code = 6 then (s.resyncNow k).pollQueues else s)
  | _, none => .next s

/-! ### Checkpoint and restore (R389) -/

/-- The 100 ms in which the device quiesces. -/
def quiesceTime : Nat := 100000000

/-- Begins the quiesce: no further block is placed and no command read, every running launch is pre-empted into reserved memory, and the timeouts of
started collectives end with it. Cards stand at their boundaries while the state is CHECKPOINT, and BURN jobs between their instructions. DEDUCED:
copies and loops of a group come to their end, for which its RTE.yield waits (R366; log entry 98). -/
def State.quiesce (s : State) (k : Command) (back : Bool) : State :=
  let till := s.dtime + quiesceTime
  let s : State := { s with
    dev := .checkpoint, check := some (k, back)
    colls := s.colls.map fun e => (e.1, if e.2.state == .started then { e.2 with cut := some till } else e.2) }
  let s := (s.colls.filter (·.2.state == .started)).foldl (fun s e =>
    (s.timer false till .collectiveTimeout [e.1]).timer false till .collectiveResultTimeout [e.1]) s
  (s.launches.filter fun e => e.2.running && !e.2.preempt).foldl (fun s e => s.preemptLaunch e.1 none) s

/-- Whether a target and a mask of ports serve: the target's route is in force, and at least 8 of the 24 ports are named. -/
def State.tierOk (s : State) (k : Command) : Bool :=
  k.only 2 && k.operand 0 < 256 && k.operand 1 < 2 ^ 24 && (s.portTo (k.operand 0)).isSome &&
  8 ≤ ((List.range 24).filter fun p => (k.operand 1).testBit p).length

/-- CHECKPOINT (R389): its command is under way until the device is READY again. -/
def State.checkpointCmd (k : Command) (s : State) : State := if s.tierOk k then (s.keepCmd k).quiesce k false else s.refuse k 0

def execCheckpoint (s : State) : Host.Outcome State Fault Refusal := s.command (· == 7) State.checkpointCmd

/-- RESTORE (R389): the same operands and the same conditions; the image comes back instead of going out. Its command is under way until every
launch has resumed. -/
def State.restoreCmd (k : Command) (s : State) : State := if s.tierOk k then (s.keepCmd k).quiesce k true else s.refuse k 0

def execRestore (s : State) : Host.Outcome State Fault Refusal := s.command (· == 9) State.restoreCmd

/-- Whether the device is at rest: outside frozen masters there is no group, no copy, chain, loop or burnisher job, no card between boundaries
and no started collective. -/
def State.atRest (s : State) : Bool :=
  !(s.groups.any fun e => e.2.live && !(s.core (e.1 / 64)).frozen) &&
  !(s.colls.any fun e => e.2.state == .started && !s.engineFrozen e.2.core 6) &&
  (s.ops.all fun o => s.engineFrozen o.core 3) && (s.chains.all fun h => s.engineFrozen h.core 1) &&
  (s.mjobs.all fun j => s.engineFrozen j.core 4) && (s.rjobs.all fun j => s.engineFrozen j.core 5) &&
  s.cards.all fun j => s.engineFrozen j.core 3 || j.op.boundary || j.op.done = 0 || j.outcome.isSome

/-- Device memory takes the bytes of an image. -/
def State.loadImage (s : State) (image : List Host.Cell) : State :=
  (image.filter (·.1 < devTop)).foldl (fun s e => s.setByte e.1 e.2) { s with mem := s.mem.filter (devTop ≤ ·.1), undef := [] }

/-- The device is READY again: cards go on, blocks are placed and commands read. -/
def State.readyAgain (s : State) : State :=
  let s : State := { s with dev := .ready, launches := s.launches.map fun e =>
    (e.1, { e.2 with preempt := e.2.preempt && s.groups.any fun g => g.2.live && g.2.node == e.1 }) }
  let s := s.burns.foldl (fun s b => if b.ended.isSome || s.rjobs.any (·.burn == some b.node) then s else State.burnNext b.node 64 s) s
  (s.cards.foldl (fun s j => s.post .cardCompletion [j.id]) s).pokeColls.pokeTasks.pollQueues

/-- CHECKPOINT_STREAM_COMPLETE (R389): subject: the image, which a restore brings. A checkpoint's record is written then, and those of restores once
every launch has been placed again, for which the step waits under a mark of its own: it is no stream of a later command. -/
def State.streamComplete (s : State) (image : List Host.Cell) : State :=
  match s.dev, s.check with
  | .checkpoint, some (k, back) =>
    if s.subject.nums != [] then s.post .checkpointStreamComplete [1]
    else if !s.atRest then { s with agenda := s.agenda ++ [{ what := .checkpointStreamComplete, sub := { image := image } }] }
    else if back then ({ s.loadImage image with check := none } : State).readyAgain.post .checkpointStreamComplete [1]
    else ({ s with check := none } : State).readyAgain.completeCmd k 0 0
  | .ready, _ =>
    match s.cmds.filter (·.code == 9) with
    | [] => s
    | ks => if s.launches.any fun e => !e.2.saved.isEmpty then s.post .checkpointStreamComplete [1]
            else ks.foldl (fun s k => s.completeCmd k 0 0) s
  | _, _ => s

def execCheckpointStreamComplete (s : State) : Host.Outcome State Fault Refusal := .next (s.streamComplete s.subject.image)

/-! ### The host's writes to control space (R383) -/

/-- Q_TAIL_WRITE (R384, R385): subject: queue and value. -/
def execQTailWrite (s : State) : Host.Outcome State Fault Refusal :=
  .next (if s.arg 0 < 64 then s.ctlWrite (qBase (s.arg 0) + 16) (leBytes 4 (s.arg 1)) else s)

/-- LPLACE_WRITE (R13): subject: register and value. -/
def execLplaceWrite (s : State) : Host.Outcome State Fault Refusal :=
  .next (if s.arg 0 < 16 then s.ctlWrite (0x1000 + 8 * s.arg 0) (leBytes 8 (s.arg 1)) else s)

/-- FWIN_WRITE (R183): subject: window, register (0 to 2) and value. The LLC holds what memory holds, so that dropping lines changes nothing. -/
def execFwinWrite (s : State) : Host.Outcome State Fault Refusal :=
  .next (if s.arg 0 < 16 && s.arg 1 < 3 then s.ctlWrite (0x2000 + 32 * s.arg 0 + 8 * s.arg 1) (leBytes 8 (s.arg 2)) else s)

/-- STAGE_WRITE (R325): subject: die and value. -/
def execStageWrite (s : State) : Host.Outcome State Fault Refusal :=
  .next (if s.arg 0 < 8 then s.ctlWrite (0x3000 + 8 * s.arg 0) (leBytes 8 (s.arg 1)) else s)

/-- PROUTE_WRITE (R311): subject: identifier and value. Packets that are held go by the port that now leads to the device. -/
def execProuteWrite (s : State) : Host.Outcome State Fault Refusal :=
  .next (if s.arg 0 < 256 then s.ctlWrite (0x10000 + 8 * s.arg 0) (leBytes 8 (s.arg 1)) else s)

/-- TEAM_CFG_WRITE (R320): subject: team and value. -/
def execTeamCfgWrite (s : State) : Host.Outcome State Fault Refusal :=
  .next (if s.arg 0 < 64 then s.ctlWrite (0x20000 + 8 * s.arg 0) (leBytes 8 (s.arg 1)) else s)

/-- DEV_FID_WRITE (R383): subject: the value. -/
def execDevFidWrite (s : State) : Host.Outcome State Fault Refusal := .next (s.ctlWrite 0x118 (leBytes 8 (s.arg 0)))

/-- QUEUE_CONTEXT_WRITE (R384): subject: queue, offset of the register within the queue's 64 bytes, and value. -/
def execQueueContextWrite (s : State) : Host.Outcome State Fault Refusal :=
  .next (if s.arg 0 < 64 && s.arg 1 < 64 && s.arg 1 % 8 = 0 then s.ctlWrite (qBase (s.arg 0) + s.arg 1) (leBytes 8 (s.arg 2)) else s)

/-- CONTROL_REGISTER_WRITE (R383): subject: offset, size and value: any write at an offset of the window. -/
def execControlRegisterWrite (s : State) : Host.Outcome State Fault Refusal :=
  .next (if s.arg 0 < 2 ^ 32 then s.ctlWrite (s.arg 0) (leBytes (s.arg 1) (s.arg 2)) else s)

/-! ### CXL.mem (R382) -/

/-- A host access over CXL.mem, served at the home: a pinned line refuses it for 64 cycles (R210), and running code is read-only (R47). DESIGN CHOICE:
the host, which this device cannot freeze, has its write dropped (log entry 132). -/
def State.cxlAccess (s : State) (wr : Bool) (addr : Nat) (bs : List Byte) : State :=
  let hit := fun (q : Pin) => overlaps (128 * q.line) 128 addr bs.length
  if devTop < addr + bs.length then s
  else if s.pins.any hit then
    { s with
        pins := s.pins.map fun q => if hit q then q.refuse (.step .cxlMemAccess s.subject.nums (s.cycle + 64)) else q
        timers := s.timers ++ [{ byCycle := true, at_ := s.cycle + 64, ev := { what := .cxlMemAccess, sub := s.subject } }] }
  else if !wr then { s with cxlReply := s.bytes addr bs.length }
  else if s.holdsCode addr bs.length then s
  else (s.setBytes addr bs).wakeWaits

/-- CXL_MEM_ACCESS (R382): subject: whether it writes, the device address, and the bytes, of which a read takes the number. -/
def execCxlMemAccess (s : State) : Host.Outcome State Fault Refusal := .next (s.cxlAccess s.subject.flag (s.arg 0) s.subject.bytes)

/-! ### Bring-up and security (R388) -/

/-- POWER_ON_RESET (R22, R388): as after power-on, with the contents of device memory undefined; host memory is the host's own. -/
def State.powerOn (s : State) : State :=
  ({ State.reset with
      mem := s.mem.filter (devTop ≤ ·.1), undefs := s.undefs, nextId := s.nextId, freeCount := s.freeCount, picks := s.picks, schedule := s.schedule,
      turn := s.turn } : State).undefine (some (0, devTop))

def execPowerOnReset (s : State) : Host.Outcome State Fault Refusal := .next s.powerOn

/-- What bring-up finds in the module's store (R388): the firmware image, the key that is to have signed it, and the signature. -/
structure Firmware where
  image : List Byte
  key   : Nat × Nat
  sig   : Nat × Nat
deriving DecidableEq, Repr

/-- Whether an image verifies (R388): the key's digest is the one fused in the package, and the signature is one of the image's digest. DESIGN
CHOICE: the key is hashed as its two coordinates of 32 bytes (log entry 101). -/
def Firmware.verifies (f : Firmware) : Bool :=
  sha256 (beBytes 32 f.key.1 ++ beBytes 32 f.key.2) == Config.fusedKey && ecdsaVerifies f.key (sha256 f.image) f.sig.1 f.sig.2

/-- The firmware that a step's subject brings. -/
def State.firmware (s : State) : Firmware := { image := s.subject.bytes, key := (s.arg 0, s.arg 1), sig := (s.arg 2, s.arg 3) }

/-- FIRMWARE_VERIFY (R388): subject: the firmware. From RESET the device first enters BRINGUP. -/
def State.verify (s : State) (f : Firmware) : State :=
  match s.dev with
  | .reset => { s with dev := .bringup, agenda := s.agenda ++ [{ what := .firmwareVerify, sub := s.subject }] }
  | .bringup =>
    if f.verifies then ({ s with dev := .ready, fwver := Config.imageVersion f.image } : State).pokeTasks.pollQueues
    else { s with dev := .failed }
  | _ => s

def execFirmwareVerify (s : State) : Host.Outcome State Fault Refusal := .next (s.verify s.firmware)

/-- An answer in the SPDM mailbox (R388): what SPDM 1.3 puts into it stands in no rule here, so that its bytes are a free value; the certificate names
the module's serial number (R383). -/
def State.answerSpdm (s : State) (kind : Nat) : State :=
  { s with mailbox := s.mailbox ++ [{ kind := kind, serial := if kind = 4 then some Config.serialNumber else none,
                                      bytes := Config.freeReply kind s.freeCount }] }

/-- VERSION (R388). -/
def execVersion (s : State) : Host.Outcome State Fault Refusal := .next (s.answerSpdm 0)

/-- CAPABILITIES (R388). -/
def execCapabilities (s : State) : Host.Outcome State Fault Refusal := .next (s.answerSpdm 1)

/-- ALGORITHM_NEGOTIATION (R388). -/
def execAlgorithmNegotiation (s : State) : Host.Outcome State Fault Refusal := .next (s.answerSpdm 2)

/-- DIGESTS (R388). -/
def execDigests (s : State) : Host.Outcome State Fault Refusal := .next (s.answerSpdm 3)

/-- CERTIFICATES (R388). -/
def execCertificates (s : State) : Host.Outcome State Fault Refusal := .next (s.answerSpdm 4)

/-- CHALLENGE (R388). -/
def execChallenge (s : State) : Host.Outcome State Fault Refusal := .next (s.answerSpdm 5)

/-- MEASUREMENTS (R388). -/
def execMeasurements (s : State) : Host.Outcome State Fault Refusal := .next (s.answerSpdm 6)

/-! ### Power and cooling (R21, R390) -/

/-- POWER_WITHHOLD (R21): subject: whether issue is withheld from the VEC and MTX ports. -/
def execPowerWithhold (s : State) : Host.Outcome State Fault Refusal :=
  .next { s with withhold := s.subject.flag, therm := if s.therm = 2 then 2 else boolNat s.subject.flag }

/-- THERMAL_TRIP (R390): every master is frozen, STATE becomes FAILED and THERM 2; device memory keeps its contents. In FAILED no step of a master
runs any more (`Instr.outside`, Step). -/
def State.trip (s : State) : State :=
  (List.range 384).foldl (fun (s : State) c => s.setCore c { s.core c with frozen := true }) { s with dev := .failed, therm := 2 }

def execThermalTrip (s : State) : Host.Outcome State Fault Refusal := .next s.trip

end Sys2Proof.Machine
end

