-- ==== Sys2Proof/Machine/Int.lean ====
section
/-!
DEFINITION. Class VEC, the integer instructions (R91 to R102): the arithmetic of one lane, and each instruction over its operand forms.
-/
namespace Sys2Proof.Machine

/-! ### The arithmetic of one lane -/

/-- A 32-bit pattern read as the U bit says (R97). -/
def intOf (u : Bool) (w : Word) : Int := if u then (w.toNat : Int) else w.toInt

/-- Clamps an exact result to the bounds that the U bit names (R97). -/
def clamp32 (u : Bool) (x : Int) : Word :=
  if u then BitVec.ofInt 32 (max 0 (min x 0xFFFFFFFF)) else BitVec.ofInt 32 (max (-0x80000000) (min x 0x7FFFFFFF))

/-- IADD (R97). -/
def iaddOf (sat u : Bool) (a b : Word) : Word := if sat then clamp32 u (intOf u a + intOf u b) else a + b

/-- ISUB (R97). -/
def isubOf (sat u : Bool) (a b : Word) : Word := if sat then clamp32 u (intOf u a - intOf u b) else a - b

/-- IMULH (R97): the high half of the exact product. -/
def imulhOf (u : Bool) (a b : Word) : Word := BitVec.ofInt 32 (Int.fdiv (intOf u a * intOf u b) (2 ^ 32))

/-- IMIN and IMAX (R97). -/
def iminOf (u : Bool) (a b : Word) : Word := if intOf u b < intOf u a then b else a

def imaxOf (u : Bool) (a b : Word) : Word := if intOf u a < intOf u b then b else a

/-- IABS (R97). -/
def iabsOf (sat : Bool) (a : Word) : Word :=
  if a == 0x80000000#32 then (if sat then 0x7FFFFFFF#32 else 0x80000000#32) else if a.msb then -a else a

/-- IADDMIN (R97): always saturating. -/
def iaddminOf (u : Bool) (a b c : Word) : Word := iminOf u (clamp32 u (intOf u a + intOf u b)) c

/-- The product of IMAD64 (R98): 32 by 32 to 64 bits, exact. -/
def mul64Of (u : Bool) (a b : Word) : DWord := BitVec.ofInt 64 (intOf u a * intOf u b)

/-- The shifts (R100): a count at or above the width leaves no bit of the operand. -/
def shlOf (a b : Word) : Word := a <<< b.toNat

def shrOf (a b : Word) : Word := a >>> b.toNat

def sarOf (a b : Word) : Word := a.sshiftRight b.toNat

def shl64Of (a : DWord) (b : Word) : DWord := a <<< b.toNat

def shr64Of (a : DWord) (b : Word) : DWord := a >>> b.toNat

/-- BFE (R101). -/
def bfeOf (u : Bool) (a b c : Word) : Word :=
  let o := b.toNat % 256
  let w := min (c.toNat % 256) 32
  let f := field a.toNat o w
  if w = 0 then 0#32 else if u then BitVec.ofNat 32 f else BitVec.ofInt 32 (toSigned w f)

/-- BFI (R101). -/
def bfiOf (a b c : Word) : Word :=
  let o := c.toNat % 256
  let w := min (c.toNat / 256 % 256) 32
  let m : Word := BitVec.ofNat 32 ((2 ^ w - 1) * 2 ^ o)
  (b &&& ~~~m) ||| (BitVec.ofNat 32 (a.toNat % 2 ^ w * 2 ^ o))

/-- POPC (R101). -/
def popcOf (a : Word) : Word := BitVec.ofNat 32 (popCount a)

/-- CLZ (R101). -/
def clzOf (a : Word) : Word :=
  BitVec.ofNat 32 (((List.range 32).find? fun k => a.getLsbD (31 - k)).getD 32)

/-- BREV (R101). -/
def brevOf (a : Word) : Word := maskWhere fun l => a.getLsbD (31 - l)

/-- PLOP (R102): the bit of the table at index 4 pA + 2 pB + pC. -/
def plopOf (lut : BitVec 8) (a b c : Bool) : Bool := lut.getLsbD (4 * boolNat a + 2 * boolNat b + boolNat c)

/-! ### Operand forms of pairs and predicates -/

/-- An operation on two pairs. -/
def alu2p (d a b : VS) (f : DWord → DWord → DWord) (x : Ctx) (s : State) : Res :=
  .ok (x.put64 d (fun l => f (x.src64 s a l) (x.src64 s b l)) s)

/-- An operation on a pair and a word. -/
def aluPW (d a b : VS) (f : DWord → Word → DWord) (x : Ctx) (s : State) : Res :=
  .ok (x.put64 d (fun l => f (x.src64 s a l) (x.src s b l)) s)

/-- An operation on a pair and the literal. -/
def aluPL (d a : VS) (lit : Word) (f : DWord → Word → DWord) (x : Ctx) (s : State) : Res :=
  .ok (x.put64 d (fun l => f (x.src64 s a l) lit) s)

/-- A test of two sources into a predicate. -/
def test2 (p : BitVec 8) (a b : VS) (f : Word → Word → Bool) (x : Ctx) (s : State) : Res :=
  .ok (x.putP p (fun l => f (x.src s a l) (x.src s b l)) s)

def testL (p : BitVec 8) (a : VS) (lit : Word) (f : Word → Word → Bool) (x : Ctx) (s : State) : Res :=
  .ok (x.putP p (fun l => f (x.src s a l) lit) s)

def test2p (p : BitVec 8) (a b : VS) (f : DWord → DWord → Bool) (x : Ctx) (s : State) : Res :=
  .ok (x.putP p (fun l => f (x.src64 s a l) (x.src64 s b l)) s)

/-- A test of a pair and the sign-extended literal. -/
def testPL (p : BitVec 8) (a : VS) (lit : Word) (f : DWord → DWord → Bool) (x : Ctx) (s : State) : Res :=
  .ok (x.putP p (fun l => f (x.src64 s a l) (sext64 lit)) s)

/-! ### The instructions -/

/-- IADD to BREV (R97 to R101). -/
def execIadd (g : Guard) (d a b : VS) (sat u : Bool) (s : State) : Host.Outcome State Fault Refusal :=
  issue (.iadd g d a b sat u) g (alu2 d a b (iaddOf sat u)) s

def execIaddL (g : Guard) (sc : Bool) (d a : BitVec 8) (lit : BitVec 32) (sat u : Bool) (s : State) : Host.Outcome State Fault Refusal :=
  issue (.iaddL g sc d a lit sat u) g (aluL ⟨sc, d⟩ ⟨sc, a⟩ lit (iaddOf sat u)) s

def execIsub (g : Guard) (d a b : VS) (sat u : Bool) (s : State) : Host.Outcome State Fault Refusal :=
  issue (.isub g d a b sat u) g (alu2 d a b (isubOf sat u)) s

def execIsubL (g : Guard) (sc : Bool) (d a : BitVec 8) (lit : BitVec 32) (sat u : Bool) (s : State) : Host.Outcome State Fault Refusal :=
  issue (.isubL g sc d a lit sat u) g (aluL ⟨sc, d⟩ ⟨sc, a⟩ lit (isubOf sat u)) s

def execImul (g : Guard) (d a b : VS) (s : State) : Host.Outcome State Fault Refusal :=
  issue (.imul g d a b) g (alu2 d a b (· * ·)) s

def execImulL (g : Guard) (sc : Bool) (d a : BitVec 8) (lit : BitVec 32) (s : State) : Host.Outcome State Fault Refusal :=
  issue (.imulL g sc d a lit) g (aluL ⟨sc, d⟩ ⟨sc, a⟩ lit (· * ·)) s

def execImulh (g : Guard) (d a b : VS) (u : Bool) (s : State) : Host.Outcome State Fault Refusal :=
  issue (.imulh g d a b u) g (alu2 d a b (imulhOf u)) s

def execImad (g : Guard) (d a b c : VS) (s : State) : Host.Outcome State Fault Refusal :=
  issue (.imad g d a b c) g (alu3 d a b c fun a b c => a * b + c) s

def execIadd64 (g : Guard) (d a b : VS) (s : State) : Host.Outcome State Fault Refusal :=
  issue (.iadd64 g d a b) g (alu2p d a b (· + ·)) s

def execIadd64L (g : Guard) (sc : Bool) (d a : BitVec 8) (lit : BitVec 32) (s : State) : Host.Outcome State Fault Refusal :=
  issue (.iadd64L g sc d a lit) g (aluPL ⟨sc, d⟩ ⟨sc, a⟩ lit fun a b => a + sext64 b) s

def execIsub64 (g : Guard) (d a b : VS) (s : State) : Host.Outcome State Fault Refusal :=
  issue (.isub64 g d a b) g (alu2p d a b (· - ·)) s

def execImad64 (g : Guard) (d a b c : VS) (u : Bool) (s : State) : Host.Outcome State Fault Refusal :=
  issue (.imad64 g d a b c u) g (fun x s => .ok (x.put64 d (fun l => mul64Of u (x.src s a l) (x.src s b l) + x.src64 s c l) s)) s

def execIcmp (g : Guard) (p : BitVec 8) (a b : VS) (cc : BitVec 4) (s : State) : Host.Outcome State Fault Refusal :=
  issue (.icmp g p a b cc) g (test2 p a b (intCmp cc.toNat)) s

def execIcmpL (g : Guard) (sc : Bool) (p a : BitVec 8) (lit : BitVec 32) (cc : BitVec 3) (s : State) : Host.Outcome State Fault Refusal :=
  issue (.icmpL g sc p a lit cc) g (testL p ⟨sc, a⟩ lit (intCmp cc.toNat)) s

def execIcmp64 (g : Guard) (p : BitVec 8) (a b : VS) (cc : BitVec 4) (s : State) : Host.Outcome State Fault Refusal :=
  issue (.icmp64 g p a b cc) g (test2p p a b (intCmp cc.toNat)) s

def execIcmp64L (g : Guard) (sc : Bool) (p a : BitVec 8) (lit : BitVec 32) (cc : BitVec 3) (s : State) : Host.Outcome State Fault Refusal :=
  issue (.icmp64L g sc p a lit cc) g (testPL p ⟨sc, a⟩ lit (intCmp cc.toNat)) s

def execImin (g : Guard) (d a b : VS) (u : Bool) (s : State) : Host.Outcome State Fault Refusal :=
  issue (.imin g d a b u) g (alu2 d a b (iminOf u)) s

def execIminL (g : Guard) (sc : Bool) (d a : BitVec 8) (lit : BitVec 32) (u : Bool) (s : State) : Host.Outcome State Fault Refusal :=
  issue (.iminL g sc d a lit u) g (aluL ⟨sc, d⟩ ⟨sc, a⟩ lit (iminOf u)) s

def execImax (g : Guard) (d a b : VS) (u : Bool) (s : State) : Host.Outcome State Fault Refusal :=
  issue (.imax g d a b u) g (alu2 d a b (imaxOf u)) s

def execImaxL (g : Guard) (sc : Bool) (d a : BitVec 8) (lit : BitVec 32) (u : Bool) (s : State) : Host.Outcome State Fault Refusal :=
  issue (.imaxL g sc d a lit u) g (aluL ⟨sc, d⟩ ⟨sc, a⟩ lit (imaxOf u)) s

def execIabs (g : Guard) (d a : VS) (sat : Bool) (s : State) : Host.Outcome State Fault Refusal :=
  issue (.iabs g d a sat) g (alu1 d a (iabsOf sat)) s

def execIaddmin (g : Guard) (d a b c : VS) (u : Bool) (s : State) : Host.Outcome State Fault Refusal :=
  issue (.iaddmin g d a b c u) g (alu3 d a b c (iaddminOf u)) s

def execAnd (g : Guard) (d a b : VS) (s : State) : Host.Outcome State Fault Refusal :=
  issue (.and g d a b) g (alu2 d a b (· &&& ·)) s

def execAndL (g : Guard) (sc : Bool) (d a : BitVec 8) (lit : BitVec 32) (s : State) : Host.Outcome State Fault Refusal :=
  issue (.andL g sc d a lit) g (aluL ⟨sc, d⟩ ⟨sc, a⟩ lit (· &&& ·)) s

def execOr (g : Guard) (d a b : VS) (s : State) : Host.Outcome State Fault Refusal :=
  issue (.or g d a b) g (alu2 d a b (· ||| ·)) s

def execOrL (g : Guard) (sc : Bool) (d a : BitVec 8) (lit : BitVec 32) (s : State) : Host.Outcome State Fault Refusal :=
  issue (.orL g sc d a lit) g (aluL ⟨sc, d⟩ ⟨sc, a⟩ lit (· ||| ·)) s

def execXor (g : Guard) (d a b : VS) (s : State) : Host.Outcome State Fault Refusal :=
  issue (.xor g d a b) g (alu2 d a b (· ^^^ ·)) s

def execXorL (g : Guard) (sc : Bool) (d a : BitVec 8) (lit : BitVec 32) (s : State) : Host.Outcome State Fault Refusal :=
  issue (.xorL g sc d a lit) g (aluL ⟨sc, d⟩ ⟨sc, a⟩ lit (· ^^^ ·)) s

def execAndn (g : Guard) (d a b : VS) (s : State) : Host.Outcome State Fault Refusal :=
  issue (.andn g d a b) g (alu2 d a b fun a b => a &&& ~~~b) s

def execAndnL (g : Guard) (sc : Bool) (d a : BitVec 8) (lit : BitVec 32) (s : State) : Host.Outcome State Fault Refusal :=
  issue (.andnL g sc d a lit) g (aluL ⟨sc, d⟩ ⟨sc, a⟩ lit fun a b => a &&& ~~~b) s

def execNot (g : Guard) (d a : VS) (s : State) : Host.Outcome State Fault Refusal :=
  issue (.not g d a) g (alu1 d a (~~~ ·)) s

def execShl (g : Guard) (d a b : VS) (s : State) : Host.Outcome State Fault Refusal :=
  issue (.shl g d a b) g (alu2 d a b shlOf) s

def execShlL (g : Guard) (sc : Bool) (d a : BitVec 8) (lit : BitVec 32) (s : State) : Host.Outcome State Fault Refusal :=
  issue (.shlL g sc d a lit) g (aluL ⟨sc, d⟩ ⟨sc, a⟩ lit shlOf) s

def execShr (g : Guard) (d a b : VS) (s : State) : Host.Outcome State Fault Refusal :=
  issue (.shr g d a b) g (alu2 d a b shrOf) s

def execShrL (g : Guard) (sc : Bool) (d a : BitVec 8) (lit : BitVec 32) (s : State) : Host.Outcome State Fault Refusal :=
  issue (.shrL g sc d a lit) g (aluL ⟨sc, d⟩ ⟨sc, a⟩ lit shrOf) s

def execSar (g : Guard) (d a b : VS) (s : State) : Host.Outcome State Fault Refusal :=
  issue (.sar g d a b) g (alu2 d a b sarOf) s

def execSarL (g : Guard) (sc : Bool) (d a : BitVec 8) (lit : BitVec 32) (s : State) : Host.Outcome State Fault Refusal :=
  issue (.sarL g sc d a lit) g (aluL ⟨sc, d⟩ ⟨sc, a⟩ lit sarOf) s

def execShl64 (g : Guard) (d a b : VS) (s : State) : Host.Outcome State Fault Refusal :=
  issue (.shl64 g d a b) g (aluPW d a b shl64Of) s

def execShl64L (g : Guard) (sc : Bool) (d a : BitVec 8) (lit : BitVec 32) (s : State) : Host.Outcome State Fault Refusal :=
  issue (.shl64L g sc d a lit) g (aluPL ⟨sc, d⟩ ⟨sc, a⟩ lit shl64Of) s

def execShr64 (g : Guard) (d a b : VS) (s : State) : Host.Outcome State Fault Refusal :=
  issue (.shr64 g d a b) g (aluPW d a b shr64Of) s

def execShr64L (g : Guard) (sc : Bool) (d a : BitVec 8) (lit : BitVec 32) (s : State) : Host.Outcome State Fault Refusal :=
  issue (.shr64L g sc d a lit) g (aluPL ⟨sc, d⟩ ⟨sc, a⟩ lit shr64Of) s

def execBfe (g : Guard) (d a b c : VS) (u : Bool) (s : State) : Host.Outcome State Fault Refusal :=
  issue (.bfe g d a b c u) g (alu3 d a b c (bfeOf u)) s

def execBfi (g : Guard) (d a b c : VS) (s : State) : Host.Outcome State Fault Refusal :=
  issue (.bfi g d a b c) g (alu3 d a b c bfiOf) s

def execPopc (g : Guard) (d a : VS) (s : State) : Host.Outcome State Fault Refusal :=
  issue (.popc g d a) g (alu1 d a popcOf) s

def execClz (g : Guard) (d a : VS) (s : State) : Host.Outcome State Fault Refusal :=
  issue (.clz g d a) g (alu1 d a clzOf) s

def execBrev (g : Guard) (d a : VS) (s : State) : Host.Outcome State Fault Refusal :=
  issue (.brev g d a) g (alu1 d a brevOf) s

/-- SEL (R102). -/
def execSel (g : Guard) (d : BitVec 8) (a b : VS) (pc : BitVec 8) (s : State) : Host.Outcome State Fault Refusal :=
  issue (.sel g d a b pc) g (fun x s => .ok (x.put ⟨false, d⟩ (fun l => if (s.p x.c x.p pc.toNat).getLsbD l then x.src s a l else x.src s b l) s)) s

/-- MOV (R102). -/
def execMov (g : Guard) (d a : VS) (b64 : Bool) (s : State) : Host.Outcome State Fault Refusal :=
  issue (.mov g d a b64) g (fun x s => .ok (if b64 then x.put64 d (fun l => x.src64 s a l) s else x.put d (fun l => x.src s a l) s)) s

def execMovL (g : Guard) (sc : Bool) (d : BitVec 8) (lit : BitVec 32) (s : State) : Host.Outcome State Fault Refusal :=
  issue (.movL g sc d lit) g (fun x s => .ok (x.put ⟨sc, d⟩ (fun _ => lit) s)) s

/-- PLOP (R102). -/
def execPlop (g : Guard) (pd pa pb pc lut : BitVec 8) (s : State) : Host.Outcome State Fault Refusal :=
  issue (.plop g pd pa pb pc lut) g (fun x s => .ok (x.putP pd (fun l => plopOf lut ((s.p x.c x.p pa.toNat).getLsbD l) ((s.p x.c x.p pb.toNat).getLsbD l) ((s.p x.c x.p pc.toNat).getLsbD l)) s)) s

end Sys2Proof.Machine
end

