-- ==== Sys2Proof/Machine/Lanes.lean ====
section
/-!
DEFINITION. Class VEC, the lane-exchange instructions (R103 to R113): who supplies a value, the exchanges, votes, folds, and the
renumbering of virtual lanes.
-/
namespace Sys2Proof.Machine

/-! ### Who supplies (R103 to R105) -/

/-- Whether lane j supplies its value: a live lane of Active, or a helper of Active for the quad exchanges (R103). -/
def Ctx.supplies (x : Ctx) (quad : Bool) (j : Nat) : Bool := if quad then x.active.getLsbD j else x.live.getLsbD j

/-- The source lane that each lane of Active names: none past the edge of its segment. -/
abbrev Source := Nat → Option Nat

/-- Lanes named by some lane of Active that do not supply (R105). -/
def Ctx.missed (x : Ctx) (quad : Bool) (src : Source) : Word :=
  (lanesOf x.active).foldl (fun m l => match src l with
    | some j => if x.supplies quad j then m else m ||| bitMask j
    | none => m) 0#32

def Ctx.setXlane (x : Ctx) (m : Word) (s : State) : State :=
  let g := s.grp x.c x.p
  s.setGrp x.c x.p { g with xlane := m }

/-- What lane l receives: the value of its source, or the fill value (R104). -/
def Ctx.getFrom (x : Ctx) (quad : Bool) (src : Source) (val fill : Nat → α) (l : Nat) : α :=
  match src l with
  | some j => if x.supplies quad j then val j else fill l
  | none => fill l

/-- An exchange of one source lane (R109). -/
def exchange (d a : BitVec 8) (b64 f : Bool) (c : VS) (quad : Bool) (src : Ctx → State → Source) (x : Ctx) (s : State) : Res :=
  let from_ := src x s
  let t := if b64 then
      x.put64 ⟨false, d⟩ (x.getFrom quad from_ (fun j => s.v64 x.c x.p j a.toNat) fun l => if f then x.src64 s c l else 0#64) s
    else
      x.put ⟨false, d⟩ (x.getFrom quad from_ (fun j => s.v x.c x.p j a.toNat) fun l => if f then x.src s c l else 0#32) s
  .ok (x.setXlane (x.missed quad from_) t)

/-- Width of a segment (R106). -/
def segWidth (w : BitVec 3) : Nat := 2 ^ (w.toNat + 1)

/-- The source of QSWP, QBCST, SHFL and LSHF (R109). -/
def qswpSrc (k : BitVec 2) : Source := fun l => some (Nat.xor l k.toNat)

def qbcstSrc (k : BitVec 2) : Source := fun l => some (4 * (l / 4) + k.toNat)

def shflSrc (w : BitVec 3) (xor : Bool) (b : Nat → Nat) : Source := fun l =>
  let w := segWidth w
  let base := l - l % w
  let i := b l % w
  some (base + if xor then Nat.xor (l - base) i else i)

def lshfSrc (w : BitVec 3) (dn : Bool) (b : Nat → Nat) : Source := fun l =>
  let w := segWidth w
  let base := l - l % w
  let j : Int := if dn then ((l - base : Nat) : Int) + b l else ((l - base : Nat) : Int) - b l
  if j < 0 || (w : Int) ≤ j then none else some (base + j.toNat)

/-- QSWP to LSHF (R109). -/
def execQswp (g : Guard) (d a : BitVec 8) (k : BitVec 2) (b64 f : Bool) (c : VS) (s : State) : Host.Outcome State Fault Refusal :=
  issue (.qswp g d a k b64 f c) g (exchange d a b64 f c true fun _ _ => qswpSrc k) s

def execQbcst (g : Guard) (d a : BitVec 8) (k : BitVec 2) (b64 f : Bool) (c : VS) (s : State) : Host.Outcome State Fault Refusal :=
  issue (.qbcst g d a k b64 f c) g (exchange d a b64 f c true fun _ _ => qbcstSrc k) s

def execShfl (g : Guard) (d a : BitVec 8) (b : VS) (w : BitVec 3) (xr b64 f : Bool) (c : VS) (s : State) :
    Host.Outcome State Fault Refusal :=
  issue (.shfl g d a b w xr b64 f c) g
    (exchange d a b64 f c false fun x s => shflSrc w xr fun l => (x.src s b l).toNat) s

def execShflL (g : Guard) (d a : BitVec 8) (n : BitVec 5) (xr : Bool) (w : BitVec 3) (s : State) :
    Host.Outcome State Fault Refusal :=
  issue (.shflL g d a n xr w) g (exchange d a false false ⟨false, 0#8⟩ false fun _ _ => shflSrc w xr fun _ => n.toNat) s

def execLshf (g : Guard) (d a : BitVec 8) (b : VS) (w : BitVec 3) (dn b64 f : Bool) (c : VS) (s : State) :
    Host.Outcome State Fault Refusal :=
  issue (.lshf g d a b w dn b64 f c) g
    (exchange d a b64 f c false fun x s => lshfSrc w dn fun l => (x.src s b l).toNat) s

def execLshfL (g : Guard) (d a : BitVec 8) (n : BitVec 6) (dn : Bool) (w : BitVec 3) (s : State) :
    Host.Outcome State Fault Refusal :=
  issue (.lshfL g d a n dn w) g (exchange d a false false ⟨false, 0#8⟩ false fun _ _ => lshfSrc w dn fun _ => n.toNat) s

/-- RDLANE (R109): once, if Active holds a live lane. -/
def rdlaneBody (sd a : BitVec 8) (n : Nat) (b64 f : Bool) (c : VS) : Ctx → State → Res := once fun x s =>
  let j := n % 32
  let ok := x.supplies false j
  let s1 := if b64 then x.putS64 sd (if ok then s.v64 x.c x.p j a.toNat else if f then x.sreg64 s c.n else 0#64) s
    else x.putS sd (if ok then s.v x.c x.p j a.toNat else if f then x.sreg s c.n else 0#32) s
  .ok (x.setXlane (if ok then 0#32 else bitMask j) s1)

def execRdlane (g : Guard) (sd a sb : BitVec 8) (b64 f : Bool) (c : VS) (s : State) : Host.Outcome State Fault Refusal :=
  issue (.rdlane g sd a sb b64 f c) g (fun x s => rdlaneBody sd a (x.sreg s sb).toNat b64 f c x s) s

def execRdlaneL (g : Guard) (sd a : BitVec 8) (n : BitVec 5) (s : State) : Host.Outcome State Fault Refusal :=
  issue (.rdlaneL g sd a n) g (rdlaneBody sd a n.toNat false false ⟨true, 0#8⟩) s

/-! ### Votes and matches (R110, R111) -/

/-- The outcome of a vote over the set L and the lanes of L with the predicate. -/
def voteOf (v : BitVec 2) (l yes : Word) : Bool :=
  match v.toNat with
  | 0 => yes != 0#32
  | 1 => yes == l
  | _ => yes == 0#32 || yes == l

def execVote (g : Guard) (pd pa : BitVec 8) (v : BitVec 2) (s : State) : Host.Outcome State Fault Refusal :=
  issue (.vote g pd pa v) g
    (fun x s => .ok (x.setXlane 0#32 (x.putP pd (fun _ => voteOf v x.live (x.live &&& s.p x.c x.p pa.toNat)) s))) s

/-- BALLOT (R110): it executes once if Active holds a live lane, as RDLANE does, and otherwise writes nothing (R91). -/
def execBallot (g : Guard) (sd pa : BitVec 8) (s : State) : Host.Outcome State Fault Refusal :=
  issue (.ballot g sd pa) g
    (once fun x s => .ok (x.setXlane 0#32 (x.putS sd (x.live &&& s.p x.c x.p pa.toNat) s))) s

/-- MATCH (R111). -/
def execMatchLanes (g : Guard) (d a : BitVec 8) (b64 : Bool) (s : State) : Host.Outcome State Fault Refusal :=
  issue (.matchLanes g d a b64) g
    (fun x s =>
      let val := fun l => if b64 then s.v64 x.c x.p l a.toNat else (s.v x.c x.p l a.toNat).setWidth 64
      .ok (x.setXlane 0#32 (x.put ⟨false, d⟩ (fun l => maskWhere (fun j => val j == val l) &&& x.live) s))) s

/-! ### Folds (R112) -/

/-- An operation of a fold: its identity, how its first element is read, and the combination. -/
structure Fold where
  ident : Word
  first : Word → FW
  join  : Word → Word → FW

def intFold (ident : Word) (f : Word → Word → Word) : Fold := { ident := ident, first := fun a => (a, {}), join := fun a b => (f a b, {}) }

def floatFold (ftz : Bool) : Fold := { ident := 0#32, first := first32 ftz, join := add32 ftz rn }

/-- The fold that LPFX names. -/
def lpfxFold (op : BitVec 2) (f32 ftz : Bool) : Fold :=
  match op.toNat with
  | 0 => if f32 then floatFold ftz else intFold 0#32 (· + ·)
  | 1 => intFold 0x7FFFFFFF#32 fun a b => if b.slt a then b else a
  | _ => intFold 0x80000000#32 fun a b => if a.slt b then b else a

/-- Where a fold stands: the value of the running segment, none before its first element; the results so far, by lane; its flags. -/
structure FoldAt where
  acc   : Option Word := none
  out   : List Word := []
  flags : FFlags := {}

/-- One lane of the fold: a lane of L contributes, and starts a segment where head says so; every lane takes its result. R112 does not say whether the
addition of the highest lane of L under .excl, whose sum no live lane receives, raises flags: in the model it does (log 123). DESIGN CHOICE: a helper
lane below the lowest lane of L, for which the rule gives an identity under LPFX alone, receives that of the addition under SEGADD too (log 173). -/
def foldLane (k : Fold) (l : Word) (head : Word) (excl : Bool) (val : Nat → Word) (a : FoldAt) (n : Nat) : FoldAt :=
  let before := a.acc.getD k.ident
  if l.getLsbD n then
    let r := match a.acc with
      | some v => if head.getLsbD n then k.first (val n) else k.join v (val n)
      | none => k.first (val n)
    { acc := some r.1, out := a.out ++ [if excl then before else r.1], flags := a.flags.or r.2 }
  else { a with out := a.out ++ [before] }

/-- A fold over the live lanes of Active in ascending lane (R112): a lane outside them receives the fold at its position. -/
def foldBody (d a : BitVec 8) (k : State → Fold) (head : State → Word) (excl : Bool) (x : Ctx) (s : State) : Res :=
  let r := (List.range 32).foldl (foldLane (k s) x.live (head s) excl fun l => s.v x.c x.p l a.toNat) {}
  .ok ((x.setXlane 0#32 (x.put ⟨false, d⟩ (fun l => r.out.getD l 0#32) s)).orFlags x.c x.p r.flags.bits)

def execLpfx (g : Guard) (d a : BitVec 8) (op : BitVec 2) (excl f32 : Bool) (s : State) : Host.Outcome State Fault Refusal :=
  issue (.lpfx g d a op excl f32) g
    (fun x s => foldBody d a (fun s => lpfxFold op f32 (x.ftz s)) (fun _ => 0#32) excl x s) s

def execSegadd (g : Guard) (d a pb : BitVec 8) (f32 : Bool) (s : State) : Host.Outcome State Fault Refusal :=
  issue (.segadd g d a pb f32) g
    (fun x s => foldBody d a (fun s => lpfxFold 0#2 f32 (x.ftz s)) (fun s => s.p x.c x.p pb.toNat) false x s) s

/-! ### Compaction (R113) -/

/-- Renumbers the virtual lanes of a group of one entry and disarms its rejoin registers; what the group remembers of lanes follows them. -/
def Ctx.renumber (x : Ctx) (slots : List Slot) (s : State) : State :=
  let s := (s.setSlots x.c x.p slots).followLanes s x.c [x.p]
  let g := s.grp x.c x.p
  s.setGrp x.c x.p { g with
    jregs := g.disarmAll
    frontier := (List.range g.frontier.length).map fun k =>
      let e := g.frontier.getD k {}
      if k = x.n.ent then { e with mask := g.liveMask } else e }

/-- The new order: live lanes with pA set, the other live lanes, the other slots. -/
def compactOrder (live yes : Word) : List Nat :=
  lanesOf (live &&& yes) ++ lanesOf (live &&& ~~~yes) ++ lanesOf (~~~live)

/-- The order that LCOMP.id restores: that set by the regrouping in force, or the identity. -/
def Ctx.homeOrder (x : Ctx) : List Place :=
  match x.g.dealt with
  | some ps => ps
  | none => (List.range 32).map fun l => { grp := x.p, lane := l }

/-- LCOMP: REGRP_SPLIT unless one entry and no parked lane; it waits for the scoreboard. -/
def lcompBody (sd pa : BitVec 8) (id : Bool) (x : Ctx) (s : State) : Res :=
  if x.g.frontier.length != 1 || !x.g.parked.isEmpty then .fault Code.REGRP_SPLIT 0#64 s
  else if !s.scoreboardEmpty x.c x.p then .wait s 1
  else
    let old := (List.range 32).map fun l => s.slotOf x.c x.p l
    let yes := x.g.liveMask &&& s.p x.c x.p pa.toNat
    let slots := if id then x.homeOrder.filterMap fun pl => old.find? fun t => t.place == pl
      else (compactOrder x.g.liveMask yes).filterMap fun l => old[l]?
    let n := popCount (if id then x.g.liveMask else yes)
    .ok (x.setXlane 0#32 (x.putS sd (BitVec.ofNat 32 n) (x.renumber slots s)))

def execLcomp (g : Guard) (sd pa : BitVec 8) (id : Bool) (s : State) : Host.Outcome State Fault Refusal :=
  issue (.lcomp g sd pa id) g (lcompBody sd pa id) s

end Sys2Proof.Machine
end

