-- ==== Sys2Proof/Machine/Dispatch.lean ====
section
/-!
DEFINITION. The dispatch of every instruction and hardware step to its meaning, one arm each.
-/
namespace Sys2Proof.Machine

def exec (i : Instr) (s : State) : Host.Outcome State Fault Refusal :=
  match i with
  | .nop g => Sys2Proof.Machine.execNop g s
  | .bra g hint ofs => Sys2Proof.Machine.execBra g hint ofs s
  | .brx g a => Sys2Proof.Machine.execBrx g a s
  | .call g hint a ofs => Sys2Proof.Machine.execCall g hint a ofs s
  | .callx g d a => Sys2Proof.Machine.execCallx g d a s
  | .ret g a => Sys2Proof.Machine.execRet g a s
  | .exit g => Sys2Proof.Machine.execExit g s
  | .loop g hint a ofs => Sys2Proof.Machine.execLoop g hint a ofs s
  | .iter g hint f64 st a ofs => Sys2Proof.Machine.execIter g hint f64 st a ofs s
  | .jarm g j sa sb ns => Sys2Proof.Machine.execJarm g j sa sb ns s
  | .jarmL g j mask c => Sys2Proof.Machine.execJarmL g j mask c s
  | .jwait g pd j => Sys2Proof.Machine.execJwait g pd j s
  | .jdrop g j => Sys2Proof.Machine.execJdrop g j s
  | .jqry g sd j sel => Sys2Proof.Machine.execJqry g sd j sel s
  | .regrp g sa pb => Sys2Proof.Machine.execRegrp g sa pb s
  | .ungrp g sa => Sys2Proof.Machine.execUngrp g sa s
  | .yield g => Sys2Proof.Machine.execYield g s
  | .sleep g sa ns => Sys2Proof.Machine.execSleep g sa ns s
  | .sleepL g n ns => Sys2Proof.Machine.execSleepL g n ns s
  | .iadd g d a b sat u => Sys2Proof.Machine.execIadd g d a b sat u s
  | .iaddL g sc d a lit sat u => Sys2Proof.Machine.execIaddL g sc d a lit sat u s
  | .isub g d a b sat u => Sys2Proof.Machine.execIsub g d a b sat u s
  | .isubL g sc d a lit sat u => Sys2Proof.Machine.execIsubL g sc d a lit sat u s
  | .imul g d a b => Sys2Proof.Machine.execImul g d a b s
  | .imulL g sc d a lit => Sys2Proof.Machine.execImulL g sc d a lit s
  | .imulh g d a b u => Sys2Proof.Machine.execImulh g d a b u s
  | .imad g d a b c => Sys2Proof.Machine.execImad g d a b c s
  | .iadd64 g d a b => Sys2Proof.Machine.execIadd64 g d a b s
  | .iadd64L g sc d a lit => Sys2Proof.Machine.execIadd64L g sc d a lit s
  | .isub64 g d a b => Sys2Proof.Machine.execIsub64 g d a b s
  | .imad64 g d a b c u => Sys2Proof.Machine.execImad64 g d a b c u s
  | .icmp g p a b cc => Sys2Proof.Machine.execIcmp g p a b cc s
  | .icmpL g sc p a lit cc => Sys2Proof.Machine.execIcmpL g sc p a lit cc s
  | .icmp64 g p a b cc => Sys2Proof.Machine.execIcmp64 g p a b cc s
  | .icmp64L g sc p a lit cc => Sys2Proof.Machine.execIcmp64L g sc p a lit cc s
  | .imin g d a b u => Sys2Proof.Machine.execImin g d a b u s
  | .iminL g sc d a lit u => Sys2Proof.Machine.execIminL g sc d a lit u s
  | .imax g d a b u => Sys2Proof.Machine.execImax g d a b u s
  | .imaxL g sc d a lit u => Sys2Proof.Machine.execImaxL g sc d a lit u s
  | .iabs g d a sat => Sys2Proof.Machine.execIabs g d a sat s
  | .iaddmin g d a b c u => Sys2Proof.Machine.execIaddmin g d a b c u s
  | .and g d a b => Sys2Proof.Machine.execAnd g d a b s
  | .andL g sc d a lit => Sys2Proof.Machine.execAndL g sc d a lit s
  | .or g d a b => Sys2Proof.Machine.execOr g d a b s
  | .orL g sc d a lit => Sys2Proof.Machine.execOrL g sc d a lit s
  | .xor g d a b => Sys2Proof.Machine.execXor g d a b s
  | .xorL g sc d a lit => Sys2Proof.Machine.execXorL g sc d a lit s
  | .andn g d a b => Sys2Proof.Machine.execAndn g d a b s
  | .andnL g sc d a lit => Sys2Proof.Machine.execAndnL g sc d a lit s
  | .not g d a => Sys2Proof.Machine.execNot g d a s
  | .shl g d a b => Sys2Proof.Machine.execShl g d a b s
  | .shlL g sc d a lit => Sys2Proof.Machine.execShlL g sc d a lit s
  | .shr g d a b => Sys2Proof.Machine.execShr g d a b s
  | .shrL g sc d a lit => Sys2Proof.Machine.execShrL g sc d a lit s
  | .sar g d a b => Sys2Proof.Machine.execSar g d a b s
  | .sarL g sc d a lit => Sys2Proof.Machine.execSarL g sc d a lit s
  | .shl64 g d a b => Sys2Proof.Machine.execShl64 g d a b s
  | .shl64L g sc d a lit => Sys2Proof.Machine.execShl64L g sc d a lit s
  | .shr64 g d a b => Sys2Proof.Machine.execShr64 g d a b s
  | .shr64L g sc d a lit => Sys2Proof.Machine.execShr64L g sc d a lit s
  | .bfe g d a b c u => Sys2Proof.Machine.execBfe g d a b c u s
  | .bfi g d a b c => Sys2Proof.Machine.execBfi g d a b c s
  | .popc g d a => Sys2Proof.Machine.execPopc g d a s
  | .clz g d a => Sys2Proof.Machine.execClz g d a s
  | .brev g d a => Sys2Proof.Machine.execBrev g d a s
  | .sel g d a b pc => Sys2Proof.Machine.execSel g d a b pc s
  | .mov g d a b64 => Sys2Proof.Machine.execMov g d a b64 s
  | .movL g sc d lit => Sys2Proof.Machine.execMovL g sc d lit s
  | .plop g pd pa pb pc lut => Sys2Proof.Machine.execPlop g pd pa pb pc lut s
  | .qswp g d a k b64 f c => Sys2Proof.Machine.execQswp g d a k b64 f c s
  | .qbcst g d a k b64 f c => Sys2Proof.Machine.execQbcst g d a k b64 f c s
  | .shfl g d a b w x b64 f c => Sys2Proof.Machine.execShfl g d a b w x b64 f c s
  | .shflL g d a n x w => Sys2Proof.Machine.execShflL g d a n x w s
  | .lshf g d a b w dn b64 f c => Sys2Proof.Machine.execLshf g d a b w dn b64 f c s
  | .lshfL g d a n dn w => Sys2Proof.Machine.execLshfL g d a n dn w s
  | .vote g pd pa v => Sys2Proof.Machine.execVote g pd pa v s
  | .ballot g sd pa => Sys2Proof.Machine.execBallot g sd pa s
  | .matchLanes g d a b64 => Sys2Proof.Machine.execMatchLanes g d a b64 s
  | .lcomp g sd pa id => Sys2Proof.Machine.execLcomp g sd pa id s
  | .lpfx g d a op excl f32 => Sys2Proof.Machine.execLpfx g d a op excl f32 s
  | .segadd g d a pb f32 => Sys2Proof.Machine.execSegadd g d a pb f32 s
  | .rdlane g sd a sb b64 f c => Sys2Proof.Machine.execRdlane g sd a sb b64 f c s
  | .rdlaneL g sd a n => Sys2Proof.Machine.execRdlaneL g sd a n s
  | .fadd g d a b ty rm na nb => Sys2Proof.Machine.execFadd g d a b ty rm na nb s
  | .faddL g sc d a lit rm => Sys2Proof.Machine.execFaddL g sc d a lit rm s
  | .fmul g d a b ty rm na nb => Sys2Proof.Machine.execFmul g d a b ty rm na nb s
  | .fmulL g sc d a lit rm => Sys2Proof.Machine.execFmulL g sc d a lit rm s
  | .ffma g d a b c ty rm na nb nc => Sys2Proof.Machine.execFfma g d a b c ty rm na nb nc s
  | .fmin g d a b ty => Sys2Proof.Machine.execFmin g d a b ty s
  | .fminL g sc d a lit => Sys2Proof.Machine.execFminL g sc d a lit s
  | .fmax g d a b ty => Sys2Proof.Machine.execFmax g d a b ty s
  | .fmaxL g sc d a lit => Sys2Proof.Machine.execFmaxL g sc d a lit s
  | .fcmp g p a b ty cc => Sys2Proof.Machine.execFcmp g p a b ty cc s
  | .fcmpL g sc p a lit cc => Sys2Proof.Machine.execFcmpL g sc p a lit cc s
  | .fclass g d a ty => Sys2Proof.Machine.execFclass g d a ty s
  | .frnd g d a ty rm => Sys2Proof.Machine.execFrnd g d a ty rm s
  | .fscale g d a b ty rm => Sys2Proof.Machine.execFscale g d a b ty rm s
  | .fdot2 g d a b c ty rm na nb nc => Sys2Proof.Machine.execFdot2 g d a b c ty rm na nb nc s
  | .srcp g d a => Sys2Proof.Machine.execSrcp g d a s
  | .srsq g d a => Sys2Proof.Machine.execSrsq g d a s
  | .ssqrt g d a => Sys2Proof.Machine.execSsqrt g d a s
  | .sexp2 g d a => Sys2Proof.Machine.execSexp2 g d a s
  | .slog2 g d a => Sys2Proof.Machine.execSlog2 g d a s
  | .ssin g d a => Sys2Proof.Machine.execSsin g d a s
  | .scos g d a => Sys2Proof.Machine.execScos g d a s
  | .stanh g d a => Sys2Proof.Machine.execStanh g d a s
  | .cvf g d a df sf rm sat sp dp => Sys2Proof.Machine.execCvf g d a df sf rm sat sp dp s
  | .cvn g d a q df sf rm sat dp => Sys2Proof.Machine.execCvn g d a q df sf rm sat dp s
  | .cvi g d a df sf rm sp dp => Sys2Proof.Machine.execCvi g d a df sf rm sp dp s
  | .cvsh g d a b dp => Sys2Proof.Machine.execCvsh g d a b dp s
  | .dcsh g d a b sp => Sys2Proof.Machine.execDcsh g d a b sp s
  | .qclr g nn => Sys2Proof.Machine.execQclr g nn s
  | .qmov g x y dir => Sys2Proof.Machine.execQmov g x y dir s
  | .vchain g sd sa => Sys2Proof.Machine.execVchain g sd sa s
  | .hring g sa k ofs => Sys2Proof.Machine.execHring g sa k ofs s
  | .hfrom g d a k f64 => Sys2Proof.Machine.execHfrom g d a k f64 s
  | .htof g d a k => Sys2Proof.Machine.execHtof g d a k s
  | .hadd g d a b k => Sys2Proof.Machine.execHadd g d a b k s
  | .hsub g d a b k => Sys2Proof.Machine.execHsub g d a b k s
  | .hmul g d a b k => Sys2Proof.Machine.execHmul g d a b k s
  | .hdiv g d a b k => Sys2Proof.Machine.execHdiv g d a b k s
  | .hneg g d a k => Sys2Proof.Machine.execHneg g d a k s
  | .hrcp g d a k => Sys2Proof.Machine.execHrcp g d a k s
  | .hsq g d a k => Sys2Proof.Machine.execHsq g d a k s
  | .huni g d a b => Sys2Proof.Machine.execHuni g d a b s
  | .hcap g d a b => Sys2Proof.Machine.execHcap g d a b s
  | .hinFlt g p a b k f64 => Sys2Proof.Machine.execHinFlt g p a b k f64 s
  | .hinSub g p a b => Sys2Proof.Machine.execHinSub g p a b s
  | .harc g d a => Sys2Proof.Machine.execHarc g d a s
  | .hexp g d a => Sys2Proof.Machine.execHexp g d a s
  | .hcnt g d a runs => Sys2Proof.Machine.execHcnt g d a runs s
  | .ld g data base idx form width nl1 ofs => Sys2Proof.Machine.execLd g data base idx form width nl1 ofs s
  | .st g data base idx form width nl1 ofs => Sys2Proof.Machine.execSt g data base idx form width nl1 ofs s
  | .lds g data base form width ofs => Sys2Proof.Machine.execLds g data base form width ofs s
  | .sts g data base form width ofs => Sys2Proof.Machine.execSts g data base form width ofs s
  | .ldp g data base form ofs => Sys2Proof.Machine.execLdp g data base form ofs s
  | .stp g data base form ofs => Sys2Proof.Machine.execStp g data base form ofs s
  | .ldk g data base width ofs => Sys2Proof.Machine.execLdk g data base width ofs s
  | .atom g dst base opd cmp form aop scope w64 ofs => Sys2Proof.Machine.execAtom g dst base opd cmp form aop scope w64 ofs s
  | .atoms g dst base opd cmp form aop scope w64 ofs => Sys2Proof.Machine.execAtoms g dst base opd cmp form aop scope w64 ofs s
  | .pref g base idx form llc ofs => Sys2Proof.Machine.execPref g base idx form llc ofs s
  | .xlat g d a => Sys2Proof.Machine.execXlat g d a s
  | .xacq g sd sa tr => Sys2Proof.Machine.execXacq g sd sa tr s
  | .xrel g sa => Sys2Proof.Machine.execXrel g sa s
  | .fence g scope => Sys2Proof.Machine.execFence g scope s
  | .rel g scope => Sys2Proof.Machine.execRel g scope s
  | .acq g scope => Sys2Proof.Machine.execAcq g scope s
  | .bar g a n sync cnt => Sys2Proof.Machine.execBar g a n sync cnt s
  | .boinit g sa b inv => Sys2Proof.Machine.execBoinit g sa b inv s
  | .boarr g sd sa b tx => Sys2Proof.Machine.execBoarr g sd sa b tx s
  | .bowait g sa sb => Sys2Proof.Machine.execBowait g sa sb s
  | .botry g sd sa sb => Sys2Proof.Machine.execBotry g sd sa sb s
  | .fwait g sd sa sb sc cc slice => Sys2Proof.Machine.execFwait g sd sa sb sc cc slice s
  | .dtime g sd ord => Sys2Proof.Machine.execDtime g sd ord s
  | .wct g sd => Sys2Proof.Machine.execWct g sd s
  | .acopy g sd sa sb sc sp => Sys2Proof.Machine.execAcopy g sd sa sb sc sp s
  | .acopyt g sd sa sb sc sp => Sys2Proof.Machine.execAcopyt g sd sa sb sc sp s
  | .asto g sd sa vb sc => Sys2Proof.Machine.execAsto g sd sa vb sc s
  | .kick g sa sb => Sys2Proof.Machine.execKick g sa sb s
  | .kstat g sd clr => Sys2Proof.Machine.execKstat g sd clr s
  | .ghnd g sd sa => Sys2Proof.Machine.execGhnd g sd sa s
  | .ghndFree g sa => Sys2Proof.Machine.execGhndFree g sa s
  | .gath g d sa vb c nf bs => Sys2Proof.Machine.execGath g d sa vb c nf bs s
  | .scat g sa vb vc nf => Sys2Proof.Machine.execScat g sa vb vc nf s
  | .gcmr g sd code => Sys2Proof.Machine.execGcmr g sd code s
  | .gcmw g sa => Sys2Proof.Machine.execGcmw g sa s
  | .mbq g vq sa => Sys2Proof.Machine.execMbq g vq sa s
  | .mloop g m sa sb sc ta tb msk => Sys2Proof.Machine.execMloop g m sa sb sc ta tb msk s
  | .mma g m va ta tb => Sys2Proof.Machine.execMma g m va ta tb s
  | .mzero g m f64 => Sys2Proof.Machine.execMzero g m f64 s
  | .mdrain g d m sb bf16 rel => Sys2Proof.Machine.execMdrain g d m sb bf16 rel s
  | .mdrainS g sd m sb bf16 rel => Sys2Proof.Machine.execMdrainS g sd m sb bf16 rel s
  | .mdrainc g m sb sc rel => Sys2Proof.Machine.execMdrainc g m sb sc rel s
  | .mguide g d m sb sc bf16 rel => Sys2Proof.Machine.execMguide g d m sb sc bf16 rel s
  | .mtwin g => Sys2Proof.Machine.execMtwin g s
  | .msketch g sd t sb sc => Sys2Proof.Machine.execMsketch g sd t sb sc s
  | .mmask g sa sb => Sys2Proof.Machine.execMmask g sa sb s
  | .mstat g sd m clr => Sys2Proof.Machine.execMstat g sd m clr s
  | .msave g sa m rel => Sys2Proof.Machine.execMsave g sa m rel s
  | .mrstr g m sa => Sys2Proof.Machine.execMrstr g m sa s
  | .tdesc g t sa b rcd => Sys2Proof.Machine.execTdesc g t sa b rcd s
  | .tdescRd g sd t => Sys2Proof.Machine.execTdescRd g sd t s
  | .tld g t sa sb => Sys2Proof.Machine.execTld g t sa sb s
  | .tldHeap g sa => Sys2Proof.Machine.execTldHeap g sa s
  | .tldf g t sa sb => Sys2Proof.Machine.execTldf g t sa sb s
  | .tstD g sa t sc => Sys2Proof.Machine.execTstD g sa t sc s
  | .tstF g sa t => Sys2Proof.Machine.execTstF g sa t s
  | .tstHeap g sa => Sys2Proof.Machine.execTstHeap g sa s
  | .tzero g t => Sys2Proof.Machine.execTzero g t s
  | .tadd g t ta tb => Sys2Proof.Machine.execTadd g t ta tb s
  | .tscl g t ta sb => Sys2Proof.Machine.execTscl g t ta sb s
  | .tmul g t ta tb => Sys2Proof.Machine.execTmul g t ta tb s
  | .tmulv g d ta vb => Sys2Proof.Machine.execTmulv g d ta vb s
  | .trnd g t ta b st abs => Sys2Proof.Machine.execTrnd g t ta b st abs s
  | .trank g sd ta clr => Sys2Proof.Machine.execTrank g sd ta clr s
  | .ttod g t ta => Sys2Proof.Machine.execTtod g t ta s
  | .ttol g t ta => Sys2Proof.Machine.execTtol g t ta s
  | .tpotrf g t ta => Sys2Proof.Machine.execTpotrf g t ta s
  | .ttrsm g t ta tb rgt tr up un => Sys2Proof.Machine.execTtrsm g t ta tb rgt tr up un s
  | .tupd g t ta tb => Sys2Proof.Machine.execTupd g t ta tb s
  | .thalc g t => Sys2Proof.Machine.execThalc g t s
  | .thfre g t => Sys2Proof.Machine.execThfre g t s
  | .qpost g sd sa => Sys2Proof.Machine.execQpost g sd sa s
  | .qtick g sd sa tr => Sys2Proof.Machine.execQtick g sd sa tr s
  | .put g sd sa => Sys2Proof.Machine.execPut g sd sa s
  | .puts g sd sa => Sys2Proof.Machine.execPuts g sd sa s
  | .putr g sd sa => Sys2Proof.Machine.execPutr g sd sa s
  | .get g sd sa => Sys2Proof.Machine.execGet g sd sa s
  | .qarm g sa sb sc => Sys2Proof.Machine.execQarm g sa sb sc s
  | .tcnt g sd sa b op => Sys2Proof.Machine.execTcnt g sd sa b op s
  | .qring g sd sa => Sys2Proof.Machine.execQring g sd sa s
  | .qcomp g sd sa nw fre => Sys2Proof.Machine.execQcomp g sd sa nw fre s
  | .qcancel g sd sa => Sys2Proof.Machine.execQcancel g sd sa s
  | .qstat g sd sa sel rst => Sys2Proof.Machine.execQstat g sd sa sel rst s
  | .gnode g sd sa => Sys2Proof.Machine.execGnode g sd sa s
  | .gedge g sa sb => Sys2Proof.Machine.execGedge g sa sb s
  | .gsub g sa => Sys2Proof.Machine.execGsub g sa s
  | .gwait g sd sa tr => Sys2Proof.Machine.execGwait g sd sa tr s
  | .launch g sd sa => Sys2Proof.Machine.execLaunch g sd sa s
  | .dline g sa sb => Sys2Proof.Machine.execDline g sa sb s
  | .dgst g sd => Sys2Proof.Machine.execDgst g sd s
  | .dgchk g sa => Sys2Proof.Machine.execDgchk g sa s
  | .trap g a => Sys2Proof.Machine.execTrap g a s
  | .rte g yld => Sys2Proof.Machine.execRte g yld s
  | .savelive g sd sa => Sys2Proof.Machine.execSavelive g sd sa s
  | .restlive g sa => Sys2Proof.Machine.execRestlive g sa s
  | .srd g d n => Sys2Proof.Machine.execSrd g d n s
  | .swr g n sa => Sys2Proof.Machine.execSwr g n sa s
  | .bkpt g id => Sys2Proof.Machine.execBkpt g id s
  | .pmark g id => Sys2Proof.Machine.execPmark g id s
  | .haltb g sa abt => Sys2Proof.Machine.execHaltb g sa abt s
  | .rdbaro g sd sa clr => Sys2Proof.Machine.execRdbaro g sd sa clr s
  | .joinTimeout => Sys2Proof.Machine.execJoinTimeout s
  | .sleepExpiry => Sys2Proof.Machine.execSleepExpiry s
  | .fairnessRotation => Sys2Proof.Machine.execFairnessRotation s
  | .clauseFetch => Sys2Proof.Machine.execClauseFetch s
  | .chainCompletion => Sys2Proof.Machine.execChainCompletion s
  | .ringSlotCommit => Sys2Proof.Machine.execRingSlotCommit s
  | .releaseCompletion => Sys2Proof.Machine.execReleaseCompletion s
  | .fwaitReread => Sys2Proof.Machine.execFwaitReread s
  | .homeRequest => Sys2Proof.Machine.execHomeRequest s
  | .loadDataWritten => Sys2Proof.Machine.execLoadDataWritten s
  | .storeAcknowledgement => Sys2Proof.Machine.execStoreAcknowledgement s
  | .takingAPin => Sys2Proof.Machine.execTakingAPin s
  | .retry => Sys2Proof.Machine.execRetry s
  | .pinTimeout => Sys2Proof.Machine.execPinTimeout s
  | .asyncCompletion => Sys2Proof.Machine.execAsyncCompletion s
  | .cardCompletion => Sys2Proof.Machine.execCardCompletion s
  | .gathSettled => Sys2Proof.Machine.execGathSettled s
  | .kStep => Sys2Proof.Machine.execKStep s
  | .twinHoldTimeout => Sys2Proof.Machine.execTwinHoldTimeout s
  | .burnisherPhaseBoundary => Sys2Proof.Machine.execBurnisherPhaseBoundary s
  | .burnisherCommit => Sys2Proof.Machine.execBurnisherCommit s
  | .entryCompletion => Sys2Proof.Machine.execEntryCompletion s
  | .putPacket => Sys2Proof.Machine.execPutPacket s
  | .putWithSignal => Sys2Proof.Machine.execPutWithSignal s
  | .writeWithReduce => Sys2Proof.Machine.execWriteWithReduce s
  | .getRequest => Sys2Proof.Machine.execGetRequest s
  | .acknowledgement => Sys2Proof.Machine.execAcknowledgement s
  | .getData => Sys2Proof.Machine.execGetData s
  | .remoteDeviceAccess => Sys2Proof.Machine.execRemoteDeviceAccess s
  | .packetTimeout => Sys2Proof.Machine.execPacketTimeout s
  | .linkDown => Sys2Proof.Machine.execLinkDown s
  | .routeSwitch => Sys2Proof.Machine.execRouteSwitch s
  | .postMessage => Sys2Proof.Machine.execPostMessage s
  | .ticketMessage => Sys2Proof.Machine.execTicketMessage s
  | .mismatchMessage => Sys2Proof.Machine.execMismatchMessage s
  | .cancelMessage => Sys2Proof.Machine.execCancelMessage s
  | .cancelledMessage => Sys2Proof.Machine.execCancelledMessage s
  | .postTimeout => Sys2Proof.Machine.execPostTimeout s
  | .collectiveStart => Sys2Proof.Machine.execCollectiveStart s
  | .foldChunk => Sys2Proof.Machine.execFoldChunk s
  | .resultChunk => Sys2Proof.Machine.execResultChunk s
  | .credit => Sys2Proof.Machine.execCredit s
  | .collectiveTimeout => Sys2Proof.Machine.execCollectiveTimeout s
  | .collectiveResultTimeout => Sys2Proof.Machine.execCollectiveResultTimeout s
  | .collectiveEnd => Sys2Proof.Machine.execCollectiveEnd s
  | .nodeDispatch => Sys2Proof.Machine.execNodeDispatch s
  | .blockPlacement => Sys2Proof.Machine.execBlockPlacement s
  | .nodeCompletion => Sys2Proof.Machine.execNodeCompletion s
  | .deadlinePassed => Sys2Proof.Machine.execDeadlinePassed s
  | .groupEnd => Sys2Proof.Machine.execGroupEnd s
  | .trapEntry => Sys2Proof.Machine.execTrapEntry s
  | .submit => Sys2Proof.Machine.execSubmit s
  | .wait => Sys2Proof.Machine.execWait s
  | .inval => Sys2Proof.Machine.execInval s
  | .preempt => Sys2Proof.Machine.execPreempt s
  | .release => Sys2Proof.Machine.execRelease s
  | .resync => Sys2Proof.Machine.execResync s
  | .checkpoint => Sys2Proof.Machine.execCheckpoint s
  | .restore => Sys2Proof.Machine.execRestore s
  | .trace => Sys2Proof.Machine.execTrace s
  | .checkpointStreamComplete => Sys2Proof.Machine.execCheckpointStreamComplete s
  | .qTailWrite => Sys2Proof.Machine.execQTailWrite s
  | .lplaceWrite => Sys2Proof.Machine.execLplaceWrite s
  | .fwinWrite => Sys2Proof.Machine.execFwinWrite s
  | .stageWrite => Sys2Proof.Machine.execStageWrite s
  | .prouteWrite => Sys2Proof.Machine.execProuteWrite s
  | .teamCfgWrite => Sys2Proof.Machine.execTeamCfgWrite s
  | .devFidWrite => Sys2Proof.Machine.execDevFidWrite s
  | .queueContextWrite => Sys2Proof.Machine.execQueueContextWrite s
  | .controlRegisterWrite => Sys2Proof.Machine.execControlRegisterWrite s
  | .cxlMemAccess => Sys2Proof.Machine.execCxlMemAccess s
  | .powerOnReset => Sys2Proof.Machine.execPowerOnReset s
  | .firmwareVerify => Sys2Proof.Machine.execFirmwareVerify s
  | .version => Sys2Proof.Machine.execVersion s
  | .capabilities => Sys2Proof.Machine.execCapabilities s
  | .algorithmNegotiation => Sys2Proof.Machine.execAlgorithmNegotiation s
  | .digests => Sys2Proof.Machine.execDigests s
  | .certificates => Sys2Proof.Machine.execCertificates s
  | .challenge => Sys2Proof.Machine.execChallenge s
  | .measurements => Sys2Proof.Machine.execMeasurements s
  | .powerWithhold => Sys2Proof.Machine.execPowerWithhold s
  | .thermalTrip => Sys2Proof.Machine.execThermalTrip s
  | .linkUp => Sys2Proof.Machine.execLinkUp s
  | .flitResend => Sys2Proof.Machine.execFlitResend s
  | .packetForwarding => Sys2Proof.Machine.execPacketForwarding s

end Sys2Proof.Machine
end

