-- ==== Sys2Proof/Machine/Step.lean ====
section
/-!
DEFINITION. One step of the machine: the next move (R16, R66), and what it does. A move that issues brings an entry to its
instruction, which exec then runs; a hardware step runs by its own constructor of Instr.
-/
namespace Sys2Proof.Machine

/-- One step. -/
def step (s : State) : Host.Outcome State Fault Refusal :=
  let next := s.nextMove
  let s := { next.2 with freeCount := next.2.freeCount + 1 }
  match next.1 with
  | none => .next s
  | some (.issue c p cls) =>
    match s.attempt c p cls with
    | .idle t => .next t
    | .run i counted t => afterIssue cls counted (exec i t)
  | some (.event e) => if s.makes e.what then exec e.what (s.takeEvent e) else .next (s.takeEvent e)
  | some .ns => .next s.tickNs
  | some .cycle => .next s.tickCycle
  | some (.evict core line) => .next (s.evictLine core line)
  | some (.tlbFill core root va) => .next (s.fillTlb core root va)

/-- The state whose next step fetches and runs the instruction whose bits are w. -/
def State.withFetchWord (s : State) (nbits w : Nat) : State := s.placeWord (BitVec.ofNat 64 (w % 2 ^ nbits))

end Sys2Proof.Machine
end

