-- ==== Sys2Proof/Safety.lean ====
section
/-!
DEFINITION. What counts as a safe run, in the terms that statements use: the canonical form of the maps, steps that answer a next state, and
an instruction that its entry issues with its registers in range.
-/
namespace Sys2Proof.Machine

/-- The canonical form of memory: addresses strictly rising, no entry equal to what an unlisted address reads as. -/
abbrev Memory.wf (m : List Host.Cell) : Prop := awf 0#8 m = true

/-- The state's maps of bytes and registers are in canonical form. -/
abbrev State.mapsWf (s : State) : Prop :=
  awf 0#8 s.mem = true ∧ awf 0#8 s.pool = true ∧ awf 0#32 s.vreg = true ∧ awf 0#32 s.sreg = true ∧
  awf 0#32 s.pred = true ∧ awf 0#32 s.qreg = true

/-- A state from which one step goes on. -/
abbrev State.goesOn (s : State) : Prop := ∃ t, step s = .next t

/-- An entry issues an instruction whose fields raise no fault: it names no odd register for a pair and no vector register at or above its group's
count (R50, R51). -/
abbrev State.runs (s : State) (n : Issuer) (i : Instr) : Prop := s.issuer = some n ∧ s.fieldFault n i = none

/-- The group's earlier accesses let an instruction read n mapped bytes at issue, no other core has pinned them, the core has line requests left,
and the bytes are b (R198, R202, R210, R17). -/
abbrev Ctx.reads (x : Ctx) (s : State) (addr : DWord) (n : Nat) (b : List Byte) (ps : List (Nat × Nat)) : Prop :=
  s.loadsFree x.c x.p x.e.mask = true ∧ s.linesFull x.c (linesIn ps) = false ∧
  s.translateRange x.c (s.launchOf x.c x.p).context { handler := x.g.handler } addr n = .ok ps ∧
  (∀ q ∈ ps, s.ownPending x.g.uid q.1 q.2 = false ∧ s.pinnedLines x.c q.1 q.2 = []) ∧ s.readPieces ps = b

/-- What an instruction may write: vector, scalar, predicate and residue registers of its group, sr.fflags and sr.xlane. -/
structure Dests where
  v  : List Nat := []
  s  : List Nat := []
  p  : List Nat := []
  q  : List Nat := []
  fl : Bool := false
  xl : Bool := false
deriving DecidableEq, Repr

/-- A vector-or-scalar destination: a register, or a pair (R50). -/
def vsDest (d : VS) (wide : Bool) : Dests :=
  let rs := if wide then [d.n.toNat, d.n.toNat + 1] else [d.n.toNat]
  if d.sc then { s := rs } else { v := rs }

/-- The destinations of each instruction that only computes on registers (R92 to R167): none for every other. -/
def regDests : Instr → Option Dests
  | .iadd _ d _ _ _ _ => some (vsDest d false)
  | .iaddL _ s d _ _ _ _ => some (vsDest ⟨s, d⟩ false)
  | .isub _ d _ _ _ _ => some (vsDest d false)
  | .isubL _ s d _ _ _ _ => some (vsDest ⟨s, d⟩ false)
  | .imul _ d _ _ => some (vsDest d false)
  | .imulL _ s d _ _ => some (vsDest ⟨s, d⟩ false)
  | .imulh _ d _ _ _ => some (vsDest d false)
  | .imad _ d _ _ _ => some (vsDest d false)
  | .iadd64 _ d _ _ => some (vsDest d true)
  | .iadd64L _ s d _ _ => some (vsDest ⟨s, d⟩ true)
  | .isub64 _ d _ _ => some (vsDest d true)
  | .imad64 _ d _ _ _ _ => some (vsDest d true)
  | .icmp _ p _ _ _ => some ({ p := [p.toNat] })
  | .icmpL _ _ p _ _ _ => some ({ p := [p.toNat] })
  | .icmp64 _ p _ _ _ => some ({ p := [p.toNat] })
  | .icmp64L _ _ p _ _ _ => some ({ p := [p.toNat] })
  | .imin _ d _ _ _ => some (vsDest d false)
  | .iminL _ s d _ _ _ => some (vsDest ⟨s, d⟩ false)
  | .imax _ d _ _ _ => some (vsDest d false)
  | .imaxL _ s d _ _ _ => some (vsDest ⟨s, d⟩ false)
  | .iabs _ d _ _ => some (vsDest d false)
  | .iaddmin _ d _ _ _ _ => some (vsDest d false)
  | .and _ d _ _ => some (vsDest d false)
  | .andL _ s d _ _ => some (vsDest ⟨s, d⟩ false)
  | .or _ d _ _ => some (vsDest d false)
  | .orL _ s d _ _ => some (vsDest ⟨s, d⟩ false)
  | .xor _ d _ _ => some (vsDest d false)
  | .xorL _ s d _ _ => some (vsDest ⟨s, d⟩ false)
  | .andn _ d _ _ => some (vsDest d false)
  | .andnL _ s d _ _ => some (vsDest ⟨s, d⟩ false)
  | .not _ d _ => some (vsDest d false)
  | .shl _ d _ _ => some (vsDest d false)
  | .shlL _ s d _ _ => some (vsDest ⟨s, d⟩ false)
  | .shr _ d _ _ => some (vsDest d false)
  | .shrL _ s d _ _ => some (vsDest ⟨s, d⟩ false)
  | .sar _ d _ _ => some (vsDest d false)
  | .sarL _ s d _ _ => some (vsDest ⟨s, d⟩ false)
  | .shl64 _ d _ _ => some (vsDest d true)
  | .shl64L _ s d _ _ => some (vsDest ⟨s, d⟩ true)
  | .shr64 _ d _ _ => some (vsDest d true)
  | .shr64L _ s d _ _ => some (vsDest ⟨s, d⟩ true)
  | .bfe _ d _ _ _ _ => some (vsDest d false)
  | .bfi _ d _ _ _ => some (vsDest d false)
  | .popc _ d _ => some (vsDest d false)
  | .clz _ d _ => some (vsDest d false)
  | .brev _ d _ => some (vsDest d false)
  | .sel _ d _ _ _ => some (vsDest ⟨false, d⟩ false)
  | .mov _ d _ b64 => some (vsDest d b64)
  | .movL _ s d _ => some (vsDest ⟨s, d⟩ false)
  | .plop _ pd _ _ _ _ => some ({ p := [pd.toNat] })
  | .qswp _ d _ _ b64 _ _ => some ({ vsDest ⟨false, d⟩ b64 with xl := true })
  | .qbcst _ d _ _ b64 _ _ => some ({ vsDest ⟨false, d⟩ b64 with xl := true })
  | .shfl _ d _ _ _ _ b64 _ _ => some ({ vsDest ⟨false, d⟩ b64 with xl := true })
  | .shflL _ d _ _ _ _ => some ({ vsDest ⟨false, d⟩ false with xl := true })
  | .lshf _ d _ _ _ _ b64 _ _ => some ({ vsDest ⟨false, d⟩ b64 with xl := true })
  | .lshfL _ d _ _ _ _ => some ({ vsDest ⟨false, d⟩ false with xl := true })
  | .vote _ pd _ _ => some ({ p := [pd.toNat], xl := true })
  | .ballot _ sd _ => some ({ vsDest ⟨true, sd⟩ false with xl := true })
  | .matchLanes _ d _ b64 => some ({ vsDest ⟨false, d⟩ b64 with xl := true })
  | .lpfx _ d _ _ _ _ => some ({ vsDest ⟨false, d⟩ false with fl := true, xl := true })
  | .segadd _ d _ _ _ => some ({ vsDest ⟨false, d⟩ false with fl := true, xl := true })
  | .rdlane _ sd _ _ b64 _ _ => some ({ vsDest ⟨true, sd⟩ b64 with xl := true })
  | .rdlaneL _ sd _ _ => some ({ vsDest ⟨true, sd⟩ false with xl := true })
  | .fadd _ d _ _ ty _ _ _ => some ({ vsDest d (ty == 0#2) with fl := true })
  | .faddL _ s d _ _ _ => some ({ vsDest ⟨s, d⟩ false with fl := true })
  | .fmul _ d _ _ ty _ _ _ => some ({ vsDest d (ty == 0#2) with fl := true })
  | .fmulL _ s d _ _ _ => some ({ vsDest ⟨s, d⟩ false with fl := true })
  | .ffma _ d _ _ _ ty _ _ _ _ => some ({ vsDest d (ty == 0#2) with fl := true })
  | .fmin _ d _ _ ty => some ({ vsDest d (ty == 0#2) with fl := true })
  | .fminL _ s d _ _ => some ({ vsDest ⟨s, d⟩ false with fl := true })
  | .fmax _ d _ _ ty => some ({ vsDest d (ty == 0#2) with fl := true })
  | .fmaxL _ s d _ _ => some ({ vsDest ⟨s, d⟩ false with fl := true })
  | .fcmp _ p _ _ _ _ => some ({ p := [p.toNat], fl := true })
  | .fcmpL _ _ p _ _ _ => some ({ p := [p.toNat], fl := true })
  | .fclass _ d _ _ => some (vsDest d false)
  | .frnd _ d _ ty _ => some ({ vsDest d (ty == 0#2) with fl := true })
  | .fscale _ d _ _ ty _ => some ({ vsDest d (ty == 0#2) with fl := true })
  | .fdot2 _ d _ _ _ _ _ _ _ _ => some ({ vsDest d false with fl := true })
  | .srcp _ d _ => some ({ vsDest d false with fl := true })
  | .srsq _ d _ => some ({ vsDest d false with fl := true })
  | .ssqrt _ d _ => some ({ vsDest d false with fl := true })
  | .sexp2 _ d _ => some ({ vsDest d false with fl := true })
  | .slog2 _ d _ => some ({ vsDest d false with fl := true })
  | .ssin _ d _ => some ({ vsDest d false with fl := true })
  | .scos _ d _ => some ({ vsDest d false with fl := true })
  | .stanh _ d _ => some ({ vsDest d false with fl := true })
  | .cvf _ d _ df _ _ _ _ _ => some ({ vsDest d (codeWidth df == 64) with fl := true })
  | .cvn _ d _ q df _ _ _ _ => some ({ vsDest ⟨false, d⟩ (codeWidth df == 64) with q := [q.toNat], fl := true })
  | .cvi _ d _ df _ _ _ _ => some ({ vsDest d (codeWidth df == 64) with fl := true })
  | .cvsh _ d _ _ _ => some ({ vsDest d false with fl := true })
  | .dcsh _ d _ _ _ => some ({ vsDest d false with fl := true })
  | .qclr _ nn => some ({ q := (List.range 8).filter fun k => nn.getLsbD k })
  | .qmov _ x _ dir => some (if dir then { v := [x.toNat] } else { q := [x.toNat] })
  | .huni _ d _ _ => some (vsDest d false)
  | .hcap _ d _ _ => some (vsDest d false)
  | .hinSub _ p _ _ => some ({ p := [p.toNat] })
  | .harc _ d _ => some (vsDest d false)
  | .hexp _ d _ => some ({ vsDest d false with fl := true })
  | .hcnt _ d _ _ => some (vsDest d false)
  | _ => none

/-- A state differs from another at most in the named registers of one group, in its entries, and in the flags that may be written: everything
else of the device is the same, and so is everything else of the group. -/
abbrev State.changesOnly (s t : State) (n : Issuer) (w : Dests) : Prop :=
  let g := s.grp n.core n.grp
  let h := t.grp n.core n.grp
  t = { s with vreg := t.vreg, sreg := t.sreg, pred := t.pred, qreg := t.qreg, groups := t.groups } ∧
  (∀ key, (∀ l < 32, ∀ r ∈ w.v, key ≠ vkey n.core (g.placeOf n.grp l) r) → aget 0#32 t.vreg key = aget 0#32 s.vreg key) ∧
  (∀ key, (∀ l < 32, ∀ r ∈ w.q, key ≠ qkey n.core (g.placeOf n.grp l) r) → aget 0#32 t.qreg key = aget 0#32 s.qreg key) ∧
  (∀ key, (∀ r ∈ w.s, key ≠ skey n.core n.grp r) → aget 0#32 t.sreg key = aget 0#32 s.sreg key) ∧
  (∀ key, (∀ r ∈ w.p, key ≠ pkey n.core n.grp r) → aget 0#32 t.pred key = aget 0#32 s.pred key) ∧
  (∀ key, key ≠ gid n.core n.grp → aget {} t.groups key = aget {} s.groups key) ∧
  h = { g with frontier := h.frontier, fflags := h.fflags, xlane := h.xlane, shadow := h.shadow } ∧
  (∀ k, 120 + k ∉ w.s → aget 0#32 h.shadow k = aget 0#32 g.shadow k) ∧
  (w.fl = false → h.fflags = g.fflags) ∧ (w.xl = false → h.xlane = g.xlane)

end Sys2Proof.Machine
end

