-- ==== Sys2Proof/Certificates/Slice0/Obligations.lean ====
section
/-!
DEFINITION. The statements of this row: what the numbered rules of spec/ say of decoding, of each instruction and hardware step, of frames,
of exceptions and of reset, one proposition each.
-/
open Sys2Proof Sys2Proof.Machine

/-- R100, R102: each bitwise and move instruction whose registers are in range answers a next state with its result in every lane of Active, once for
a scalar destination, and its entry goes on. -/
def Obligations.LogicAndMoveResults : Prop :=
  ∀ (s : State) (n : Issuer) (g : Guard) (d a b : VS) (rd ra pc : BitVec 8) (lit : Word) (sc : Bool),
    let x := s.ctx n g
    (s.runs n (.and g d a b) → exec (.and g d a b) s =
      .next ((x.put d (fun l => (x.src s a l) &&& (x.src s b l)) s).advance n)) ∧
    (s.runs n (.andL g sc rd ra lit) → exec (.andL g sc rd ra lit) s =
      .next ((x.put ⟨sc, rd⟩ (fun l => (x.src s ⟨sc, ra⟩ l) &&& lit) s).advance n)) ∧
    (s.runs n (.or g d a b) → exec (.or g d a b) s =
      .next ((x.put d (fun l => (x.src s a l) ||| (x.src s b l)) s).advance n)) ∧
    (s.runs n (.orL g sc rd ra lit) → exec (.orL g sc rd ra lit) s =
      .next ((x.put ⟨sc, rd⟩ (fun l => (x.src s ⟨sc, ra⟩ l) ||| lit) s).advance n)) ∧
    (s.runs n (.xor g d a b) → exec (.xor g d a b) s =
      .next ((x.put d (fun l => (x.src s a l) ^^^ (x.src s b l)) s).advance n)) ∧
    (s.runs n (.xorL g sc rd ra lit) → exec (.xorL g sc rd ra lit) s =
      .next ((x.put ⟨sc, rd⟩ (fun l => (x.src s ⟨sc, ra⟩ l) ^^^ lit) s).advance n)) ∧
    (s.runs n (.andn g d a b) → exec (.andn g d a b) s =
      .next ((x.put d (fun l => (x.src s a l) &&& ~~~(x.src s b l)) s).advance n)) ∧
    (s.runs n (.andnL g sc rd ra lit) → exec (.andnL g sc rd ra lit) s =
      .next ((x.put ⟨sc, rd⟩ (fun l => (x.src s ⟨sc, ra⟩ l) &&& ~~~lit) s).advance n)) ∧
    (s.runs n (.not g d a) → exec (.not g d a) s =
      .next ((x.put d (fun l => ~~~(x.src s a l)) s).advance n)) ∧
    (s.runs n (.sel g rd a b pc) → exec (.sel g rd a b pc) s =
      .next ((x.put ⟨false, rd⟩ (fun l => if (s.p x.c x.p pc.toNat).getLsbD l then x.src s a l else x.src s b l) s).advance n)) ∧
    (s.runs n (.mov g d a false) → exec (.mov g d a false) s =
      .next ((x.put d (fun l => x.src s a l) s).advance n)) ∧
    (s.runs n (.mov g d a true) → exec (.mov g d a true) s =
      .next ((x.put64 d (fun l => x.src64 s a l) s).advance n)) ∧
    (s.runs n (.movL g sc rd lit) → exec (.movL g sc rd lit) s =
      .next ((x.put ⟨sc, rd⟩ (fun _ => lit) s).advance n))

/-- R102, R126, R165: PLOP, FCMP and HIN.sub answer a next state in which the bits of the lanes of Active are the outcomes of their test, FCMP with
the flags of its live lanes. -/
def Obligations.PredicateResults : Prop :=
  ∀ (s : State) (n : Issuer) (g : Guard) (a b : VS) (pd pa pb pc lut ra : BitVec 8) (lit : Word) (sc : Bool)
    (cl : BitVec 3) (ty : BitVec 2),
    let x := s.ctx n g
    (s.runs n (.plop g pd pa pb pc lut) → exec (.plop g pd pa pb pc lut) s =
      .next ((x.putP pd (fun l => lut.getLsbD (4 * boolNat ((s.p x.c x.p pa.toNat).getLsbD l) +
      2 * boolNat ((s.p x.c x.p pb.toNat).getLsbD l) + boolNat ((s.p x.c x.p pc.toNat).getLsbD l))) s).advance n)) ∧
    (s.runs n (.fcmp g pd a b ty cl) → exec (.fcmp g pd a b ty cl) s =
      .next ((x.putPF pd (fun l => if ty == 0#2 then fcmpBits (typeOf ty) (x.ftz s) cl.toNat (x.src64 s a l).toNat (x.src64 s b l).toNat
      else fcmpBits (typeOf ty) (x.ftz s) cl.toNat (x.src s a l).toNat (x.src s b l).toNat) s).advance n)) ∧
    (s.runs n (.fcmpL g sc pd ra lit cl) → exec (.fcmpL g sc pd ra lit cl) s =
      .next ((x.putPF pd (fun l => fcmpBits .f32 (x.ftz s) cl.toNat (x.src s ⟨sc, ra⟩ l).toNat lit.toNat) s).advance n)) ∧
    (s.runs n (.hinSub g pd a b) → exec (.hinSub g pd a b) s =
      .next ((x.putP pd (fun l => (x.src s a l &&& ~~~(x.src s b l)) &&& 0xFFFF#32 == 0#32) s).advance n))

/-- R103 to R109: each lane exchange answers a next state in which every lane of Active holds the value of the lane that it names, where that lane
supplies, and otherwise the fill value; sr.xlane holds the lanes named that did not supply. -/
def Obligations.LaneExchangeResults : Prop :=
  ∀ (s : State) (n : Issuer) (g : Guard) (b c : VS) (rd ra : BitVec 8) (k : BitVec 2) (w : BitVec 3) (n5 : BitVec 5) (n6 : BitVec 6) (y f : Bool),
    let x := s.ctx n g
    (s.runs n (.qswp g rd ra k false f c) → exec (.qswp g rd ra k false f c) s =
      .next ((x.setXlane (x.missed true (qswpSrc k)) (x.put ⟨false, rd⟩
      (x.getFrom true (qswpSrc k) (fun j => s.v x.c x.p j ra.toNat) fun l => if f then x.src s c l else 0#32) s)).advance n)) ∧
    (s.runs n (.qbcst g rd ra k false f c) → exec (.qbcst g rd ra k false f c) s =
      .next ((x.setXlane (x.missed true (qbcstSrc k)) (x.put ⟨false, rd⟩
      (x.getFrom true (qbcstSrc k) (fun j => s.v x.c x.p j ra.toNat) fun l => if f then x.src s c l else 0#32) s)).advance n)) ∧
    (s.runs n (.shfl g rd ra b w y false f c) → exec (.shfl g rd ra b w y false f c) s =
      .next ((x.setXlane (x.missed false (shflSrc w y fun l => (x.src s b l).toNat)) (x.put ⟨false, rd⟩
      (x.getFrom false (shflSrc w y fun l => (x.src s b l).toNat) (fun j => s.v x.c x.p j ra.toNat) fun l => if f then x.src s c l else 0#32) s)).advance n)) ∧
    (s.runs n (.lshf g rd ra b w y false f c) → exec (.lshf g rd ra b w y false f c) s =
      .next ((x.setXlane (x.missed false (lshfSrc w y fun l => (x.src s b l).toNat)) (x.put ⟨false, rd⟩
      (x.getFrom false (lshfSrc w y fun l => (x.src s b l).toNat) (fun j => s.v x.c x.p j ra.toNat) fun l => if f then x.src s c l else 0#32) s)).advance n)) ∧
    (s.runs n (.qswp g rd ra k true f c) → exec (.qswp g rd ra k true f c) s =
      .next ((x.setXlane (x.missed true (qswpSrc k)) (x.put64 ⟨false, rd⟩
      (x.getFrom true (qswpSrc k) (fun j => s.v64 x.c x.p j ra.toNat) fun l => if f then x.src64 s c l else 0#64) s)).advance n)) ∧
    (s.runs n (.qbcst g rd ra k true f c) → exec (.qbcst g rd ra k true f c) s =
      .next ((x.setXlane (x.missed true (qbcstSrc k)) (x.put64 ⟨false, rd⟩
      (x.getFrom true (qbcstSrc k) (fun j => s.v64 x.c x.p j ra.toNat) fun l => if f then x.src64 s c l else 0#64) s)).advance n)) ∧
    (s.runs n (.shfl g rd ra b w y true f c) → exec (.shfl g rd ra b w y true f c) s =
      .next ((x.setXlane (x.missed false (shflSrc w y fun l => (x.src s b l).toNat)) (x.put64 ⟨false, rd⟩
      (x.getFrom false (shflSrc w y fun l => (x.src s b l).toNat) (fun j => s.v64 x.c x.p j ra.toNat) fun l => if f then x.src64 s c l else 0#64) s)).advance n)) ∧
    (s.runs n (.lshf g rd ra b w y true f c) → exec (.lshf g rd ra b w y true f c) s =
      .next ((x.setXlane (x.missed false (lshfSrc w y fun l => (x.src s b l).toNat)) (x.put64 ⟨false, rd⟩
      (x.getFrom false (lshfSrc w y fun l => (x.src s b l).toNat) (fun j => s.v64 x.c x.p j ra.toNat) fun l => if f then x.src64 s c l else 0#64) s)).advance n)) ∧
    (s.runs n (.shflL g rd ra n5 y w) → exec (.shflL g rd ra n5 y w) s =
      .next ((x.setXlane (x.missed false (shflSrc w y fun _ => n5.toNat)) (x.put ⟨false, rd⟩
      (x.getFrom false (shflSrc w y fun _ => n5.toNat) (fun j => s.v x.c x.p j ra.toNat) fun _ => 0#32) s)).advance n)) ∧
    (s.runs n (.lshfL g rd ra n6 y w) → exec (.lshfL g rd ra n6 y w) s =
      .next ((x.setXlane (x.missed false (lshfSrc w y fun _ => n6.toNat)) (x.put ⟨false, rd⟩
      (x.getFrom false (lshfSrc w y fun _ => n6.toNat) (fun j => s.v x.c x.p j ra.toNat) fun _ => 0#32) s)).advance n))

/-- R109, R112, R113: RDLANE, LPFX, SEGADD and LCOMP answer a next state with the value of the named lane, the folds of the live lanes of Active in
ascending lane, or the renumbered lanes and their count; LCOMP in a group of one entry with nothing parked and nothing pending. The flags of an
addition whose sum no lane receives, and what a helper lane below the lowest lane of the fold receives under SEGADD, are the model's choices: log
entries 123 and 173. -/
def Obligations.VoteAndFoldResults : Prop :=
  ∀ (s : State) (n : Issuer) (g : Guard) (c : VS) (sd sb rd ra pa : BitVec 8) (n5 : BitVec 5) (op : BitVec 2) (excl y f id : Bool),
    let x := s.ctx n g
    (s.runs n (.rdlane g sd ra sb false f c) → x.live ≠ 0#32 → exec (.rdlane g sd ra sb false f c) s =
      .next ((let j := (x.sreg s sb).toNat % 32
      x.setXlane (if x.live.getLsbD j then 0#32 else bitMask j) (x.putS sd (if x.live.getLsbD j then s.v x.c x.p j ra.toNat
        else if f then x.sreg s c.n else 0#32) s)).advance n)) ∧
    (s.runs n (.rdlane g sd ra sb true f c) → x.live ≠ 0#32 → exec (.rdlane g sd ra sb true f c) s =
      .next ((let j := (x.sreg s sb).toNat % 32
      x.setXlane (if x.live.getLsbD j then 0#32 else bitMask j) (x.putS64 sd (if x.live.getLsbD j then s.v64 x.c x.p j ra.toNat
        else if f then x.sreg64 s c.n else 0#64) s)).advance n)) ∧
    (s.runs n (.rdlaneL g sd ra n5) → x.live ≠ 0#32 → exec (.rdlaneL g sd ra n5) s =
      .next ((x.setXlane (if x.live.getLsbD n5.toNat then 0#32 else bitMask n5.toNat) (x.putS sd
      (if x.live.getLsbD n5.toNat then s.v x.c x.p n5.toNat ra.toNat else 0#32) s)).advance n)) ∧
    (s.runs n (.lpfx g rd ra op excl y) → exec (.lpfx g rd ra op excl y) s =
      .next ((let r := (List.range 32).foldl (foldLane (lpfxFold op y (x.ftz s)) x.live 0#32 excl fun l => s.v x.c x.p l ra.toNat) {}
      (x.setXlane 0#32 (x.put ⟨false, rd⟩ (fun l => r.out.getD l 0#32) s)).orFlags x.c x.p r.flags.bits).advance n)) ∧
    (s.runs n (.segadd g rd ra pa y) → exec (.segadd g rd ra pa y) s =
      .next ((let r := (List.range 32).foldl (foldLane (lpfxFold 0#2 y (x.ftz s)) x.live (s.p x.c x.p pa.toNat) false fun l => s.v x.c x.p l ra.toNat) {}
      (x.setXlane 0#32 (x.put ⟨false, rd⟩ (fun l => r.out.getD l 0#32) s)).orFlags x.c x.p r.flags.bits).advance n)) ∧
    (s.runs n (.lcomp g sd pa id) → x.g.frontier.length = 1 → x.g.parked = [] → s.scoreboardEmpty x.c x.p = true →
      exec (.lcomp g sd pa id) s = .next ((x.setXlane 0#32 (x.putS sd
        (BitVec.ofNat 32 (popCount (if id then x.g.liveMask else x.g.liveMask &&& s.p x.c x.p pa.toNat)))
        (x.renumber (if id then x.homeOrder.filterMap fun pl => ((List.range 32).map fun l => s.slotOf x.c x.p l).find? fun t => t.place == pl
          else (compactOrder x.g.liveMask (x.g.liveMask &&& s.p x.c x.p pa.toNat)).filterMap
            fun l => ((List.range 32).map fun l => s.slotOf x.c x.p l)[l]?) s))).advance n))

/-- R122 to R133: each floating-point and special-function instruction whose registers are in range answers a next state with its rounded result in
every lane of Active and the flags of the live lanes in sr.fflags, and its entry goes on. That FRND of a subnormal input raises FZ under flush-to-zero
is the model's reading: log entry 129. -/
def Obligations.FloatResults : Prop :=
  ∀ (s : State) (n : Issuer) (g : Guard) (d a b c : VS) (rd ra : BitVec 8) (lit : Word) (ty rm : BitVec 2) (sc na nb nc : Bool),
    let x := s.ctx n g
    (s.runs n (.fadd g d a b ty rm na nb) → exec (.fadd g d a b ty rm na nb) s =
      .next ((x.putFloat ty d [(a, na), (b, nb)] (faddOp rm.toNat) s).advance n)) ∧
    (s.runs n (.fmul g d a b ty rm na nb) → exec (.fmul g d a b ty rm na nb) s =
      .next ((x.putFloat ty d [(a, na), (b, nb)] (fmulOp rm.toNat) s).advance n)) ∧
    (s.runs n (.ffma g d a b c ty rm na nb nc) → exec (.ffma g d a b c ty rm na nb nc) s =
      .next ((x.putFloat ty d [(a, na), (b, nb), (c, nc)] (ffmaOp rm.toNat) s).advance n)) ∧
    (s.runs n (.fmin g d a b ty) → exec (.fmin g d a b ty) s =
      .next ((x.putFloat ty d [(a, false), (b, false)] fminOp s).advance n)) ∧
    (s.runs n (.fmax g d a b ty) → exec (.fmax g d a b ty) s =
      .next ((x.putFloat ty d [(a, false), (b, false)] fmaxOp s).advance n)) ∧
    (s.runs n (.frnd g d a ty rm) → exec (.frnd g d a ty rm) s =
      .next ((x.putFloat ty d [(a, false)] (frndOp rm.toNat) s).advance n)) ∧
    (s.runs n (.faddL g sc rd ra lit rm) → exec (.faddL g sc rd ra lit rm) s =
      .next ((x.putF ⟨sc, rd⟩ (fun l => toFW (elemOp .f32 (x.ftz s) (faddOp rm.toNat .f32 (x.ftz s))
      [((x.src s ⟨sc, ra⟩ l).toNat, false), (lit.toNat, false)])) s).advance n)) ∧
    (s.runs n (.fmulL g sc rd ra lit rm) → exec (.fmulL g sc rd ra lit rm) s =
      .next ((x.putF ⟨sc, rd⟩ (fun l => toFW (elemOp .f32 (x.ftz s) (fmulOp rm.toNat .f32 (x.ftz s))
      [((x.src s ⟨sc, ra⟩ l).toNat, false), (lit.toNat, false)])) s).advance n)) ∧
    (s.runs n (.fminL g sc rd ra lit) → exec (.fminL g sc rd ra lit) s =
      .next ((x.putF ⟨sc, rd⟩ (fun l => toFW (elemOp .f32 (x.ftz s) (fminOp .f32 (x.ftz s))
      [((x.src s ⟨sc, ra⟩ l).toNat, false), (lit.toNat, false)])) s).advance n)) ∧
    (s.runs n (.fmaxL g sc rd ra lit) → exec (.fmaxL g sc rd ra lit) s =
      .next ((x.putF ⟨sc, rd⟩ (fun l => toFW (elemOp .f32 (x.ftz s) (fmaxOp .f32 (x.ftz s))
      [((x.src s ⟨sc, ra⟩ l).toNat, false), (lit.toNat, false)])) s).advance n)) ∧
    (s.runs n (.fclass g d a 0#2) → exec (.fclass g d a 0#2) s =
      .next ((x.put d (fun l => BitVec.ofNat 32 (fclassOf .f64 (x.src64 s a l).toNat)) s).advance n)) ∧
    (s.runs n (.fclass g d a 1#2) → exec (.fclass g d a 1#2) s =
      .next ((x.put d (fun l => BitVec.ofNat 32 (fclassOf .f32 (x.src s a l).toNat)) s).advance n)) ∧
    (s.runs n (.fclass g d a 2#2) → exec (.fclass g d a 2#2) s =
      .next ((x.put d (fun l => BitVec.ofNat 32 (fclassOf (typeOf 2#2) ((x.src s a l).toNat % 2 ^ 16) +
      fclassOf (typeOf 2#2) ((x.src s a l).toNat / 2 ^ 16) * 2 ^ 16)) s).advance n)) ∧
    (s.runs n (.fclass g d a 3#2) → exec (.fclass g d a 3#2) s =
      .next ((x.put d (fun l => BitVec.ofNat 32 (fclassOf (typeOf 3#2) ((x.src s a l).toNat % 2 ^ 16) +
      fclassOf (typeOf 3#2) ((x.src s a l).toNat / 2 ^ 16) * 2 ^ 16)) s).advance n)) ∧
    (s.runs n (.fscale g d a b ty rm) → exec (.fscale g d a b ty rm) s =
      .next ((if ty == 0#2 then x.putF64 d (fun l =>
      let r := elemOp .f64 (x.ftz s) (fscaleOp rm.toNat (x.src s b l).toInt .f64 (x.ftz s)) [((x.src64 s a l).toNat, false)]
      (BitVec.ofNat 64 r.1, r.2)) s
      else x.putF d (fun l => toFW (elemOp .f32 (x.ftz s) (fscaleOp rm.toNat (x.src s b l).toInt .f32 (x.ftz s))
        [((x.src s a l).toNat, false)])) s).advance n)) ∧
    (s.runs n (.fdot2 g d a b c ty rm na nb nc) → exec (.fdot2 g d a b c ty rm na nb nc) s =
      .next ((x.putF d (fun l => fdot2Of ty (x.ftz s) rm.toNat na nb nc (x.src s a l) (x.src s b l) (x.src s c l)) s).advance n)) ∧
    (s.runs n (.srcp g d a) → exec (.srcp g d a) s =
      .next ((x.putF d (fun l => Sfu.word .rcp (x.ftz s) (x.src s a l)) s).advance n)) ∧
    (s.runs n (.srsq g d a) → exec (.srsq g d a) s =
      .next ((x.putF d (fun l => Sfu.word .rsq (x.ftz s) (x.src s a l)) s).advance n)) ∧
    (s.runs n (.ssqrt g d a) → exec (.ssqrt g d a) s =
      .next ((x.putF d (fun l => Sfu.word .sqrt (x.ftz s) (x.src s a l)) s).advance n)) ∧
    (s.runs n (.sexp2 g d a) → exec (.sexp2 g d a) s =
      .next ((x.putF d (fun l => Sfu.word .exp2 (x.ftz s) (x.src s a l)) s).advance n)) ∧
    (s.runs n (.slog2 g d a) → exec (.slog2 g d a) s =
      .next ((x.putF d (fun l => Sfu.word .log2 (x.ftz s) (x.src s a l)) s).advance n)) ∧
    (s.runs n (.ssin g d a) → exec (.ssin g d a) s =
      .next ((x.putF d (fun l => Sfu.word .sin (x.ftz s) (x.src s a l)) s).advance n)) ∧
    (s.runs n (.scos g d a) → exec (.scos g d a) s =
      .next ((x.putF d (fun l => Sfu.word .cos (x.ftz s) (x.src s a l)) s).advance n)) ∧
    (s.runs n (.stanh g d a) → exec (.stanh g d a) s =
      .next ((x.putF d (fun l => Sfu.word .tanh (x.ftz s) (x.src s a l)) s).advance n))

/-- R136 to R142: each conversion and each residue instruction whose registers are in range answers a next state with the converted field, its flags
and the new residue in the lanes of Active, and its entry goes on. What CVI gives for an integer beyond e4m3, and that CVSH of a subnormal input
raises FZ under flush-to-zero, are the model's readings, log entries 149 and 130, as is FZ of CVN for what flush-to-zero reads as zero, log entry 174.
-/
def Obligations.ConversionResults : Prop :=
  ∀ (s : State) (n : Issuer) (g : Guard) (d a b : VS) (rd ra rq nn : BitVec 8) (df sf : BitVec 4) (rm sp dp : BitVec 2) (sat : Bool),
    let x := s.ctx n g
    (s.runs n (.cvf g d a df sf rm sat sp dp) → exec (.cvf g d a df sf rm sat sp dp) s =
      .next ((x.putField d df dp (fun l => cvfOf ((fmtOf df.toNat).getD .f32) ((fmtOf sf.toNat).getD .f32) (x.ftz s) sat rm.toNat
      (x.field s a sf sp l)) s).advance n)) ∧
    (s.runs n (.cvi g d a df sf rm sp dp) → exec (.cvi g d a df sf rm sp dp) s =
      .next ((x.putField d df dp (fun l => cviOf df sf (x.ftz s) rm.toNat (x.field s a sf sp l)) s).advance n)) ∧
    (s.runs n (.cvn g rd ra rq df sf rm sat dp) → exec (.cvn g rd ra rq df sf rm sat dp) s =
      .next ((let out := (fun l => cvnOf ((fmtOf df.toNat).getD .f16) ((fmtOf sf.toNat).getD .f32) (x.ftz s) sat rm.toNat
        (x.field s ⟨false, ra⟩ sf 0#2 l) (s.q x.c x.p l rq.toNat))
      x.putQ rq.toNat (fun l => (out l).residue) (x.putField ⟨false, rd⟩ df dp (fun l => ((out l).val, (out l).flags)) s)).advance n)) ∧
    (s.runs n (.cvsh g d a b dp) → exec (.cvsh g d a b dp) s =
      .next ((x.putF d (fun l => (insertField (x.src s d l) 8 dp.toNat (cvshOf (x.ftz s) (x.src s a l) (x.src s b l)).1,
      (cvshOf (x.ftz s) (x.src s a l) (x.src s b l)).2)) s).advance n)) ∧
    (s.runs n (.dcsh g d a b sp) → exec (.dcsh g d a b sp) s =
      .next ((x.putF d (fun l => dcshOf (x.ftz s) ((x.src s a l).toNat / 2 ^ (8 * sp.toNat) % 256) (x.src s b l)) s).advance n)) ∧
    (s.runs n (.qclr g nn) → exec (.qclr g nn) s =
      .next ((((List.range 8).filter fun k => nn.getLsbD k).foldl (fun t k => x.putQ k (fun _ => 0#32) t) s).advance n)) ∧
    (s.runs n (.qmov g rd ra true) → exec (.qmov g rd ra true) s =
      .next ((x.put ⟨false, rd⟩ (fun l => s.q x.c x.p l ra.toNat) s).advance n)) ∧
    (s.runs n (.qmov g rd ra false) → exec (.qmov g rd ra false) s =
      .next ((x.putQ rd.toNat (fun l => s.v x.c x.p l ra.toNat) s).advance n))

/-- R162 to R167: each set instruction answers a next state with its set, bounds or count in every lane of Active: those that use a ring slot when the
launch owns the slot and no HRING of the group on it is pending. -/
def Obligations.HatchResults : Prop :=
  ∀ (s : State) (n : Issuer) (g : Guard) (d a b : VS) (pd : BitVec 8) (k : BitVec 2) (f64 : Bool),
    let x := s.ctx n g
    (s.runs n (.hadd g d a b k) → s.slotPending x.c x.p k.toNat = false → (aget {} (s.core x.c).slots k.toNat).owner = some x.g.node →
      exec (.hadd g d a b k) s =
      .next ((x.put d (fun l => unionOf (aget {} (s.core x.c).slots k.toNat).table addBase (x.src s a l) (x.src s b l)) s).advance n)) ∧
    (s.runs n (.hsub g d a b k) → s.slotPending x.c x.p k.toNat = false → (aget {} (s.core x.c).slots k.toNat).owner = some x.g.node →
      exec (.hsub g d a b k) s =
      .next ((x.put d (fun l => unionOf (aget {} (s.core x.c).slots k.toNat).table addBase (x.src s a l) (mapOf (ringNeg (aget {} (s.core x.c).slots k.toNat).table) (x.src s b l))) s).advance n)) ∧
    (s.runs n (.hmul g d a b k) → s.slotPending x.c x.p k.toNat = false → (aget {} (s.core x.c).slots k.toNat).owner = some x.g.node →
      exec (.hmul g d a b k) s =
      .next ((x.put d (fun l => unionOf (aget {} (s.core x.c).slots k.toNat).table mulBase (x.src s a l) (x.src s b l)) s).advance n)) ∧
    (s.runs n (.hdiv g d a b k) → s.slotPending x.c x.p k.toNat = false → (aget {} (s.core x.c).slots k.toNat).owner = some x.g.node →
      exec (.hdiv g d a b k) s =
      .next ((x.put d (fun l => unionOf (aget {} (s.core x.c).slots k.toNat).table divBase (x.src s a l) (x.src s b l)) s).advance n)) ∧
    (s.runs n (.hneg g d a k) → s.slotPending x.c x.p k.toNat = false → (aget {} (s.core x.c).slots k.toNat).owner = some x.g.node →
      exec (.hneg g d a k) s =
      .next ((x.put d (fun l => mapOf (ringNeg (aget {} (s.core x.c).slots k.toNat).table) (x.src s a l)) s).advance n)) ∧
    (s.runs n (.hrcp g d a k) → s.slotPending x.c x.p k.toNat = false → (aget {} (s.core x.c).slots k.toNat).owner = some x.g.node →
      exec (.hrcp g d a k) s =
      .next ((x.put d (fun l => mapOf (ringRcp (aget {} (s.core x.c).slots k.toNat).table) (x.src s a l)) s).advance n)) ∧
    (s.runs n (.hsq g d a k) → s.slotPending x.c x.p k.toNat = false → (aget {} (s.core x.c).slots k.toNat).owner = some x.g.node →
      exec (.hsq g d a k) s =
      .next ((x.put d (fun l => mapOf (fun e => ringEntry (aget {} (s.core x.c).slots k.toNat).table mulBase e e) (x.src s a l)) s).advance n)) ∧
    (s.runs n (.hfrom g d a k f64) → s.slotPending x.c x.p k.toNat = false → (aget {} (s.core x.c).slots k.toNat).owner = some x.g.node →
      exec (.hfrom g d a k f64) s =
      .next ((x.putF d (fun l => if f64 then elementOf (aget {} (s.core x.c).slots k.toNat).table .f64 (x.src64 s a l).toNat
      else elementOf (aget {} (s.core x.c).slots k.toNat).table .f32 (x.src s a l).toNat) s).advance n)) ∧
    (s.runs n (.htof g d a k) → s.slotPending x.c x.p k.toNat = false → (aget {} (s.core x.c).slots k.toNat).owner = some x.g.node →
      exec (.htof g d a k) s =
      .next ((x.put64 d (fun l => boundsOf (aget {} (s.core x.c).slots k.toNat).table (x.src s a l)) s).advance n)) ∧
    (s.runs n (.hinFlt g pd a b k f64) → s.slotPending x.c x.p k.toNat = false → (aget {} (s.core x.c).slots k.toNat).owner = some x.g.node →
      exec (.hinFlt g pd a b k f64) s =
      .next ((x.putPF pd (fun l =>
      let f : Fmt := if f64 then .f64 else .f32
      let v := if f64 then (x.src64 s b l).toNat else (x.src s b l).toNat
      let e := elementOf (aget {} (s.core x.c).slots k.toNat).table f v
      (!(f.decode v).isNan && (e.1 &&& x.src s a l) != 0#32, e.2)) s).advance n)) ∧
    (s.runs n (.huni g d a b) → exec (.huni g d a b) s =
      .next ((x.put d (fun l => ((x.src s a l) ||| (x.src s b l)) &&& 0xFFFF#32) s).advance n)) ∧
    (s.runs n (.hcap g d a b) → exec (.hcap g d a b) s =
      .next ((x.put d (fun l => ((x.src s a l) &&& (x.src s b l)) &&& 0xFFFF#32) s).advance n)) ∧
    (s.runs n (.harc g d a) → exec (.harc g d a) s =
      .next ((x.put d (fun l => arcOf (x.src s a l)) s).advance n)) ∧
    (s.runs n (.hexp g d a) → exec (.hexp g d a) s =
      .next ((x.putF d (fun l => match expandOf ((x.src s a l).toNat % 256) with
      | some w => (w, {})
      | none => (0xFFFF#32, { nv := true })) s).advance n)) ∧
    (s.runs n (.hcnt g d a true) → exec (.hcnt g d a true) s =
      .next ((x.put d (fun l => BitVec.ofNat 32 (runsOf (x.src s a l))) s).advance n)) ∧
    (s.runs n (.hcnt g d a false) → exec (.hcnt g d a false) s =
      .next ((x.put d (fun l => BitVec.ofNat 32 (popCount ((x.src s a l) &&& 0xFFFF#32))) s).advance n))

/-- R70 to R76: a transfer whose registers are in range answers a next state in which its lanes stand at their targets, the others of its entry
at the next clause header, the taken entry first when HINT is 1; CALL and CALLX have written the return address, LOOP its counter, and ITER
its counter, its status predicate, its flags and the deadline's mark. NOP only goes on. The order in which one EXIT completes joins in several rejoin
registers is the model's choice: log entry 171. -/
def Obligations.TransferResults : Prop :=
  ∀ (s : State) (n : Issuer) (g : Guard) (a d : VS) (ofs : BitVec 32) (st : BitVec 3) (hint f64 : Bool),
    let x := s.ctx n g
    let target := x.pc + 8#64 * ofs.signExtend 64
    (s.runs n (.nop g) → exec (.nop g) s = .next (s.advance n)) ∧
    (s.runs n (.bra g hint ofs) → exec (.bra g hint ofs) s = .next (x.branch hint target x.live s)) ∧
    (s.runs n (.brx g a) → exec (.brx g a) s = .next (x.scatter (fun l => x.src64 s a l) s)) ∧
    (s.runs n (.call g hint a ofs) → exec (.call g hint a ofs) s =
      .next (x.branch hint target x.live (x.put64 a (fun _ => x.fall) s))) ∧
    (s.runs n (.callx g d a) → exec (.callx g d a) s =
      .next (x.scatter (fun l => x.src64 s a l) (x.put64 d (fun _ => x.fall) s))) ∧
    (s.runs n (.ret g a) → exec (.ret g a) s = .next (x.scatter (fun l => x.src64 s a l) s)) ∧
    (s.runs n (.loop g hint a ofs) → exec (.loop g hint a ofs) s =
      .next (x.branch hint target (maskWhere (fun l => x.src s a l - 1#32 != 0#32) &&& x.live)
        (x.put a (fun l => x.src s a l - 1#32) s))) ∧
    (s.runs n (.exit g) → exec (.exit g) s =
      .next (let t := x.split [(x.fall, x.e.mask &&& ~~~x.live)]
               (s.setGrp x.c x.p { s.grp x.c x.p with liveMask := (s.grp x.c x.p).liveMask &&& ~~~x.live })
             if x.live == 0#32 then t else t.afterExit x.c x.p x.live)) ∧
    (s.runs n (.iter g hint f64 st a ofs) → exec (.iter g hint f64 st a ofs) s =
      .next (let f : Fmt := if f64 then .f64 else .f32
             let reg := fun (k l : Nat) => x.src s ⟨a.sc, a.n + BitVec.ofNat 8 k⟩ l
             let cnt := if f64 then 4 else 2
             let test := fun l =>
               if f64 then iterBody.fcmpQuiet f (x.ftz s) (pair64 (reg 0 l) (reg 1 l)).toNat (pair64 (reg 2 l) (reg 3 l)).toNat
               else iterBody.fcmpQuiet f (x.ftz s) (reg 0 l).toNat (reg 1 l).toNat
             let late := s.deadlinePassed x.g.node
             let conv := maskWhere fun l => (test l).1
             let capped := maskWhere fun l => (reg (cnt + 1) l).toNat ≤ (reg cnt l + 1#32).toNat
             let on := if late then 0#32 else ~~~conv &&& ~~~capped
             let stop := if a.sc && x.live == 0#32 then 0#32 else x.active &&& ~~~on
             let s1 := x.put ⟨a.sc, a.n + BitVec.ofNat 8 cnt⟩ (fun l => reg cnt l + 1#32) s
             let s2 := s1.setP x.c x.p st.toNat ((s1.p x.c x.p st.toNat &&& ~~~stop) ||| (stop &&& ~~~conv))
             let s3 := s2.orFlags x.c x.p (x.liveFlags fun l => (test l).2)
             let s4 := if late && (x.live &&& ~~~conv) != 0#32 then
               s3.setNode x.g.node { s3.node x.g.node with missed := true } else s3
             x.branch hint target (x.live &&& on) s4))

/-- R77 to R88: JARM arms a rejoin register in which no lane has arrived, with the live lanes of its mask; JWAIT parks the expected lanes of Active
and sets the flag of the others; JDROP takes the lanes of Active out; JQRY reads the register. REGRP and UNGRP park the group or its lanes and
complete the regrouping once every participant has come, or REGRP takes the fault that a regrouping which names its group has met before it came (the
model's moment: log entry 121; which dead slots go to which participant is its choice: log entry 172); YIELD makes the fairness count due on each port
for which another entry is eligible, and where none is, the group gives up the next cycle; SLEEP keeps its entry from issuing for the count in cycles
or nanoseconds, none for a count of 0. -/
def Obligations.RejoinAndRegroupResults : Prop :=
  (∀ (s : State) (n : Issuer) (g : Guard) (j sa sb sd pd : BitVec 8) (mask : BitVec 32) (k : BitVec 3) (sel : BitVec 2) (ns : Bool),
    let x := s.ctx n g
    let r := s.jreg x.c x.p j.toNat
    let park := if r.armed then x.live &&& r.exp else 0#32
    let flagged := s.setP x.c x.p pd.toNat (s.p x.c x.p pd.toNat ||| (x.active &&& ~~~park))
    let arm := fun (m : Word) (tmo : Nat) (ns : Bool) =>
      ({ armed := m &&& x.g.liveMask != 0#32, exp := m &&& x.g.liveMask, arr := 0#32, tmo := tmo, ns := ns } : JReg)
    (s.runs n (.jarm g j sa sb ns) → x.live ≠ 0#32 → r.arr = 0#32 → exec (.jarm g j sa sb ns) s =
      .next ((s.setJreg x.c x.p j.toNat (arm (x.sreg s sa) (max 64 (min (x.sreg s sb).toNat (2 ^ 24 - 1))) ns)).advance n)) ∧
    (s.runs n (.jarmL g j mask k) → x.live ≠ 0#32 → r.arr = 0#32 → exec (.jarmL g j mask k) s =
      .next ((s.setJreg x.c x.p j.toNat (arm mask (256 * 4 ^ k.toNat) false)).advance n)) ∧
    (s.runs n (.jwait g pd j) → park = 0#32 → exec (.jwait g pd j) s = .next (flagged.advance n)) ∧
    (s.runs n (.jwait g pd j) → park ≠ 0#32 → exec (.jwait g pd j) s =
      .next (let pos := nextPos x.e.hdr x.e.idx n.count
             let h := flagged.grp x.c x.p
             let rest := { x.e with mask := x.e.mask &&& ~~~park }
             let t := flagged.setGrp x.c x.p { h with
               frontier := replaceAt h.frontier n.ent (if rest.mask == 0#32 then [] else [flagged.stepEntry x.c x.p n.count rest]),
               parked := addPark h.parked { kind := .jwait, mask := park, hdr := pos.1, idx := pos.2, j := j.toNat, pd := pd.toNat,
                                            src := x.pc } }
             (t.setJreg x.c x.p j.toNat { r with arr := r.arr ||| park, timing := true,
                                                 left := if r.timing then r.left else r.tmo }).checkJ x.c x.p j.toNat)) ∧
    (s.runs n (.jdrop g j) → exec (.jdrop g j) s = .next ((s.advance n).dropJ x.c x.p j.toNat x.live)) ∧
    (s.runs n (.jqry g sd j sel) → x.live ≠ 0#32 → exec (.jqry g sd j sel) s =
      .next ((x.putS sd (jqryValue r sel.toNat) s).advance n))) ∧
  (∀ (s : State) (n : Issuer) (g : Guard) (sa pb : BitVec 8) (num : BitVec 32) (ns : Bool),
    let x := s.ctx n g
    let h := s.grp x.c x.p
    let pos := nextPos x.e.hdr x.e.idx n.count
    let freed := s.setGrp x.c x.p { h with frontier := h.frontier.set n.ent { x.e with holding := false } }
    let gone := s.setGrp x.c x.p { h with
      frontier := [], regrp := some (x.e.hdr, x.e.idx, x.sreg s sa, pb.toNat),
      parked := [{ kind := .regrp, mask := x.e.mask, hdr := pos.1, idx := pos.2, src := x.pc }] }
    let due := (List.range 8).filter fun cls => (freed.eligibles x.c x.p cls).any (· != n.ent)
    let sleep := fun (k : Nat) =>
      if min k (2 ^ 24 - 1) = 0 then s
      else if ns then (x.hold [.sleepUntil (s.dtime + min k (2 ^ 24 - 1))] s).timer false (s.dtime + min k (2 ^ 24 - 1)) .sleepExpiry [x.c, x.p]
      else x.hold [.sleepCycles (min k (2 ^ 24 - 1))] s
    (s.runs n (.regrp g sa pb) → h.frontier.length = 1 → h.parked = [] → s.scoreboardEmpty x.c x.p = true →
      (∀ o ∈ (s.blkAt x.c h.slot).owed, o.1.getLsbD h.bgrp = false) →
      exec (.regrp g sa pb) s = .next (gone.regrpCheck x.c x.p)) ∧
    (s.runs n (.ungrp g sa) → (s.blkAt x.c h.slot).regroups.contains (x.sreg s sa) = true → (x.sreg s sa).getLsbD h.bgrp = true →
      exec (.ungrp g sa) s = .next ((s.setGrp x.c x.p { h with
        frontier := replaceAt h.frontier n.ent (if x.e.mask &&& ~~~x.live == 0#32 then []
          else [s.stepEntry x.c x.p n.count { x.e with mask := x.e.mask &&& ~~~x.live }]),
        parked := addPark h.parked { kind := .ungrp, mask := x.live, hdr := pos.1, idx := pos.2, src := x.pc } }).ungrpCheck
          x.c h.slot (x.sreg s sa))) ∧
    (s.runs n (.yield g) → x.live ≠ 0#32 → exec (.yield g) s =
      .next ((s.setGrp x.c x.p (if due.isEmpty then { h with giveUp := s.cycle + 2 }
        else { h with rotate := h.rotate ||| due.foldl (fun m cls => m + 2 ^ cls) 0 })).advance n)) ∧
    (s.runs n (.sleep g sa ns) → x.live ≠ 0#32 → exec (.sleep g sa ns) s = .next ((sleep (x.sreg s sa).toNat).advance n)) ∧
    (s.runs n (.sleepL g num ns) → x.live ≠ 0#32 → exec (.sleepL g num ns) s = .next ((sleep num.toNat).advance n)) ∧
    (∀ code : Nat, s.runs n (.regrp g sa pb) → h.frontier.length = 1 → h.parked = [] → s.scoreboardEmpty x.c x.p = true →
      (gone.takeOwed x.c x.p).1 = some code →
      exec (.regrp g sa pb) s = .next ((gone.takeOwed x.c x.p).2.regrpFault x.c x.p code)))

/-- R17, R181, R184 to R190: a load, store or atomic of translated memory whose elements are all aligned and mapped, whose writes touch no
running code, and for whose lines the core has line requests left, answers a next state with one access for each live lane of Active that
sr.emask has not recorded, the lanes of its entry then cleared in sr.emask; under DET a store or atomic adds to the digest. LDK makes one
access for its group, and PREF takes a lease for each line in device memory that L1 does not hold in force and no pin takes. -/
def Obligations.MemoryAccessResults : Prop :=
  ∀ (s : State) (n : Issuer) (g : Guard) (data base idx opd cmp : BitVec 8) (form nl1 : BitVec 2) (w aop : BitVec 4) (scope : BitVec 3)
    (w64 : Bool) (ofs : BitVec 14) (ofa : BitVec 10) (pa : Nat → Nat),
    let x := s.ctx n g
    let at_ := fun l => x.addr s form base idx ofs l
    let ata := fun l => x.addr s form base 0#8 ofa l
    let na := if w64 then 8 else 4
    let maps := fun (write : Bool) (va : Nat → DWord) (m : Nat) => ∀ l ∈ x.todo,
      s.translate x.c (s.launchOf x.c x.p).context { write := write, handler := x.g.handler } (va l) = .ok (pa l) ∧
      (write = true → s.holdsCode (pa l) m = false)
    let lines := (lanesOf x.live).filterMap fun l => match x.elemPhys false (at_ l) s with
      | .error _ => none
      | .ok pa => some pa
    let makes := fun (as : Nat → Access) =>
      let t := (x.todo.foldl (fun t l => t.digestAccess x l (as l)) s).addAccesses (x.todo.map as)
      t.setGrp x.c x.p { t.grp x.c x.p with emask := (t.grp x.c x.p).emask &&& ~~~x.e.mask }
    let room := fun (as : Nat → Access) => s.linesFull x.c (linesOf (x.todo.map as)) = false
    let load := fun (l : Nat) => ({ x.baseAccess s with
      lane := l, pa := pa l, n := widthBytes w, dest := .vec (x.g.placeOf x.p l) data.toNat, sext := signedWidth w, nl1 := nl1 == 1#2,
      addr := at_ l } : Access)
    let wload := fun (k : Nat → Fwin) (l : Nat) => ({ x.baseAccess s with
      lane := l, pa := pa l, n := (k l).size, dest := .vec (x.g.placeOf x.p l) data.toNat, sext := false, nl1 := nl1 == 1#2,
      addr := at_ l,
      win := some ((k l).fmt, if (k l).scl then some ((k l).scale + 4 * ((pa l - (k l).lo) / (k l).size / 128)) else none) } : Access)
    let store := fun (l : Nat) => ({ x.baseAccess s with
      lane := l, kind := .store, pa := pa l, n := widthBytes w, data := x.laneBytes s l (widthBytes w) data.toNat, nl1 := nl1 == 1#2,
      addr := at_ l, afterRel := s.gatesOf x.c x.p x.e.mask } : Access)
    let atomic := fun (l : Nat) => ({ x.baseAccess s with
      lane := l, kind := .atomic aop.toNat, pa := pa l, n := na, data := x.opdBytes s w64 opd l, cmp := x.opdBytes s w64 cmp l,
      dest := .vec (x.g.placeOf x.p l) data.toNat, scope := scope.toNat, addr := ata l,
      afterRel := s.gatesOf x.c x.p x.e.mask } : Access)
    (s.runs n (.ld g data base idx form w nl1 ofs) → x.live ≠ 0#32 → w ≠ 7#4 → maps false at_ 0 →
      (∀ l ∈ x.todo, (at_ l).toNat % widthBytes w = 0) → room load → exec (.ld g data base idx form w nl1 ofs) s =
      .next ((makes load).advance n)) ∧
    (∀ k : Nat → Fwin, s.runs n (.ld g data base idx form 7#4 nl1 ofs) → x.live ≠ 0#32 → maps false at_ 0 →
      (∀ l ∈ x.todo, s.windowAt (pa l) = some (k l) ∧ pa l % (k l).size = 0) → room (wload k) →
      exec (.ld g data base idx form 7#4 nl1 ofs) s = .next ((makes (wload k)).advance n)) ∧
    (s.runs n (.st g data base idx form w nl1 ofs) → x.live ≠ 0#32 → maps true at_ (widthBytes w) →
      (∀ l ∈ x.todo, (at_ l).toNat % widthBytes w = 0) → room store → exec (.st g data base idx form w nl1 ofs) s =
      .next ((makes store).advance n)) ∧
    (s.runs n (.atom g data base opd cmp form aop scope w64 ofa) → x.live ≠ 0#32 → maps true ata na →
      (∀ l ∈ x.todo, (ata l).toNat % na = 0) → room atomic → exec (.atom g data base opd cmp form aop scope w64 ofa) s =
      .next ((makes atomic).advance n)) ∧
    (s.runs n (.ldk g data base w ofs) → x.live ≠ 0#32 → w ≠ 7#4 →
      s.translate x.c (s.launchOf x.c x.p).context { handler := x.g.handler } (x.addr s 0#2 base 0#8 ofs 0) = .ok (pa 0) →
      (x.addr s 0#2 base 0#8 ofs 0).toNat % widthBytes w = 0 → s.linesFull x.c 1 = false → exec (.ldk g data base w ofs) s =
      .next ((s.addAccesses [{ x.baseAccess s with
        lane := 32, pa := pa 0, n := widthBytes w, dest := .scalar data.toNat, sext := signedWidth w, nl1 := false,
        addr := x.addr s 0#2 base 0#8 ofs 0 }]).advance n)) ∧
    (s.runs n (.pref g base idx form 1#2 ofs) → s.linesFull x.c (lines.map lineOf).eraseDups.length = false →
      exec (.pref g base idx form 1#2 ofs) s = .next (s.advance n)) ∧
    (s.runs n (.pref g base idx form 0#2 ofs) → s.linesFull x.c (lines.map lineOf).eraseDups.length = false →
      exec (.pref g base idx form 0#2 ofs) s = .next (State.advance (if s.loadsFree x.c x.p x.e.mask then
        lines.foldl (fun t a =>
          if windowOf a == some .device && (t.pinOf (lineOf a)).isNone &&
              !(t.l1.any fun y => y.core == t.l1Of x.c (lineOf a) && y.line == lineOf a && t.dtime + 2 < y.expiry) then
            t.grantLease x.c (lineOf a) else t) s
        else s) n))

/-- R17, R176, R177, R187, R190: an access of the slice or of the private window that is in range, aligned and free to act, for whose private lines
the core has line requests left, answers a next state:
LDS, LDP the loaded words in the lanes' registers, STS, STP the stored bytes (STP where none of them is running code), ATOMS both, lanes in ascending
order. That the access is performed at issue is the model's reading: log entry 24. -/
def Obligations.PoolAccessResults : Prop :=
  ∀ (s : State) (n : Issuer) (g : Guard) (data base opd cmp : BitVec 8) (form : BitVec 2) (w aop : BitVec 4) (scope : BitVec 3)
    (w64 : Bool) (ofs : BitVec 14) (ofa : BitVec 10),
    let x := s.ctx n g
    let b := (s.scrSlice x.c x.g.slot).1
    let at_ := x.poolAddr s form base ofs
    let ata := x.poolAddr s form base ofa
    let idx := x.winIndex s form base ofs
    let na := if w64 then 8 else 4
    (s.runs n (.lds g data base form w ofs) → x.sliceFault false (widthBytes w) at_ s = none →
      s.loadsFree x.c x.p x.e.mask = true → x.sliceHeld false (widthBytes w) at_ s = false → exec (.lds g data base form w ofs) s =
      .next (((lanesOf x.live).foldl (fun t l => t.setVs x.c x.p l data.toNat
        (loadWords (s.poolBytes x.c (b + (at_ l).toNat) (widthBytes w)) (signedWidth w))) s).advance n)) ∧
    (s.runs n (.sts g data base form w ofs) → x.sliceFault true (widthBytes w) at_ s = none →
      s.storesFree x.c x.p x.e.mask = true → x.sliceHeld true (widthBytes w) at_ s = false → exec (.sts g data base form w ofs) s =
      .next (((lanesOf x.live).foldl (fun t l =>
        t.setPoolBytes x.c (b + (at_ l).toNat) (x.laneBytes s l (widthBytes w) data.toNat)) s).wakeWaits.advance n)) ∧
    (s.runs n (.atoms g data base opd cmp form aop scope w64 ofa) → x.sliceFault true na ata s = none →
      s.storesFree x.c x.p x.e.mask = true → x.sliceHeld true na ata s = false →
      exec (.atoms g data base opd cmp form aop scope w64 ofa) s =
      .next (((lanesOf x.live).foldl (fun t l =>
        let a := b + (ata l).toNat
        let old := t.poolBytes x.c a na
        let new := atomicNew aop.toNat na (leNat old) (leNat (x.opdBytes s w64 opd l)) (leNat (x.opdBytes s w64 cmp l))
        (t.setPoolBytes x.c a (leBytes na new)).setVs x.c x.p l data.toNat (loadWords old false)) s).wakeWaits.advance n)) ∧
    (s.runs n (.ldp g data base form ofs) → (∀ l ∈ lanesOf x.live, idx l < (s.launchOf x.c x.p).priv) →
      s.loadsFree x.c x.p x.e.mask = true → s.linesFull x.c (x.privLines s idx) = false → x.privPinned s idx false = [] → exec (.ldp g data base form ofs) s =
      .next ((x.allDone (x.todo.foldl (fun t l => t.setV x.c x.p l data.toNat
        (leWord ((List.range 4).map fun k => s.privByte x.c (s.privAddr x.c x.p l (idx l) + k)))) s)).advance n)) ∧
    (s.runs n (.stp g data base form ofs) → (∀ l ∈ lanesOf x.live, idx l < (s.launchOf x.c x.p).priv) →
      s.storesFree x.c x.p x.e.mask = true → s.linesFull x.c (x.privLines s idx) = false → x.privPinned s idx true = [] →
      (∀ l ∈ x.todo, s.holdsCode (s.privAddr x.c x.p l (idx l)) 4 = false) → exec (.stp g data base form ofs) s =
      .next ((x.allDone (x.todo.foldl (fun t l => t.setPrivWord x.c x.p (s.privAddr x.c x.p l (idx l))
        ((s.launchOf x.c x.p).l1 != 0) (s.v x.c x.p l data.toNat)) s)).advance n))

/-- R172, R173, R182: XLAT gives the translation of each lane's address; XACQ grants steps that fit the reserve when no request waits, and
writes the new count (XACQ.try also while others wait: the model's choice, log entry 37); XREL gives back steps that the group holds once no write
to their registers is pending, and the space goes to the requests that wait. -/
def Obligations.TranslationAndExtensionResults : Prop :=
  ∀ (s : State) (n : Issuer) (g : Guard) (d a : VS) (sd sa : BitVec 8) (tr : Bool),
    let x := s.ctx n g
    let k := (x.sreg s sa).toNat
    (s.runs n (.xlat g d a) → exec (.xlat g d a) s =
      .next ((x.put64 d (fun l => s.xlatOf x.c (s.launchOf x.c x.p).context (x.src64 s a l)) s).advance n)) ∧
    (s.runs n (.xacq g sd sa tr) → x.live ≠ 0#32 → x.e.note = [] → 1 ≤ k → k ≤ 7 → x.g.count + 32 * k ≤ 256 →
      4096 * k ≤ s.reserve x.c x.p → 4096 * k ≤ s.reserveFree x.c x.p → tr = true ∨ s.xwaiting x.c = [] →
      exec (.xacq g sd sa tr) s = .next ((x.grant sd k s).advance n)) ∧
    (s.runs n (.xrel g sa) → x.live ≠ 0#32 → 1 ≤ k → k ≤ x.g.ext →
      (∀ r ∈ s.pendingV x.c x.p, r < x.g.count - 32 * k) → exec (.xrel g sa) s =
      .next (((s.setGrp x.c x.p { s.grp x.c x.p with ext := (s.grp x.c x.p).ext - k }).advance n).afterFree x.c))

/-- R202, R220, R221, R225: FENCE starts a release and holds its entry until it and the earlier loads are done, REL gates the later stores of its
lanes, ACQ holds their later accesses behind the earlier loads at its scope; a BAR starts a release and keeps its count; one whose release is done
arrives with it, and BAR.sync observes the completion that it brings about or waits for it; DTIME and WCT read once what they wait for has gone. The
scope of BAR's release and of the acquire that follows BAR.sync, a block's, is the model's reading: log entry 136. -/
def Obligations.OrderingResults : Prop :=
  ∀ (s : State) (n : Issuer) (g : Guard) (a : VS) (sd : BitVec 8) (scope : BitVec 3) (k : BitVec 4) (sync cnt ord : Bool) (id count : Nat),
    let x := s.ctx n g
    let loads := s.earlierLoads x.g.uid
    let rel := fun (sc : Nat) => s.startRelease x.c x.p sc
    let b := aget {} (s.blkAt x.c x.g.slot).bars k.toNat
    let want := if cnt then some count else none
    (s.runs n (.fence g scope) → x.live ≠ 0#32 → exec (.fence g scope) s =
      .next ((x.hold (if loads.isEmpty then [.release (rel scope.toNat).1] else [.release (rel scope.toNat).1, .accesses loads])
        (rel scope.toNat).2).advance n)) ∧
    (s.runs n (.rel g scope) → x.live ≠ 0#32 → exec (.rel g scope) s =
      .next (let t := (rel scope.toNat).2
             let h := t.grp x.c x.p
             (t.setGrp x.c x.p { h with
               gates := (h.gates.filter fun q => t.relOpen q.2) ++ [(x.e.mask, (rel scope.toNat).1)] }).advance n)) ∧
    (s.runs n (.acq g scope) → x.live ≠ 0#32 → exec (.acq g scope) s =
      .next (State.advance (match loads with
        | [] => s
        | ids => s.setGrp x.c x.p { s.grp x.c x.p with
            acqs := ((s.grp x.c x.p).acqs.filter fun (q : Word × Nat × List Nat) => q.2.2.any s.undone) ++ [(x.e.mask, scope.toNat, ids)] }) n)) ∧
    (s.runs n (.bar g a k sync cnt) → x.live ≠ 0#32 → x.g.handler = false → x.e.note = [] →
      (cnt = true → 1 ≤ (x.sreg s a.n).toNat ∧ (x.sreg s a.n).toNat ≤ 32) → exec (.bar g a k sync cnt) s =
      .next (Res.settle n (.wait (x.remember [0xF8, (rel 2).1, (x.sreg s a.n).toNat] (rel 2).2) 5))) ∧
    (s.runs n (.bar g a k sync cnt) → x.live ≠ 0#32 → x.g.handler = false → x.e.note = [0xF8, id, count] → s.relOpen id = false →
      s.storesFree x.c x.p x.e.mask = true → b.arr.getLsbD x.g.bgrp = false → (b.arr = 0#32 ∨ b.explicit = want) →
      exec (.bar g a k sync cnt) s =
      .next (let b' : Bar := { b with arr := b.arr ||| bitMask x.g.bgrp, explicit := want }
             let k' := s.blkAt x.c x.g.slot
             let t := s.setBlk x.c x.g.slot { k' with bars := aset {} k'.bars k.toNat b' }
             let h := t.grp x.c x.p
             let t := t.setGrp x.c x.p { h with arrivals := aset 0 h.arrivals k.toNat (b'.phases + 1) }
             let t := t.barCheck x.c x.g.slot k.toNat
             (if sync = false then t
              else if b'.phases < (aget {} (t.blkAt x.c x.g.slot).bars k.toNat).phases then x.acquire 2 t
              else x.hold [.barrier k.toNat b'.phases] t).advance n)) ∧
    (s.runs n (.dtime g sd ord) → x.live ≠ 0#32 → (ord = true → x.e.note = [] ∧ s.openAll x.g.uid = []) →
      exec (.dtime g sd ord) s = .next ((x.putS64 sd (BitVec.ofNat 64 s.dtime) s).advance n)) ∧
    (s.runs n (.wct g sd) → x.live ≠ 0#32 → x.e.note = [] → s.openStores x.g.uid = [] →
      exec (.wct g sd) s = .next ((x.putS64 sd (BitVec.ofNat 64 (s.grp x.c x.p).wct) s).advance n))

/-- R222 to R224: on an aligned word of the slice, BOINIT tags and sets an object or removes its tag, BOARR, whose release is done, adds the bytes and
arrives at the offset that it read as it issued, in the slice's order at that moment (the model's reading: log entry 163), BOWAIT goes on where the
phase has ended and otherwise waits for it, BOTRY asks for it; FWAIT gives the word that it reads when the test holds, or when its time has passed,
and a copy of the word's line in the core's cache then holds what was read. That B of BOARR.tx is unsigned is the model's reading (log entry 18), and
so are the scopes of the acquires: a block's of BOWAIT and BOTRY, the device's of FWAIT (log entry 136). -/
def Obligations.BarrierObjectResults : Prop :=
  ∀ (s : State) (n : Issuer) (g : Guard) (b : VS) (sd sa sb sc : BitVec 8) (cc : BitVec 4) (tx slice : Bool) (id ofs0 count0 pa : Nat) (v : Word)
    (o : BarObj),
    let x := s.ctx n g
    let ofs := (x.sreg s sa).toNat
    let q := s.scrSlice x.c x.g.slot
    let a := q.1 + ofs
    let a0 := q.1 + ofs0
    let reaches := fun (ofs : Nat) => scrFault q.2 ofs 8 8 = none ∧ s.engineHold x.g.uid s.nextId true true (q.1 + ofs) 8 = false
    let reach := reaches ofs
    let count := (x.sreg s b.n).toNat
    let fresh := if slice then s else s.freshenCopy x.c (lineOf pa)
    (s.runs n (.boinit g sa b false) → x.live ≠ 0#32 → s.storesFree x.c x.p x.e.mask = true → reach →
      (s.tagged x.c a && s.objWaiters x.c x.g.slot a) = false → 1 ≤ count → count ≤ 32767 →
      exec (.boinit g sa b false) s =
      .next (((if s.tagged x.c a then s else { s with tags := s.tags ++ [poolKey x.c a] }).setPoolBytes x.c a
        (BarObj.image { phase := false, expect := BitVec.ofNat 15 count, pend := BitVec.ofNat 15 count, bytes := 0 })).wakeWaits.advance n)) ∧
    (s.runs n (.boinit g sa b true) → x.live ≠ 0#32 → s.storesFree x.c x.p x.e.mask = true → reach →
      (s.tagged x.c a && s.objWaiters x.c x.g.slot a) = false → exec (.boinit g sa b true) s =
      .next (State.advance { s with tags := s.tags.filter (· != poolKey x.c a) } n)) ∧
    (s.runs n (.boarr g sd sa b tx) → x.live ≠ 0#32 → x.e.note = [0xA8, id, ofs0, count0] → s.relOpen id = false →
      s.storesFree x.c x.p x.e.mask = true → reaches ofs0 → s.tagged x.c a0 = true →
      (s.barObj x.c a0).arrive (if tx then (count0 : Int) else 0) 1 = some o → exec (.boarr g sd sa b tx) s =
      .next ((x.putS sd (BitVec.ofNat 32 (boolNat (s.barObj x.c a0).phase)) (s.setBarObj x.c a0 o)).advance n)) ∧
    (s.runs n (.bowait g sa sb) → x.live ≠ 0#32 → s.loadsFree x.c x.p x.e.mask = true → reach → s.tagged x.c a = true →
      exec (.bowait g sa sb) s = .next ((if (s.barObj x.c a).phase != (x.sreg s sb).getLsbD 0 then x.acquire 2 s
        else x.hold [.object a ((x.sreg s sb).getLsbD 0)] s).advance n)) ∧
    (s.runs n (.botry g sd sa sb) → x.live ≠ 0#32 → s.loadsFree x.c x.p x.e.mask = true → reach → s.tagged x.c a = true →
      exec (.botry g sd sa sb) s =
      .next ((if (s.barObj x.c a).phase != (x.sreg s sb).getLsbD 0 then x.putS sd 1#32 (x.acquire 2 s) else x.putS sd 0#32 s).advance n)) ∧
    (s.runs n (.fwait g sd sa sb sc cc slice) → x.live ≠ 0#32 → x.e.note = [] → fwaitAddr sa slice x s = .ok pa →
      s.loadsFree x.c x.p x.e.mask = true → (slice = false → s.ownPending x.g.uid pa 4 = false ∧ s.linesFull x.c 1 = false ∧
        s.pinnedLines x.c pa 4 = []) →
      (slice = true → s.engineHold x.g.uid s.nextId true false pa 4 = false) → fwaitWord slice x pa s = v →
      (intCmp cc.toNat v (x.sreg s sb) = true ∨ (x.sreg s sc).toNat = 0) → exec (.fwait g sd sa sb sc cc slice) s =
      .next ((x.putS sd v (if intCmp cc.toNat v (x.sreg s sb) then x.acquire 6 fresh else fresh)).advance n))

/-- R143, R146, R161, R228: VCHAIN with a well-formed descriptor of at least one element, a free chain and a free token puts its chain in flight with
its token pending, and of no element writes a token of zero, the descriptor read at its home and copies of its lines in L1 made new (the model's
reading: log entry 25); HRING whose 13 lines have arrived and form a valid table hands it to the slot's commit, 16 cycles later. -/
def Obligations.ChainAndRingLoadResults : Prop :=
  ∀ (s : State) (n : Issuer) (g : Guard) (sd sa : BitVec 8) (k : BitVec 2) (ofs : BitVec 25) (b : List Byte) (as : List Access)
    (ps : List (Nat × Nat)),
    let x := s.ctx n g
    let f := s.freshenPieces x.c ps
    let d := chainDesc b
    let free := x.g.tokens.length < 16 ∧ ∀ h ∈ s.chains, h.core ≠ x.c ∨ h.part ≠ partOf x.p
    let addr := x.sreg64 s sa
    let ids := as.map (·.id)
    let t := as.flatMap (·.value)
    let core := s.core x.c
    let r := aget {} core.slots k.toNat
    (s.runs n (.vchain g sd sa) → x.live ≠ 0#32 → free → addr.toNat % 128 = 0 → x.reads s addr 128 b ps →
      s.engineFrozen x.c 1 = false → d.bad b = false → d.n ≠ 0 → d.overlap = false → exec (.vchain g sd sa) s =
      .next (let h : Chain := { toEng := x.engine d.foot f, part := partOf x.p, token := sd.toNat, desc := b }
             ((x.countAsync (x.openToken sd { f with nextId := f.nextId + 1, chains := f.chains ++ [h] })).post .chainCompletion
               [x.c, partOf x.p]).advance n)) ∧
    (s.runs n (.vchain g sd sa) → x.live ≠ 0#32 → free → addr.toNat % 128 = 0 → x.reads s addr 128 b ps →
      s.engineFrozen x.c 1 = false → d.bad b = false → d.n = 0 → exec (.vchain g sd sa) s = .next ((x.putS sd 0#32 f).advance n)) ∧
    (s.runs n (.hring g sa k ofs) → x.live ≠ 0#32 → x.e.note = 0xA7 :: k.toNat :: ids → (∀ a ∈ as, s.access a.id = some a ∧ a.done = true) →
      ringValid t = true → exec (.hring g sa k ofs) s =
      .next (let q : State := { s with accesses := s.accesses.filter fun a => !ids.contains a.id }
             let r' := { r with loading := r.loading ++ [(x.g.uid, x.g.node, t)] }
             let q := q.setCore x.c { core with slots := aset {} core.slots k.toNat r' }
             (q.timer true (q.cycle + 16) .ringSlotCommit [x.c, k.toNat]).advance n))

/-- R228 to R237: a copy, a strided copy and a register store with legal arguments and a free token, the request engine not frozen, go in flight with
their token pending; KICK queues its cards in order; KSTAT reads the block's record and the number of its unfinished cards. The order of the words of
a register store is the model's reading, log entry 155, and that KSTAT.clr clears the card's number in the record too is its choice, log entry 165. -/
def Obligations.CopyAndCardResults : Prop :=
  ∀ (s : State) (n : Issuer) (g : Guard) (sd sa sb sc vb : BitVec 8) (sp : BitVec 2) (clr : Bool),
    let x := s.ctx n g
    let start := (fun (o : AsyncOp) =>
      let t := x.openToken sd { s with nextId := s.nextId + 1, ops := s.ops ++ [o] }
      (if o.dst.scr then t else x.countAsync t).post .asyncCompletion [o.id])
    let dscr := sp.getLsbD 0
    let sscr := sp.getLsbD 1
    let base := (s.scrSlice x.c x.g.slot).1
    let size := (s.scrSlice x.c x.g.slot).2
    let d := x.copyOperand s dscr sa
    let a := x.copyOperand s sscr sb
    let op := fun (rows width : Nat) (dstr sstr : Int) =>
      ({ toEng := x.engine [copyFoot false sscr base a rows width sstr, copyFoot true dscr base d rows width dstr] s, token := sd.toNat,
         dst := { scr := dscr, addr := (if dscr then base else 0) + d }, src := { scr := sscr, addr := (if sscr then base else 0) + a },
         rows := rows, width := width, dstr := dstr, sstr := sstr } : AsyncOp)
    let c := fun (k : Nat) => s.sr x.c x.p (sc.toNat + k)
    let len := (x.sreg s sc).toNat
    let addr := x.sreg64 s sa
    let ofs := (x.sreg s sa).toNat
    let count := (x.sreg s sb).toNat
    let cards := (List.range count).map fun k => s.poolBytes x.c (base + ofs + 64 * k) 64
    let blk := s.blkAt x.c x.g.slot
    let left := (s.cards.filter fun k => k.node == x.g.node && k.blk == blk.blk && k.copy.isNone).length
    (s.runs n (.acopy g sd sa sb sc sp) → x.live ≠ 0#32 → copyBad size dscr sscr d a 1 len len len = false → x.g.tokens.length < 16 →
      s.engineFrozen x.c 3 = false → exec (.acopy g sd sa sb sc sp) s = .next ((start (op 1 len len len)).advance n)) ∧
    (s.runs n (.acopyt g sd sa sb sc sp) → x.live ≠ 0#32 → (c 1).toNat ≤ 65536 →
      copyBad size dscr sscr d a (c 0).toNat (c 1).toNat (c 2).toInt (c 3).toInt = false → x.g.tokens.length < 16 →
      s.engineFrozen x.c 3 = false → exec (.acopyt g sd sa sb sc sp) s = .next ((start (op (c 0).toNat (c 1).toNat (c 2).toInt (c 3).toInt)).advance n)) ∧
    (s.runs n (.asto g sd sa vb sc) → x.live ≠ 0#32 → len ≠ 0 → len ≤ 8 → addr.toNat % 128 = 0 →
      x.g.tokens.length < 16 → s.engineFrozen x.c 3 = false → exec (.asto g sd sa vb sc) s =
      .next ((start { toEng := x.engine [(true, false, addr.toNat % 2 ^ 57, 128 * len)] s, token := sd.toNat,
                      dst := { addr := addr.toNat % 2 ^ 57 },
                      words := (List.range len).flatMap fun k =>
                        (lanesOf x.live).map fun l => (128 * k + 4 * l, s.v x.c x.p l (vb.toNat + k)) }).advance n)) ∧
    (s.runs n (.kick g sa sb) → x.live ≠ 0#32 → ofs % 64 = 0 → count ≠ 0 → count ≤ 256 → s.loadsFree x.c x.p x.e.mask = true →
      s.engineHold x.g.uid s.nextId true false (base + ofs) (64 * count) = false → s.engineFrozen x.c 3 = false → ofs + 64 * count ≤ size →
      (∀ b ∈ cards, s.cardBad x.c x.g.slot b = false) → (s.cards.filter (·.core == x.c)).length + count ≤ 1024 →
      exec (.kick g sa sb) s = .next ((x.queueCards base cards s).advance n)) ∧
    (s.runs n (.kstat g sd clr) → x.live ≠ 0#32 → exec (.kstat g sd clr) s =
      .next (let v := match blk.cardFlt with
               | none => left
               | some f => 2 ^ 31 + f.1 * 2 ^ 24 + f.2 * 2 ^ 16 + left
             let t := x.putS sd (BitVec.ofNat 32 v) s
             (if clr then t.setBlk x.c x.g.slot { blk with cardFlt := none } else t).advance n))

/-- R239 to R245: GHND whose descriptor has arrived takes the lowest free handle, and GHND.free frees one of its launch; GATH through a RAW or
WIN handle and SCAT, with every index in range and no element at a peer, begin one access for each lane that is left; GATH through a DELTA handle
writes the lanes' elements once their blocks have been read, and a GATH or SCAT with elements at a peer has its effect once all have been
performed; each then clears the mask of performed lanes. GCMR and GCMW read and write that mask. -/
def Obligations.HandleGatherAndScatterResults : Prop :=
  ∀ (s : State) (n : Issuer) (g : Guard) (vd sd sa vb vc : BitVec 8) (c : VS) (nf bs code : Bool) (a : Access) (k k1 k3 : Nat) (pa : Nat → Nat)
    (acc : Nat → Access) (word : Nat → Word) (ids : List Nat),
    let x := s.ctx n g
    let num := (x.sreg s sa).toNat
    let h := s.handle x.c num
    let d := descOf h.desc
    let i := fun (l : Nat) => (s.v x.c x.p l vb.toNat).toNat + if bs then (x.sreg s c.n).toNat else 0
    let j := fun (l : Nat) => (s.v x.c x.p l vb.toNat).toNat
    let mine := fun (reg : Nat) => x.e.note = [] ∧ x.live ≠ 0#32 ∧ num < 64 ∧ h.owner = some x.g.node ∧
      (d.kind = 0 → d.esz = 3 → (s.pendingV x.c x.p).contains (reg + 1) = false)
    let at_ := fun (i : Nat) => d.base + BitVec.ofNat 64 (i * 2 ^ d.esz)
    let load := fun (l : Nat) => ({ x.baseAccess s with
      lane := l, dest := .vec (x.g.placeOf x.p l) vd.toNat, stip := true, pa := pa l, n := 2 ^ d.esz, addr := at_ (i l),
      sext := d.sgn == 1 } : Access)
    let store := fun (l : Nat) => ({ x.baseAccess s with
      lane := l, kind := .store, data := x.laneBytes s l (2 ^ d.esz) vc.toNat, afterRel := s.gatesOf x.c x.p x.e.mask,
      pa := pa l, n := 2 ^ d.esz, addr := at_ (j l), sext := d.sgn == 1 } : Access)
    let room := fun (as : Nat → Access) => s.linesFull x.c (linesOf (x.gathTodo.map as)) = false
    let begun := (fun (t : State) (as : List Access) => (as.foldl (fun t a => t.digestAccess x a.lane a) t).addAccesses as)
    let closed := (fun (t : State) => let h := t.grp x.c x.p
                                      t.setGrp x.c x.p { h with gmask := 0#32, gcode := if nf then 0 else h.gcode })
    let blocks := deltaOf x.e.note
    let read := blocks.2.2.filterMap s.access
    let came := ids.filterMap s.access
    let answered := x.e.note = gathNote {} none ids ∧ ∀ a ∈ came, a.done = true ∧ a.lost = false ∧ a.lane < 32
    (s.runs n (.ghnd g sd sa) → x.live ≠ 0#32 → x.e.note = [k1, a.id, k3] → s.access a.id = some a → a.done = true →
      (descOf a.value).bad a.value = false → k < 64 → (s.handle x.c k).owner = none → (∀ m < k, (s.handle x.c m).owner ≠ none) →
      exec (.ghnd g sd sa) s =
      .next ((x.putS sd (BitVec.ofNat 32 k)
        ((s.dropAccess a.id).setHandle x.c k { owner := some x.g.node, desc := a.value })).advance n)) ∧
    (s.runs n (.ghndFree g sa) → x.live ≠ 0#32 → num < 64 → h.owner = some x.g.node →
      exec (.ghndFree g sa) s = .next ((s.setHandle x.c num {}).advance n)) ∧
    (s.runs n (.gath g vd sa vb c nf bs) → mine vd.toNat → d.kind = 0 →
      (∀ l ∈ x.gathTodo, i l < d.count ∧ (at_ (i l)).toNat % 2 ^ d.esz = 0 ∧ windowOf (pa l) ≠ some .remote ∧
        s.translate x.c (s.launchOf x.c x.p).context { handler := x.g.handler } (at_ (i l)) = .ok (pa l)) → room load →
      exec (.gath g vd sa vb c nf bs) s = .next ((closed (begun s (x.gathTodo.map load))).advance n)) ∧
    (s.runs n (.gath g vd sa vb c nf bs) → mine vd.toNat → d.kind = 1 →
      (∀ l ∈ x.gathTodo, x.gathElem d vd.toNat (i l) l s = .access (acc l) ∧ windowOf (acc l).pa ≠ some .remote) → room acc →
      exec (.gath g vd sa vb c nf bs) s = .next ((closed (begun s (x.gathTodo.map acc))).advance n)) ∧
    (s.runs n (.gath g vd sa vb c nf bs) → x.e.note.head? = some 0xA6 → x.e.note.getD 1 0 = 64 →
      (∀ q ∈ blocks.2.1, q.1 < 32 ∧ x.deltaElem blocks.1 read q.2 s = .word (word q.1)) →
      exec (.gath g vd sa vb c nf bs) s =
      .next ((closed (blocks.2.1.foldl (fun t q => t.setV x.c x.p q.1 vd.toNat (word q.1))
        (read.foldl (fun t a => t.dropAccess a.id) s))).advance n)) ∧
    (s.runs n (.gath g vd sa vb c nf bs) → answered → (∀ a ∈ came, a.kind = .load) →
      exec (.gath g vd sa vb c nf bs) s = .next ((closed (came.foldl (fun t a => t.deliver a) s)).advance n)) ∧
    (s.runs n (.scat g sa vb vc nf) → mine vc.toNat → d.kind = 0 →
      (∀ l ∈ x.gathTodo, j l < d.count ∧ (at_ (j l)).toNat % 2 ^ d.esz = 0 ∧ windowOf (pa l) ≠ some .remote ∧
        s.holdsCode (pa l) (2 ^ d.esz) = false ∧
        s.translate x.c (s.launchOf x.c x.p).context { write := true, handler := x.g.handler } (at_ (j l)) = .ok (pa l)) → room store →
      exec (.scat g sa vb vc nf) s = .next ((closed (begun s (x.gathTodo.map store))).advance n)) ∧
    (s.runs n (.scat g sa vb vc nf) → answered → (∀ a ∈ came, a.kind = .store) →
      exec (.scat g sa vb vc nf) s = .next ((closed (came.foldl (fun t a => (t.digestAccess x a.lane a).settleStore a) s)).advance n)) ∧
    (s.runs n (.gcmr g sd code) → x.live ≠ 0#32 → exec (.gcmr g sd code) s =
      .next ((x.putS sd (if code then BitVec.ofNat 32 (x.g.gcode % 128) else x.g.gmask) s).advance n)) ∧
    (s.runs n (.gcmw g sa) → x.live ≠ 0#32 → exec (.gcmw g sa) s =
      .next ((s.setGrp x.c x.p { s.grp x.c x.p with gmask := x.sreg s sa }).advance n))

/-- R256 to R263: MBQ names the group's quarter registers and its set; MZERO and MLOOP bind an accumulator of a free bank, MZERO with zeros,
MLOOP with its loop in the sequencer; MMA of the last group of a set to arrive puts the steps of the whole set in the sequencer, and every
waiting entry goes on; MMASK reads the rows' mask; MSTAT reads the accumulator's status, and clears its record under .clr. That MLOOP.m takes the mask
as it is at issue is the model's reading, log entry 47, and that every element of an accumulator that MLOOP or MMA binds is +0 is its choice, log
entry 168. -/
def Obligations.MatrixStepResults : Prop :=
  ∀ (s : State) (n : Issuer) (g : Guard) (vq va sa sb sc sd m : BitVec 8) (ta tb : BitVec 3) (f64 msk clr : Bool) (ps : List Nat)
    (reg : Nat) (mask : Word) (req : Nat → Nat × MmaReq),
    let x := s.ctx n g
    let h := s.grp x.c x.p
    let a := s.acc x.c x.p m.toNat
    let set := x.sreg s sa
    let k := popCount set
    let bound := (fun (f64 : Bool) => if a.bound then s else s.setAcc x.c x.p m.toNat { bound := true, f64 := f64, flt := a.flt })
    let room := a.bound = true ∨ s.freeBanks x.c ≠ 0
    let free := s.guideWaits x.c x.p m.toNat = false
    let r := fun (k : Nat) => s.sr x.c x.p (sc.toNat + k)
    let ofs := (x.sreg s sa).toNat
    let bits := (x.sreg s sb).toNat
    let base := (s.scrSlice x.c x.g.slot).1
    let size := (s.scrSlice x.c x.g.slot).2
    let mma : MmaReq := { n := x.g.mmaCount + 1, m := m.toNat, va := va.toNat, ta := ta.toNat, tb := tb.toNat }
    let t := x.remember mma.note s
    (s.runs n (.mbq g vq sa) → x.live ≠ 0#32 → (k = 1 ∨ k = 2 ∨ k = 4) → set.getLsbD x.g.bgrp = true →
      exec (.mbq g vq sa) s = .next ((s.setGrp x.c x.p { h with mbq := some (vq.toNat, set), mmaCount := 0 }).advance n)) ∧
    (s.runs n (.mzero g m f64) → x.live ≠ 0#32 → free → room →
      exec (.mzero g m f64) s = .next (((bound f64).setAcc x.c x.p m.toNat { bound := true, f64 := f64 }).advance n)) ∧
    (s.runs n (.mma g m va ta tb) → x.live ≠ 0#32 → x.e.note = [] → x.g.mbq = some (reg, mask) → a.flt.f = false → free →
      s.mmaOf x.c x.p = none → s.engineFrozen x.c 4 = false →
      (lanesOf mask).map (t.groupAt x.c x.g.slot) = ps.map some →
      (∀ p ∈ ps, t.mmaOf x.c p = some (req p) ∧ (req p).2.n = mma.n ∧ (req p).2.ta = mma.ta ∧ (req p).2.tb = mma.tb ∧
        ((t.grp x.c p).mbq.map (·.2)) = some mask ∧ (t.acc x.c p (req p).2.m).otherType (mma.ta == 4) = false ∧
        t.guideWaits x.c p (req p).2.m = false ∧ (t.acc x.c p (req p).2.m).flt.f = false ∧ t.mmaStalled x.c p = false) →
      ((ps.map fun p => t.acc x.c p (req p).2.m).filter fun a => !a.bound).length ≤ t.freeBanks x.c →
      exec (.mma g m va ta tb) s = .next
        ((ps.foldl (fun u p => if p = x.p then u else u.advanceEntry x.c p (req p).1) (t.issueMma x.c ps)).advance n)) ∧
    (s.runs n (.mloop g m sa sb sc ta tb msk) → x.live ≠ 0#32 → (r 0).toNat ≠ 0 → (r 0).toNat ≤ 65535 →
      (msk = true → (r 0).toNat * stepDepth ta.toNat ≤ x.g.mbits) → a.flt.f = false → a.otherType (ta == 4#3) = false →
      s.engineFrozen x.c 4 = false → free → room →
      exec (.mloop g m sa sb sc ta tb msk) s =
      .next (let u := bound (ta == 4#3)
             let u := u.setAcc x.c x.p m.toNat { u.acc x.c x.p m.toNat with flt := {} }
             let j : MJob := { toEng := x.engine [] u, m := m.toNat, loop := true, ta := ta.toNat, tb := tb.toNat, masked := msk,
                               mask := if msk then x.g.mmask else [], mbits := if msk then x.g.mbits else 0, aAddr := x.sreg64 u sa, bAddr := x.sreg64 u sb, aRow := (r 1).toInt,
                               aInc := (r 2).toInt, bRow := (r 3).toInt, bInc := (r 4).toInt, left := (r 0).toNat, pc := x.pc }
             (u.startLoop { j with foot := j.footOf (ta == 4#3) }).advance n)) ∧
    (s.runs n (.mmask g sa sb) → x.live ≠ 0#32 → 32 ≤ bits → bits ≤ 4096 → bits % 32 = 0 → scrFault size ofs (bits / 8) 4 = none →
      s.loadsFree x.c x.p x.e.mask = true → s.engineHold x.g.uid s.nextId true false (base + ofs) (bits / 8) = false →
      exec (.mmask g sa sb) s =
      .next ((s.setGrp x.c x.p { h with mmask := s.poolBytes x.c (base + ofs) (bits / 8), mbits := bits }).advance n)) ∧
    (s.runs n (.mstat g sd m clr) → x.live ≠ 0#32 → exec (.mstat g sd m clr) s =
      .next (let u := x.putS sd (s.mstatOf x.c x.p m.toNat) s
             (if clr then u.setAcc x.c x.p m.toNat { a with flt := {} } else u).advance n))

/-- R262, R264, R267, R268, R271, R272: MDRAIN of a chunk below 8 writes 32 rows of the accumulator to the registers of all lanes, or to scratchpad
(that MDRAIN and MGUIDE write the registers of all 32 lanes whatever Active is, is the model's reading: log entry 46), and releases the bank under
.rel; MGUIDE whose steps are over drains the guided sum of the two twins. MTWIN whose partner waits binds the pair, and both go on; MSKETCH of an
allocated tile (log entry 162) with no earlier rank-tile work stores the mask of its columns; MSAVE suspends the loop and stores the image in 261
lines; MRSTR of a valid image without a loop binds the accumulator with the image's elements, fault record and mask (that an image which holds no
accumulator binds one, and the address of a restored record, are the model's choices, log entries 50 and 49; that the image is read at its home, and
copies of its lines in L1 made new, is its reading, log entry 25). -/
def Obligations.DrainTwinSketchSaveResults : Prop :=
  (∀ (s : State) (n : Issuer) (g : Guard) (d m sb sc sd : BitVec 8) (o : VS) (bf16 rel : Bool) (q : Nat) (r : GuideReq),
    let x := s.ctx n g
    let a := s.acc x.c x.p m.toNat
    let c := (x.sreg s sb).toNat
    let base := (s.scrSlice x.c x.g.slot).1
    let size := (s.scrSlice x.c x.g.slot).2
    let able := c ≤ 7 ∧ a.flt.f = false ∧ (bf16 = true → a.f64 = false) ∧ (rel = true → s.guideWaits x.c x.p m.toNat = false)
    let rows := (a.chunk c).map (drainRow a.f64 bf16 (x.ftz s))
    let finish := (fun (rows : List (List Word × FFlags)) (f : FFlags) (t : State) =>
      (x.release rel m.toNat t).orFlags x.c x.p (rows.foldl (fun f r => f.or r.2) f).bits)
    let toRegs := (fun (d : Nat) (ws : List (List Word)) => (ws.zipIdx).foldl (fun t r => t.setVs x.c x.p r.2 d r.1) s)
    let image := fun (ws : List (List Word)) => ws.flatMap fun r => r.flatMap fun w => leBytes 4 w.toNat
    let toSlice := (fun (ofs : Nat) (ws : List (List Word)) => (s.setPoolBytes x.c (base + ofs) (image ws)).wakeWaits)
    let open_ := fun (seq ofs : Nat) (ws : List (List Word)) => scrFault size ofs (image ws).length 4 = none ∧
      s.clobbers x.c (base + ofs) (image ws).length = false ∧ s.storesFree x.c x.p x.e.mask = true ∧
      s.engineHold x.g.uid seq true true (base + ofs) (image ws).length = false
    let pc := s.conditional x.c x.p q
    let pu := if pc = q then x.p else q
    let ac := s.acc x.c pc r.m
    let au := s.acc x.c pu r.m
    let allOver := x.e.note = r.note ∧ s.partner x.c x.p = some q ∧
      (∀ j ∈ s.mjobs, (j.uid = x.g.uid ∨ j.uid = (s.grp x.c q).uid) → j.m = r.m → r.seq ≤ j.id) ∧
      (rel = true → s.guideBefore x.c q r.m r.seq = false) ∧ (s.acc x.c x.p r.m).flt.f = false ∧
      ac.bound = true ∧ au.bound = true ∧ ac.f64 = false ∧ au.f64 = false ∧ ac.flt.f = false ∧ au.flt.f = false
    let gr := guidedRows (x.ftz s) (BitVec.ofNat 32 r.gain) ac au r.c
    let gf := gr.foldl (fun f r => r.foldl (fun f e => f.or e.2) f) ({} : FFlags)
    let gw := gr.map fun r => drainRow false bf16 (x.ftz s) (r.map (·.1.toNat))
    let finishG := (fun (t : State) => (x.release rel r.m t).orEngineFlags x.c x.p (gw.foldl (fun f r => f.or r.2) gf).bits)
    (s.runs n (.mdrain g d m sb bf16 rel) → x.live ≠ 0#32 → able →
      exec (.mdrain g d m sb bf16 rel) s = .next ((finish rows {} (toRegs d.toNat (rows.map (·.1)))).advance n)) ∧
    (s.runs n (.mdrainS g sd m sb bf16 rel) → x.live ≠ 0#32 → able → open_ s.nextId (x.sreg s sd).toNat (rows.map (·.1)) →
      exec (.mdrainS g sd m sb bf16 rel) s = .next ((finish rows {} (toSlice (x.sreg s sd).toNat (rows.map (·.1)))).advance n)) ∧
    (s.runs n (.mguide g o m sb sc bf16 rel) → x.live ≠ 0#32 → allOver → o.sc = false →
      exec (.mguide g o m sb sc bf16 rel) s = .next ((finishG (toRegs o.n.toNat (gw.map (·.1)))).advance n)) ∧
    (s.runs n (.mguide g o m sb sc bf16 rel) → x.live ≠ 0#32 → allOver → o.sc = true → open_ r.seq r.ofs (gw.map (·.1)) →
      exec (.mguide g o m sb sc bf16 rel) s = .next ((finishG (toSlice r.ofs (gw.map (·.1)))).advance n))) ∧
  (∀ (s : State) (n : Issuer) (g : Guard) (sd t sa sb sc m : BitVec 8) (rel : Bool) (q k : Nat) (b : List Byte) (pa : Nat → Nat) (ps : List (Nat × Nat)),
    let x := s.ctx n g
    let a := s.acc x.c x.p m.toNat
    let addr := x.sreg64 s sa
    let base := (s.scrSlice x.c x.g.slot).1
    let size := (s.scrSlice x.c x.g.slot).2
    let d := TDesc.of (s.tile x.c x.p t.toNat).img
    let xo := (x.sreg s sb).toNat
    let mo := (x.sreg s sd).toNat
    let nb := 4 * ceilDiv d.n 32
    let job : RJob := { toEng := x.engine [] s, what := .tzero ⟨false, 7#3⟩ 0#8 }
    let rows := elemLines 4 d.m 32 (s.poolBytes x.c (base + xo) (128 * d.m))
    let out := match s.tileVal job d with
      | .low l r => (sketch (x.ftz s) l r rows (x.sreg s sc).toNat).run {}
      | _ => (let hit := (TEnv.exceeds { f := .f32, ftz := x.ftz s } 0 (x.sreg s sc).toNat).run {}
              (List.replicate d.n hit.1, hit.2))
    let bind := [x.p, q].foldl (fun (u : State) p => u.setGrp x.c p { u.grp x.c p with bound := true, loops := 0 }) (s.unbindPair x.c x.p)
    let loop := (s.mjobs.filter fun j => j.uid == x.g.uid && j.m == m.toNat).head?
    let m0 := match loop with
      | some j => if j.masked then (j.mask, j.mbits) else (x.g.mmask, x.g.mbits)
      | none => (x.g.mmask, x.g.mbits)
    let img := a.image ++ saveRecord a loop m0.2 ++ slice m0.1 0 512
    let line := fun (i : Nat) => addr + BitVec.ofNat 64 (128 * i)
    let lines := (chunksOf 128 img.length img).zipIdx.map fun c => ({ x.baseAccess s with
      lane := 32, kind := .store, pa := pa c.2, n := c.1.length, data := c.1, addr := line c.2, afterRel := s.gatesOf x.c x.p x.e.mask } : Access)
    let r := (b.drop 32768).take 128
    let f64 := sliceNat r 38 1 / 2 % 2 == 1
    let failed := sliceNat r 38 1 / 8 % 2 == 1
    let f := s.freshenPieces x.c ps
    (s.runs n (.mtwin g) → x.live ≠ 0#32 → s.twinned x.c x.p = true → s.partner x.c x.p = some q → s.twinWait x.c q = some k →
      exec (.mtwin g) s = .next ((bind.advanceEntry x.c q k).advance n)) ∧
    (s.runs n (.msketch g sd t sb sc) → x.live ≠ 0#32 → x.e.note = [] → (∀ j ∈ s.rjobs, j.core ≠ x.c) → d.kind ≠ 1 → d.et ≠ 1 →
      (s.tile x.c x.p t.toNat).code = 0 → d.allocated (s.jobMap job) = true → scrFault size xo (128 * d.m) 4 = none → scrFault size mo nb 4 = none →
      s.clobbers x.c (base + mo) nb = false → s.storesFree x.c x.p x.e.mask = true →
      s.engineHold x.g.uid s.nextId true false (base + xo) (128 * d.m) = false →
      s.engineHold x.g.uid s.nextId true true (base + mo) nb = false →
      exec (.msketch g sd t sb sc) s = .next
        ((((s.setPoolBytes x.c (base + mo) (maskWords out.1)).wakeWaits).orEngineFlags x.c x.p out.2.bits).advance n)) ∧
    (s.runs n (.msave g sa m rel) → x.live ≠ 0#32 → addr.toNat % 128 = 0 →
      (∀ j ∈ s.mjobs, j.uid = x.g.uid → j.m = m.toNat → j.loop = true ∧ s.engineFrozen x.c 4 = false) → (rel = true → s.guideWaits x.c x.p m.toNat = false) →
      (∀ i < 261, s.holdsCode (pa i) 128 = false ∧
        s.translate x.c (s.launchOf x.c x.p).context { write := true, handler := x.g.handler } (line i) = .ok (pa i)) →
      s.linesFull x.c (linesOf lines) = false → exec (.msave g sa m rel) s =
      .next ((x.releaseLater rel m.toNat s.nextId lines.length ((s.suspend loop).addAccesses lines)).advance n)) ∧
    (s.runs n (.mrstr g m sa) → x.live ≠ 0#32 → addr.toNat % 128 = 0 → s.guideWaits x.c x.p m.toNat = false → x.reads s addr 33408 b ps →
      imageBad b = false → f.engineFrozen x.c 4 = false → sliceNat r 16 4 = 0 →
      ((f.acc x.c x.p m.toNat).bound = true ∨ f.freeBanks x.c ≠ 0) → exec (.mrstr g m sa) s =
      .next (let u := if (f.acc x.c x.p m.toNat).bound then f
               else f.setAcc x.c x.p m.toNat { bound := true, f64 := f64, flt := (f.acc x.c x.p m.toNat).flt }
             let rec_ : AccRecord := { f := failed, code := if failed then sliceNat r 39 1 % 128 else 0, done := sliceNat r 40 4,
                                       addr := if failed then pair64 (Config.freeWord u.freeCount 0) 0#32 else 0#64 }
             let u := u.setAcc x.c x.p m.toNat { bound := true, f64 := f64, elems := imageElems b f64, flt := rec_ }
             (u.setGrp x.c x.p { u.grp x.c x.p with
               mmask := (b.drop 32896).take ((sliceNat r 44 4 + 7) / 8), mbits := sliceNat r 44 4 }).advance n)))

/-- R278 to R306: each rank-tile instruction whose operands pass its checks enters the core's burnisher, unless it is frozen, last in its queue, with
the values of the scalar and vector registers that it names; a store to memory is counted. -/
def Obligations.RankTileIssueResults : Prop :=
  ∀ (s : State) (n : Issuer) (g : Guard) (t a b sa sb sd d vb : BitVec 8) (o : VS) (rcd st rgt tr up un : Bool),
    let x := s.ctx n g
    let de := fun (t : BitVec 8) => TDesc.of (s.tile x.c x.p t.toNat).img
    let clean := fun (t : BitVec 8) => (s.tile x.c x.p t.toNat).code = 0
    let enter := (fun (i : Instr) (foot : List (Bool × Bool × Nat × Nat)) (words : List DWord) (xs vdst sdst : List Nat) (stores : Bool) =>
      let j : RJob := { toEng := x.engine foot s, what := i, words := words, xs := xs, vdst := vdst, sdst := sdst }
      let u : State := { s with nextId := s.nextId + 1, rjobs := s.rjobs ++ [j] }
      (if stores then x.countAsync u else u).post .burnisherPhaseBoundary [x.c])
    let heapsz := (s.heapSlice x.c x.g.slot).2
    let addr := x.sreg64 s sa
    let stride := x.sreg s sb
    let rcw := if rcd then x.sreg s o.n else 0#32
    let factor := fun (d : TDesc) (r : BitVec 8) => if d.et == 1 then x.sreg64 s r else (x.sreg s r).setWidth 64
    let w := (de a).e / 4
    let ny := w * ceilDiv (de a).m 32
    let xs := (List.range (de a).n).map fun k =>
      let r := vb.toNat + w * (k / 32)
      (s.v x.c x.p (k % 32) r).toNat + (if w = 2 then (s.v x.c x.p (k % 32) (r + 1)).toNat * 2 ^ 32 else 0)
    (s.runs n (.tdesc g t sa o rcd) → x.live ≠ 0#32 → s.engineFrozen x.c 5 = false → (TDesc.of (x.sreg64 s sa)).valid heapsz = true → recordOk rcw = true → exec (.tdesc g t sa o rcd) s =
      .next ((enter (.tdesc g t sa o rcd) [] [x.sreg64 s sa, rcw.setWidth 64] [] [] [] false).advance n)) ∧
    (s.runs n (.tdescRd g sd t) → x.live ≠ 0#32 → s.engineFrozen x.c 5 = false → exec (.tdescRd g sd t) s =
      .next ((enter (.tdescRd g sd t) [] [] [] [] [sd.toNat, sd.toNat + 1] false).advance n)) ∧
    (s.runs n (.tld g t sa sb) → x.live ≠ 0#32 → s.engineFrozen x.c 5 = false → addr.toNat % (de t).e = 0 → stride.toNat % (de t).e = 0 → clean t → exec (.tld g t sa sb) s =
      .next ((enter (.tld g t sa sb) (rangesFoot false (imageRows (de t) addr stride)) [addr, stride.setWidth 64] [] [] [] false).advance n)) ∧
    (s.runs n (.tldf g t sa sb) → x.live ≠ 0#32 → s.engineFrozen x.c 5 = false → addr.toNat % (de t).e = 0 → 1 ≤ stride.toNat → stride.toNat ≤ 32 → clean t → exec (.tldf g t sa sb) s =
      .next ((enter (.tldf g t sa sb) (rangesFoot false [(addr.toNat % 2 ^ 57, (de t).lowBytes stride.toNat)]) [addr, BitVec.ofNat 64 stride.toNat] [] [] [] false).advance n)) ∧
    (s.runs n (.tstD g sa t sb) → x.live ≠ 0#32 → s.engineFrozen x.c 5 = false → addr.toNat % (de t).e = 0 → stride.toNat % (de t).e = 0 → clean t → exec (.tstD g sa t sb) s =
      .next ((enter (.tstD g sa t sb) (rangesFoot true (imageRows (de t) addr stride)) [addr, stride.setWidth 64] [] [] [] true).advance n)) ∧
    (s.runs n (.tstF g sa t) → x.live ≠ 0#32 → s.engineFrozen x.c 5 = false → addr.toNat % (de t).e = 0 → (de t).kind = 2 → clean t → exec (.tstF g sa t) s =
      .next ((enter (.tstF g sa t) (rangesFoot true [(addr.toNat % 2 ^ 57, (de t).lowBytes (de t).k)]) [addr] [] [] [] true).advance n)) ∧
    (s.runs n (.tldHeap g sa) → x.live ≠ 0#32 → s.engineFrozen x.c 5 = false → addr.toNat % 128 = 0 → (s.blkAt x.c x.g.slot).heapFlt.1 = 0 → exec (.tldHeap g sa) s =
      .next ((enter (.tldHeap g sa) (rangesFoot false [(addr.toNat % 2 ^ 57, heapImageBytes heapsz)]) [addr] [] [] [] false).advance n)) ∧
    (s.runs n (.tstHeap g sa) → x.live ≠ 0#32 → s.engineFrozen x.c 5 = false → addr.toNat % 128 = 0 → (s.blkAt x.c x.g.slot).heapFlt.1 = 0 → exec (.tstHeap g sa) s =
      .next ((enter (.tstHeap g sa) (rangesFoot true [(addr.toNat % 2 ^ 57, heapImageBytes heapsz)]) [addr] [] [] [] true).advance n)) ∧
    (s.runs n (.tzero g t) → x.live ≠ 0#32 → s.engineFrozen x.c 5 = false → exec (.tzero g t) s =
      .next ((enter (.tzero g t) [] [] [] [] [] false).advance n)) ∧
    (s.runs n (.thalc g t) → x.live ≠ 0#32 → s.engineFrozen x.c 5 = false → (de t).size ≠ 0 → clean t → exec (.thalc g t) s =
      .next ((enter (.thalc g t) [] [] [] [] [] false).advance n)) ∧
    (s.runs n (.thfre g t) → x.live ≠ 0#32 → s.engineFrozen x.c 5 = false → exec (.thfre g t) s =
      .next ((enter (.thfre g t) [] [] [] [] [] false).advance n)) ∧
    (s.runs n (.trank g sd t rcd) → x.live ≠ 0#32 → s.engineFrozen x.c 5 = false → exec (.trank g sd t rcd) s =
      .next ((enter (.trank g sd t rcd) [] [] [] [] [sd.toNat] false).advance n)) ∧
    (s.runs n (.tadd g t a b) → x.live ≠ 0#32 → s.engineFrozen x.c 5 = false → (de a).like (de t) = true → (de b).like (de t) = true → clean t → clean a → clean b → exec (.tadd g t a b) s =
      .next ((enter (.tadd g t a b) [] [] [] [] [] false).advance n)) ∧
    (s.runs n (.tmul g t a b) → x.live ≠ 0#32 → s.engineFrozen x.c 5 = false → (de a).cols = (de b).rows → (de t).rows = (de a).rows → (de t).cols = (de b).cols → (de a).et = (de t).et → (de b).et = (de t).et → clean t → clean a → clean b → exec (.tmul g t a b) s =
      .next ((enter (.tmul g t a b) [] [] [] [] [] false).advance n)) ∧
    (s.runs n (.tupd g t a b) → x.live ≠ 0#32 → s.engineFrozen x.c 5 = false → (de a).cols = (de b).cols → (de t).rows = (de a).rows → (de t).cols = (de b).rows → (de a).et = (de t).et → (de b).et = (de t).et → clean t → clean a → clean b → exec (.tupd g t a b) s =
      .next ((enter (.tupd g t a b) [] [] [] [] [] false).advance n)) ∧
    (s.runs n (.tscl g t a sb) → x.live ≠ 0#32 → s.engineFrozen x.c 5 = false → (de a).like (de t) = true → clean t → clean a → exec (.tscl g t a sb) s =
      .next ((enter (.tscl g t a sb) [] [factor (de a) sb] [] [] [] false).advance n)) ∧
    (s.runs n (.trnd g t a o st rcd) → x.live ≠ 0#32 → s.engineFrozen x.c 5 = false → (de a).kind ≠ 1 → (de a).like (de t) = true → clean t → clean a → exec (.trnd g t a o st rcd) s =
      .next ((enter (.trnd g t a o st rcd) [] (if st then [factor (de a) o.n] else []) [] [] [] false).advance n)) ∧
    (s.runs n (.ttod g t a) → x.live ≠ 0#32 → s.engineFrozen x.c 5 = false → (de a).like (de t) = true → clean t → clean a → exec (.ttod g t a) s =
      .next ((enter (.ttod g t a) [] [] [] [] [] false).advance n)) ∧
    (s.runs n (.ttol g t a) → x.live ≠ 0#32 → s.engineFrozen x.c 5 = false → (de a).kind ≠ 2 → (de a).like (de t) = true → clean t → clean a → exec (.ttol g t a) s =
      .next ((enter (.ttol g t a) [] [] [] [] [] false).advance n)) ∧
    (s.runs n (.tpotrf g t a) → x.live ≠ 0#32 → s.engineFrozen x.c 5 = false → (de a).kind = 1 → (de a).rows = (de a).cols → (de a).like (de t) = true → clean t → clean a → exec (.tpotrf g t a) s =
      .next ((enter (.tpotrf g t a) [] [] [] [] [] false).advance n)) ∧
    (s.runs n (.ttrsm g t a b rgt tr up un) → x.live ≠ 0#32 → s.engineFrozen x.c 5 = false → (de a).kind = 1 → (de a).rows = (de a).cols → (de a).rows = (if rgt then (de b).cols else (de b).rows) → (de a).et = (de b).et → (de b).like (de t) = true → clean t → clean a → clean b → exec (.ttrsm g t a b rgt tr up un) s =
      .next ((enter (.ttrsm g t a b rgt tr up un) [] [] [] [] [] false).advance n)) ∧
    (s.runs n (.tmulv g d a vb) → x.live ≠ 0#32 → s.engineFrozen x.c 5 = false → clean a → exec (.tmulv g d a vb) s =
      .next ((enter (.tmulv g d a vb) [] [] xs (List.range' d.toNat ny) [] false).advance n))

/-- R314 to R319, R331: PUT, PUTS, PUTR and GET of a good block build a free work entry; QARM after its release, with the operands that it
read as it issued, arms an entry, which fires at once when its counter stands at the threshold; TCNT reads, or after its release adds to or sets, a
counter, and QSTAT reads the four kinds of status. -/
def Obligations.WorkEntryResults : Prop :=
  ∀ (s : State) (n : Issuer) (g : Guard) (sd sa sb sc : BitVec 8) (v : VS) (op : BitVec 2) (rst : Bool) (k id : Nat) (o1 o2 o3 : Word),
    let x := s.ctx n g
    let b := x.block8 s sa
    let l := s.launchOf x.c x.p
    let free := k < 2048 ∧ s.pickFree 2048 (fun e => (s.workAt e).state == .free) = some k
    let built := (fun (kind : WorkKind) =>
      let w : Work := { state := .built, kind := kind, id := s.nextId, owner := x.g.node, core := x.c, grp := x.p, uid := x.g.uid, block := b,
                        root := l.root, rootV := l.rootV, handler := x.g.handler }
      x.putS sd (BitVec.ofNat 32 k) (({ s with nextId := s.nextId + 1 } : State).setWork k w))
    let released := fun (ops : List Word) =>
      x.e.note = 0xF8 :: id :: ops.map BitVec.toNat ∧ s.relOpen id = false ∧ s.storesFree x.c x.p x.e.mask = true
    let a := (x.sreg s sa).toNat
    let armed := s.setWork o1.toNat { s.workAt o1.toNat with state := .armed, ctr := o2.toNat, threshold := o3.toNat }
    let sum := BitVec.ofNat 32 (min ((s.ctr o1.toNat).toNat + o2.toNat) (2 ^ 32 - 1))
    (s.runs n (.put g sd sa) → x.live ≠ 0#32 → s.blockBad .put b = false → free →
      exec (.put g sd sa) s = .next ((built .put).advance n)) ∧
    (s.runs n (.puts g sd sa) → x.live ≠ 0#32 → s.blockBad .puts b = false → free →
      exec (.puts g sd sa) s = .next ((built .puts).advance n)) ∧
    (s.runs n (.putr g sd sa) → x.live ≠ 0#32 → s.blockBad .putr b = false → free →
      exec (.putr g sd sa) s = .next ((built .putr).advance n)) ∧
    (s.runs n (.get g sd sa) → x.live ≠ 0#32 → s.blockBad .get b = false → free →
      exec (.get g sd sa) s = .next ((built .get).advance n)) ∧
    (s.runs n (.qarm g sa sb sc) → x.live ≠ 0#32 → released [o1, o2, o3] → o1.toNat < 2048 → (s.workAt o1.toNat).state = .built →
      (s.workAt o1.toNat).owner = x.g.node → o2.toNat < 4096 → exec (.qarm g sa sb sc) s =
      .next ((if o3.toNat ≤ (armed.ctr o2.toNat).toNat then armed.fire o1.toNat else armed).advance n)) ∧
    (s.runs n (.tcnt g sd sa v 0#2) → x.live ≠ 0#32 → x.e.note = [] → a < 4096 → s.loadsFree x.c x.p x.e.mask = true →
      exec (.tcnt g sd sa v 0#2) s = .next ((x.putS sd (s.ctr a) (x.acquire 6 s)).advance n)) ∧
    (s.runs n (.tcnt g sd sa v op) → op ≠ 0#2 → x.live ≠ 0#32 → released [o1, o2] → o1.toNat < 4096 →
      exec (.tcnt g sd sa v op) s =
      .next ((if op = 1#2 then x.putS sd sum (s.setCtr o1.toNat sum) else x.putS sd (s.ctr o1.toNat) (s.setCtr o1.toNat o2)).advance n)) ∧
    (s.runs n (.qstat g sd sa op rst) → x.live ≠ 0#32 → (op = 1#2 ∨ op = 2#2 → a < 256) → (rst = true → op = 2#2) →
      exec (.qstat g sd sa op rst) s =
      .next ((if op = 0#2 then
                x.putS sd (BitVec.ofNat 32 (256 - (s.colls.filter fun e => e.2.state != .free).length +
                  (2048 - (s.work.filter fun e => e.2.state != .free).length) * 2 ^ 16)) s
              else if op = 1#2 then x.putS sd (BitVec.ofNat 32 ((s.ctlSlot (0x10000 + 8 * a)).toNat % 2 ^ 15)) s
              else if op = 2#2 then
                x.putS sd (BitVec.ofNat 32 (boolNat (s.qperr.contains a))) (if rst then { s with qperr := s.qperr.filter (· != a) } else s)
              else match s.firstFailed with
                | none => x.putS sd 0#32 s
                | some e => x.putS sd (BitVec.ofNat 32 (2 ^ 31 + (s.workAt e).code * 2 ^ 24 + e)) (s.setWork e {})).advance n))

/-- R265, R329 to R331: QPOST, after its release, of the good block that it read as it issued posts in a free slot; QTICK reads the ticket of a slot
that has one, or zero under .try; QCOMP reads the four words of a slot that has ended, or of any slot under .nowait, and frees it under .free; QCANCEL
cancels a posted slot; QRING reads a team, and all ones of a number above 63 (the model's reading: log entry 65); MDRAINC adds 1,024 elements to a
started contribution. -/
def Obligations.CollectiveResults : Prop :=
  ∀ (s t : State) (n : Issuer) (g : Guard) (sd sa sb sc m : BitVec 8) (nw fre rel tr : Bool) (slot id : Nat) (ops : List Word),
    let x := s.ctx n g
    let l := s.launchOf x.c x.p
    let mk : Coll := { owner := some x.g.node, core := x.c, grp := x.p, uid := x.g.uid, root := l.root, rootV := l.rootV, handler := x.g.handler }
    let a := (x.sreg s sa).toNat
    let k := s.coll a
    let mine := x.live ≠ 0#32 ∧ a < 256 ∧ k.state ≠ .free ∧ k.owner = some x.g.node
    let put := (fun (s : State) => k.words.zipIdx.foldl (fun s w => s.setSr x.c x.p (sd.toNat + w.2) w.1) s)
    let acc := s.acc x.c x.p m.toNat
    let c := (x.sreg s sb).toNat
    let to_ := (x.sreg s sc).toNat
    let q := s.coll to_
    (s.runs n (.qpost g sd sa) → x.live ≠ 0#32 → s.postSlot ops mk = .ok (slot, t) → x.e.note = 0xF8 :: id :: ops.map BitVec.toNat →
      s.relOpen id = false → s.storesFree x.c x.p x.e.mask = true →
      exec (.qpost g sd sa) s = .next ((x.putS sd (BitVec.ofNat 32 slot) t).advance n)) ∧
    (s.runs n (.qtick g sd sa tr) → mine → 3 ≤ k.state.code →
      exec (.qtick g sd sa tr) s = .next ((x.putS64 sd (BitVec.ofNat 64 k.ticket) s).advance n)) ∧
    (s.runs n (.qtick g sd sa true) → mine → k.state.code < 3 → exec (.qtick g sd sa true) s = .next ((x.putS64 sd 0#64 s).advance n)) ∧
    (s.runs n (.qcomp g sd sa nw fre) → mine → k.state.ended = true →
      exec (.qcomp g sd sa nw fre) s = .next ((put (x.acquire 6 (if fre then s.setColl a {} else s))).advance n)) ∧
    (s.runs n (.qcomp g sd sa true fre) → mine → k.state.ended = false → exec (.qcomp g sd sa true fre) s = .next ((put s).advance n)) ∧
    (s.runs n (.qcancel g sd sa) → mine → exec (.qcancel g sd sa) s =
      .next ((if k.state = .posted then x.putS sd 1#32 (s.cancelSlot a) else x.putS sd 0#32 s).advance n)) ∧
    (s.runs n (.qring g sd sa) → x.live ≠ 0#32 → exec (.qring g sd sa) s = .next ((x.putS sd (qringWord s a) s).advance n)) ∧
    (s.runs n (.mdrainc g m sb sc rel) → x.live ≠ 0#32 → c ≤ 7 → acc.flt.f = false → acc.f64 = false → to_ < 256 → q.state = .started →
      q.owner = some x.g.node → q.ty = 0 → q.op ≤ 1 → blockDrain q.block = true → q.drain.length + 1024 ≤ q.count →
      (rel = true → s.guideWaits x.c x.p m.toNat = false) →
      exec (.mdrainc g m sb sc rel) s =
      .next (let ws := (acc.chunk c).flatMap fun r => r.map fun v => BitVec.ofNat 32 v
             ((x.release rel m.toNat (s.setColl to_ { q with drain := q.drain ++ ws })).progress to_).advance n))

/-- R348 to R352: GNODE of a good descriptor builds a free node; GEDGE adds the edge, GSUB after its release submits the node, LAUNCH after its own
does the three of a kernel, both with the operands that they read as they issued (no pin of another core refuses what a submission reads); GWAIT reads
the status of a node that has ended and frees it, .try that of any node; DLINE sets the deadline of a node that has not ended; DGST reads the group's
digest once no store is open, and DGCHK goes on when it is the one expected. Which half of its digest the first of GWAIT's two registers holds is the
model's reading, log entry 146, and so is that a descriptor is read at its home and copies of its lines in L1 are made new, log entry 25. -/
def Obligations.TaskGraphResults : Prop :=
  ∀ (s t u : State) (n : Issuer) (g : Guard) (sd sa sb : BitVec 8) (tr : Bool) (k id : Nat) (b : List Byte) (ps : List (Nat × Nat))
      (o1 o2 : Word),
    let x := s.ctx n g
    let f := s.freshenPieces x.c ps
    let addr := x.sreg64 s sa
    let free := k < 4096 ∧ f.pickFree 4096 (fun m => (f.node m).state == .free) = some k
    let queue := (f.launch x.g.node).queue
    let when_ := sliceNat b 16 8
    let d : Node := { state := .built, desc := b, owner := some x.g.node, queue := queue, root := (f.queueCtx queue).root, prio := sliceNat b 1 1,
                      auto := (descFlags b).testBit 1, deadline := when_, born := f.nextOrder }
    let built := (let u := ({ f with nextOrder := f.nextOrder + 1 } : State).setNode k d
                  if when_ = 0 then u else if when_ ≤ u.dtime then u.post .deadlinePassed [k] else u.timer false when_ .deadlinePassed [k])
    let released := fun (ops : List Word) =>
      x.e.note = 0xF8 :: id :: ops.map BitVec.toNat ∧ s.relOpen id = false ∧ s.storesFree x.c x.p x.e.mask = true
    let a := (x.sreg s sa).toNat
    let sub := o1.toNat
    let at_ := pair64 o1 o2
    let e := (x.sreg s sb).toNat
    let node := if a = 0xFFFFFFFF then x.g.node else a
    let known := fun (m : Nat) => m < 4096 ∧ (s.node m).state ≠ .free ∧ (s.node m).nameable m x.g.node = true
    (s.runs n (.gnode g sd sa) → x.live ≠ 0#32 → addr.toNat % 128 = 0 → x.reads s addr 128 b ps → descBad b = false → free →
      exec (.gnode g sd sa) s = .next ((x.putS sd (BitVec.ofNat 32 k) built).advance n)) ∧
    (s.runs n (.gedge g sa sb) → x.live ≠ 0#32 → known a → (s.node a).state ≠ .built → e < 4096 → (s.node e).state = .built →
      (s.node e).owner = some x.g.node → s.addEdge a e = .ok t → exec (.gedge g sa sb) s = .next (t.advance n)) ∧
    (s.runs n (.gsub g sa) → x.live ≠ 0#32 → released [o1] → sub < 4096 → (s.node sub).state = .built → (s.node sub).owner = some x.g.node →
      s.footPins (s.node sub).queue (s.node sub).desc = [] → s.submitNode sub = .ok t → exec (.gsub g sa) s = .next (t.pokeTasks.advance n)) ∧
    (s.runs n (.launch g sd sa) → x.live ≠ 0#32 → released [o1, o2] → at_.toNat % 128 = 0 → x.reads s at_ 128 b ps → descBad b = false →
      descKind b = 0 → free → built.addEdge x.g.node k = .ok t → t.submitNode k = .ok u →
      exec (.launch g sd sa) s = .next ((x.putS sd (BitVec.ofNat 32 k) u.pokeTasks).advance n)) ∧
    (s.runs n (.gwait g sd sa tr) → x.live ≠ 0#32 → x.e.note = [] → known a → (s.node a).state.ended = true →
      exec (.gwait g sd sa tr) s = .next (((x.acquire 7 (s.putStatus x.c x.p sd.toNat a)).freeNode a).advance n)) ∧
    (s.runs n (.gwait g sd sa true) → x.live ≠ 0#32 → x.e.note = [] → known a → s.dependsOn a x.g.node = false →
      (s.node a).state.ended = false → exec (.gwait g sd sa true) s = .next ((s.putStatus x.c x.p sd.toNat a).advance n)) ∧
    (s.runs n (.dline g sa sb) → x.live ≠ 0#32 → known node →
      exec (.dline g sa sb) s =
      .next ((if (s.node node).state.ended then s else s.setDeadline node (x.sreg64 s sb).toNat).advance n)) ∧
    (s.runs n (.dgst g sd) → x.live ≠ 0#32 → (s.launchOf x.c x.p).det = true → x.e.note = [] → s.openStores x.g.uid = [] →
      exec (.dgst g sd) s = .next ((x.putS64 sd (s.grp x.c x.p).digest s).advance n)) ∧
    (s.runs n (.dgchk g sa) → x.live ≠ 0#32 → (s.launchOf x.c x.p).det = true → x.e.note = [] → s.openStores x.g.uid = [] →
      (s.grp x.c x.p).digest = addr → exec (.dgchk g sa) s = .next (s.advance n))

/-- R363, R365, R370, R371, R374: TRAP and BKPT outside a handler move the entry on and take their exception, with TPC at the instruction; BKPT
in a handler only goes on. HALTB asks every group of the block to stop, those that have yielded too, or aborts the launch. RTE with no store open,
with line requests left for the frame and no line of it pinned by another core, restores the group from its frame; from a PREEMPT entry it yields
with its frame kept. -/
def Obligations.TrapAndReturnResults : Prop :=
  ∀ (s : State) (n : Issuer) (g : Guard) (a : VS) (sa : BitVec 8) (id : BitVec 16) (yld : Bool) (f : List Byte),
    let x := s.ctx n g
    let here := x.live ≠ 0#32 ∧ x.g.frontier[n.ent]? = some x.e
    let t := s.advance n
    let fe := (firstIdx (fun y => (y.mask &&& x.e.mask) != 0#32) (t.grp x.c x.p).frontier).getD 0
    let take := (fun (code : Nat) (detail : DWord) =>
      t.takeException x.c x.p { code := code, detail := detail, tpc := wordAddr x.e.hdr x.e.idx, fe := fe, back := some x.e })
    let blk := t.blkAt x.c x.g.slot
    let stopped := t.setBlk x.c x.g.slot { blk with yielded := blk.yielded.map fun y =>
      (y.1, { y.2 with requests := y.2.requests ++ [(Code.STOP, (x.sreg s sa).setWidth 64)] }) }
    let mine := (stopped.residents x.c).filter fun q => (stopped.grp x.c q).slot == x.g.slot
    let room := s.linesFull x.c 10 = false ∧ s.framePins x.c x.p = []
    (s.runs n (.trap g a) → here → exec (.trap g a) s = .next (take Code.TRAP (if a.sc then (x.sreg s a.n).setWidth 64 else 0#64))) ∧
    (s.runs n (.bkpt g id) → here → x.g.handler = false → exec (.bkpt g id) s = .next (take Code.BREAK (id.setWidth 64))) ∧
    (s.runs n (.bkpt g id) → x.live ≠ 0#32 → x.g.handler = true → exec (.bkpt g id) s = .next t) ∧
    (s.runs n (.haltb g sa false) → x.live ≠ 0#32 → exec (.haltb g sa false) s =
      .next (mine.foldl (fun u q => u.request x.c q Code.STOP ((x.sreg s sa).setWidth 64)) stopped)) ∧
    (s.runs n (.haltb g sa true) → x.live ≠ 0#32 → exec (.haltb g sa true) s = .next (s.abortLaunch x.g.node Code.ABORTED)) ∧
    (s.runs n (.rte g false) → x.live ≠ 0#32 → x.g.handler = true → x.g.preempted = false →
      s.storesPending x.g.uid = false → room →
      exec (.rte g false) s = .next (((s.leaveTrap x.c x.p x.pc).afterReturn x.c x.p).serveRequests x.c x.p)) ∧
    (s.runs n (.rte g yld) → x.live ≠ 0#32 → x.g.handler = true → x.g.preempted = true → s.scoreboardEmpty x.c x.p = true →
      s.storesPending x.g.uid = false → room → (∀ a ∈ s.accesses, a.uid ≠ x.g.uid) → s.readFrame x.c x.p = some f →
      exec (.rte g yld) s = .next (s.yieldGroup x.c x.p f))

/-- R367, R368, R372, R375, R377: in a handler SAVELIVE stores the image of the live registers and writes its length, and RESTLIVE gives the registers
of a saved area back; SRD with a live lane in Active reads a special register in each lane of Active, the trap registers in a handler only, and SWR
writes one, a lane set in sr.emask being one that the handler skips (log entry 145), and a read of sr.rings waiting for no HRING (log entry 151);
without a live lane each of them only goes on. PMARK stores a record at the place that its ring's next record has in physical memory (the model's
reading: log entry 92) while the ring has room, and touches no running code; RDBARO reads a counter and clears them all under .clr. That RESTLIVE
reads its area at its home, and copies of its lines in L1 are made new, is the model's reading: log entry 25. -/
def Obligations.SpecialRegisterResults : Prop :=
  ∀ (s : State) (n : Issuer) (g : Guard) (d : VS) (sd sa num : BitVec 8) (id : BitVec 16) (clr : Bool) (y : LiveSet) (h b : List Byte)
    (pa : Nat → Nat) (base size k : Nat) (ps qs : List (Nat × Nat)),
    let x := s.ctx n g
    let addr := x.sreg64 s sa
    let img := s.liveImage x.c x.p y
    let line := fun (i : Nat) => addr + BitVec.ofNat 64 (128 * i)
    let lines := (chunksOf 128 img.length img).zipIdx.map fun c => ({ x.baseAccess s with
      lane := 32, kind := .store, pa := pa c.2, n := c.1.length, data := c.1, addr := line c.2, afterRel := s.gatesOf x.c x.p x.e.mask } : Access)
    let z := LiveSet.of h 0 32 48 49
    let f := s.freshenPieces x.c ps
    let gr := s.grp x.c x.p
    let v := x.sreg s sa
    let core := s.core x.c
    let ring := s.setCore x.c { core with ring := some (base, size, k + 1) }
    let i := (x.sreg s sa).toNat
    (s.runs n (.savelive g sd sa) → x.live ≠ 0#32 → x.g.handler = true → addr.toNat % 128 = 0 → s.loadsFree x.c x.p x.e.mask = true →
      s.storesPending x.g.uid = false → s.liveSet x.c x.p = .ok y → x.livePending s y = false →
      (∀ q ∈ (chunksOf 128 img.length img).zipIdx, s.holdsCode (pa q.2) q.1.length = false ∧
        s.translate x.c (s.launchOf x.c x.p).context { write := true, handler := x.g.handler } (line q.2) = .ok (pa q.2)) →
      s.linesFull x.c (linesOf lines) = false → exec (.savelive g sd sa) s = .next ((x.putS sd (BitVec.ofNat 32 img.length) (s.addAccesses lines)).advance n)) ∧
    (s.runs n (.savelive g sd sa) → x.live = 0#32 → exec (.savelive g sd sa) s = .next (s.advance n)) ∧
    (s.runs n (.restlive g sa) → x.live ≠ 0#32 → x.g.handler = true → addr.toNat % 128 = 0 → x.reads s addr 64 h ps →
      (∀ r ∈ bitsUp 256 z.v, r < x.g.count) → x.livePending f z = false → x.reads f addr z.length b qs →
      exec (.restlive g sa) s = .next (((f.freshenPieces x.c qs).restoreLive x.c x.p z b).advance n)) ∧
    (s.runs n (.restlive g sa) → x.live = 0#32 → exec (.restlive g sa) s = .next (s.advance n)) ∧
    (s.runs n (.srd g d num) → x.live ≠ 0#32 → (num.toNat < 0x20 ∨ x.g.handler = true) →
      (num = 0x18#8 → s.flagsPending x.g.uid = false) →
      exec (.srd g d num) s = .next ((x.put d (fun l => x.special s num.toNat l) s).advance n)) ∧
    (s.runs n (.srd g d num) → x.live = 0#32 → exec (.srd g d num) s = .next (s.advance n)) ∧
    (s.runs n (.swr g num sa) → x.live = 0#32 → exec (.swr g num sa) s = .next (s.advance n)) ∧
    (s.runs n (.pmark g id) → x.live = 0#32 → exec (.pmark g id) s = .next (s.advance n)) ∧
    (s.runs n (.rdbaro g sd sa clr) → x.live = 0#32 → exec (.rdbaro g sd sa clr) s = .next (s.advance n)) ∧
    (s.runs n (.swr g num sa) → x.live ≠ 0#32 → (num = 0x1A#8 ∨ num = 0x1C#8 ∨ num = 0x1D#8 → x.g.handler = true) →
      (num = 0x18#8 → s.flagsPending x.g.uid = false) → 0x18 ≤ num.toNat → num.toNat ≤ 0x1D →
      exec (.swr g num sa) s =
      .next ((s.setGrp x.c x.p (
        if num = 0x18#8 then { gr with fflags := v.setWidth 6 } else if num = 0x19#8 then { gr with xlane := v }
        else if num = 0x1A#8 then { gr with emask := v, skipLanes := v } else if num = 0x1B#8 then { gr with gmask := v }
        else if num = 0x1C#8 then { gr with faddr := pair64 v (hi32 gr.faddr) }
        else { gr with faddr := pair64 (lo32 gr.faddr) (v &&& 0x01FFFFFF#32) })).advance n)) ∧
    (s.runs n (.pmark g id) → x.live ≠ 0#32 → core.ring = some (base, size, k) → k < size → s.holdsCode (base + 32 * k) 32 = false →
      (windowOf (base + 32 * k) = some .device ∨ windowOf (base + 32 * k) = some .host) → s.linesFull x.c 1 = false →
      s.pinnedLines x.c (base + 32 * k) 32 = [] → exec (.pmark g id) s = .next ((ring.setBytes (base + 32 * k) (x.traceRecord ring id)).advance n)) ∧
    (s.runs n (.pmark g id) → x.live ≠ 0#32 → (core.ring = none ∨ core.ring = some (base, size, k) ∧ size ≤ k) →
      exec (.pmark g id) s = .next (s.advance n)) ∧
    (s.runs n (.rdbaro g sd sa clr) → x.live ≠ 0#32 → exec (.rdbaro g sd sa clr) s =
      .next (let v := if i ≤ 16 ∨ 32 ≤ i ∧ i ≤ 45 then aget 0#64 core.baro (64 * x.g.part + i) else 0#64
             let t := if clr then s.setCore x.c { core with baro := aclear core.baro (64 * x.g.part) (64 * x.g.part + 64) } else s
             (x.putS64 sd v t).advance n))

/-- R67, R79, R88, R157, R202, R224, R356, R391: the steps of a core's groups. A join whose time has run out releases its lanes with their flags set
(in the model's order: log entry 148); sleeps that are over and FWAITs to be read again become eligible; a rotation gives the next eligible entry a
quantum; the lines of a fetched clause that no other core pins stand in the buffer in place of those left longest ago, or the entry has its slot, and
the clause is code of the launch (which code a launch protects is the model's reading: log entry 11); a committed table replaces its slot; a release
that is ready completes, and unpins at a wide scope; a group with nothing pending enters its handler, the cause naming the place at which its entry
now stands, or is put back into the one it yielded in. -/
def Obligations.GroupStepResults : Prop :=
  ∀ (s : State) (c p k hdr : Nat) (t : Cause) (h : Header) (r : Rel) (l : Nat × Nat × List Byte) (rest : List (Nat × Nat × List Byte)),
    let ev := fun (nums : List Nat) => s.subject.nums = nums
    let g := s.grp c p
    let j := s.jreg c p k
    let slots := (s.core c).slots
    let la := s.launch g.node
    let at_ := BitVec.ofNat 64 hdr
    let here := fun (e : Entry) => e.hdr == at_ && e.idx == 0
    let now := s.settleSlots c
    let core := now.core c
    let keys := (fetchKeys la g.node at_ h.count.toNat).filter fun x => !core.fetched.contains x
    let free := freeKeys la (now.fetchInUse c) core.fetched
    let extra := core.fetched.length + core.held.length + keys.length - fetchSpace la
    let pieces := now.clausePieces c p at_ h
    let stay := (free.take extra).foldl (fun f x => f.erase x) core.fetched
    let entered := if la.split then { core with fetched := stay, held := core.held ++ keys } else { core with fetched := stay ++ keys }
    let lines := pieces.foldl (fun t q => (List.range ((q.1 + q.2 + 127) / 128 - q.1 / 128)).foldl
      (fun t i => t.fetchLine c (128 * (q.1 / 128 + i))) t) (now.setCore c entered)
    let coded := lines.setLaunch g.node
      { la with codes := la.codes ++ pieces.filter fun q => !la.codes.any fun r => r.1 ≤ q.1 && q.1 + q.2 ≤ r.1 + r.2 }
    let u : State := { s with rels := s.rels.filter (·.id != k) }
    (ev [c, p, k] → j.armed = true → j.timing = true → j.ripe = true → j.left = 0 → g.handler = false → g.trap = none →
      exec .joinTimeout s = .next (s.releaseJ c p k true)) ∧
    (ev [c, p] → exec .sleepExpiry s = .next (s.setGrp c p { g with
      frontier := g.frontier.map fun e => { e with holds := e.holds.filter fun h => !s.sleepOver h } })) ∧
    (ev [c, p, hdr] → s.rotateTo c p hdr = some k → exec .fairnessRotation s =
      .next (let e := g.frontier.getD k {}
             s.setGrp c p { g with fair := aset 0 g.fair hdr 0, rotate := g.rotate &&& (255 - 2 ^ hdr),
                                   frontier := g.frontier.set k { e with quanta := e.quanta ||| 2 ^ hdr } })) ∧
    (ev [c, p, hdr] → firstIdx here g.frontier = some k → now.headerAt c p { hdr := at_ } = .ok h → extra ≤ free.length →
      now.fetchedClause c p (g.frontier.getD k {}) h = false → now.linesFull c (linesIn pieces) = false → now.pinnedBy c pieces = [] →
      exec .clauseFetch s =
      .next (if la.split then coded.setGrp c p { g with frontier := updateWhere here (fun e => { e with slot := true }) g.frontier } else coded)) ∧
    (ev [c, p] → exec .fwaitReread s = .next (s.setGrp c p { g with
      frontier := g.frontier.map fun e => match e.note with
        | [0xF7, d, 0, a, b] => { e with note := [0xF7, d, 1, a, b], waited := false }
        | _ => e })) ∧
    (ev [c, k] → (aget {} slots k).loading = l :: rest → exec .ringSlotCommit s =
      .next (s.setCore c { s.core c with slots := aset {} slots k { owner := some l.2.1, table := l.2.2, loading := rest } })) ∧
    (ev [k] → s.rels.find? (·.id == k) = some r → s.relReady r = true → exec .releaseCompletion s =
      .next (if r.scope < 4 then u else u.unpinBlock r.core r.slot)) ∧
    (ev [c, p] → g.trap = some t → t.code ≠ Code.RESUME → (s.core c).frozen = false → s.loadsPending c p = false →
      exec .trapEntry s = .next (s.enterTrap c p { t with
        fe := (firstIdx (fun e => (e.mask &&& t.lanes) != 0#32) g.frontier).getD t.fe })) ∧
    (ev [c, p] → g.trap = some t → t.code = Code.RESUME → (s.core c).frozen = false → s.loadsPending c p = false →
      exec .trapEntry s = .next (s.resumeGroup c p)) ∧
    (s.slotsHeld c = (s.core c).held → now = s)

/-- R61, R201, R204 to R214: the steps of an access. At its home a load reads its bytes, a store writes its own, and an atomic gives the old
bytes and writes the new; a retried access is made in the same way; the data of a load reach its registers; a store that is acknowledged raises
the write-completion time; a pin is taken before its atomic of block scope or narrower, and ends when it has refused for 16,384 cycles; a peer's answer
fills a load. That a .nl1 load freshens a copy that it finds in L1 is the model's reading: log entry 34. -/
def Obligations.MemoryStepResults : Prop :=
  ∀ (s : State) (id line : Nat) (a : Access) (aop : Nat) (q : Pin),
    let found := s.subject.nums = [id] ∧ s.access id = some a
    let local_ := a.done = false ∧ a.sent = false ∧ a.lost = false ∧ s.accessReady a = true ∧ windowOf a.pa = some .device ∧ s.refuses a = false
    let old := s.readAt a.pa a.n
    let new := leBytes a.n (atomicNew aop a.n (leNat old) (leNat a.data) (leNat a.cmp))
    let t := if (s.pinOf a.line).isSome then s else if a.stip then s.grantStipple a.core a.line
      else if a.nl1 then s.freshenCopy a.core a.line else s.grantLease a.core a.line
    let w := t.readScale a
    let loaded := (w.2.setAccess { a with done := true, value := old, scale := w.1 }).post .loadDataWritten [a.id]
    let stored := ((let u := s.setBytes a.pa a.data
                    u.setAccess { a with done := true, wct := u.wctFor a.core a.line }).post .storeAcknowledgement [a.id]).wakeWaits
    let swapped := (fun (s : State) => ((let u := s.setBytes a.pa new
                    u.setAccess { a with done := true, value := old, data := new, wct := u.wctFor a.core a.line }).post
                      .storeAcknowledgement [a.id]).wakeWaits)
    let pinnable := s.pinOf a.line = none ∧ (s.pins.filter (·.core == a.core)).length < 64 ∧ aget 0 s.leases a.line ≤ s.dtime
    let pinned := (let g := s.grp a.core a.grp
                   swapped { s with pins := s.pins ++ [{ line := a.line, core := a.core, node := g.node, slot := g.slot }],
                                    l1 := s.l1.filter fun y => y.line != a.line,
                                    stipple := s.stipple.filter fun y => y.line != a.line })
    (found → local_ → a.kind = .load → exec .homeRequest s = .next loaded) ∧
    (found → local_ → a.kind = .store → exec .homeRequest s = .next stored) ∧
    (found → local_ → a.kind = .atomic aop → 2 < a.scope → exec .homeRequest s = .next (swapped s)) ∧
    (found → local_ → a.kind = .load → exec .retry s = .next loaded) ∧
    (found → local_ → a.kind = .store → exec .retry s = .next stored) ∧
    (found → local_ → a.kind = .atomic aop → (2 < a.scope ∨ (s.pinOf a.line).isSome = true) → exec .retry s = .next (swapped s)) ∧
    (found → local_ → a.kind = .atomic aop → a.scope ≤ 2 → pinnable → exec .retry s = .next pinned) ∧
    (found → a.kind = .load → a.done = true → a.keep = false → a.win = none → exec .loadDataWritten s =
      .next ((s.putDest a.core a.grp false a.dest (loadWords a.value a.sext)).dropAccess a.id)) ∧
    (found → a.kind = .store → a.done = true → a.gath = false → exec .storeAcknowledgement s =
      .next (let u := if windowOf a.pa != some .device then s
               else if a.nl1 then { s with
                 l1 := s.l1.filter fun y => !(y.core == s.l1Of a.core a.line && y.line == a.line)
                 stipple := s.stipple.filter fun y => !(s.l1Of y.core y.line == s.l1Of a.core a.line && y.line == a.line) }
               else s.freshenCopy a.core a.line
             (u.foldWct a.core a.grp a.uid a.id a.wct).dropAccess a.id)) ∧
    (found → local_ → a.kind = .atomic aop → a.scope ≤ 2 → pinnable → exec .takingAPin s = .next pinned) ∧
    (s.subject.nums = [line] → q ∈ s.pins → q.line = line → 16384 ≤ q.refused → exec .pinTimeout s =
      .next { s with pins := s.pins.filter (fun q => q.line != line), leases := aset 0 s.leases line (max (aget 0 s.leases line) s.dtime) }) ∧
    (found → a.sent = true → a.done = false → a.lost = false → a.kind = .load → exec .remoteDeviceAccess s =
      .next (((s.setAccess { a with done := true, value := slice s.subject.bytes 0 a.n }).dropPacketOf id).post .loadDataWritten [id]))

/-- R147, R230, R236, R245, R251, R266, R287, R307: the steps of the engines. A chain, a copy and a card make their accesses, and the last
writes the token or counts down; a K-step adds to its accumulator; the burnisher passes a boundary or commits its result with its flags. -/
def Obligations.EngineStepResults : Prop :=
  ∀ (s t : State) (c p id : Nat) (h : Chain) (o : AsyncOp) (j : CardJob) (m : MJob) (a b : List (List (FV × FFlags))) (r : RJob) (f : FFlags)
    (u : Nat) (w : List (Nat × Byte)),
    let ev := fun (nums : List Nat) => s.subject.nums = nums
    let calm := fun (e : Eng) => (s.launch e.node).abort = none ∧ (s.node e.node).missed = false
    let d := chainDesc h.desc
    let run := h.run (s.launch h.node).ftz s
    let h' : Chain := { h with next := run.done, flags := h.flags ||| run.flags.bits }
    let ends := (let v := run.s.foldWct c h.grp h.uid h.id run.t
                 if (s.launch h.node).det then v.digestAsync h.toEng (bytesAt (d.za + BitVec.ofNat 64 (h.next * elemBytes d.zf)) (run.out.flatMap fun b => b)) else v)
    let q := o.step o.toEng s
    let o' := o.after (s.launch o.node).det q
    let y := j.op.step j.toEng s
    let z := j.op.after (s.launch j.node).det y
    let due : Option Nat := if j.op.dst.scr then some 0 else if y.peer then none else some y.t
    let j' : CardJob := { j with op := z, due := if y.out.isEmpty then j.due else j.due ++ [(due, y.out.length)] }
    (ev [c, p] → (s.chains.find? fun h => h.core == c && h.part == p) = some h → s.engineFrozen c 1 = false → h.outcome = none →
      s.engineWaits h.toEng .chainCompletion [c, p] = none → s.askPeers h.toEng 0 d.reads = none → s.awaitsPeer h.id = false →
      run.stop = none → ends.awaitsPeer h.id = false → exec .chainCompletion s = .next (ends.endChain h' (tokenOf 0 d.n))) ∧
    (ev [id] → s.ops.find? (·.id == id) = some o → s.engineFrozen o.core 3 = false → o.outcome = none → calm o.toEng →
      (s.ops.filter fun k => k.core == o.core && k.id < id).length < 64 → s.engineWaits o.toEng .asyncCompletion [id] = none →
      o.ask o.toEng s = none → q.stop = none → exec .asyncCompletion s =
      .next (if o'.done = o'.total then q.s.settleOp o' (tokenOf 0 o'.done) else (q.s.setOp o').post .asyncCompletion [id])) ∧
    (ev [id] → s.cards.find? (·.id == id) = some j → s.engineFrozen j.core 3 = false → j.outcome = none → j.stop = none → s.lostAt id = none → s.dev ≠ .checkpoint →
      j.copy = none → calm j.toEng → s.engineWaits j.toEng .cardCompletion [id] = none → j.op.ask j.toEng s = none → y.stop = none → exec .cardCompletion s =
      .next (if z.done = z.total then y.s.settleCard { j' with outcome := some 0#32 }
             else (let v := y.s.countDue j'
                   (v.1.setCard v.2).post .cardCompletion [id]))) ∧
    (ev [c, p] → exec .gathSettled s = .next (s.setGrp c p { s.grp c p with
      frontier := (s.grp c p).frontier.map fun e => if e.note.head? == some 0xA6 then { e with waited := false } else e })) ∧
    (ev [c, id] → s.mjobs.find? (·.id == id) = some m → s.engineFrozen c 4 = false → m.held = false → m.shared = false → calm m.toEng →
      s.engineWaits m.toEng .kStep [c, id] = none → (∀ k ∈ s.mjobs, k.uid = m.uid → k.m = m.m → m.id ≤ k.id) → m.rows.all (!·) = false →
      s.stepA m (s.launch m.node).ftz = .ok a → s.stepB m (s.launch m.node).ftz = .ok b →
      exec .kStep s = .next (s.applyStep m (s.launch m.node).ftz (a.map (·.map (·.1))) (b.map (·.map (·.1)))
        ((rowFlags a m.rows).or (rowFlags b (List.replicate (accCols (s.acc m.core m.grp m.m).f64) true))))) ∧
    (ev [c, p] → m ∈ s.mjobs → m.core = c → m.grp = p → m.held = true → 4096 ≤ m.heldFor →
      exec .twinHoldTimeout s = .next (s.unbindPair c p)) ∧
    (ev [c] → s.rankHead c = some r → s.engineFrozen c 5 = false → r.started = true → r.left ≠ 0 → s.abandons r = none →
      exec .burnisherPhaseBoundary s = .next (let r := { r with left := r.left - 1 }
                                              (s.setRjob r).rankGoesOn r)) ∧
    (ev [c] → s.rankHead c = some r → s.engineFrozen c 5 = false → r.started = true → r.left = 0 → r.outcome = none →
      s.engineWaits r.toEng .burnisherCommit [c] = none → s.askPeers r.toEng 0 ((r.foot.filter fun f => !f.1).map fun f => (f.2.2.1, f.2.2.2, f.2.2.1, 1)) = none → s.lostAt r.id = none →
      (s.freshenFoot r.toEng).runRank r = .done t f u w → t.awaitsPeer r.id = false → exec .burnisherCommit s =
      .next ((t.settleRank { r with t := u, written := w, flags := f.bits }).startRank c))

/-- R311 to R318: the steps of packets. An entry whose answers have come completes, and its counter rises; a packet of a source performs its
write, its signal, its reduction or its read here, and is answered; an answer and the bytes of a GET reach their entry; a packet without an answer
is lost after 50,000 ns, and with its link; held packets leave by the new port; resent and forwarded flits change no data. -/
def Obligations.PacketStepResults : Prop :=
  ∀ (s t : State) (e src tag a n port id ofs : Nat) (q : Packet) (ps : List (Nat × Nat)),
    let ev := fun (nums : List Nat) => s.subject.nums = nums
    let w := s.workAt e
    let bs := s.subject.bytes
    let serves := fun (n : Nat) => inDevice a n = true ∧ s.sourceBehind src = false ∧ s.pinnedIn [(a, n)] = false
    let put := s.peerWrite a bs
    let new := (List.range (bs.length / 4)).flatMap fun k =>
      leBytes 4 (reduceWord s.subject.flag (leWord (s.bytes (a + 4 * k) 4)) (leWord (slice bs (4 * k) 4))).toNat
    let red := s.peerWrite a new
    let sent := s.packets.find? (fun q => q.id == id && q.dst == src && q.waiting && !q.held) = some q
    let asked := s.packets.find? (fun q => q.id == id && q.dst == src && q.kind == .getReq && q.waiting && !q.held) = some q
    let data := slice bs 0 (q.nums.getD 1 0)
    let stored := s.storePieces w.core w.id (q.nums.headD 0) ps data s.dtime
    let down : State := { s with linksDown := if s.linksDown.contains port then s.linksDown else s.linksDown ++ [port] }
    let gone := down.packets.filter fun q => (q.waiting && !q.held && q.port == port) || (q.held && (down.portTo q.dst).isNone)
    let held := s.packets.filter fun q => q.held && q.dst == a
    let freed : State := { s with packets := s.packets.map fun q =>
      if q.held && q.dst == a then { q with held := false, port := port, sent := s.dtime } else q }
    (ev [e] → w.state = .fired → s.engineFrozen w.core 6 = false → w.sent = true → s.lostAt w.id = none → s.awaitsPeer w.id = false →
      w.t ≤ s.dtime → exec .entryCompletion s =
      .next (((s.foldWct w.core w.grp w.uid w.id w.t).setWork e {}).countUp (blockWord w.block 5))) ∧
    (ev [src, tag, a] → serves bs.length → exec .putPacket s = .next (put.1.answer src tag false put.2)) ∧
    (ev [src, tag, a, n] → s.sourceDone src ≤ s.dtime → s.sourceBehind src = false → s.applySignal a n = some t →
      exec .putWithSignal s = .next (t.answer src tag false s.dtime)) ∧
    (ev [src, tag, a] → serves bs.length → exec .writeWithReduce s = .next (red.1.answer src tag false red.2)) ∧
    (ev [src, tag, a, n] → serves n → s.sendPacket { kind := .getData, dst := src, tag := tag, addr := a, bytes := s.bytes a n } = some t →
      exec .getRequest s = .next t) ∧
    (ev [src, id] → s.subject.flag = false → sent → q.kind = .put → (s.donePacket id).workOf q.owner = some e →
      exec .acknowledgement s = .next ((s.donePacket id).post .entryCompletion [e])) ∧
    (ev [src, id] → asked → s.workOf q.owner = some e →
      s.engPieces w.core w.ctx true w.handler (w.local_ + BitVec.ofNat 64 (q.nums.headD 0)) data.length = .ok ps → s.pinnedIn ps = false →
      s.sequencerHeld w.uid w.id true ps = false → exec .getData s =
      .next (let u := (stored.1.donePacket id).wakeWaits
             (u.setWork e { u.workAt e with t := max w.t stored.2 }).post .entryCompletion [e])) ∧
    (ev [id] → s.packets.find? (·.id == id) = some q → q.waiting = true → q.held = false → q.sent + 50000 ≤ s.dtime →
      exec .packetTimeout s = .next (s.losePacket q)) ∧
    (ev [port] → exec .linkDown s = .next (gone.foldl (fun u q => u.losePacket q) down).pokeColls) ∧
    (ev [port] → exec .linkUp s =
      .next ({ s with linksDown := s.linksDown.filter (· != port) } : State).pokeColls) ∧
    (ev [a] → s.portTo a = some port → (∀ q ∈ s.packets, q.dst = a → q.gone = false) → (∀ q ∈ s.packets, q.dst = a → q.held = false → q.waiting = true → q.port = port) →
      exec .routeSwitch s =
      .next (held.foldl (fun u q => if q.waiting then u.timer false (u.dtime + 50000) .packetTimeout [q.id] else u) freed)) ∧
    (ev [port] → exec .flitResend s = .next { s with resent := aset 0 s.resent port (aget 0 s.resent port + 1) }) ∧
    (ev [ofs, a] → s.portTo a = some port → exec .packetForwarding s = .next { s with forwarded := s.forwarded ++ [(a, port)] })

/-- R313, R321 to R327: the steps of a collective. Posts meet in a record, whose last post sends the tickets; a ticket, a mismatch and a cancel
reach their slot; the least ticket starts; folds and results go round by credit; times that pass let a fold leave without its predecessor, and
give up what is missing; a collective whose chunks are settled ends. -/
def Obligations.CollectiveStepResults : Prop :=
  ∀ (s : State) (slot team rank num op ty cnt clk tick c first count n : Nat) (r : MatchRec),
    let ev := fun (nums : List Nat) => s.subject.nums = nums
    let k := s.coll slot
    let size := s.teamSize k.team
    let before := (k.rank + size - 1) % size
    let post := (rank, op, ty, cnt, clk)
    let r' : MatchRec := { r with posts := r.posts ++ [post] }
    let rc : MatchRec := { r with state := .cancelled }
    let next := s.teamFid k.team ((k.rank + 1) % size)
    let port := (s.portTo next).getD 31
    let started := (let k := { k with state := .started, start := s.dtime, port := port }
                    let u := (s.setColl slot k).grant k before 64
                    let u := if k.op = 1 && k.rank + 1 != size && before + 1 != size then u.grant k (size - 1) 64 else u
                    if k.tmo = 0 then u
                    else (u.timer false (u.dtime + k.tmo) .collectiveTimeout [slot]).timer false (u.dtime + 2 * k.tmo)
                      .collectiveResultTimeout [slot])
    let x : Chunk := { k.chunk c with fold := some (first, count, s.subject.flag, s.subject.elems.take (k.len c)) }
    let o : OutChunk := { result := true, to_ := k.rank, chunk := c, first := first, count := count, partl := s.subject.flag,
                          elems := s.subject.elems.take (k.len c) }
    let credited : State := { s with credits := aset 0 s.credits (creditKey tick rank) (aget 0 s.credits (creditKey tick rank) + n) }
    let given := (k.keys size).foldl (fun (k : Coll) key =>
      let c := k.chunk key
      let miss := !c.written && !c.missing && k.mine size k.rank key
      { k with chunks := aset {} k.chunks key { c with sent := true, missing := c.missing || miss, fold := none },
               missing := if miss then min 65535 (k.missing + 1) else k.missing }) k
    (ev [team, rank, num, op, ty, cnt, clk] → s.memberBehind team rank = false → s.recOf team num = some r → r.state ≠ .cancelled → exec .postMessage s =
      .next (if s.teamSize team ≤ r'.posts.length then s.matched r' else s.setRec r')) ∧
    (ev [team, rank, num, op, ty, cnt, clk] → s.memberBehind team rank = false → s.recOf team num = none → s.recs.length < 1024 → exec .postMessage s =
      .next (s.setRec { team := team, number := num, posts := [post] })) ∧
    (ev [team, num, tick] → s.slotFor team num = some slot → exec .ticketMessage s =
      .next (let u : State := { s with ticketClock := max s.ticketClock (tick / 256) % 2 ^ 56 }
             (u.setColl slot { u.coll slot with state := .ticketed, ticket := tick }).pokeColls)) ∧
    (ev [team, num] → s.slotFor team num = some slot → exec .mismatchMessage s = .next (s.endSlot slot .failed Code.COL_MISMATCH)) ∧
    (ev [team, num] → s.slotFor team num = some slot → exec .cancelledMessage s = .next (s.endSlot slot .cancelled 0)) ∧
    (ev [team, rank, num] → (∀ e ∈ s.agenda, e.what = .postMessage → e.sub.nums.take 3 ≠ [team, rank, num]) → s.memberBehind team rank = false → s.recOf team num = some r → r.state = .collecting → exec .cancelMessage s =
      .next (rc.posts.foldl (fun u p => match u.recOf rc.team rc.number with
        | none => u
        | some r => u.answerCancelled r p.1) (s.setRec rc))) ∧
    (ev [slot] → k.state = .posted → k.tmo ≠ 0 → k.posted + k.tmo ≤ s.dtime → exec .postTimeout s =
      .next ((s.setColl slot { k with state := .cancelSent }).message (s.teamFid k.team 0) .cancel .cancelMessage [k.team, k.rank, k.number])) ∧
    (ev [slot] → k.state = .ticketed → s.dev ≠ .checkpoint → (∀ e ∈ s.colls, e.2.state = .ticketed → k.ticket ≤ e.2.ticket) →
      (∀ e ∈ s.colls, e.2.state = .posted ∨ e.2.state = .cancelSent → k.ticket < (e.2.clk + 1) * 256) → s.unstaged next = false →
      s.engineFrozen k.core 6 = false → (port = 31 ∨ s.stagingRoom port = true) →
      exec .collectiveStart s = .next ((started.progress slot).pokeColls)) ∧
    (ev [tick, c, first, count] → s.slotOfTicket tick = some slot → k.folds = true → c < k.nchunks →
      (k.chunk c).sent = false → exec .foldChunk s =
      .next (((s.grant k before 1).setColl slot { k with chunks := aset {} k.chunks c x }).progress slot)) ∧
    (ev [tick, c, first, count] → s.slotOfTicket tick = some slot → c < k.nchunks → first < size → exec .resultChunk s =
      .next (((s.grant k (if k.op = 1 then size - 1 else before) 1).setColl slot { k with inq := k.inq ++ [o] }).progress slot)) ∧
    (ev [tick, n, rank] → exec .credit s = .next (match credited.slotOfTicket tick with
      | none => credited
      | some slot => credited.flushColl slot)) ∧
    (ev [slot] → k.state = .started → k.lateAt 1 s.dtime = true → exec .collectiveTimeout s =
      .next ((s.setColl slot { k with late1 := true }).progress slot)) ∧
    (ev [slot] → k.state = .started → k.lateAt 2 s.dtime = true → s.engineFrozen k.core 6 = false → exec .collectiveResultTimeout s =
      .next ((s.setColl slot { given with late2 := true, out := [], inq := [] }).flushColl slot)) ∧
    (ev [slot] → k.state = .started → k.out = [] → k.inq = [] → (k.keys size).all (k.settledKey size) = true → s.engineFrozen k.core 6 = false → s.lostAt k.id = none →
      s.awaitsPeer k.id = false → k.pass ≤ s.dtime → k.code = 0 → exec .collectiveEnd s =
      .next (({ s with credits := s.credits.filter fun e => e.1 / 256 != k.ticket,
                          engLost := s.engLost.filter (·.1 != k.id) } : State).endSlot slot
        (if k.missing = 0 && !k.anyPart then .done else .partl) 0))

/-- R74, R338 to R347, R366: the steps of tasks. The first dispatchable kernel starts, its next unit of blocks is placed, and it ends DONE with
its digest when its blocks have ended and everything is quiet; a copy, a burnisher job and a collective end their nodes; a deadline that passes
ends a node that has not started, and marks one that runs; a group whose lanes have ended leaves its core. The code of a node that misses its
deadline and the code that a launch protects from its start are the model's readings: log entries 78 and 11. -/
def Obligations.TaskStepResults : Prop :=
  ∀ (s : State) (n c p u : Nat) (l : Launch) (e : Nat × Coll),
    let ev := fun (nums : List Nat) => s.subject.nums = nums
    let d := s.node n
    let la := s.launch n
    let ready := s.dispatchable n = true ∧ s.bodyPins d.queue d.desc = [] ∧ ∀ e ∈ s.nodes, e.1 ≠ n → readyBefore e.2 d = true → s.dispatchable e.1 = false
    let j := c / max 1 la.cblk
    let k := if la.det then j else u
    let begun := s.setLaunch n { la with nextBlk := la.nextBlk + la.unit, perCore := aset 0 la.perCore k (aget 0 la.perCore k + 1) }
    let allOver := (∀ e ∈ s.blocks, e.2.live = true → e.2.node ≠ n) ∧ la.saved = [] ∧ la.blocks ≤ la.nextBlk
    let g := s.grp c p
    let parted := s.endTwin c p
    let apart := (match g.twin with
                  | none => parted
                  | some q => parted.setGrp c q { parted.grp c q with twin := none })
    let dropped := s.dropBurn n
    let lp := apart.launch g.node
    let blk := (apart.blkAt c g.slot).blk
    let left := (let v := apart.setLaunch g.node { lp with
                   wct := max lp.wct g.wct
                   digests := if lp.det then aset 0#64 lp.digests blk (aget 0#64 lp.digests blk + g.digest) else lp.digests }
                 (v.removeGroup c p false).afterFree c)
    let tested := (let v := (List.range 16).foldl (fun v k => v.barCheck c g.slot k) left
                   ((v.residents c).filter fun q => (v.grp c q).slot == g.slot && (v.grp c q).regrp.isSome).foldl
                     (fun v q => v.regrpCheck c q) v)
    (ev [n] → ready → descKind d.desc = 0 → s.launchFor n = .ok l →
      exec .nodeDispatch s = .next (((s.setNode n { d with state := .running }).setLaunch n
        { l with codes := s.launchCodes l, flushes := s.regionPieces n l.root l.rootV }).pokeTasks)) ∧
    (ev [n, c] → s.mayPlace n = true → s.placeable n la c = true → s.savedUnit n la c = [] → s.nextUnit n la c = some u →
      exec .blockPlacement s =
      .next (((List.range la.unit).foldl (fun v k => v.placeBlock n (c + k) (u * la.unit + k)) begun).pokeTasks)) ∧
    (ev [n] → d.state = .running → descKind d.desc = 0 → allOver → (s.endOfLaunch n).launchQuiet n = true →
      exec .nodeCompletion s = .next ((s.endOfLaunch n).finishKernel n)) ∧
    (ev [n] → d.state = .running → descKind d.desc = 1 → (∀ k ∈ s.cards, k.copy ≠ some n) → d.code = 0 → d.missed = false →
      exec .nodeCompletion s = .next ((s.endNode n .done 0).pokeTasks)) ∧
    (ev [n] → d.state = .running → descKind d.desc = 2 → (∀ b ∈ dropped.burns, b.node ≠ n) → (dropped.node n).wct ≤ dropped.dtime →
      (∀ r ∈ dropped.rjobs, r.burn ≠ some n) → (dropped.node n).code = 0 →
      exec .nodeCompletion s = .next ((dropped.endNode n .done 0).pokeTasks)) ∧
    (ev [n] → d.state = .running → descKind d.desc = 3 → s.colls.find? (fun e => e.2.node == some n) = some e → e.2.state = .done →
      d.missed = false → exec .nodeCompletion s = .next (((s.setColl e.1 {}).endNode n .done 0).pokeTasks)) ∧
    (ev [n] → s.deadlinePassed n = true → d.missed = false → (d.state = .built ∨ d.state = .waiting ∨ d.state = .ready) →
      exec .deadlinePassed s = .next ((s.endNode n .deadlineMiss Code.DEADLINE_MISS).pokeTasks)) ∧
    (ev [n] → s.deadlinePassed n = true → d.missed = false → d.state = .running → (∀ e ∈ s.colls, e.2.node ≠ some n) →
      exec .deadlinePassed s = .next (((s.setNode n { d with missed := true }).post .nodeCompletion [n]).pokeTasks)) ∧
    (ev [c, p] → g.live = true → g.liveMask = 0#32 → (g.places = none ∨ (parted.launch g.node).preempt = false ∨ (parted.launch g.node).abort ≠ none) → (s.core c).frozen = false →
      (parted.core c).frozen = false → parted.groupDone c p = true → exec .groupEnd s = .next (tested.leaveSlot c g.slot))

/-- R180, R364, R365, R375, R385 to R387, R389: the steps that take a command of a queue whose turn it is. SUBMIT builds and submits a node, WAIT
reads a node that has ended, INVAL drops translations, PREEMPT yields a running launch, RELEASE lets a frozen master go on, RESYNC writes the
summary, TRACE sets a ring, CHECKPOINT and RESTORE quiesce the device, and the end of the stream writes the record of the checkpoint. The order of
the operands is the model's reading (log entry 93); the class numbers of RELEASE, the units and bounds of INVAL's range and the layout of the summary
are its choices (log entries 95, 96 and 97). -/
def Obligations.HostCommandResults : Prop :=
  ∀ (s t u v : State) (q n node : Nat) (k : Command) (b : List Byte),
    let ev := fun (nums : List Nat) => s.subject.nums = nums
    let takes := fun (is : Nat → Bool) => s.takeCommand q is = some (k, t)
    let a := BitVec.ofNat 64 (k.operand 0)
    let root := (t.queueCtx k.queue).root
    let base := k.operand 0 / 4096 * 4096
    let kept := t.tlb.filter fun e => !(e.root == root && overlaps (e.page * 2 ^ e.bits) (2 ^ e.bits) base (4096 * k.operand 1))
    let c := k.operand 0
    let cls := k.operand 1
    let thawed : State := if cls = 0 then t.setCore c { t.core c with frozen := false, record := none }
      else { t with frozenEng := t.frozenEng.filter fun f => !(f.1 == c && f.2.1 == cls) }
    let ring := if k.operand 2 = 0 then none else some (k.operand 1, k.operand 2, 0)
    (ev [q] → s.submitPins q = [] → takes submitCode → k.code = 1 → k.only 1 = true → a.toNat % 128 = 0 → t.cpRead k.queue a 128 = .ok b → descBad b = false →
      t.buildNode b none k.queue (bitsOf (t.ctlReg (qBase k.queue + 8)) 5 4) = .ok (n, u) → u.submitNode n = .ok v →
      exec .submit s = .next ((v.completeCmd k 0 0).pokeTasks.pollQueues)) ∧
    (ev [q] → takes (· == 2) → k.only 1 = true → k.operand 0 = node → node < 4096 → (t.node node).state.ended = true → exec .wait s =
      .next (((t.completeCmd k (t.node node).state.code (t.node node).code).freeNode node).pollQueues)) ∧
    (ev [q] → takes (· == 3) → k.only 2 = true → k.operand 0 < 2 ^ 57 → k.operand 1 ≤ 2 ^ 45 → exec .inval s =
      .next ((({ t with tlb := kept } : State).completeCmd k 0 0).pollQueues)) ∧
    (ev [q] → takes (· == 4) → k.only 3 = true → k.operand 0 = node → node < 4096 → k.operand 2 < 2 ^ 32 → (t.launch node).running = true →
      (t.node node).state = .running → (t.launch node).preempt = false → exec .preempt s =
      .next (((t.keepCmd k).preemptLaunch node (some (BitVec.ofNat 64 (k.operand 1), k.operand 2))).pollQueues)) ∧
    (ev [q] → takes (· == 5) → k.only 2 = true → c < 384 → engineClass cls = true →
      (if cls = 0 then (t.core c).frozen = true else ∃ f ∈ t.frozenEng, f.1 = c ∧ f.2.1 = cls) →
      exec .release s = .next ((((thawed.resumeEngines c).completeCmd k 0 0).pokeTasks).pollQueues)) ∧
    (ev [q, 0] → takes (· == 6) → k.only 1 = true → k.operand 0 < 2 ^ 51 → (∀ r ∈ t.cmds, r.queue ≠ k.queue) →
      t.holdsCode (hostAddr (k.operand 0)) 4096 = false → exec .resync s =
      .next ((((t.setBytes (hostAddr (k.operand 0)) t.summary).wakeWaits).completeCmd k 0 0).pollQueues)) ∧
    (ev [q] → takes (· == 7) → t.tierOk k = true → exec .checkpoint s = .next (((t.keepCmd k).quiesce k false).pollQueues)) ∧
    (ev [q] → takes (· == 9) → t.tierOk k = true → exec .restore s = .next (((t.keepCmd k).quiesce k true).pollQueues)) ∧
    (ev [q] → takes (· == 8) → k.only 3 = true → c < 384 → k.operand 1 < 2 ^ 52 → exec .trace s =
      .next (((t.setCore c { t.core c with ring := ring }).completeCmd k 0 0).pollQueues)) ∧
    (ev [] → s.check = some (k, false) → s.dev = .checkpoint → s.atRest = true → exec .checkpointStreamComplete s =
      .next (({ s with check := none } : State).readyAgain.completeCmd k 0 0))

/-- R13, R21, R22, R183, R311, R320, R325, R382 to R384, R388, R390: the host's writes to control space are writes at their offsets; CXL.mem reads and
writes device memory; a power-on reset gives the state after reset with device memory undefined; the firmware check leads through BRINGUP to
READY; the mailbox answers; power is withheld, and a thermal trip freezes every core. What a power-on reset keeps (log entry 100), the key and signature
of the image and the two steps of bring-up (101), the freezing of all 384 cores (103) and the serial number that a certificate shows (107) are the
model's. -/
def Obligations.HostStepResults : Prop :=
  ∀ (s : State) (a b v w : Nat),
    let ev := fun (nums : List Nat) => s.subject.nums = nums
    let bs := s.subject.bytes
    let write := (fun (o n : Nat) => s.ctlWrite o (leBytes n v))
    let answer := fun (k : Nat) => ({ s with mailbox := s.mailbox ++ [{ kind := k, serial := if k = 4 then some Config.serialNumber else none,
                                                                         bytes := Config.freeReply k s.freeCount }] } : State)
    let signed := sha256 (beBytes 32 a ++ beBytes 32 b) == Config.fusedKey && ecdsaVerifies (a, b) (sha256 bs) v w
    let unpinned := a + bs.length ≤ devTop ∧ ∀ q ∈ s.pins, overlaps (128 * q.line) 128 a bs.length = false
    let fresh : State := { State.reset with
      mem := s.mem.filter (devTop ≤ ·.1), undefs := s.undefs, nextId := s.nextId, freeCount := s.freeCount, picks := s.picks, schedule := s.schedule,
      turn := s.turn }
    (ev [a, v] → a < 64 → exec .qTailWrite s = .next (write (qBase a + 16) 4)) ∧
    (ev [a, v] → a < 16 → exec .lplaceWrite s = .next (write (0x1000 + 8 * a) 8)) ∧
    (ev [a, b, v] → a < 16 → b < 3 → exec .fwinWrite s = .next (write (0x2000 + 32 * a + 8 * b) 8)) ∧
    (ev [a, v] → a < 8 → exec .stageWrite s = .next (write (0x3000 + 8 * a) 8)) ∧
    (ev [a, v] → a < 256 → exec .prouteWrite s = .next (write (0x10000 + 8 * a) 8)) ∧
    (ev [a, v] → a < 64 → exec .teamCfgWrite s = .next (write (0x20000 + 8 * a) 8)) ∧
    (ev [v] → exec .devFidWrite s = .next (write 0x118 8)) ∧
    (ev [a, b, v] → a < 64 → b < 64 → b % 8 = 0 → exec .queueContextWrite s = .next (write (qBase a + b) 8)) ∧
    (ev [a, b, v] → a < 2 ^ 32 → exec .controlRegisterWrite s = .next (write a b)) ∧
    (ev [a] → unpinned → s.subject.flag = false → exec .cxlMemAccess s = .next { s with cxlReply := s.bytes a bs.length }) ∧
    (ev [a] → unpinned → s.subject.flag = true → s.holdsCode a bs.length = false →
      exec .cxlMemAccess s = .next ((s.setBytes a bs).wakeWaits)) ∧
    (exec .powerOnReset s = .next (fresh.undefine (some (0, devTop)))) ∧
    (s.dev = .reset → exec .firmwareVerify s =
      .next { s with dev := .bringup, agenda := s.agenda ++ [{ what := .firmwareVerify, sub := s.subject }] }) ∧
    (ev [a, b, v, w] → s.dev = .bringup → exec .firmwareVerify s =
      .next (if signed then ({ s with dev := .ready, fwver := Config.imageVersion bs } : State).pokeTasks.pollQueues
        else { s with dev := .failed })) ∧
    exec .version s = .next (answer 0) ∧ exec .capabilities s = .next (answer 1) ∧
    exec .algorithmNegotiation s = .next (answer 2) ∧ exec .digests s = .next (answer 3) ∧ exec .certificates s = .next (answer 4) ∧
    exec .challenge s = .next (answer 5) ∧ exec .measurements s = .next (answer 6) ∧
    (exec .powerWithhold s = .next { s with
      withhold := s.subject.flag, therm := if s.therm = 2 then 2 else if s.subject.flag then 1 else 0 }) ∧
    exec .thermalTrip s = .next ((List.range 384).foldl (fun (t : State) c => t.setCore c { t.core c with frozen := true })
      { s with dev := .failed, therm := 2 })

/-- R50 to R57: the words of one instruction of every class, written out from their encodings, decode to those instructions. -/
def Obligations.DecodedWordsOfEveryClass : Prop :=
  let reads := fun (w : DWord) (i : Instr) => decode (bytesOfWord w) = .ok (i, [])
  let always : Guard := ⟨false, 7#3⟩
  reads 0x9570000000000006#64 (.fence always 6#3) ∧
  reads 0x9870006000040022#64 (.bar always ⟨true, 6#8⟩ 2#4 false true) ∧
  reads 0x0228000000000005#64 (.bra ⟨false, 2#3⟩ true 5#32) ∧
  reads 0x2570A07040920000#64 (.iaddmin always ⟨false, 10#8⟩ ⟨false, 7#8⟩ ⟨true, 4#8⟩ ⟨false, 9#8⟩ false) ∧
  reads 0x3C70204200000000#64 (.icmpL always false 2#8 4#8 0#32 2#3) ∧
  reads 0xA370010110060000#64 (.kick always 16#8 17#8) ∧
  reads 0xB270010000000000#64 (.mma always 0#8 16#8 0#3 0#3) ∧
  reads 0xD570301020000000#64 (.tadd always 3#8 1#8 2#8) ∧
  reads 0xE2728080000C0000#64 (.qpost always 40#8 8#8) ∧
  reads 0xEE70A140000C0000#64 (.gnode always 10#8 20#8) ∧
  reads 0xFA70100000000000#64 (.srd always ⟨false, 1#8⟩ 0#8)

/-- R3, R50 to R58: a well-formed instruction with an encoding is read back from the bytes of its word, whatever bytes follow. -/
def Obligations.DecodeInvertsEncode : Prop :=
  ∀ (i : Instr) (w : DWord) (rest : List Byte), encode i = some w → wellFormed i = true →
    decode (bytesOfWord w ++ rest) = .ok (i, rest)

/-- R58: what decodes is a well-formed instruction, and its own word stood in the eight bytes read: no reserved bit or code is read as an
instruction. -/
def Obligations.EncodeInvertsDecode : Prop :=
  ∀ (bs rest : List Byte) (i : Instr), decode bs = .ok (i, rest) →
    wellFormed i = true ∧ ∃ w : DWord, encode i = some w ∧ bs = bytesOfWord w ++ rest

/-- R38 to R40: the fields of a clause header are read back from its word, and a word is read as a header of given fields only if it is the word
of those fields, its reserved bits zero. -/
def Obligations.HeaderRoundTrip : Prop :=
  (∀ h : Header, (h.barw = true ∨ h.barid = 0#4) → isHeader (encodeHeader h) = true ∧ decodeHeader (encodeHeader h) = some h) ∧
  (∀ (w : DWord) (h : Header), decodeHeader w = some h → encodeHeader h = w ∧ (h.barw = true ∨ h.barid = 0#4))

/-- R65 to R67, R91: a step in which an entry issues is exec of the instruction to which the word at that entry's position decodes, in the state in
which the entry has been named the issuer, after which the issue is counted for its group; an entry whose word decodes to an instruction of its
clause's class, with no comparator there, does run it, and one with an instruction under way runs that one again; a step that finds nothing to issue
leaves the state that the attempt gave; and a step of the hardware that can be made is exec of its own row. -/
def Obligations.StepRunsTheDecodedInstruction : Prop :=
  ∀ (s r t v : State) (c p cls k : Nat) (e : Entry) (h : Header) (w : DWord) (i : Instr) (ev : Event) (counted : Bool),
    let u : State := { r with freeCount := r.freeCount + 1 }
    let at_ := fun (v : State) (k : Nat) (e : Entry) (h : Header) (w : DWord) (i : Instr) =>
      (v.grp c p).frontier[k]? = some e ∧ v.headerAt c p e = .ok h ∧ e.idx ≤ h.count.toNat ∧
      v.fetchWord c p (e.hdr + BitVec.ofNat 64 (8 * (e.idx + 1))) = .ok w ∧ decodeWord w = .ok i ∧ (classOf (opcodeOf w)).code = h.cls.toNat ∧
      (i.isTransfer = true → e.idx = h.count.toNat)
    let named := fun (k : Nat) (h : Header) => ({ core := c, grp := p, ent := k, count := h.count.toNat } : Issuer)
    (s.nextMove = (some (.issue c p cls), r) → u.attempt c p cls = .run i counted t → exec i t = .next v →
      step s = .next (v.countIssue cls counted)) ∧
    (s.nextMove = (some (.issue c p cls), r) → u.attempt c p cls = .idle t → step s = .next t) ∧
    (u.attempt c p cls = .run i counted t → ∃ k e h, t.issuer = some (named k h) ∧ ((∃ w, at_ t k e h w i) ∨
      ((t.grp c p).frontier[k]? = some e ∧ e.underWay = true ∧ e.issued = some (h, i)))) ∧
    ((s.grp c p).frontier[k]? = some e → e.underWay = true → e.issued = some (h, i) → ∃ (b : Bool) (v : State),
      s.comeToIssue c p k cls = .run i b v ∧ v.issuer = some (named k h)) ∧
    (at_ s k e h w i → e.underWay = false → s.comparator c p e = none → ∃ (b : Bool) (v : State) (e' : Entry), s.comeToIssue c p k cls = .run i b v ∧
      at_ v k e' h w i ∧ e'.hdr = e.hdr ∧ e'.idx = e.idx ∧ e'.mask = e.mask ∧ v.issuer = some (named k h)) ∧
    (s.nextMove = (some (.event ev), r) → u.makes ev.what = true → step s = exec ev.what (u.takeEvent ev))

/-- R16, R51, R59: whenever an entry issues, every instruction of the table answers a next state: none stops the machine. -/
def Obligations.EveryInstructionAnswersNext : Prop :=
  ∀ (i : Instr) (s : State), s.issuer ≠ none ∨ i.isStep = true → ∃ t, exec i s = .next t

/-- R50, R51, R59, R242, R361: an instruction that names a vector register at or above its group's count, which is the base allotment plus 32 for each
extended block it holds, has no effect of its own: at its issue its group takes REGIDX at the instruction, whatever its predicate and lanes; and
ILLEGAL_OP before that where a pair that a tile, a handle or an accumulator makes of an operand begins at an odd register (for the quarter that an f64
MMA uses the model's reading: log entry 137). A vector field names its register, and of a 64-bit operand the odd register of the pair as well; GATH
and SCAT through a handle of 8-byte elements name a pair, and ASTO, MBQ, MMA and TMULV the registers that their count, set or tile gives. -/
def Obligations.RegisterIndexTrap : Prop :=
  (∀ (i : Instr) (s : State) (n : Issuer) (e : Entry), s.issuer = some n → i.isStep = false → (s.grp n.core n.grp).frontier[n.ent]? = some e →
    e.underWay = false →
    let takes := fun (code : Nat) => exec i s = .next ((s.setGrp n.core n.grp { s.grp n.core n.grp with
      frontier := (s.grp n.core n.grp).frontier.set n.ent { e with note := [] } }).takeException n.core n.grp
        { code := code, detail := 0#64, tpc := e.hdr + BitVec.ofNat 64 (8 * (e.idx + 1)), fe := n.ent })
    (s.oddPair n.core n.grp i = true → takes Code.ILLEGAL_OP) ∧
    (s.oddPair n.core n.grp i = false →
      (∃ r ∈ vregs i ++ s.vregsAt n.core n.grp i, (s.grp n.core n.grp).baseRegs + 32 * (s.grp n.core n.grp).ext ≤ r) → takes Code.REGIDX)) ∧
  (∀ (g : Guard) (d a b : BitVec 8), vregs (.iadd g ⟨false, d⟩ ⟨false, a⟩ ⟨false, b⟩ false false) = [d.toNat, a.toNat, b.toNat] ∧
    vregs (.iadd64 g ⟨false, d⟩ ⟨false, a⟩ ⟨false, b⟩) = [d.toNat, d.toNat + 1, a.toNat, a.toNat + 1, b.toNat, b.toNat + 1] ∧
    vregs (.iadd g ⟨true, d⟩ ⟨true, a⟩ ⟨true, b⟩ false false) = []) ∧
  (∀ (s : State) (c p : Nat) (g : Guard) (d sa vb vc : BitVec 8) (k : VS) (nf bs : Bool),
    let h := aget ({} : Handle) (s.core c).handles (s.sr c p sa.toNat).toNat
    (s.sr c p sa.toNat).toNat < 64 → h.owner = some (s.grp c p).node → (h.desc[16]?).getD 0#8 = 0#8 → (h.desc[17]?).getD 0#8 = 3#8 →
    s.vregsAt c p (.gath g d sa vb k nf bs) = [d.toNat + 1] ∧ s.vregsAt c p (.scat g sa vb vc nf) = [vc.toNat + 1] ∧
    (s.oddPair c p (.gath g d sa vb k nf bs) = true ↔ d.toNat % 2 = 1) ∧ (s.oddPair c p (.scat g sa vb vc nf) = true ↔ vc.toNat % 2 = 1)) ∧
  (∀ (s : State) (c p : Nat) (g : Guard) (sd sa d a vb sc : BitVec 8), 1 ≤ (s.sr c p sc.toNat).toNat → (s.sr c p sc.toNat).toNat ≤ 256 →
    s.vregsAt c p (.asto g sd sa vb sc) = List.range' vb.toNat (s.sr c p sc.toNat).toNat ∧
    s.vregsAt c p (.tmulv g d a vb) =
      (let t := TDesc.of (s.tile c p a.toNat).img
       List.range' vb.toNat (t.e / 4 * ceilDiv t.n 32) ++ List.range' d.toNat (t.e / 4 * ceilDiv t.m 32)))

/-- R36, R50, R91, R121: every instruction that only computes on registers answers a next state in which nothing else of the device has changed:
not a byte of memory or of the pool, no register but its destinations, no other group, and of its own group only its entries, the flags that it
raises and the lanes that it missed. -/
def Obligations.RegisterFrame : Prop :=
  ∀ (i : Instr) (s : State) (n : Issuer) (w : Dests), regDests i = some w → s.runs n i →
    ∃ t, exec i s = .next t ∧ s.changesOnly t n w ∧ (∀ a, t.byte a = s.byte a) ∧ (∀ c a, t.poolByte c a = s.poolByte c a)

/-- R97, R98: what the integer arithmetic instructions write, on the values that their patterns stand for: exact sums, differences and products,
wrapped, bounded to the signed or unsigned range, or shifted down; 64-bit forms on pairs, a literal sign-extended; and
the word of R97's example is the instruction that it names. -/
def Obligations.IntegerArithmeticMeaning : Prop :=
  ∀ (s : State) (n : Issuer) (g : Guard) (d a b c : VS) (rd ra : BitVec 8) (lit : Word) (sc sat u : Bool),
    let x := s.ctx n g
    let val := fun (w : Word) => if u then (w.toNat : Int) else w.toInt
    let A := fun (l : Nat) => val (x.src s a l)
    let B := fun (l : Nat) => val (x.src s b l)
    let La := fun (l : Nat) => val (x.src s ⟨sc, ra⟩ l)
    let clamp := fun (v : Int) => if u then max 0 (min 4294967295 v) else max (-2147483648) (min 2147483647 v)
    let wrap := fun (v : Int) => BitVec.ofInt 32 v
    let out := fun (v : Int) => if sat then wrap (clamp v) else wrap v
    let gives := fun (i : Instr) (e : VS) (f : Nat → Word) => s.runs n i → exec i s = .next ((x.put e f s).advance n)
    let gives2 := fun (i : Instr) (e : VS) (f : Nat → DWord) => s.runs n i → exec i s = .next ((x.put64 e f s).advance n)
    let dl : VS := ⟨sc, rd⟩
    gives (.iadd g d a b sat u) d (fun l => out (A l + B l)) ∧
    gives (.iaddL g sc rd ra lit sat u) dl (fun l => out (La l + val lit)) ∧
    gives (.isub g d a b sat u) d (fun l => out (A l - B l)) ∧
    gives (.isubL g sc rd ra lit sat u) dl (fun l => out (La l - val lit)) ∧
    gives (.imul g d a b) d (fun l => wrap ((x.src s a l).toInt * (x.src s b l).toInt)) ∧
    gives (.imulL g sc rd ra lit) dl (fun l => wrap ((x.src s ⟨sc, ra⟩ l).toInt * lit.toInt)) ∧
    gives (.imulh g d a b u) d (fun l => wrap ((A l * B l).fdiv 4294967296)) ∧
    gives (.imad g d a b c) d (fun l => wrap ((x.src s a l).toInt * (x.src s b l).toInt + (x.src s c l).toInt)) ∧
    gives (.imin g d a b u) d (fun l => wrap (min (A l) (B l))) ∧
    gives (.iminL g sc rd ra lit u) dl (fun l => wrap (min (La l) (val lit))) ∧
    gives (.imax g d a b u) d (fun l => wrap (max (A l) (B l))) ∧
    gives (.imaxL g sc rd ra lit u) dl (fun l => wrap (max (La l) (val lit))) ∧
    gives (.iabs g d a sat) d (fun l => let v := x.src s a l
                                        if v = 0x80000000#32 then (if sat then 0x7FFFFFFF#32 else 0x80000000#32) else wrap v.toInt.natAbs) ∧
    gives (.iaddmin g d a b c u) d (fun l => wrap (min (clamp (A l + B l)) (val (x.src s c l)))) ∧
    gives2 (.iadd64 g d a b) d (fun l => BitVec.ofNat 64 ((x.src64 s a l).toNat + (x.src64 s b l).toNat)) ∧
    gives2 (.iadd64L g sc rd ra lit) dl (fun l => BitVec.ofInt 64 ((x.src64 s ⟨sc, ra⟩ l).toInt + lit.toInt)) ∧
    gives2 (.isub64 g d a b) d (fun l => BitVec.ofInt 64 ((x.src64 s a l).toInt - (x.src64 s b l).toInt)) ∧
    gives2 (.imad64 g d a b c u) d (fun l => BitVec.ofInt 64 (A l * B l + (x.src64 s c l).toInt)) ∧
    decodeWord 0x2570A07040920000#64 = .ok (.iaddmin ⟨false, 7#3⟩ ⟨false, 10#8⟩ ⟨false, 7#8⟩ ⟨true, 4#8⟩ ⟨false, 9#8⟩ false)

/-- R100, R101: what the shifts and the bit-field instructions write, on numbers: a shift multiplies or divides by a power of two, and leaves no bit
of the operand for a count at or above the width; BFE and BFI act on w bits from bit o, bits at or above 32 read as zero or dropped; POPC, CLZ and
BREV count or reverse the bits. -/
def Obligations.ShiftAndFieldMeaning : Prop :=
  ∀ (s : State) (n : Issuer) (g : Guard) (d a b c : VS) (rd ra : BitVec 8) (lit : Word) (sc u : Bool),
    let x := s.ctx n g
    let dl : VS := ⟨sc, rd⟩
    let A := fun (l : Nat) => (x.src s a l).toNat
    let B := fun (l : Nat) => (x.src s b l).toNat
    let C := fun (l : Nat) => (x.src s c l).toNat
    let La := fun (l : Nat) => (x.src s ⟨sc, ra⟩ l).toNat
    let sar := fun (v : Word) (k : Nat) => if k < 32 then BitVec.ofInt 32 (v.toInt.fdiv (2 ^ k)) else if v.getLsbD 31 then 0xFFFFFFFF#32 else 0#32
    let gives := fun (i : Instr) (e : VS) (f : Nat → Word) => s.runs n i → exec i s = .next ((x.put e f s).advance n)
    let gives2 := fun (i : Instr) (e : VS) (f : Nat → DWord) => s.runs n i → exec i s = .next ((x.put64 e f s).advance n)
    gives (.shl g d a b) d (fun l => if B l < 32 then BitVec.ofNat 32 (A l * 2 ^ B l) else 0#32) ∧
    gives (.shlL g sc rd ra lit) dl (fun l => if lit.toNat < 32 then BitVec.ofNat 32 (La l * 2 ^ lit.toNat) else 0#32) ∧
    gives (.shr g d a b) d (fun l => if B l < 32 then BitVec.ofNat 32 (A l / 2 ^ B l) else 0#32) ∧
    gives (.shrL g sc rd ra lit) dl (fun l => if lit.toNat < 32 then BitVec.ofNat 32 (La l / 2 ^ lit.toNat) else 0#32) ∧
    gives (.sar g d a b) d (fun l => sar (x.src s a l) (B l)) ∧
    gives (.sarL g sc rd ra lit) dl (fun l => sar (x.src s ⟨sc, ra⟩ l) lit.toNat) ∧
    gives2 (.shl64 g d a b) d (fun l => if B l < 64 then BitVec.ofNat 64 ((x.src64 s a l).toNat * 2 ^ B l) else 0#64) ∧
    gives2 (.shr64 g d a b) d (fun l => if B l < 64 then BitVec.ofNat 64 ((x.src64 s a l).toNat / 2 ^ B l) else 0#64) ∧
    gives2 (.shl64L g sc rd ra lit) dl (fun l =>
      if lit.toNat < 64 then BitVec.ofNat 64 ((x.src64 s ⟨sc, ra⟩ l).toNat * 2 ^ lit.toNat) else 0#64) ∧
    gives2 (.shr64L g sc rd ra lit) dl (fun l =>
      if lit.toNat < 64 then BitVec.ofNat 64 ((x.src64 s ⟨sc, ra⟩ l).toNat / 2 ^ lit.toNat) else 0#64) ∧
    gives (.bfe g d a b c u) d (fun l =>
      let o := B l % 256
      let w := min (C l % 256) 32
      let f := A l / 2 ^ o % 2 ^ w
      if w = 0 then 0#32 else if u then BitVec.ofNat 32 f else BitVec.ofInt 32 (if f < 2 ^ (w - 1) then (f : Int) else (f : Int) - 2 ^ w)) ∧
    gives (.bfi g d a b c) d (fun l => maskWhere fun k =>
      let o := C l % 256
      let w := min (C l / 256 % 256) 32
      if o ≤ k && k < o + w then (x.src s a l).getLsbD (k - o) else (x.src s b l).getLsbD k) ∧
    gives (.popc g d a) d (fun l => BitVec.ofNat 32 ((List.range 32).countP fun k => (x.src s a l).getLsbD k)) ∧
    gives (.clz g d a) d (fun l => BitVec.ofNat 32 (if A l = 0 then 32 else 31 - Nat.log2 (A l))) ∧
    gives (.brev g d a) d (fun l => (x.src s a l).reverse)

/-- R95, R99: ICMP and ICMP64 write in the bits of the lanes of Active the truth of A cc B, the signed codes on signed values and codes 6 to 9 on
unsigned ones, and a literal in place of B, sign-extended for ICMP64; codes 10 to 15 belong to no well-formed instruction, and the word of R99's
example is the instruction that it names. -/
def Obligations.ComparisonMeaning : Prop :=
  ∀ (s : State) (n : Issuer) (g : Guard) (p ra : BitVec 8) (a b : VS) (cc : BitVec 4) (c3 : BitVec 3) (sc : Bool) (lit : Word),
    let x := s.ctx n g
    let truth := fun (cc : Nat) (i j : Int) (v w : Nat) => match cc with
      | 0 => decide (v = w)
      | 1 => decide (v ≠ w)
      | 2 => decide (i < j)
      | 3 => decide (i ≤ j)
      | 4 => decide (j < i)
      | 5 => decide (j ≤ i)
      | 6 => decide (v < w)
      | 7 => decide (w ≤ v)
      | 8 => decide (v ≤ w)
      | _ => decide (w < v)
    let narrow := fun (cc : Nat) (v w : Word) => truth cc v.toInt w.toInt v.toNat w.toNat
    let wide := fun (cc : Nat) (v w : DWord) => truth cc v.toInt w.toInt v.toNat w.toNat
    let sets := fun (i : Instr) (f : Nat → Bool) => s.runs n i → exec i s = .next ((x.putP p f s).advance n)
    sets (.icmp g p a b cc) (fun l => narrow cc.toNat (x.src s a l) (x.src s b l)) ∧
    sets (.icmp64 g p a b cc) (fun l => wide cc.toNat (x.src64 s a l) (x.src64 s b l)) ∧
    sets (.icmpL g sc p ra lit c3) (fun l => narrow c3.toNat (x.src s ⟨sc, ra⟩ l) lit) ∧
    sets (.icmp64L g sc p ra lit c3) (fun l => wide c3.toNat (x.src64 s ⟨sc, ra⟩ l) (BitVec.ofInt 64 lit.toInt)) ∧
    (10 ≤ cc.toNat → wellFormed (.icmp g p a b cc) = false ∧ wellFormed (.icmp64 g p a b cc) = false) ∧
    decodeWord 0x3C70204200000000#64 = .ok (.icmpL ⟨false, 7#3⟩ false 2#8 4#8 0#32 2#3)

/-- R110, R111: with L the live lanes of Active, VOTE writes to every bit of pD in Active whether some lane of L has pA set, whether all have,
or whether all agree; BALLOT writes pA AND L; and MATCH writes to each lane of Active the lanes of L whose value, or pair, is its own. -/
def Obligations.VoteAndMatchMeaning : Prop :=
  ∀ (s : State) (n : Issuer) (g : Guard) (pd pa sd d a : BitVec 8),
    let x := s.ctx n g
    let L := lanesOf x.live
    let set := fun (l : Nat) => (s.p x.c x.p pa.toNat).getLsbD l
    let after := fun (t : State) => ((x.setXlane 0#32 t).advance n : State)
    let votes := fun (k : BitVec 2) (b : Bool) => s.runs n (.vote g pd pa k) → exec (.vote g pd pa k) s = .next (after (x.putP pd (fun _ => b) s))
    votes 0#2 (L.any set) ∧ votes 1#2 (L.all set) ∧ votes 2#2 (L.all set || L.all (fun l => !set l)) ∧
    (s.runs n (.ballot g sd pa) → exec (.ballot g sd pa) s =
      .next (after (x.put ⟨true, sd⟩ (fun _ => maskWhere fun l => x.live.getLsbD l && set l) s))) ∧
    (s.runs n (.matchLanes g d a false) → exec (.matchLanes g d a false) s = .next (after (x.put ⟨false, d⟩ (fun l =>
      maskWhere fun j => x.live.getLsbD j && s.v x.c x.p j a.toNat == s.v x.c x.p l a.toNat) s))) ∧
    (s.runs n (.matchLanes g d a true) → exec (.matchLanes g d a true) s = .next (after (x.put ⟨false, d⟩ (fun l =>
      maskWhere fun j => x.live.getLsbD j && s.v64 x.c x.p j a.toNat == s.v64 x.c x.p l a.toNat) s)))

/-- R3, R29, R50, R354: what a register reads after a write. A vector, residue, predicate or scalar register reads the value written and every
other of its file what it read before; p7 reads all ones and ignores a write; a pair reads its 64 bits; in handler mode 120 to 127 name the shadow
registers, and a write to one leaves s120 to s127 alone. -/
def Obligations.RegisterReadBack : Prop :=
  ∀ (s : State) (c p l m r q : Nat) (w : Word) (x : DWord), l < 32 → m < 256 → r < 256 → q < 8 →
    let g := s.grp c p
    (s.setV c p l r w).v c p l r = w ∧ (m ≠ r → (s.setV c p l r w).v c p l m = s.v c p l m) ∧
    (s.setV64 c p l r x).v64 c p l r = x ∧
    (s.setQ c p l q w).q c p l q = w ∧ (m < 8 → m ≠ q → (s.setQ c p l q w).q c p l m = s.q c p l m) ∧
    s.p c p 7 = 0xFFFFFFFF#32 ∧ s.setP c p 7 w = s ∧
    (q ≠ 7 → (s.setP c p q w).p c p q = w) ∧ (m < 8 → m ≠ q → (s.setP c p q w).p c p m = s.p c p m) ∧
    (r < 128 → (s.setSr c p r w).sr c p r = w ∧ (m < 128 → m ≠ r → (s.setSr c p r w).sr c p m = s.sr c p m)) ∧
    (r < 127 → (s.setSr64 c p r x).sr64 c p r = x) ∧
    (g.handler = true → 120 ≤ r → r < 128 → (s.setSr c p r w).sraw c p r = s.sraw c p r) ∧
    (g.handler = false → r < 128 → (s.setSr c p r w).sraw c p r = w)

/-- R3, R9, R13: bytes written to memory or to a core's pool are read back, little-endian as words; every other byte reads as before, in an
undefined region too; and the maps stay canonical. -/
def Obligations.MemoryReadBack : Prop :=
  ∀ (s : State) (pa a c o k : Nat) (bs : List Byte) (x : DWord),
    (s.setBytes pa bs).bytes pa bs.length = bs ∧
    (a < pa ∨ pa + bs.length ≤ a → (s.setBytes pa bs).byte a = s.byte a) ∧
    (s.setBytes pa (leBytes 8 x.toNat)).dword pa = x ∧
    (s.setPoolBytes c o bs).poolBytes c o bs.length = bs ∧
    (poolKey c k < poolKey c o ∨ poolKey c o + bs.length ≤ poolKey c k → (s.setPoolBytes c o bs).poolByte c k = s.poolByte c k) ∧
    (s.mapsWf → (s.setBytes pa bs).mapsWf ∧ (s.setPoolBytes c o bs).mapsWf)

/-- R181, R185, R186, R188, R189: LD, ST, ATOM, LDK and PREF change nothing at issue but their group, their core and what is on its way: whatever
comes of them, a fault included, no register of any group, no byte of the pool and no accumulator or tile has changed, and no byte of memory, unless
a fault has taken the group into its handler. -/
def Obligations.AccessIssueFrame : Prop :=
  ∀ (i : Instr) (s t : State) (n : Issuer) (g : Guard) (data base idx opd cmp : BitVec 8) (form llc sc2 : BitVec 2) (w aop : BitVec 4)
    (scope : BitVec 3) (w64 : Bool) (ofs : BitVec 14) (ofa : BitVec 10), s.issuer = some n →
    i = .ld g data base idx form w sc2 ofs ∨ i = .st g data base idx form w sc2 ofs ∨ i = .ldk g data base w ofs ∨
      i = .atom g data base opd cmp form aop scope w64 ofa ∨ i = .pref g base idx form llc ofs →
    exec i s = .next t →
    t.vreg = s.vreg ∧ t.sreg = s.sreg ∧ t.pred = s.pred ∧ t.qreg = s.qreg ∧ (∀ c a, t.poolByte c a = s.poolByte c a) ∧
    (t.grp n.core n.grp).accs = (s.grp n.core n.grp).accs ∧ (t.grp n.core n.grp).tiles = (s.grp n.core n.grp).tiles ∧
    ((t.grp n.core n.grp).handler = (s.grp n.core n.grp).handler → ∀ a, t.byte a = s.byte a)

/-- R189, R204, R205, R208: an access performed at its home changes at most the bytes it stores to: none for a load, those of its data for a store
and those of its width for an atomic, all from its own address; and no register and no byte of the pool. -/
def Obligations.HomeRequestFrame : Prop :=
  ∀ (s t : State) (id k aop : Nat) (a : Access), s.subject.nums = [id] → s.access id = some a → windowOf a.pa ≠ some .control →
    exec .homeRequest s = .next t →
    t.vreg = s.vreg ∧ t.sreg = s.sreg ∧ t.pred = s.pred ∧ t.qreg = s.qreg ∧ t.pool = s.pool ∧
    (a.kind = .load → t.byte k = s.byte k) ∧
    (a.kind = .store → k < a.pa ∨ a.pa + a.data.length ≤ k → t.byte k = s.byte k) ∧
    (a.kind = .atomic aop → k < a.pa ∨ a.pa + a.n ≤ k → t.byte k = s.byte k)

/-- R187, R190: LDS, STS and ATOMS change no byte of memory, unless a fault has taken the group into its handler, and of the pool at most the bytes
of the elements of their live lanes: none for LDS, and for a store or atomic those at the slice's base plus the lane's offset. -/
def Obligations.SliceAccessFrame : Prop :=
  ∀ (s t : State) (n : Issuer) (g : Guard) (data base opd cmp : BitVec 8) (form : BitVec 2) (w aop : BitVec 4) (scope : BitVec 3)
    (w64 : Bool) (ofs : BitVec 14) (ofa : BitVec 10) (c k : Nat), s.issuer = some n →
    let x := s.ctx n g
    let b := (s.scrSlice x.c x.g.slot).1
    let outside := fun (at_ : Nat → Int) (m : Nat) => ∀ l ∈ lanesOf x.live,
      poolKey c k < poolKey x.c (b + (at_ l).toNat) ∨ poolKey x.c (b + (at_ l).toNat) + m ≤ poolKey c k
    let others := t.sreg = s.sreg ∧ t.pred = s.pred ∧ t.qreg = s.qreg ∧
      ((t.grp n.core n.grp).handler = (s.grp n.core n.grp).handler → ∀ a, t.byte a = s.byte a)
    (exec (.lds g data base form w ofs) s = .next t → others ∧ t.poolByte c k = s.poolByte c k) ∧
    (exec (.sts g data base form w ofs) s = .next t → others ∧ t.vreg = s.vreg ∧
      (outside (x.poolAddr s form base ofs) (widthBytes w) → t.poolByte c k = s.poolByte c k)) ∧
    (exec (.atoms g data base opd cmp form aop scope w64 ofa) s = .next t → others ∧
      (outside (x.poolAddr s form base ofa) (if w64 then 8 else 4) → t.poolByte c k = s.poolByte c k))

/-- R70 to R76, R89: the frame of the control transfers. NOP, BRA, BRX and RET change nothing but their group's entries; CALL and CALLX the pair of
the return address besides, LOOP its counter; ITER its counter, its status predicate, its flags and the record that its node's deadline has passed;
EXIT, when its group has no rejoin register armed and its block no regrouping, no register of any group, no byte of memory and none of the pool. -/
def Obligations.TransferFrame : Prop :=
  ∀ (s : State) (n : Issuer) (g : Guard) (hint f64 : Bool) (d a : VS) (st : BitVec 3) (ofs : BitVec 32),
    let leaves := fun (i : Instr) (w : Dests) => s.runs n i → ∃ t, exec i s = .next t ∧ s.changesOnly t n w
    let count : VS := ⟨a.sc, a.n + (if f64 then 4#8 else 2#8)⟩
    leaves (.nop g) {} ∧ leaves (.bra g hint ofs) {} ∧ leaves (.brx g a) {} ∧ leaves (.ret g a) {} ∧
    leaves (.call g hint a ofs) (vsDest a true) ∧ leaves (.callx g d a) (vsDest d true) ∧ leaves (.loop g hint a ofs) (vsDest a false) ∧
    (s.runs n (.iter g hint f64 st a ofs) → ∃ t, exec (.iter g hint f64 st a ofs) s = .next t ∧
      s.changesOnly { t with nodes := s.nodes } n { vsDest count false with p := [st.toNat], fl := true }) ∧
    (s.runs n (.exit g) → (∀ k, (s.jreg n.core n.grp k).armed = false) → (∀ q, (s.grp n.core q).regrp = none) →
      (s.blockOf n.core n.grp).regroups = [] → ∃ t, exec (.exit g) s = .next t ∧ t.vreg = s.vreg ∧ t.sreg = s.sreg ∧ t.pred = s.pred ∧ t.qreg = s.qreg ∧
      t.pool = s.pool ∧ ∀ k, t.byte k = s.byte k)

/-- R10, R179, R180, R354: the physical address space, and what a translated access meets. Device memory, a peer's device memory, control space and
host memory stand where the table puts them, and every address outside them is a hole, an address at a peer beyond its memory included. An access
without translation in force meets XLATE_MISS; without an entry in the TLB it meets what the walk of the tables does, XLATE_MISS at an entry without V
and XLATE_BAD at one with V that breaks the rules of entries; with a leaf in force, XLATE_PROT where the leaf does not allow it, a page of handlers
included (R180's table beside R354's PRIV, the model's reading: log entry 26); then PHYS_HOLE outside every window, PRIV in control space outside a
handler, and FABRIC_LOST at a peer that no route reaches; else it reaches the physical address that the leaf gives. A handler reaches a save slot of
its core in reserved memory at its own address (the model's choice: log entry 86). -/
def Obligations.AddressMapAndTranslation : Prop :=
  (∀ pa : Nat,
    (pa ≤ 0xB2D05DFFFF → windowOf pa = some .device) ∧
    (0x1000000000000 ≤ pa → pa ≤ 0x1FFFFFFFFFFFF → pa % 2 ^ 40 < 0xB2D05E0000 → windowOf pa = some .remote) ∧
    (0x7000000000000 ≤ pa → pa ≤ 0x70000FFFFFFFF → windowOf pa = some .control) ∧
    (0x8000000000000 ≤ pa → pa ≤ 0xFFFFFFFFFFFFF → windowOf pa = some .host) ∧
    (0x1000000000000 ≤ pa → pa ≤ 0x1FFFFFFFFFFFF → 0xB2D05E0000 ≤ pa % 2 ^ 40 → windowOf pa = none) ∧
    (0xB2D05E0000 ≤ pa → pa < 0x1000000000000 → windowOf pa = none) ∧ (0x2000000000000 ≤ pa → pa < 0x7000000000000 → windowOf pa = none) ∧
    (0x7000100000000 ≤ pa → pa < 0x8000000000000 → windowOf pa = none) ∧ (0x10000000000000 ≤ pa → windowOf pa = none)) ∧
  (∀ (s : State) (core : Nat) (x : Context) (m : Mode) (addr : DWord) (l : Leaf),
    let va := addr.toNat % 2 ^ 57
    let pa := pteAddr l.pte / 2 ^ l.bits * 2 ^ l.bits + va % 2 ^ l.bits
    let allowed := (m.write = true → l.pte.getLsbD 4 = true) ∧ (m.fetch = true → l.pte.getLsbD 5 = true) ∧
      (m.handler = false → l.pte.getLsbD 6 = false)
    let slot := m.handler = true ∧ m.fetch = false ∧ ∃ p < 64, ∃ r, ((s.grp core p).reserved = some r ∨ (s.grp core p).lastSlot = some r) ∧
      r.1 ≤ va ∧ va < r.1 + r.2
    (slot → s.translate core x m addr = .ok va) ∧
    (¬ slot → x.v = false → s.translate core x m addr = .error Code.XLATE_MISS) ∧
    (∀ code : Nat, ¬ slot → x.v = true → (∀ e ∈ s.tlb, e.core = core → e.root = x.root → va / 2 ^ e.bits ≠ e.page) → s.walk va 5 x.root = .error code →
      s.translate core x m addr = .error code) ∧
    (∀ k table : Nat,
      let e := s.dword (table + 8 * (va / 2 ^ (12 + 9 * k) % 512))
      let leaf := e.getLsbD 1 = true
      let bad := e.extractLsb' 52 12 ≠ 0#12 ∨ e.extractLsb' 8 4 ≠ 0#4 ∨ e.extractLsb' 2 2 ≠ 0#2 ∨ (e.getLsbD 7 = true ∧ ¬ (leaf ∧ k = 0)) ∨
        (leaf ∧ (k = 4 ∨ k = 3)) ∨ (¬ leaf ∧ k = 0) ∨ (leaf ∧ pteAddr e % 2 ^ (12 + 9 * k) ≠ 0)
      (e.getLsbD 0 = false → s.walk va (k + 1) table = .error Code.XLATE_MISS) ∧
      (e.getLsbD 0 = true → bad → s.walk va (k + 1) table = .error Code.XLATE_BAD) ∧
      (e.getLsbD 0 = true → ¬ bad → ¬ leaf → s.walk va (k + 1) table = s.walk va k (pteAddr e))) ∧
    (¬ slot → s.leaf core x va = .ok l → ¬ allowed → s.translate core x m addr = .error Code.XLATE_PROT) ∧
    (¬ slot → s.leaf core x va = .ok l → allowed → windowOf pa = none → s.translate core x m addr = .error Code.PHYS_HOLE) ∧
    (¬ slot → s.leaf core x va = .ok l → allowed → windowOf pa = some .control →
      s.translate core x m addr = if m.handler then .ok pa else .error Code.PRIV) ∧
    (¬ slot → s.leaf core x va = .ok l → allowed → windowOf pa = some .remote →
      s.translate core x m addr = if (s.portTo (pa / 2 ^ 40 % 256)).isSome then .ok pa else .error Code.FABRIC_LOST) ∧
    (¬ slot → s.leaf core x va = .ok l → allowed → windowOf pa = some .device ∨ windowOf pa = some .host → s.translate core x m addr = .ok pa))

/-- R356 to R359: the entry into a handler of a group that has no load outstanding and no instruction under way, when its area is a page of device or
host memory that it may write, that holds no running code and no line of which another core has pinned: the frame stands at the area with the cause,
the detail, the saved registers, the time and the position of the causing entry; one entry holds every live lane at priority 255 at the vector; the
trap registers and h0 to h7 hold what R358 and R359 say; sr.wct is unchanged, and so is every register and every other byte of memory. -/
def Obligations.ExceptionEntry : Prop :=
  ∀ (s : State) (c p pa : Nat) (t : Cause) (e : Entry),
    let g := s.grp c p
    let l := s.launchOf c p
    let area := BitVec.ofNat 64 ((l.hbase.toNat + 4096 * (64 * c + p)) % 2 ^ 57)
    let vec := if (t.code = Code.BREAK ∨ t.code = Code.STOP) ∧ l.dvec ≠ 0#64 then l.dvec else l.tvec
    let slot := t.code = Code.PREEMPT ∨ t.code = Code.RESUME
    let u := s.takeException c p t
    let h := u.grp c p
    let shadow := fun (k : Nat) => aget 0#32 h.shadow k
    let at_ := fun (o n : Nat) => leNat (u.bytes (pa + o) n)
    g.handler = false → g.trap = none → s.loadsPending c p = false → vec ≠ 0#64 → t.code < 128 → t.fe < 32 →
    s.translateRange c l.context { write := true, handler := true } area 1280 = .ok [(pa, 1280)] → s.holdsCode pa 1280 = false →
    s.pinnedLines c pa 1280 = [] → windowOf pa = some .device ∨ windowOf pa = some .host →
    h.handler = true ∧ h.frontier = [{ prio := 255, hdr := vec, idx := 0, mask := g.liveMask, src := t.tpc }] ∧ h.parked = [] ∧
    h.liveMask = g.liveMask ∧ h.wct = g.wct ∧
    h.tcode.toNat = t.code + 65536 * t.fe ∧ h.tcause = t.detail ∧ h.tpc = t.tpc ∧
    shadow 0 = lo32 area ∧ shadow 1 = hi32 area ∧ (slot → shadow 2 = lo32 g.saveAddr ∧ shadow 3 = hi32 g.saveAddr ∧
      shadow 4 = BitVec.ofNat 32 g.saveSize) ∧ (¬ slot → shadow 2 = 0#32 ∧ shadow 3 = 0#32 ∧ shadow 4 = 0#32) ∧
    (shadow 5).toNat = t.code + 65536 * t.fe ∧ shadow 6 = 0#32 ∧ shadow 7 = 0#32 ∧
    at_ 0 8 = t.tpc.toNat ∧ at_ 8 4 = t.code + 65536 * t.fe ∧ at_ 12 4 = 0 ∧ at_ 16 8 = t.detail.toNat ∧ at_ 24 4 = g.fflags.toNat ∧
    at_ 28 4 = g.emask.toNat ∧ at_ 32 4 = g.gmask.toNat ∧ at_ 36 4 = g.xlane.toNat ∧ at_ 40 8 = g.faddr.toNat % 2 ^ 57 ∧
    (s.dtime < 2 ^ 64 → at_ 48 8 = s.dtime) ∧ at_ 56 8 = 0 ∧
    (t.fe < g.frontier.length → g.frontier[t.fe]? = some e → e.idx < 16 →
      at_ (64 + 16 * t.fe) 8 = e.hdr.toNat % 2 ^ 57 + 2 ^ 57 * e.idx + 2 ^ 63 ∧ at_ (72 + 16 * t.fe) 4 = e.mask.toNat ∧
      at_ (76 + 16 * t.fe) 1 = e.prio % 256) ∧
    (∀ k, g.frontier.length ≤ k → k < 32 → at_ (64 + 16 * k) 16 = 0) ∧
    u.vreg = s.vreg ∧ u.sreg = s.sreg ∧ u.pred = s.pred ∧ u.qreg = s.qreg ∧ u.pool = s.pool ∧
    (∀ a, a < pa ∨ pa + 1280 ≤ a → u.byte a = s.byte a)

/-- R355, R360, R363: where no handler is entered. A cause raised in handler mode aborts the launch with DOUBLE_FAULT, one whose vector is 0 with its
own code, and one whose area cannot be written with DOUBLE_FAULT: each of the launch's groups is at its end, no register and no byte of memory or of
the pool has changed, and an abort already under way keeps its code. A group with a load outstanding keeps its cause and does not yet enter, and one
that keeps a cause takes no other (the model's reading: log entry 143) but that of an earlier entry in the same cycle; that an area in a window which
cannot hold one counts as one that cannot be written is its reading too (log entry 19). -/
def Obligations.ExceptionsThatAbort : Prop :=
  ∀ (s : State) (c p : Nat) (t old : Cause) (e : Nat × DWord) (ps : List (Nat × Nat)),
    let g := s.grp c p
    let l := s.launchOf c p
    let u := s.takeException c p t
    let aborts := fun (code : Nat) => (u.launch g.node).abort = some (l.abort.getD code) ∧
      (∀ c' p', p' < 64 → (s.grp c' p').live = true → (s.grp c' p').node = g.node →
        (u.grp c' p').frontier = [] ∧ (u.grp c' p').parked = [] ∧ (u.grp c' p').liveMask = 0#32) ∧
      u.vreg = s.vreg ∧ u.sreg = s.sreg ∧ u.pred = s.pred ∧ u.qreg = s.qreg ∧ u.pool = s.pool ∧ u.mem = s.mem ∧ u.undef = s.undef
    (g.handler = true → aborts Code.DOUBLE_FAULT) ∧
    (g.handler = false → g.trap = none → s.loadsPending c p = false → l.vector t.code = 0#64 → aborts t.code) ∧
    (g.handler = false → g.trap = none → s.loadsPending c p = false → l.vector t.code ≠ 0#64 →
      s.translateRange c l.context { write := true, handler := true } (l.area c p) 1280 = .error e → aborts Code.DOUBLE_FAULT) ∧
    (g.handler = false → g.trap = none → s.loadsPending c p = false → l.vector t.code ≠ 0#64 →
      s.translateRange c l.context { write := true, handler := true } (l.area c p) 1280 = .ok ps →
      (∃ q ∈ ps, windowOf q.1 ≠ some .device ∧ windowOf q.1 ≠ some .host) → aborts Code.DOUBLE_FAULT) ∧
    (g.handler = false → g.trap = none → s.loadsPending c p = true → (u.grp c p).trap = some (t.noted s.cycle g.frontier) ∧
      (u.grp c p).handler = false ∧ u.mem = s.mem ∧ u.vreg = s.vreg) ∧
    (g.handler = false → g.trap = some old → old.yields t s.cycle g.frontier = false → g.nextFault = none → u = s) ∧
    (g.handler = false → g.trap = some old → old.tpc ≠ 0#64 → t.tpc ≠ 0#64 → old.at_ = s.cycle → t.fe < old.place g.frontier →
      (u.grp c p).trap = some (t.noted s.cycle g.frontier) ∧ (u.grp c p).handler = false ∧ u.mem = s.mem ∧ u.vreg = s.vreg)

/-- R354, R361: outside a handler RTE, SAVELIVE and RESTLIVE, a read of the trap registers, and a write of sr.emask, sr.faddr or sr.faddrh by a live
lane raise PRIV at the instruction and have no other effect. -/
def Obligations.PrivilegeTraps : Prop :=
  ∀ (i : Instr) (s : State) (n : Issuer) (e : Entry) (g : Guard) (yld : Bool) (sd sa : BitVec 8) (d : VS) (r : BitVec 8),
    s.runs n i → (s.grp n.core n.grp).handler = false → (s.grp n.core n.grp).frontier[n.ent]? = some e → (s.ctx n g).live ≠ 0#32 →
    i = .rte g yld ∨ i = .savelive g sd sa ∨ i = .restlive g sa ∨ (i = .srd g d r ∧ 0x20 ≤ r.toNat ∧ r.toNat ≤ 0x24) ∨
      (i = .swr g r sa ∧ (r = 0x1A#8 ∨ r = 0x1C#8 ∨ r = 0x1D#8)) →
    exec i s = .next ((s.setGrp n.core n.grp { s.grp n.core n.grp with
      frontier := (s.grp n.core n.grp).frontier.set n.ent { e with note := [] } }).takeException n.core n.grp
        { code := Code.PRIV, detail := 0#64, tpc := wordAddr e.hdr e.idx, fe := n.ent })

/-- R181, R186, R361: a load or store whose lowest unperformed live lane has an address that is not a multiple of the width performs nothing: the
address is in sr.faddr and the group takes MISALIGN at the instruction; LDK does the same for its one address. -/
def Obligations.MisalignedAccessTraps : Prop :=
  ∀ (i : Instr) (s : State) (n : Issuer) (e : Entry) (g : Guard) (data base idx : BitVec 8) (form nl1 : BitVec 2) (w : BitVec 4)
    (ofs : BitVec 14) (l : Nat),
    let x := s.ctx n g
    let p := s.grp n.core n.grp
    let lane := if i = .ldk g data base w ofs then 0 else l
    let addr := if i = .ldk g data base w ofs then x.addr s 0#2 base 0#8 ofs 0 else x.addr s form base idx ofs lane
    s.runs n i → p.frontier[n.ent]? = some e → p.trap = none → w.toNat < 7 → addr.toNat % widthBytes w ≠ 0 →
    i = .ld g data base idx form w nl1 ofs ∨ i = .st g data base idx form w nl1 ofs ∨ i = .ldk g data base w ofs →
    x.live ≠ 0#32 → i = .ldk g data base w ofs ∨ (lanesOf (x.live &&& ~~~p.emask)).head? = some l →
    exec i s = .next ((s.setGrp n.core n.grp { p with
      faddr := BitVec.ofNat 64 (addr.toNat % 2 ^ 57), frontier := p.frontier.set n.ent { e with note := [] } }).takeException n.core n.grp
      { code := Code.MISALIGN, detail := 0#64, tpc := wordAddr e.hdr e.idx, fe := n.ent })

/-- R39, R45, R46, R58, R59: an entry that comes to issue at a position without a legal header, or at a word that is no legal instruction of its clause,
issues nothing: its group takes ILLEGAL_TARGET or ILLEGAL_OP, of the header with the header's address, of the word with the word's. That the TPC
of ILLEGAL_TARGET is the address that the entry has reached is the model's reading: log entry 12. -/
def Obligations.IllegalInstructionTraps : Prop :=
  ∀ (s : State) (c p k cls : Nat) (e : Entry) (h : Header) (w v : DWord) (i : Instr) (err : DecodeError),
    let takes := fun (code : Nat) (detail pc : DWord) => s.comeToIssue c p k cls =
      .idle (s.takeException c p { code := code, detail := detail, tpc := pc, fe := k })
    let takesAt := fun (code : Nat) (pc : DWord) => s.comeToIssue c p k cls =
      .idle ((s.setGrp c p { s.grp c p with frontier := (s.grp c p).frontier.set k { e with note := [] } }).takeException c p
        { code := code, detail := 0#64, tpc := pc, fe := k })
    let word := e.hdr + BitVec.ofNat 64 (8 * (e.idx + 1))
    let here := (s.grp c p).frontier[k]? = some e ∧ e.underWay = false
    let clause := e.hdr.toNat % 8 = 0 ∧ s.fetchWord c p e.hdr = .ok w ∧ isHeader w = true ∧ decodeHeader w = some h ∧ s.comparator c p e = none
    (here → e.hdr.toNat % 8 ≠ 0 → takes Code.ILLEGAL_TARGET e.src e.hdr) ∧
    (here → e.hdr.toNat % 8 = 0 → s.fetchWord c p e.hdr = .ok w → isHeader w = false → takes Code.ILLEGAL_TARGET e.src e.hdr) ∧
    (here → e.hdr.toNat % 8 = 0 → s.fetchWord c p e.hdr = .ok w → isHeader w = true → decodeHeader w = none → takes Code.ILLEGAL_OP 0#64 e.hdr) ∧
    (here → clause → e.idx ≤ h.count.toNat → s.fetchWord c p word = .ok v → decodeWord v = .error err → takesAt Code.ILLEGAL_OP word) ∧
    (here → clause → e.idx ≤ h.count.toNat → s.fetchWord c p word = .ok v → decodeWord v = .ok i →
      (classOf (opcodeOf v)).code ≠ h.cls.toNat ∨ (i.isTransfer = true ∧ e.idx ≠ h.count.toNat) → takesAt Code.ILLEGAL_OP word)

/-- R13, R21, R22, R157, R314, R321, R340, R388, and notes 1 and 2 for the registers of which the spec gives no reset value: the device after a power-on
reset. Device time is 0, its state is RESET, no node, work entry, collective or launch is in use, every trigger counter and the ticket clock are 0,
every ring slot is empty, no group is resident, and every register of every group reads 0, as does every byte of memory and of the pools. Device
time then advances by exactly 1 in a nanosecond's step and by nothing in a cycle's, in which the arithmetic clock advances by 1. -/
def Obligations.ResetStateAndTime : Prop :=
  (∀ (c p l n k a : Nat),
    let s := State.reset
    s.dtime = 0 ∧ s.dev = .reset ∧ s.therm = 0 ∧ (s.node n).state = .free ∧ (aget {} s.work n).state = .free ∧ (aget {} s.colls n).state = .free ∧
    (s.launch n).running = false ∧ aget 0#32 s.ctrs n = 0#32 ∧ s.ticketClock = 0 ∧ (aget {} (s.core c).slots k).owner = none ∧
    (s.core c).frozen = false ∧ (s.grp c p).live = false ∧ s.v c p l n = 0#32 ∧ s.sr c p n = 0#32 ∧ s.q c p l n = 0#32 ∧
    (n ≠ 7 → s.p c p n = 0#32) ∧ s.p c p 7 = 0xFFFFFFFF#32 ∧ s.byte a = 0#8 ∧ s.poolByte c a = 0#8 ∧ s.ctlReg 0x1000 = 0#64 ∧
    s.accesses = [] ∧ s.packets = [] ∧ s.cmds = []) ∧
  ∀ s r : State, (s.nextMove = (some .ns, r) → ∃ t, step s = .next t ∧ t.dtime = s.dtime + 1 ∧ t.cycle = s.cycle) ∧
    (s.nextMove = (some .cycle, r) → ∃ t, step s = .next t ∧ t.dtime = s.dtime ∧ t.cycle = s.cycle + 1)

/-- The maps of memory, of the pools and of the registers are canonical after reset: no address or register is listed twice, out of order, or with
the value that an unlisted one reads as. -/
def Obligations.ResetMapsCanonical : Prop := State.reset.mapsWf

/-- An invariant of the model: every step keeps the maps of memory, of the pools and of the registers canonical, so that states which read alike are
the same data. -/
def Obligations.MapsStayCanonical : Prop := ∀ s t : State, s.mapsWf → step s = .next t → t.mapsWf
end

