-- ==== Sys2Proof/Laws/Encoding.lean ====
section
/-! SUPPORT. The five word formats of R49 to R54 read back: unpacking a packed word gives its fields, and its
opcode is the packed one. A word that the table's candidate names, whose instruction is well formed and encodes
to that word, is decoded as that instruction. -/

namespace Sys2Proof
set_option maxRecDepth 20000

theorem unpackG_packG (r : FormatG) : unpackG (packG r) = r := by
  obtain ⟨op, ⟨ng, p⟩, d, a, b, c, fd, fa, fb, fc, m⟩ := r
  simp only [unpackG, packG, opcodeOf, guardOf, FormatG.mk.injEq, Guard.mk.injEq]
  refine ⟨?_, ⟨?_, ?_⟩, ?_, ?_, ?_, ?_, ?_, ?_, ?_, ?_, ?_⟩ <;>
    (repeat rw [BitVec.extractLsb'_append_eq_of_le (by omega)]) <;>
    (try rw [BitVec.extractLsb'_append_eq_of_add_le (by omega)]) <;>
    (repeat rw [BitVec.getLsbD_append]) <;> simp

theorem unpackL_packL (r : FormatL) : unpackL (packL r) = r := by
  obtain ⟨op, ⟨ng, p⟩, d, a, s, m, lit⟩ := r
  simp only [unpackL, packL, opcodeOf, guardOf, FormatL.mk.injEq, Guard.mk.injEq]
  refine ⟨?_, ⟨?_, ?_⟩, ?_, ?_, ?_, ?_, ?_⟩ <;>
    (repeat rw [BitVec.extractLsb'_append_eq_of_le (by omega)]) <;>
    (try rw [BitVec.extractLsb'_append_eq_of_add_le (by omega)]) <;>
    (repeat rw [BitVec.getLsbD_append]) <;> simp

theorem unpackM_packM (r : FormatM) : unpackM (packM r) = r := by
  obtain ⟨op, ⟨ng, p⟩, d, a, b, f, w, m, o⟩ := r
  simp only [unpackM, packM, opcodeOf, guardOf, FormatM.mk.injEq, Guard.mk.injEq]
  refine ⟨?_, ⟨?_, ?_⟩, ?_, ?_, ?_, ?_, ?_, ?_, ?_⟩ <;>
    (repeat rw [BitVec.extractLsb'_append_eq_of_le (by omega)]) <;>
    (try rw [BitVec.extractLsb'_append_eq_of_add_le (by omega)]) <;>
    (repeat rw [BitVec.getLsbD_append]) <;> simp

theorem unpackA_packA (r : FormatA) : unpackA (packA r) = r := by
  obtain ⟨op, ⟨ng, p⟩, d, a, b, c, f, w, sc, w64, o⟩ := r
  simp only [unpackA, packA, opcodeOf, guardOf, FormatA.mk.injEq, Guard.mk.injEq]
  refine ⟨?_, ⟨?_, ?_⟩, ?_, ?_, ?_, ?_, ?_, ?_, ?_, ?_, ?_⟩ <;>
    (repeat rw [BitVec.extractLsb'_append_eq_of_le (by omega)]) <;>
    (try rw [BitVec.extractLsb'_append_eq_of_add_le (by omega)]) <;>
    (repeat rw [BitVec.getLsbD_append]) <;> simp

theorem unpackB_packB (r : FormatB) : unpackB (packB r) = r := by
  obtain ⟨op, ⟨ng, p⟩, h, f, m, a, o⟩ := r
  simp only [unpackB, packB, opcodeOf, guardOf, FormatB.mk.injEq, Guard.mk.injEq]
  refine ⟨?_, ⟨?_, ?_⟩, ?_, ?_, ?_, ?_, ?_⟩ <;>
    (repeat rw [BitVec.extractLsb'_append_eq_of_le (by omega)]) <;>
    (try rw [BitVec.extractLsb'_append_eq_of_add_le (by omega)]) <;>
    (repeat rw [BitVec.getLsbD_append]) <;> simp

theorem opcode_packG (r : FormatG) : opcodeOf (packG r) = r.op := congrArg FormatG.op (unpackG_packG r)
theorem opcode_packL (r : FormatL) : opcodeOf (packL r) = r.op := congrArg FormatL.op (unpackL_packL r)
theorem opcode_packM (r : FormatM) : opcodeOf (packM r) = r.op := congrArg FormatM.op (unpackM_packM r)
theorem opcode_packA (r : FormatA) : opcodeOf (packA r) = r.op := congrArg FormatA.op (unpackA_packA r)
theorem opcode_packB (r : FormatB) : opcodeOf (packB r) = r.op := congrArg FormatB.op (unpackB_packB r)


theorem decodeWord_ok {w : DWord} {i : Instr} (hc : candidate w = some i) (hw : wellFormed i = true) (he : encode i = some w) :
    decodeWord w = .ok i := by
  simp [decodeWord, hc, hw, he]

end Sys2Proof
end

