-- ==== Sys2Proof/Laws/Maps.lean ====
section
/-!
SUPPORT. The laws of finite maps: what is read after a write, and the canonical form, which every operation keeps and in which maps that
read alike are equal.
-/
namespace Sys2Proof.Machine

theorem aget_adel (d : α) (m : List (Nat × α)) (k j : Nat) : aget d (adel m k) j = if j = k then d else aget d m j := by
  induction m with
  | nil => simp [adel, aget]
  | cons e m ih =>
    obtain ⟨a, v⟩ := e
    simp only [adel]
    by_cases h : a = k
    · simp only [h, if_true, ih, aget]
      by_cases h2 : j = k
      · simp [h2]
      · simp [h2, Ne.symm h2]
    · simp only [h, if_false, aget, ih]
      by_cases h2 : j = k
      · subst h2; simp [h]
      · simp [h2]

theorem aget_ains (d : α) (m : List (Nat × α)) (k j : Nat) (v : α) (h : ∀ e ∈ m, e.1 ≠ k) :
    aget d (ains m k v) j = if j = k then v else aget d m j := by
  induction m with
  | nil => simp [ains, aget, eq_comm]
  | cons e m ih =>
    obtain ⟨a, w⟩ := e
    have ha : a ≠ k := h (a, w) (by simp)
    have ih := ih fun e he => h e (by simp [he])
    simp only [ains]
    by_cases hk : k < a
    · simp only [hk, if_true, aget, eq_comm]
    · simp only [hk, if_false, aget, ih]
      by_cases h2 : j = k
      · subst h2; simp [ha]
      · simp [h2]

theorem adel_ne (m : List (Nat × α)) (k : Nat) : ∀ e ∈ adel m k, e.1 ≠ k := by
  induction m with
  | nil => simp [adel]
  | cons e m ih =>
    obtain ⟨a, v⟩ := e
    by_cases h : a = k
    · simp only [adel, h, if_true]; exact ih
    · simp only [adel, h, if_false, List.mem_cons]
      rintro e (rfl | he)
      · exact h
      · exact ih e he

theorem adel_adel (m : List (Nat × α)) (k : Nat) : adel (adel m k) k = adel m k := by
  induction m with
  | nil => rfl
  | cons e m ih =>
    obtain ⟨a, v⟩ := e
    by_cases h : a = k <;> simp [adel, h, ih]

theorem adel_ains (m : List (Nat × α)) (k : Nat) (v : α) : adel (ains m k v) k = adel m k := by
  induction m with
  | nil => simp [ains, adel]
  | cons e m ih =>
    obtain ⟨a, w⟩ := e
    by_cases h : k < a <;> simp [ains, adel, h, ih]

/-- The last of two writes of a key is the one that counts. -/
theorem aset_aset [DecidableEq α] (d : α) (m : List (Nat × α)) (k : Nat) (v w : α) : aset d (aset d m k v) k w = aset d m k w := by
  have h : adel (aset d m k v) k = adel m k := by
    unfold aset
    split
    · exact adel_adel m k
    · rw [adel_ains, adel_adel]
  simp only [aset] at h ⊢
  rw [h]

/-- A read after a write: the value written at its key, what was there before at every other. -/
theorem aget_aset [DecidableEq α] (d : α) (m : List (Nat × α)) (k j : Nat) (v : α) :
    aget d (aset d m k v) j = if j = k then v else aget d m j := by
  unfold aset
  split
  · rename_i h; rw [aget_adel, h]
  · rw [aget_ains _ _ _ _ _ (adel_ne m k), aget_adel]
    by_cases h : j = k <;> simp [h]

@[simp] theorem aget_aset_self [DecidableEq α] (d : α) (m : List (Nat × α)) (k : Nat) (v : α) : aget d (aset d m k v) k = v := by
  simp [aget_aset]

theorem aget_aset_ne [DecidableEq α] (d : α) (m : List (Nat × α)) {k j : Nat} (v : α) (h : j ≠ k) :
    aget d (aset d m k v) j = aget d m j := by
  simp [aget_aset, h]

@[simp] theorem awf_nil [DecidableEq α] (d : α) : awf d ([] : List (Nat × α)) = true := rfl

/-- The canonical form in words: a first key below all others, its value not the default, and a canonical rest. -/
theorem awf_cons [DecidableEq α] (d : α) (k : Nat) (v : α) (m : List (Nat × α)) :
    awf d ((k, v) :: m) = true ↔ (∀ e ∈ m, k < e.1) ∧ v ≠ d ∧ awf d m = true := by
  induction m generalizing k v with
  | nil => simp [awf]
  | cons e m ih =>
    obtain ⟨a, w⟩ := e
    simp only [awf, Bool.and_eq_true, decide_eq_true_eq, bne_iff_ne, List.mem_cons, forall_eq_or_imp]
    constructor
    · rintro ⟨⟨h1, h2⟩, h3⟩
      exact ⟨⟨h1, fun e he => Nat.lt_trans h1 ((ih a w).1 h3 |>.1 e he)⟩, h2, h3⟩
    · rintro ⟨⟨h1, _⟩, h2, h3⟩
      exact ⟨⟨h1, h2⟩, h3⟩

theorem mem_adel {m : List (Nat × α)} {k : Nat} {e : Nat × α} (h : e ∈ adel m k) : e ∈ m := by
  induction m with
  | nil => simp [adel] at h
  | cons x m ih =>
    obtain ⟨a, v⟩ := x
    by_cases hk : a = k
    · simp only [adel, hk, if_true] at h; exact List.mem_cons_of_mem _ (ih h)
    · simp only [adel, hk, if_false, List.mem_cons] at h ⊢
      exact h.imp id ih

theorem awf_filter [DecidableEq α] {d : α} {m : List (Nat × α)} (f : Nat × α → Bool) (h : awf d m = true) :
    awf d (m.filter f) = true := by
  induction m with
  | nil => simp
  | cons e m ih =>
    obtain ⟨a, v⟩ := e
    obtain ⟨h1, h2, h3⟩ := (awf_cons d a v m).1 h
    by_cases hf : f (a, v) = true
    · rw [List.filter_cons_of_pos hf, awf_cons]
      exact ⟨fun e he => h1 e ((List.mem_filter.1 he).1), h2, ih h3⟩
    · rw [List.filter_cons_of_neg hf]; exact ih h3

theorem awf_adel [DecidableEq α] {d : α} {m : List (Nat × α)} (k : Nat) (h : awf d m = true) : awf d (adel m k) = true := by
  induction m with
  | nil => simp [adel]
  | cons e m ih =>
    obtain ⟨a, v⟩ := e
    obtain ⟨h1, h2, h3⟩ := (awf_cons d a v m).1 h
    by_cases hk : a = k
    · simp only [adel, hk, if_true]; exact ih h3
    · simp only [adel, hk, if_false]
      rw [awf_cons]
      exact ⟨fun e he => h1 e (mem_adel he), h2, ih h3⟩

theorem mem_ains {m : List (Nat × α)} {k : Nat} {v : α} {e : Nat × α} (h : e ∈ ains m k v) : e = (k, v) ∨ e ∈ m := by
  induction m with
  | nil => simpa [ains] using h
  | cons x m ih =>
    obtain ⟨a, w⟩ := x
    simp only [ains] at h
    split at h
    · simpa using h
    · simp only [List.mem_cons] at h ⊢
      rcases h with h | h
      · exact .inr (.inl h)
      · exact (ih h).imp id .inr

theorem awf_ains [DecidableEq α] {d : α} {m : List (Nat × α)} {k : Nat} {v : α} (hv : v ≠ d) (hk : ∀ e ∈ m, e.1 ≠ k)
    (h : awf d m = true) : awf d (ains m k v) = true := by
  induction m with
  | nil => simp [ains, awf, hv]
  | cons e m ih =>
    obtain ⟨a, w⟩ := e
    obtain ⟨h1, h2, h3⟩ := (awf_cons d a w m).1 h
    have ha : a ≠ k := hk (a, w) (by simp)
    simp only [ains]
    split
    · rename_i hlt
      rw [awf_cons]
      refine ⟨?_, hv, h⟩
      intro e he
      rcases List.mem_cons.1 he with rfl | he
      · exact hlt
      · exact Nat.lt_trans hlt (h1 e he)
    · rename_i hge
      rw [awf_cons]
      refine ⟨?_, h2, ih (fun e he => hk e (by simp [he])) h3⟩
      intro e he
      rcases mem_ains he with rfl | he
      · exact Nat.lt_of_le_of_ne (Nat.le_of_not_lt hge) ha
      · exact h1 e he

/-- A write keeps the canonical form. -/
theorem awf_aset [DecidableEq α] {d : α} {m : List (Nat × α)} (k : Nat) (v : α) (h : awf d m = true) : awf d (aset d m k v) = true := by
  unfold aset
  split
  · exact awf_adel k h
  · rename_i hv; exact awf_ains hv (adel_ne m k) (awf_adel k h)

theorem awf_aclear [DecidableEq α] {d : α} {m : List (Nat × α)} (lo hi : Nat) (h : awf d m = true) : awf d (aclear m lo hi) = true :=
  awf_filter _ h

theorem aget_of_lt {d : α} {m : List (Nat × α)} {k : Nat} (h : ∀ e ∈ m, k < e.1) : aget d m k = d := by
  induction m with
  | nil => rfl
  | cons e m ih =>
    obtain ⟨a, v⟩ := e
    have : k < a := h (a, v) (by simp)
    simp only [aget, Nat.ne_of_gt this, if_false]
    exact ih fun e he => h e (by simp [he])

/-- Canonical maps that read alike are the same list. -/
theorem awf_ext [DecidableEq α] {d : α} {m n : List (Nat × α)} (hm : awf d m = true) (hn : awf d n = true)
    (h : ∀ k, aget d m k = aget d n k) : m = n := by
  induction m generalizing n with
  | nil =>
    cases n with
    | nil => rfl
    | cons e n =>
      obtain ⟨a, v⟩ := e
      have := h a
      simp only [aget, if_true] at this
      exact absurd this.symm ((awf_cons d a v n).1 hn).2.1
  | cons e m ih =>
    obtain ⟨a, v⟩ := e
    obtain ⟨h1, h2, h3⟩ := (awf_cons d a v m).1 hm
    cases n with
    | nil =>
      have := h a
      simp only [aget, if_true] at this
      exact absurd this h2
    | cons e n =>
      obtain ⟨b, w⟩ := e
      obtain ⟨g1, g2, g3⟩ := (awf_cons d b w n).1 hn
      have hab : a = b := by
        rcases Nat.lt_trichotomy a b with hlt | heq | hgt
        · have := h a
          rw [aget_of_lt (m := (b, w) :: n)] at this
          · simp only [aget, if_true] at this; exact absurd this h2
          · intro e he
            rcases List.mem_cons.1 he with rfl | he
            · exact hlt
            · exact Nat.lt_trans hlt (g1 e he)
        · exact heq
        · have := h b
          rw [aget_of_lt (m := (a, v) :: m)] at this
          · simp only [aget, if_true] at this; exact absurd this.symm g2
          · intro e he
            rcases List.mem_cons.1 he with rfl | he
            · exact hgt
            · exact Nat.lt_trans hgt (h1 e he)
      subst hab
      have hv : v = w := by simpa [aget] using h a
      subst hv
      congr 1
      refine ih h3 g3 fun k => ?_
      have := h k
      simp only [aget] at this
      by_cases hk : a = k
      · subst hk; rw [aget_of_lt h1, aget_of_lt g1]
      · simpa [hk] using this

end Sys2Proof.Machine
end

