-- ==== Sys2Proof/Laws/State.lean ====
section
/-!
SUPPORT. What each named update of State leaves unchanged, field by field, and what it is read back as.
-/
namespace Sys2Proof.Machine

/-- A step put on the agenda changes nothing but the agenda. -/
theorem State.post_eq (s : State) (i : Instr) (ns : List Nat) : s.post i ns = { s with agenda := (s.post i ns).agenda } := by
  unfold State.post; dsimp only; split <;> rfl

/-! ### Who leaves dtime alone -/

@[simp] theorem State.setCore_dtime (s : State) (c : Nat) (k : Core) : (s.setCore c k).dtime = s.dtime := rfl
@[simp] theorem State.setBlk_dtime (s : State) (c i : Nat) (b : Block) : (s.setBlk c i b).dtime = s.dtime := rfl
@[simp] theorem State.setByte_dtime (s : State) (a : Nat) (b : Byte) : (s.setByte a b).dtime = s.dtime := rfl
@[simp] theorem State.setV_dtime (s : State) (c p l n : Nat) (x : Word) : (s.setV c p l n x).dtime = s.dtime := rfl
@[simp] theorem State.freshenCopy_dtime (s : State) (c l : Nat) : (s.freshenCopy c l).dtime = s.dtime := rfl
@[simp] theorem State.setGrp_dtime (s : State) (c p : Nat) (g : Group) : (s.setGrp c p g).dtime = s.dtime := rfl
@[simp] theorem State.dropAccess_dtime (s : State) (n : Nat) : (s.dropAccess n).dtime = s.dtime := rfl
@[simp] theorem State.setSraw_dtime (s : State) (c p n : Nat) (x : Word) : (s.setSraw c p n x).dtime = s.dtime := rfl
@[simp] theorem State.setLaunch_dtime (s : State) (n : Nat) (l : Launch) : (s.setLaunch n l).dtime = s.dtime := rfl
@[simp] theorem State.setQ_dtime (s : State) (c p l n : Nat) (x : Word) : (s.setQ c p l n x).dtime = s.dtime := rfl
@[simp] theorem State.setAccess_dtime (s : State) (a : Access) : (s.setAccess a).dtime = s.dtime := rfl
@[simp] theorem State.setPoolByte_dtime (s : State) (c a : Nat) (b : Byte) : (s.setPoolByte c a b).dtime = s.dtime := rfl
@[simp] theorem State.setNode_dtime (s : State) (n : Nat) (d : Node) : (s.setNode n d).dtime = s.dtime := rfl
@[simp] theorem State.timer_dtime (s : State) (k : Bool) (d : Nat) (i : Instr) (ns : List Nat) : (s.timer k d i ns).dtime = s.dtime := rfl
@[simp] theorem State.post_dtime (s : State) (i : Instr) (ns : List Nat) : (s.post i ns).dtime = s.dtime := by rw [State.post_eq]

/-! ### Who leaves cycle alone -/

@[simp] theorem State.setCore_cycle (s : State) (c : Nat) (k : Core) : (s.setCore c k).cycle = s.cycle := rfl
@[simp] theorem State.setBlk_cycle (s : State) (c i : Nat) (b : Block) : (s.setBlk c i b).cycle = s.cycle := rfl
@[simp] theorem State.setByte_cycle (s : State) (a : Nat) (b : Byte) : (s.setByte a b).cycle = s.cycle := rfl
@[simp] theorem State.setV_cycle (s : State) (c p l n : Nat) (x : Word) : (s.setV c p l n x).cycle = s.cycle := rfl
@[simp] theorem State.freshenCopy_cycle (s : State) (c l : Nat) : (s.freshenCopy c l).cycle = s.cycle := rfl
@[simp] theorem State.setGrp_cycle (s : State) (c p : Nat) (g : Group) : (s.setGrp c p g).cycle = s.cycle := rfl
@[simp] theorem State.dropAccess_cycle (s : State) (n : Nat) : (s.dropAccess n).cycle = s.cycle := rfl
@[simp] theorem State.setSraw_cycle (s : State) (c p n : Nat) (x : Word) : (s.setSraw c p n x).cycle = s.cycle := rfl
@[simp] theorem State.setLaunch_cycle (s : State) (n : Nat) (l : Launch) : (s.setLaunch n l).cycle = s.cycle := rfl
@[simp] theorem State.setQ_cycle (s : State) (c p l n : Nat) (x : Word) : (s.setQ c p l n x).cycle = s.cycle := rfl
@[simp] theorem State.setAccess_cycle (s : State) (a : Access) : (s.setAccess a).cycle = s.cycle := rfl
@[simp] theorem State.setPoolByte_cycle (s : State) (c a : Nat) (b : Byte) : (s.setPoolByte c a b).cycle = s.cycle := rfl
@[simp] theorem State.setNode_cycle (s : State) (n : Nat) (d : Node) : (s.setNode n d).cycle = s.cycle := rfl
@[simp] theorem State.timer_cycle (s : State) (k : Bool) (d : Nat) (i : Instr) (ns : List Nat) : (s.timer k d i ns).cycle = s.cycle := rfl
@[simp] theorem State.post_cycle (s : State) (i : Instr) (ns : List Nat) : (s.post i ns).cycle = s.cycle := by rw [State.post_eq]

/-! ### Who leaves mem alone -/

@[simp] theorem State.setCore_mem (s : State) (c : Nat) (k : Core) : (s.setCore c k).mem = s.mem := rfl
@[simp] theorem State.setBlk_mem (s : State) (c i : Nat) (b : Block) : (s.setBlk c i b).mem = s.mem := rfl
@[simp] theorem State.setV_mem (s : State) (c p l n : Nat) (x : Word) : (s.setV c p l n x).mem = s.mem := rfl
@[simp] theorem State.freshenCopy_mem (s : State) (c l : Nat) : (s.freshenCopy c l).mem = s.mem := rfl
@[simp] theorem State.setGrp_mem (s : State) (c p : Nat) (g : Group) : (s.setGrp c p g).mem = s.mem := rfl
@[simp] theorem State.dropAccess_mem (s : State) (n : Nat) : (s.dropAccess n).mem = s.mem := rfl
@[simp] theorem State.setSraw_mem (s : State) (c p n : Nat) (x : Word) : (s.setSraw c p n x).mem = s.mem := rfl
@[simp] theorem State.setLaunch_mem (s : State) (n : Nat) (l : Launch) : (s.setLaunch n l).mem = s.mem := rfl
@[simp] theorem State.setQ_mem (s : State) (c p l n : Nat) (x : Word) : (s.setQ c p l n x).mem = s.mem := rfl
@[simp] theorem State.setAccess_mem (s : State) (a : Access) : (s.setAccess a).mem = s.mem := rfl
@[simp] theorem State.setPoolByte_mem (s : State) (c a : Nat) (b : Byte) : (s.setPoolByte c a b).mem = s.mem := rfl
@[simp] theorem State.setNode_mem (s : State) (n : Nat) (d : Node) : (s.setNode n d).mem = s.mem := rfl
@[simp] theorem State.timer_mem (s : State) (k : Bool) (d : Nat) (i : Instr) (ns : List Nat) : (s.timer k d i ns).mem = s.mem := rfl
@[simp] theorem State.post_mem (s : State) (i : Instr) (ns : List Nat) : (s.post i ns).mem = s.mem := by rw [State.post_eq]

/-! ### Who leaves undef alone -/

@[simp] theorem State.setCore_undef (s : State) (c : Nat) (k : Core) : (s.setCore c k).undef = s.undef := rfl
@[simp] theorem State.setBlk_undef (s : State) (c i : Nat) (b : Block) : (s.setBlk c i b).undef = s.undef := rfl
@[simp] theorem State.setV_undef (s : State) (c p l n : Nat) (x : Word) : (s.setV c p l n x).undef = s.undef := rfl
@[simp] theorem State.freshenCopy_undef (s : State) (c l : Nat) : (s.freshenCopy c l).undef = s.undef := rfl
@[simp] theorem State.setGrp_undef (s : State) (c p : Nat) (g : Group) : (s.setGrp c p g).undef = s.undef := rfl
@[simp] theorem State.dropAccess_undef (s : State) (n : Nat) : (s.dropAccess n).undef = s.undef := rfl
@[simp] theorem State.setSraw_undef (s : State) (c p n : Nat) (x : Word) : (s.setSraw c p n x).undef = s.undef := rfl
@[simp] theorem State.setLaunch_undef (s : State) (n : Nat) (l : Launch) : (s.setLaunch n l).undef = s.undef := rfl
@[simp] theorem State.setQ_undef (s : State) (c p l n : Nat) (x : Word) : (s.setQ c p l n x).undef = s.undef := rfl
@[simp] theorem State.setAccess_undef (s : State) (a : Access) : (s.setAccess a).undef = s.undef := rfl
@[simp] theorem State.setPoolByte_undef (s : State) (c a : Nat) (b : Byte) : (s.setPoolByte c a b).undef = s.undef := rfl
@[simp] theorem State.setNode_undef (s : State) (n : Nat) (d : Node) : (s.setNode n d).undef = s.undef := rfl
@[simp] theorem State.timer_undef (s : State) (k : Bool) (d : Nat) (i : Instr) (ns : List Nat) : (s.timer k d i ns).undef = s.undef := rfl
@[simp] theorem State.post_undef (s : State) (i : Instr) (ns : List Nat) : (s.post i ns).undef = s.undef := by rw [State.post_eq]

/-! ### Who leaves pool alone -/

@[simp] theorem State.setCore_pool (s : State) (c : Nat) (k : Core) : (s.setCore c k).pool = s.pool := rfl
@[simp] theorem State.setBlk_pool (s : State) (c i : Nat) (b : Block) : (s.setBlk c i b).pool = s.pool := rfl
@[simp] theorem State.setByte_pool (s : State) (a : Nat) (b : Byte) : (s.setByte a b).pool = s.pool := rfl
@[simp] theorem State.setV_pool (s : State) (c p l n : Nat) (x : Word) : (s.setV c p l n x).pool = s.pool := rfl
@[simp] theorem State.freshenCopy_pool (s : State) (c l : Nat) : (s.freshenCopy c l).pool = s.pool := rfl
@[simp] theorem State.setGrp_pool (s : State) (c p : Nat) (g : Group) : (s.setGrp c p g).pool = s.pool := rfl
@[simp] theorem State.dropAccess_pool (s : State) (n : Nat) : (s.dropAccess n).pool = s.pool := rfl
@[simp] theorem State.setSraw_pool (s : State) (c p n : Nat) (x : Word) : (s.setSraw c p n x).pool = s.pool := rfl
@[simp] theorem State.setLaunch_pool (s : State) (n : Nat) (l : Launch) : (s.setLaunch n l).pool = s.pool := rfl
@[simp] theorem State.setQ_pool (s : State) (c p l n : Nat) (x : Word) : (s.setQ c p l n x).pool = s.pool := rfl
@[simp] theorem State.setAccess_pool (s : State) (a : Access) : (s.setAccess a).pool = s.pool := rfl
@[simp] theorem State.setNode_pool (s : State) (n : Nat) (d : Node) : (s.setNode n d).pool = s.pool := rfl
@[simp] theorem State.timer_pool (s : State) (k : Bool) (d : Nat) (i : Instr) (ns : List Nat) : (s.timer k d i ns).pool = s.pool := rfl
@[simp] theorem State.post_pool (s : State) (i : Instr) (ns : List Nat) : (s.post i ns).pool = s.pool := by rw [State.post_eq]

/-! ### Who leaves vreg alone -/

@[simp] theorem State.setCore_vreg (s : State) (c : Nat) (k : Core) : (s.setCore c k).vreg = s.vreg := rfl
@[simp] theorem State.setBlk_vreg (s : State) (c i : Nat) (b : Block) : (s.setBlk c i b).vreg = s.vreg := rfl
@[simp] theorem State.setByte_vreg (s : State) (a : Nat) (b : Byte) : (s.setByte a b).vreg = s.vreg := rfl
@[simp] theorem State.freshenCopy_vreg (s : State) (c l : Nat) : (s.freshenCopy c l).vreg = s.vreg := rfl
@[simp] theorem State.setGrp_vreg (s : State) (c p : Nat) (g : Group) : (s.setGrp c p g).vreg = s.vreg := rfl
@[simp] theorem State.dropAccess_vreg (s : State) (n : Nat) : (s.dropAccess n).vreg = s.vreg := rfl
@[simp] theorem State.setSraw_vreg (s : State) (c p n : Nat) (x : Word) : (s.setSraw c p n x).vreg = s.vreg := rfl
@[simp] theorem State.setLaunch_vreg (s : State) (n : Nat) (l : Launch) : (s.setLaunch n l).vreg = s.vreg := rfl
@[simp] theorem State.setQ_vreg (s : State) (c p l n : Nat) (x : Word) : (s.setQ c p l n x).vreg = s.vreg := rfl
@[simp] theorem State.setAccess_vreg (s : State) (a : Access) : (s.setAccess a).vreg = s.vreg := rfl
@[simp] theorem State.setPoolByte_vreg (s : State) (c a : Nat) (b : Byte) : (s.setPoolByte c a b).vreg = s.vreg := rfl
@[simp] theorem State.setNode_vreg (s : State) (n : Nat) (d : Node) : (s.setNode n d).vreg = s.vreg := rfl
@[simp] theorem State.timer_vreg (s : State) (k : Bool) (d : Nat) (i : Instr) (ns : List Nat) : (s.timer k d i ns).vreg = s.vreg := rfl
@[simp] theorem State.post_vreg (s : State) (i : Instr) (ns : List Nat) : (s.post i ns).vreg = s.vreg := by rw [State.post_eq]

/-! ### Who leaves sreg alone -/

@[simp] theorem State.setCore_sreg (s : State) (c : Nat) (k : Core) : (s.setCore c k).sreg = s.sreg := rfl
@[simp] theorem State.setBlk_sreg (s : State) (c i : Nat) (b : Block) : (s.setBlk c i b).sreg = s.sreg := rfl
@[simp] theorem State.setByte_sreg (s : State) (a : Nat) (b : Byte) : (s.setByte a b).sreg = s.sreg := rfl
@[simp] theorem State.setV_sreg (s : State) (c p l n : Nat) (x : Word) : (s.setV c p l n x).sreg = s.sreg := rfl
@[simp] theorem State.freshenCopy_sreg (s : State) (c l : Nat) : (s.freshenCopy c l).sreg = s.sreg := rfl
@[simp] theorem State.setGrp_sreg (s : State) (c p : Nat) (g : Group) : (s.setGrp c p g).sreg = s.sreg := rfl
@[simp] theorem State.dropAccess_sreg (s : State) (n : Nat) : (s.dropAccess n).sreg = s.sreg := rfl
@[simp] theorem State.setLaunch_sreg (s : State) (n : Nat) (l : Launch) : (s.setLaunch n l).sreg = s.sreg := rfl
@[simp] theorem State.setQ_sreg (s : State) (c p l n : Nat) (x : Word) : (s.setQ c p l n x).sreg = s.sreg := rfl
@[simp] theorem State.setAccess_sreg (s : State) (a : Access) : (s.setAccess a).sreg = s.sreg := rfl
@[simp] theorem State.setPoolByte_sreg (s : State) (c a : Nat) (b : Byte) : (s.setPoolByte c a b).sreg = s.sreg := rfl
@[simp] theorem State.setNode_sreg (s : State) (n : Nat) (d : Node) : (s.setNode n d).sreg = s.sreg := rfl
@[simp] theorem State.timer_sreg (s : State) (k : Bool) (d : Nat) (i : Instr) (ns : List Nat) : (s.timer k d i ns).sreg = s.sreg := rfl
@[simp] theorem State.post_sreg (s : State) (i : Instr) (ns : List Nat) : (s.post i ns).sreg = s.sreg := by rw [State.post_eq]

/-! ### Who leaves pred alone -/

@[simp] theorem State.setCore_pred (s : State) (c : Nat) (k : Core) : (s.setCore c k).pred = s.pred := rfl
@[simp] theorem State.setBlk_pred (s : State) (c i : Nat) (b : Block) : (s.setBlk c i b).pred = s.pred := rfl
@[simp] theorem State.setByte_pred (s : State) (a : Nat) (b : Byte) : (s.setByte a b).pred = s.pred := rfl
@[simp] theorem State.setV_pred (s : State) (c p l n : Nat) (x : Word) : (s.setV c p l n x).pred = s.pred := rfl
@[simp] theorem State.freshenCopy_pred (s : State) (c l : Nat) : (s.freshenCopy c l).pred = s.pred := rfl
@[simp] theorem State.setGrp_pred (s : State) (c p : Nat) (g : Group) : (s.setGrp c p g).pred = s.pred := rfl
@[simp] theorem State.dropAccess_pred (s : State) (n : Nat) : (s.dropAccess n).pred = s.pred := rfl
@[simp] theorem State.setSraw_pred (s : State) (c p n : Nat) (x : Word) : (s.setSraw c p n x).pred = s.pred := rfl
@[simp] theorem State.setLaunch_pred (s : State) (n : Nat) (l : Launch) : (s.setLaunch n l).pred = s.pred := rfl
@[simp] theorem State.setQ_pred (s : State) (c p l n : Nat) (x : Word) : (s.setQ c p l n x).pred = s.pred := rfl
@[simp] theorem State.setAccess_pred (s : State) (a : Access) : (s.setAccess a).pred = s.pred := rfl
@[simp] theorem State.setPoolByte_pred (s : State) (c a : Nat) (b : Byte) : (s.setPoolByte c a b).pred = s.pred := rfl
@[simp] theorem State.setNode_pred (s : State) (n : Nat) (d : Node) : (s.setNode n d).pred = s.pred := rfl
@[simp] theorem State.timer_pred (s : State) (k : Bool) (d : Nat) (i : Instr) (ns : List Nat) : (s.timer k d i ns).pred = s.pred := rfl
@[simp] theorem State.post_pred (s : State) (i : Instr) (ns : List Nat) : (s.post i ns).pred = s.pred := by rw [State.post_eq]

/-! ### Who leaves qreg alone -/

@[simp] theorem State.setCore_qreg (s : State) (c : Nat) (k : Core) : (s.setCore c k).qreg = s.qreg := rfl
@[simp] theorem State.setBlk_qreg (s : State) (c i : Nat) (b : Block) : (s.setBlk c i b).qreg = s.qreg := rfl
@[simp] theorem State.setByte_qreg (s : State) (a : Nat) (b : Byte) : (s.setByte a b).qreg = s.qreg := rfl
@[simp] theorem State.setV_qreg (s : State) (c p l n : Nat) (x : Word) : (s.setV c p l n x).qreg = s.qreg := rfl
@[simp] theorem State.freshenCopy_qreg (s : State) (c l : Nat) : (s.freshenCopy c l).qreg = s.qreg := rfl
@[simp] theorem State.setGrp_qreg (s : State) (c p : Nat) (g : Group) : (s.setGrp c p g).qreg = s.qreg := rfl
@[simp] theorem State.dropAccess_qreg (s : State) (n : Nat) : (s.dropAccess n).qreg = s.qreg := rfl
@[simp] theorem State.setSraw_qreg (s : State) (c p n : Nat) (x : Word) : (s.setSraw c p n x).qreg = s.qreg := rfl
@[simp] theorem State.setLaunch_qreg (s : State) (n : Nat) (l : Launch) : (s.setLaunch n l).qreg = s.qreg := rfl
@[simp] theorem State.setAccess_qreg (s : State) (a : Access) : (s.setAccess a).qreg = s.qreg := rfl
@[simp] theorem State.setPoolByte_qreg (s : State) (c a : Nat) (b : Byte) : (s.setPoolByte c a b).qreg = s.qreg := rfl
@[simp] theorem State.setNode_qreg (s : State) (n : Nat) (d : Node) : (s.setNode n d).qreg = s.qreg := rfl
@[simp] theorem State.timer_qreg (s : State) (k : Bool) (d : Nat) (i : Instr) (ns : List Nat) : (s.timer k d i ns).qreg = s.qreg := rfl
@[simp] theorem State.post_qreg (s : State) (i : Instr) (ns : List Nat) : (s.post i ns).qreg = s.qreg := by rw [State.post_eq]

/-! ### Who leaves cores alone -/

@[simp] theorem State.setBlk_cores (s : State) (c i : Nat) (b : Block) : (s.setBlk c i b).cores = s.cores := rfl
@[simp] theorem State.setByte_cores (s : State) (a : Nat) (b : Byte) : (s.setByte a b).cores = s.cores := rfl
@[simp] theorem State.setV_cores (s : State) (c p l n : Nat) (x : Word) : (s.setV c p l n x).cores = s.cores := rfl
@[simp] theorem State.freshenCopy_cores (s : State) (c l : Nat) : (s.freshenCopy c l).cores = s.cores := rfl
@[simp] theorem State.setGrp_cores (s : State) (c p : Nat) (g : Group) : (s.setGrp c p g).cores = s.cores := rfl
@[simp] theorem State.dropAccess_cores (s : State) (n : Nat) : (s.dropAccess n).cores = s.cores := rfl
@[simp] theorem State.setSraw_cores (s : State) (c p n : Nat) (x : Word) : (s.setSraw c p n x).cores = s.cores := rfl
@[simp] theorem State.setLaunch_cores (s : State) (n : Nat) (l : Launch) : (s.setLaunch n l).cores = s.cores := rfl
@[simp] theorem State.setQ_cores (s : State) (c p l n : Nat) (x : Word) : (s.setQ c p l n x).cores = s.cores := rfl
@[simp] theorem State.setAccess_cores (s : State) (a : Access) : (s.setAccess a).cores = s.cores := rfl
@[simp] theorem State.setPoolByte_cores (s : State) (c a : Nat) (b : Byte) : (s.setPoolByte c a b).cores = s.cores := rfl
@[simp] theorem State.setNode_cores (s : State) (n : Nat) (d : Node) : (s.setNode n d).cores = s.cores := rfl
@[simp] theorem State.timer_cores (s : State) (k : Bool) (d : Nat) (i : Instr) (ns : List Nat) : (s.timer k d i ns).cores = s.cores := rfl
@[simp] theorem State.post_cores (s : State) (i : Instr) (ns : List Nat) : (s.post i ns).cores = s.cores := by rw [State.post_eq]

/-! ### Who leaves groups alone -/

@[simp] theorem State.setCore_groups (s : State) (c : Nat) (k : Core) : (s.setCore c k).groups = s.groups := rfl
@[simp] theorem State.setBlk_groups (s : State) (c i : Nat) (b : Block) : (s.setBlk c i b).groups = s.groups := rfl
@[simp] theorem State.setByte_groups (s : State) (a : Nat) (b : Byte) : (s.setByte a b).groups = s.groups := rfl
@[simp] theorem State.setV_groups (s : State) (c p l n : Nat) (x : Word) : (s.setV c p l n x).groups = s.groups := rfl
@[simp] theorem State.freshenCopy_groups (s : State) (c l : Nat) : (s.freshenCopy c l).groups = s.groups := rfl
@[simp] theorem State.dropAccess_groups (s : State) (n : Nat) : (s.dropAccess n).groups = s.groups := rfl
@[simp] theorem State.setSraw_groups (s : State) (c p n : Nat) (x : Word) : (s.setSraw c p n x).groups = s.groups := rfl
@[simp] theorem State.setLaunch_groups (s : State) (n : Nat) (l : Launch) : (s.setLaunch n l).groups = s.groups := rfl
@[simp] theorem State.setQ_groups (s : State) (c p l n : Nat) (x : Word) : (s.setQ c p l n x).groups = s.groups := rfl
@[simp] theorem State.setAccess_groups (s : State) (a : Access) : (s.setAccess a).groups = s.groups := rfl
@[simp] theorem State.setPoolByte_groups (s : State) (c a : Nat) (b : Byte) : (s.setPoolByte c a b).groups = s.groups := rfl
@[simp] theorem State.setNode_groups (s : State) (n : Nat) (d : Node) : (s.setNode n d).groups = s.groups := rfl
@[simp] theorem State.timer_groups (s : State) (k : Bool) (d : Nat) (i : Instr) (ns : List Nat) : (s.timer k d i ns).groups = s.groups := rfl
@[simp] theorem State.post_groups (s : State) (i : Instr) (ns : List Nat) : (s.post i ns).groups = s.groups := by rw [State.post_eq]

/-! ### Who leaves blocks alone -/

@[simp] theorem State.setCore_blocks (s : State) (c : Nat) (k : Core) : (s.setCore c k).blocks = s.blocks := rfl
@[simp] theorem State.setByte_blocks (s : State) (a : Nat) (b : Byte) : (s.setByte a b).blocks = s.blocks := rfl
@[simp] theorem State.setV_blocks (s : State) (c p l n : Nat) (x : Word) : (s.setV c p l n x).blocks = s.blocks := rfl
@[simp] theorem State.freshenCopy_blocks (s : State) (c l : Nat) : (s.freshenCopy c l).blocks = s.blocks := rfl
@[simp] theorem State.setGrp_blocks (s : State) (c p : Nat) (g : Group) : (s.setGrp c p g).blocks = s.blocks := rfl
@[simp] theorem State.dropAccess_blocks (s : State) (n : Nat) : (s.dropAccess n).blocks = s.blocks := rfl
@[simp] theorem State.setSraw_blocks (s : State) (c p n : Nat) (x : Word) : (s.setSraw c p n x).blocks = s.blocks := rfl
@[simp] theorem State.setLaunch_blocks (s : State) (n : Nat) (l : Launch) : (s.setLaunch n l).blocks = s.blocks := rfl
@[simp] theorem State.setQ_blocks (s : State) (c p l n : Nat) (x : Word) : (s.setQ c p l n x).blocks = s.blocks := rfl
@[simp] theorem State.setAccess_blocks (s : State) (a : Access) : (s.setAccess a).blocks = s.blocks := rfl
@[simp] theorem State.setPoolByte_blocks (s : State) (c a : Nat) (b : Byte) : (s.setPoolByte c a b).blocks = s.blocks := rfl
@[simp] theorem State.setNode_blocks (s : State) (n : Nat) (d : Node) : (s.setNode n d).blocks = s.blocks := rfl
@[simp] theorem State.timer_blocks (s : State) (k : Bool) (d : Nat) (i : Instr) (ns : List Nat) : (s.timer k d i ns).blocks = s.blocks := rfl
@[simp] theorem State.post_blocks (s : State) (i : Instr) (ns : List Nat) : (s.post i ns).blocks = s.blocks := by rw [State.post_eq]

/-! ### Who leaves launches alone -/

@[simp] theorem State.setCore_launches (s : State) (c : Nat) (k : Core) : (s.setCore c k).launches = s.launches := rfl
@[simp] theorem State.setBlk_launches (s : State) (c i : Nat) (b : Block) : (s.setBlk c i b).launches = s.launches := rfl
@[simp] theorem State.setByte_launches (s : State) (a : Nat) (b : Byte) : (s.setByte a b).launches = s.launches := rfl
@[simp] theorem State.setV_launches (s : State) (c p l n : Nat) (x : Word) : (s.setV c p l n x).launches = s.launches := rfl
@[simp] theorem State.freshenCopy_launches (s : State) (c l : Nat) : (s.freshenCopy c l).launches = s.launches := rfl
@[simp] theorem State.setGrp_launches (s : State) (c p : Nat) (g : Group) : (s.setGrp c p g).launches = s.launches := rfl
@[simp] theorem State.dropAccess_launches (s : State) (n : Nat) : (s.dropAccess n).launches = s.launches := rfl
@[simp] theorem State.setSraw_launches (s : State) (c p n : Nat) (x : Word) : (s.setSraw c p n x).launches = s.launches := rfl
@[simp] theorem State.setQ_launches (s : State) (c p l n : Nat) (x : Word) : (s.setQ c p l n x).launches = s.launches := rfl
@[simp] theorem State.setAccess_launches (s : State) (a : Access) : (s.setAccess a).launches = s.launches := rfl
@[simp] theorem State.setPoolByte_launches (s : State) (c a : Nat) (b : Byte) : (s.setPoolByte c a b).launches = s.launches := rfl
@[simp] theorem State.setNode_launches (s : State) (n : Nat) (d : Node) : (s.setNode n d).launches = s.launches := rfl
@[simp] theorem State.timer_launches (s : State) (k : Bool) (d : Nat) (i : Instr) (ns : List Nat) : (s.timer k d i ns).launches = s.launches := rfl
@[simp] theorem State.post_launches (s : State) (i : Instr) (ns : List Nat) : (s.post i ns).launches = s.launches := by rw [State.post_eq]

/-! ### Who leaves nodes alone -/

@[simp] theorem State.setCore_nodes (s : State) (c : Nat) (k : Core) : (s.setCore c k).nodes = s.nodes := rfl
@[simp] theorem State.setBlk_nodes (s : State) (c i : Nat) (b : Block) : (s.setBlk c i b).nodes = s.nodes := rfl
@[simp] theorem State.setByte_nodes (s : State) (a : Nat) (b : Byte) : (s.setByte a b).nodes = s.nodes := rfl
@[simp] theorem State.setV_nodes (s : State) (c p l n : Nat) (x : Word) : (s.setV c p l n x).nodes = s.nodes := rfl
@[simp] theorem State.freshenCopy_nodes (s : State) (c l : Nat) : (s.freshenCopy c l).nodes = s.nodes := rfl
@[simp] theorem State.setGrp_nodes (s : State) (c p : Nat) (g : Group) : (s.setGrp c p g).nodes = s.nodes := rfl
@[simp] theorem State.dropAccess_nodes (s : State) (n : Nat) : (s.dropAccess n).nodes = s.nodes := rfl
@[simp] theorem State.setSraw_nodes (s : State) (c p n : Nat) (x : Word) : (s.setSraw c p n x).nodes = s.nodes := rfl
@[simp] theorem State.setLaunch_nodes (s : State) (n : Nat) (l : Launch) : (s.setLaunch n l).nodes = s.nodes := rfl
@[simp] theorem State.setQ_nodes (s : State) (c p l n : Nat) (x : Word) : (s.setQ c p l n x).nodes = s.nodes := rfl
@[simp] theorem State.setAccess_nodes (s : State) (a : Access) : (s.setAccess a).nodes = s.nodes := rfl
@[simp] theorem State.setPoolByte_nodes (s : State) (c a : Nat) (b : Byte) : (s.setPoolByte c a b).nodes = s.nodes := rfl
@[simp] theorem State.timer_nodes (s : State) (k : Bool) (d : Nat) (i : Instr) (ns : List Nat) : (s.timer k d i ns).nodes = s.nodes := rfl
@[simp] theorem State.post_nodes (s : State) (i : Instr) (ns : List Nat) : (s.post i ns).nodes = s.nodes := by rw [State.post_eq]

/-! ### Who leaves seqs alone -/

@[simp] theorem State.setCore_seqs (s : State) (c : Nat) (k : Core) : (s.setCore c k).seqs = s.seqs := rfl
@[simp] theorem State.setBlk_seqs (s : State) (c i : Nat) (b : Block) : (s.setBlk c i b).seqs = s.seqs := rfl
@[simp] theorem State.setByte_seqs (s : State) (a : Nat) (b : Byte) : (s.setByte a b).seqs = s.seqs := rfl
@[simp] theorem State.setV_seqs (s : State) (c p l n : Nat) (x : Word) : (s.setV c p l n x).seqs = s.seqs := rfl
@[simp] theorem State.freshenCopy_seqs (s : State) (c l : Nat) : (s.freshenCopy c l).seqs = s.seqs := rfl
@[simp] theorem State.setGrp_seqs (s : State) (c p : Nat) (g : Group) : (s.setGrp c p g).seqs = s.seqs := rfl
@[simp] theorem State.dropAccess_seqs (s : State) (n : Nat) : (s.dropAccess n).seqs = s.seqs := rfl
@[simp] theorem State.setSraw_seqs (s : State) (c p n : Nat) (x : Word) : (s.setSraw c p n x).seqs = s.seqs := rfl
@[simp] theorem State.setLaunch_seqs (s : State) (n : Nat) (l : Launch) : (s.setLaunch n l).seqs = s.seqs := rfl
@[simp] theorem State.setQ_seqs (s : State) (c p l n : Nat) (x : Word) : (s.setQ c p l n x).seqs = s.seqs := rfl
@[simp] theorem State.setAccess_seqs (s : State) (a : Access) : (s.setAccess a).seqs = s.seqs := rfl
@[simp] theorem State.setPoolByte_seqs (s : State) (c a : Nat) (b : Byte) : (s.setPoolByte c a b).seqs = s.seqs := rfl
@[simp] theorem State.setNode_seqs (s : State) (n : Nat) (d : Node) : (s.setNode n d).seqs = s.seqs := rfl
@[simp] theorem State.timer_seqs (s : State) (k : Bool) (d : Nat) (i : Instr) (ns : List Nat) : (s.timer k d i ns).seqs = s.seqs := rfl
@[simp] theorem State.post_seqs (s : State) (i : Instr) (ns : List Nat) : (s.post i ns).seqs = s.seqs := by rw [State.post_eq]

/-! ### Who leaves srcDone alone -/

@[simp] theorem State.setCore_srcDone (s : State) (c : Nat) (k : Core) : (s.setCore c k).srcDone = s.srcDone := rfl
@[simp] theorem State.setBlk_srcDone (s : State) (c i : Nat) (b : Block) : (s.setBlk c i b).srcDone = s.srcDone := rfl
@[simp] theorem State.setByte_srcDone (s : State) (a : Nat) (b : Byte) : (s.setByte a b).srcDone = s.srcDone := rfl
@[simp] theorem State.setV_srcDone (s : State) (c p l n : Nat) (x : Word) : (s.setV c p l n x).srcDone = s.srcDone := rfl
@[simp] theorem State.freshenCopy_srcDone (s : State) (c l : Nat) : (s.freshenCopy c l).srcDone = s.srcDone := rfl
@[simp] theorem State.setGrp_srcDone (s : State) (c p : Nat) (g : Group) : (s.setGrp c p g).srcDone = s.srcDone := rfl
@[simp] theorem State.dropAccess_srcDone (s : State) (n : Nat) : (s.dropAccess n).srcDone = s.srcDone := rfl
@[simp] theorem State.setSraw_srcDone (s : State) (c p n : Nat) (x : Word) : (s.setSraw c p n x).srcDone = s.srcDone := rfl
@[simp] theorem State.setLaunch_srcDone (s : State) (n : Nat) (l : Launch) : (s.setLaunch n l).srcDone = s.srcDone := rfl
@[simp] theorem State.setQ_srcDone (s : State) (c p l n : Nat) (x : Word) : (s.setQ c p l n x).srcDone = s.srcDone := rfl
@[simp] theorem State.setAccess_srcDone (s : State) (a : Access) : (s.setAccess a).srcDone = s.srcDone := rfl
@[simp] theorem State.setPoolByte_srcDone (s : State) (c a : Nat) (b : Byte) : (s.setPoolByte c a b).srcDone = s.srcDone := rfl
@[simp] theorem State.setNode_srcDone (s : State) (n : Nat) (d : Node) : (s.setNode n d).srcDone = s.srcDone := rfl
@[simp] theorem State.timer_srcDone (s : State) (k : Bool) (d : Nat) (i : Instr) (ns : List Nat) : (s.timer k d i ns).srcDone = s.srcDone := rfl
@[simp] theorem State.post_srcDone (s : State) (i : Instr) (ns : List Nat) : (s.post i ns).srcDone = s.srcDone := by rw [State.post_eq]

/-! ### Who leaves packets alone -/

@[simp] theorem State.setCore_packets (s : State) (c : Nat) (k : Core) : (s.setCore c k).packets = s.packets := rfl
@[simp] theorem State.setBlk_packets (s : State) (c i : Nat) (b : Block) : (s.setBlk c i b).packets = s.packets := rfl
@[simp] theorem State.setByte_packets (s : State) (a : Nat) (b : Byte) : (s.setByte a b).packets = s.packets := rfl
@[simp] theorem State.setV_packets (s : State) (c p l n : Nat) (x : Word) : (s.setV c p l n x).packets = s.packets := rfl
@[simp] theorem State.freshenCopy_packets (s : State) (c l : Nat) : (s.freshenCopy c l).packets = s.packets := rfl
@[simp] theorem State.setGrp_packets (s : State) (c p : Nat) (g : Group) : (s.setGrp c p g).packets = s.packets := rfl
@[simp] theorem State.dropAccess_packets (s : State) (n : Nat) : (s.dropAccess n).packets = s.packets := rfl
@[simp] theorem State.setSraw_packets (s : State) (c p n : Nat) (x : Word) : (s.setSraw c p n x).packets = s.packets := rfl
@[simp] theorem State.setLaunch_packets (s : State) (n : Nat) (l : Launch) : (s.setLaunch n l).packets = s.packets := rfl
@[simp] theorem State.setQ_packets (s : State) (c p l n : Nat) (x : Word) : (s.setQ c p l n x).packets = s.packets := rfl
@[simp] theorem State.setAccess_packets (s : State) (a : Access) : (s.setAccess a).packets = s.packets := rfl
@[simp] theorem State.setPoolByte_packets (s : State) (c a : Nat) (b : Byte) : (s.setPoolByte c a b).packets = s.packets := rfl
@[simp] theorem State.setNode_packets (s : State) (n : Nat) (d : Node) : (s.setNode n d).packets = s.packets := rfl
@[simp] theorem State.timer_packets (s : State) (k : Bool) (d : Nat) (i : Instr) (ns : List Nat) : (s.timer k d i ns).packets = s.packets := rfl
@[simp] theorem State.post_packets (s : State) (i : Instr) (ns : List Nat) : (s.post i ns).packets = s.packets := by rw [State.post_eq]

/-! ### Who leaves unsent alone -/

@[simp] theorem State.setCore_unsent (s : State) (c : Nat) (k : Core) : (s.setCore c k).unsent = s.unsent := rfl
@[simp] theorem State.setBlk_unsent (s : State) (c i : Nat) (b : Block) : (s.setBlk c i b).unsent = s.unsent := rfl
@[simp] theorem State.setByte_unsent (s : State) (a : Nat) (b : Byte) : (s.setByte a b).unsent = s.unsent := rfl
@[simp] theorem State.setV_unsent (s : State) (c p l n : Nat) (x : Word) : (s.setV c p l n x).unsent = s.unsent := rfl
@[simp] theorem State.freshenCopy_unsent (s : State) (c l : Nat) : (s.freshenCopy c l).unsent = s.unsent := rfl
@[simp] theorem State.setGrp_unsent (s : State) (c p : Nat) (g : Group) : (s.setGrp c p g).unsent = s.unsent := rfl
@[simp] theorem State.dropAccess_unsent (s : State) (n : Nat) : (s.dropAccess n).unsent = s.unsent := rfl
@[simp] theorem State.setSraw_unsent (s : State) (c p n : Nat) (x : Word) : (s.setSraw c p n x).unsent = s.unsent := rfl
@[simp] theorem State.setLaunch_unsent (s : State) (n : Nat) (l : Launch) : (s.setLaunch n l).unsent = s.unsent := rfl
@[simp] theorem State.setQ_unsent (s : State) (c p l n : Nat) (x : Word) : (s.setQ c p l n x).unsent = s.unsent := rfl
@[simp] theorem State.setAccess_unsent (s : State) (a : Access) : (s.setAccess a).unsent = s.unsent := rfl
@[simp] theorem State.setPoolByte_unsent (s : State) (c a : Nat) (b : Byte) : (s.setPoolByte c a b).unsent = s.unsent := rfl
@[simp] theorem State.setNode_unsent (s : State) (n : Nat) (d : Node) : (s.setNode n d).unsent = s.unsent := rfl
@[simp] theorem State.timer_unsent (s : State) (k : Bool) (d : Nat) (i : Instr) (ns : List Nat) : (s.timer k d i ns).unsent = s.unsent := rfl
@[simp] theorem State.post_unsent (s : State) (i : Instr) (ns : List Nat) : (s.post i ns).unsent = s.unsent := by rw [State.post_eq]

/-! ### Who leaves linksDown alone -/

@[simp] theorem State.setCore_linksDown (s : State) (c : Nat) (k : Core) : (s.setCore c k).linksDown = s.linksDown := rfl
@[simp] theorem State.setBlk_linksDown (s : State) (c i : Nat) (b : Block) : (s.setBlk c i b).linksDown = s.linksDown := rfl
@[simp] theorem State.setByte_linksDown (s : State) (a : Nat) (b : Byte) : (s.setByte a b).linksDown = s.linksDown := rfl
@[simp] theorem State.setV_linksDown (s : State) (c p l n : Nat) (x : Word) : (s.setV c p l n x).linksDown = s.linksDown := rfl
@[simp] theorem State.freshenCopy_linksDown (s : State) (c l : Nat) : (s.freshenCopy c l).linksDown = s.linksDown := rfl
@[simp] theorem State.setGrp_linksDown (s : State) (c p : Nat) (g : Group) : (s.setGrp c p g).linksDown = s.linksDown := rfl
@[simp] theorem State.dropAccess_linksDown (s : State) (n : Nat) : (s.dropAccess n).linksDown = s.linksDown := rfl
@[simp] theorem State.setSraw_linksDown (s : State) (c p n : Nat) (x : Word) : (s.setSraw c p n x).linksDown = s.linksDown := rfl
@[simp] theorem State.setLaunch_linksDown (s : State) (n : Nat) (l : Launch) : (s.setLaunch n l).linksDown = s.linksDown := rfl
@[simp] theorem State.setQ_linksDown (s : State) (c p l n : Nat) (x : Word) : (s.setQ c p l n x).linksDown = s.linksDown := rfl
@[simp] theorem State.setAccess_linksDown (s : State) (a : Access) : (s.setAccess a).linksDown = s.linksDown := rfl
@[simp] theorem State.setPoolByte_linksDown (s : State) (c a : Nat) (b : Byte) : (s.setPoolByte c a b).linksDown = s.linksDown := rfl
@[simp] theorem State.setNode_linksDown (s : State) (n : Nat) (d : Node) : (s.setNode n d).linksDown = s.linksDown := rfl
@[simp] theorem State.timer_linksDown (s : State) (k : Bool) (d : Nat) (i : Instr) (ns : List Nat) : (s.timer k d i ns).linksDown = s.linksDown := rfl
@[simp] theorem State.post_linksDown (s : State) (i : Instr) (ns : List Nat) : (s.post i ns).linksDown = s.linksDown := by rw [State.post_eq]

/-! ### Who leaves ctl alone -/

@[simp] theorem State.setCore_ctl (s : State) (c : Nat) (k : Core) : (s.setCore c k).ctl = s.ctl := rfl
@[simp] theorem State.setBlk_ctl (s : State) (c i : Nat) (b : Block) : (s.setBlk c i b).ctl = s.ctl := rfl
@[simp] theorem State.setByte_ctl (s : State) (a : Nat) (b : Byte) : (s.setByte a b).ctl = s.ctl := rfl
@[simp] theorem State.setV_ctl (s : State) (c p l n : Nat) (x : Word) : (s.setV c p l n x).ctl = s.ctl := rfl
@[simp] theorem State.freshenCopy_ctl (s : State) (c l : Nat) : (s.freshenCopy c l).ctl = s.ctl := rfl
@[simp] theorem State.setGrp_ctl (s : State) (c p : Nat) (g : Group) : (s.setGrp c p g).ctl = s.ctl := rfl
@[simp] theorem State.dropAccess_ctl (s : State) (n : Nat) : (s.dropAccess n).ctl = s.ctl := rfl
@[simp] theorem State.setSraw_ctl (s : State) (c p n : Nat) (x : Word) : (s.setSraw c p n x).ctl = s.ctl := rfl
@[simp] theorem State.setLaunch_ctl (s : State) (n : Nat) (l : Launch) : (s.setLaunch n l).ctl = s.ctl := rfl
@[simp] theorem State.setQ_ctl (s : State) (c p l n : Nat) (x : Word) : (s.setQ c p l n x).ctl = s.ctl := rfl
@[simp] theorem State.setAccess_ctl (s : State) (a : Access) : (s.setAccess a).ctl = s.ctl := rfl
@[simp] theorem State.setPoolByte_ctl (s : State) (c a : Nat) (b : Byte) : (s.setPoolByte c a b).ctl = s.ctl := rfl
@[simp] theorem State.setNode_ctl (s : State) (n : Nat) (d : Node) : (s.setNode n d).ctl = s.ctl := rfl
@[simp] theorem State.timer_ctl (s : State) (k : Bool) (d : Nat) (i : Instr) (ns : List Nat) : (s.timer k d i ns).ctl = s.ctl := rfl
@[simp] theorem State.post_ctl (s : State) (i : Instr) (ns : List Nat) : (s.post i ns).ctl = s.ctl := by rw [State.post_eq]

/-! ### Who leaves accesses alone -/

@[simp] theorem State.setCore_accesses (s : State) (c : Nat) (k : Core) : (s.setCore c k).accesses = s.accesses := rfl
@[simp] theorem State.setBlk_accesses (s : State) (c i : Nat) (b : Block) : (s.setBlk c i b).accesses = s.accesses := rfl
@[simp] theorem State.setByte_accesses (s : State) (a : Nat) (b : Byte) : (s.setByte a b).accesses = s.accesses := rfl
@[simp] theorem State.setV_accesses (s : State) (c p l n : Nat) (x : Word) : (s.setV c p l n x).accesses = s.accesses := rfl
@[simp] theorem State.freshenCopy_accesses (s : State) (c l : Nat) : (s.freshenCopy c l).accesses = s.accesses := rfl
@[simp] theorem State.setGrp_accesses (s : State) (c p : Nat) (g : Group) : (s.setGrp c p g).accesses = s.accesses := rfl
@[simp] theorem State.setSraw_accesses (s : State) (c p n : Nat) (x : Word) : (s.setSraw c p n x).accesses = s.accesses := rfl
@[simp] theorem State.setLaunch_accesses (s : State) (n : Nat) (l : Launch) : (s.setLaunch n l).accesses = s.accesses := rfl
@[simp] theorem State.setQ_accesses (s : State) (c p l n : Nat) (x : Word) : (s.setQ c p l n x).accesses = s.accesses := rfl
@[simp] theorem State.setPoolByte_accesses (s : State) (c a : Nat) (b : Byte) : (s.setPoolByte c a b).accesses = s.accesses := rfl
@[simp] theorem State.setNode_accesses (s : State) (n : Nat) (d : Node) : (s.setNode n d).accesses = s.accesses := rfl
@[simp] theorem State.timer_accesses (s : State) (k : Bool) (d : Nat) (i : Instr) (ns : List Nat) : (s.timer k d i ns).accesses = s.accesses := rfl
@[simp] theorem State.post_accesses (s : State) (i : Instr) (ns : List Nat) : (s.post i ns).accesses = s.accesses := by rw [State.post_eq]

/-! ### Who leaves rels alone -/

@[simp] theorem State.setCore_rels (s : State) (c : Nat) (k : Core) : (s.setCore c k).rels = s.rels := rfl
@[simp] theorem State.setBlk_rels (s : State) (c i : Nat) (b : Block) : (s.setBlk c i b).rels = s.rels := rfl
@[simp] theorem State.setByte_rels (s : State) (a : Nat) (b : Byte) : (s.setByte a b).rels = s.rels := rfl
@[simp] theorem State.setV_rels (s : State) (c p l n : Nat) (x : Word) : (s.setV c p l n x).rels = s.rels := rfl
@[simp] theorem State.freshenCopy_rels (s : State) (c l : Nat) : (s.freshenCopy c l).rels = s.rels := rfl
@[simp] theorem State.setGrp_rels (s : State) (c p : Nat) (g : Group) : (s.setGrp c p g).rels = s.rels := rfl
@[simp] theorem State.dropAccess_rels (s : State) (n : Nat) : (s.dropAccess n).rels = s.rels := rfl
@[simp] theorem State.setSraw_rels (s : State) (c p n : Nat) (x : Word) : (s.setSraw c p n x).rels = s.rels := rfl
@[simp] theorem State.setLaunch_rels (s : State) (n : Nat) (l : Launch) : (s.setLaunch n l).rels = s.rels := rfl
@[simp] theorem State.setQ_rels (s : State) (c p l n : Nat) (x : Word) : (s.setQ c p l n x).rels = s.rels := rfl
@[simp] theorem State.setAccess_rels (s : State) (a : Access) : (s.setAccess a).rels = s.rels := rfl
@[simp] theorem State.setPoolByte_rels (s : State) (c a : Nat) (b : Byte) : (s.setPoolByte c a b).rels = s.rels := rfl
@[simp] theorem State.setNode_rels (s : State) (n : Nat) (d : Node) : (s.setNode n d).rels = s.rels := rfl
@[simp] theorem State.timer_rels (s : State) (k : Bool) (d : Nat) (i : Instr) (ns : List Nat) : (s.timer k d i ns).rels = s.rels := rfl
@[simp] theorem State.post_rels (s : State) (i : Instr) (ns : List Nat) : (s.post i ns).rels = s.rels := by rw [State.post_eq]

/-! ### Who leaves leases alone -/

@[simp] theorem State.setCore_leases (s : State) (c : Nat) (k : Core) : (s.setCore c k).leases = s.leases := rfl
@[simp] theorem State.setBlk_leases (s : State) (c i : Nat) (b : Block) : (s.setBlk c i b).leases = s.leases := rfl
@[simp] theorem State.setByte_leases (s : State) (a : Nat) (b : Byte) : (s.setByte a b).leases = s.leases := rfl
@[simp] theorem State.setV_leases (s : State) (c p l n : Nat) (x : Word) : (s.setV c p l n x).leases = s.leases := rfl
@[simp] theorem State.freshenCopy_leases (s : State) (c l : Nat) : (s.freshenCopy c l).leases = s.leases := rfl
@[simp] theorem State.setGrp_leases (s : State) (c p : Nat) (g : Group) : (s.setGrp c p g).leases = s.leases := rfl
@[simp] theorem State.dropAccess_leases (s : State) (n : Nat) : (s.dropAccess n).leases = s.leases := rfl
@[simp] theorem State.setSraw_leases (s : State) (c p n : Nat) (x : Word) : (s.setSraw c p n x).leases = s.leases := rfl
@[simp] theorem State.setLaunch_leases (s : State) (n : Nat) (l : Launch) : (s.setLaunch n l).leases = s.leases := rfl
@[simp] theorem State.setQ_leases (s : State) (c p l n : Nat) (x : Word) : (s.setQ c p l n x).leases = s.leases := rfl
@[simp] theorem State.setAccess_leases (s : State) (a : Access) : (s.setAccess a).leases = s.leases := rfl
@[simp] theorem State.setPoolByte_leases (s : State) (c a : Nat) (b : Byte) : (s.setPoolByte c a b).leases = s.leases := rfl
@[simp] theorem State.setNode_leases (s : State) (n : Nat) (d : Node) : (s.setNode n d).leases = s.leases := rfl
@[simp] theorem State.timer_leases (s : State) (k : Bool) (d : Nat) (i : Instr) (ns : List Nat) : (s.timer k d i ns).leases = s.leases := rfl
@[simp] theorem State.post_leases (s : State) (i : Instr) (ns : List Nat) : (s.post i ns).leases = s.leases := by rw [State.post_eq]

/-! ### Who leaves l1 alone -/

@[simp] theorem State.setCore_l1 (s : State) (c : Nat) (k : Core) : (s.setCore c k).l1 = s.l1 := rfl
@[simp] theorem State.setBlk_l1 (s : State) (c i : Nat) (b : Block) : (s.setBlk c i b).l1 = s.l1 := rfl
@[simp] theorem State.setByte_l1 (s : State) (a : Nat) (b : Byte) : (s.setByte a b).l1 = s.l1 := rfl
@[simp] theorem State.setV_l1 (s : State) (c p l n : Nat) (x : Word) : (s.setV c p l n x).l1 = s.l1 := rfl
@[simp] theorem State.setGrp_l1 (s : State) (c p : Nat) (g : Group) : (s.setGrp c p g).l1 = s.l1 := rfl
@[simp] theorem State.dropAccess_l1 (s : State) (n : Nat) : (s.dropAccess n).l1 = s.l1 := rfl
@[simp] theorem State.setSraw_l1 (s : State) (c p n : Nat) (x : Word) : (s.setSraw c p n x).l1 = s.l1 := rfl
@[simp] theorem State.setLaunch_l1 (s : State) (n : Nat) (l : Launch) : (s.setLaunch n l).l1 = s.l1 := rfl
@[simp] theorem State.setQ_l1 (s : State) (c p l n : Nat) (x : Word) : (s.setQ c p l n x).l1 = s.l1 := rfl
@[simp] theorem State.setAccess_l1 (s : State) (a : Access) : (s.setAccess a).l1 = s.l1 := rfl
@[simp] theorem State.setPoolByte_l1 (s : State) (c a : Nat) (b : Byte) : (s.setPoolByte c a b).l1 = s.l1 := rfl
@[simp] theorem State.setNode_l1 (s : State) (n : Nat) (d : Node) : (s.setNode n d).l1 = s.l1 := rfl
@[simp] theorem State.timer_l1 (s : State) (k : Bool) (d : Nat) (i : Instr) (ns : List Nat) : (s.timer k d i ns).l1 = s.l1 := rfl
@[simp] theorem State.post_l1 (s : State) (i : Instr) (ns : List Nat) : (s.post i ns).l1 = s.l1 := by rw [State.post_eq]

/-! ### Who leaves stipple alone -/

@[simp] theorem State.setCore_stipple (s : State) (c : Nat) (k : Core) : (s.setCore c k).stipple = s.stipple := rfl
@[simp] theorem State.setBlk_stipple (s : State) (c i : Nat) (b : Block) : (s.setBlk c i b).stipple = s.stipple := rfl
@[simp] theorem State.setByte_stipple (s : State) (a : Nat) (b : Byte) : (s.setByte a b).stipple = s.stipple := rfl
@[simp] theorem State.setV_stipple (s : State) (c p l n : Nat) (x : Word) : (s.setV c p l n x).stipple = s.stipple := rfl
@[simp] theorem State.setGrp_stipple (s : State) (c p : Nat) (g : Group) : (s.setGrp c p g).stipple = s.stipple := rfl
@[simp] theorem State.dropAccess_stipple (s : State) (n : Nat) : (s.dropAccess n).stipple = s.stipple := rfl
@[simp] theorem State.setSraw_stipple (s : State) (c p n : Nat) (x : Word) : (s.setSraw c p n x).stipple = s.stipple := rfl
@[simp] theorem State.setLaunch_stipple (s : State) (n : Nat) (l : Launch) : (s.setLaunch n l).stipple = s.stipple := rfl
@[simp] theorem State.setQ_stipple (s : State) (c p l n : Nat) (x : Word) : (s.setQ c p l n x).stipple = s.stipple := rfl
@[simp] theorem State.setAccess_stipple (s : State) (a : Access) : (s.setAccess a).stipple = s.stipple := rfl
@[simp] theorem State.setPoolByte_stipple (s : State) (c a : Nat) (b : Byte) : (s.setPoolByte c a b).stipple = s.stipple := rfl
@[simp] theorem State.setNode_stipple (s : State) (n : Nat) (d : Node) : (s.setNode n d).stipple = s.stipple := rfl
@[simp] theorem State.timer_stipple (s : State) (k : Bool) (d : Nat) (i : Instr) (ns : List Nat) : (s.timer k d i ns).stipple = s.stipple := rfl
@[simp] theorem State.post_stipple (s : State) (i : Instr) (ns : List Nat) : (s.post i ns).stipple = s.stipple := by rw [State.post_eq]

/-! ### Who leaves pins alone -/

@[simp] theorem State.setCore_pins (s : State) (c : Nat) (k : Core) : (s.setCore c k).pins = s.pins := rfl
@[simp] theorem State.setBlk_pins (s : State) (c i : Nat) (b : Block) : (s.setBlk c i b).pins = s.pins := rfl
@[simp] theorem State.setByte_pins (s : State) (a : Nat) (b : Byte) : (s.setByte a b).pins = s.pins := rfl
@[simp] theorem State.setV_pins (s : State) (c p l n : Nat) (x : Word) : (s.setV c p l n x).pins = s.pins := rfl
@[simp] theorem State.freshenCopy_pins (s : State) (c l : Nat) : (s.freshenCopy c l).pins = s.pins := rfl
@[simp] theorem State.setGrp_pins (s : State) (c p : Nat) (g : Group) : (s.setGrp c p g).pins = s.pins := rfl
@[simp] theorem State.dropAccess_pins (s : State) (n : Nat) : (s.dropAccess n).pins = s.pins := rfl
@[simp] theorem State.setSraw_pins (s : State) (c p n : Nat) (x : Word) : (s.setSraw c p n x).pins = s.pins := rfl
@[simp] theorem State.setLaunch_pins (s : State) (n : Nat) (l : Launch) : (s.setLaunch n l).pins = s.pins := rfl
@[simp] theorem State.setQ_pins (s : State) (c p l n : Nat) (x : Word) : (s.setQ c p l n x).pins = s.pins := rfl
@[simp] theorem State.setAccess_pins (s : State) (a : Access) : (s.setAccess a).pins = s.pins := rfl
@[simp] theorem State.setPoolByte_pins (s : State) (c a : Nat) (b : Byte) : (s.setPoolByte c a b).pins = s.pins := rfl
@[simp] theorem State.setNode_pins (s : State) (n : Nat) (d : Node) : (s.setNode n d).pins = s.pins := rfl
@[simp] theorem State.timer_pins (s : State) (k : Bool) (d : Nat) (i : Instr) (ns : List Nat) : (s.timer k d i ns).pins = s.pins := rfl
@[simp] theorem State.post_pins (s : State) (i : Instr) (ns : List Nat) : (s.post i ns).pins = s.pins := by rw [State.post_eq]

/-! ### Who leaves tlb alone -/

@[simp] theorem State.setCore_tlb (s : State) (c : Nat) (k : Core) : (s.setCore c k).tlb = s.tlb := rfl
@[simp] theorem State.setBlk_tlb (s : State) (c i : Nat) (b : Block) : (s.setBlk c i b).tlb = s.tlb := rfl
@[simp] theorem State.setByte_tlb (s : State) (a : Nat) (b : Byte) : (s.setByte a b).tlb = s.tlb := rfl
@[simp] theorem State.setV_tlb (s : State) (c p l n : Nat) (x : Word) : (s.setV c p l n x).tlb = s.tlb := rfl
@[simp] theorem State.freshenCopy_tlb (s : State) (c l : Nat) : (s.freshenCopy c l).tlb = s.tlb := rfl
@[simp] theorem State.setGrp_tlb (s : State) (c p : Nat) (g : Group) : (s.setGrp c p g).tlb = s.tlb := rfl
@[simp] theorem State.dropAccess_tlb (s : State) (n : Nat) : (s.dropAccess n).tlb = s.tlb := rfl
@[simp] theorem State.setSraw_tlb (s : State) (c p n : Nat) (x : Word) : (s.setSraw c p n x).tlb = s.tlb := rfl
@[simp] theorem State.setLaunch_tlb (s : State) (n : Nat) (l : Launch) : (s.setLaunch n l).tlb = s.tlb := rfl
@[simp] theorem State.setQ_tlb (s : State) (c p l n : Nat) (x : Word) : (s.setQ c p l n x).tlb = s.tlb := rfl
@[simp] theorem State.setAccess_tlb (s : State) (a : Access) : (s.setAccess a).tlb = s.tlb := rfl
@[simp] theorem State.setPoolByte_tlb (s : State) (c a : Nat) (b : Byte) : (s.setPoolByte c a b).tlb = s.tlb := rfl
@[simp] theorem State.setNode_tlb (s : State) (n : Nat) (d : Node) : (s.setNode n d).tlb = s.tlb := rfl
@[simp] theorem State.timer_tlb (s : State) (k : Bool) (d : Nat) (i : Instr) (ns : List Nat) : (s.timer k d i ns).tlb = s.tlb := rfl
@[simp] theorem State.post_tlb (s : State) (i : Instr) (ns : List Nat) : (s.post i ns).tlb = s.tlb := by rw [State.post_eq]

/-! ### Who leaves ops alone -/

@[simp] theorem State.setCore_ops (s : State) (c : Nat) (k : Core) : (s.setCore c k).ops = s.ops := rfl
@[simp] theorem State.setBlk_ops (s : State) (c i : Nat) (b : Block) : (s.setBlk c i b).ops = s.ops := rfl
@[simp] theorem State.setByte_ops (s : State) (a : Nat) (b : Byte) : (s.setByte a b).ops = s.ops := rfl
@[simp] theorem State.setV_ops (s : State) (c p l n : Nat) (x : Word) : (s.setV c p l n x).ops = s.ops := rfl
@[simp] theorem State.freshenCopy_ops (s : State) (c l : Nat) : (s.freshenCopy c l).ops = s.ops := rfl
@[simp] theorem State.setGrp_ops (s : State) (c p : Nat) (g : Group) : (s.setGrp c p g).ops = s.ops := rfl
@[simp] theorem State.dropAccess_ops (s : State) (n : Nat) : (s.dropAccess n).ops = s.ops := rfl
@[simp] theorem State.setSraw_ops (s : State) (c p n : Nat) (x : Word) : (s.setSraw c p n x).ops = s.ops := rfl
@[simp] theorem State.setLaunch_ops (s : State) (n : Nat) (l : Launch) : (s.setLaunch n l).ops = s.ops := rfl
@[simp] theorem State.setQ_ops (s : State) (c p l n : Nat) (x : Word) : (s.setQ c p l n x).ops = s.ops := rfl
@[simp] theorem State.setAccess_ops (s : State) (a : Access) : (s.setAccess a).ops = s.ops := rfl
@[simp] theorem State.setPoolByte_ops (s : State) (c a : Nat) (b : Byte) : (s.setPoolByte c a b).ops = s.ops := rfl
@[simp] theorem State.setNode_ops (s : State) (n : Nat) (d : Node) : (s.setNode n d).ops = s.ops := rfl
@[simp] theorem State.timer_ops (s : State) (k : Bool) (d : Nat) (i : Instr) (ns : List Nat) : (s.timer k d i ns).ops = s.ops := rfl
@[simp] theorem State.post_ops (s : State) (i : Instr) (ns : List Nat) : (s.post i ns).ops = s.ops := by rw [State.post_eq]

/-! ### Who leaves cards alone -/

@[simp] theorem State.setCore_cards (s : State) (c : Nat) (k : Core) : (s.setCore c k).cards = s.cards := rfl
@[simp] theorem State.setBlk_cards (s : State) (c i : Nat) (b : Block) : (s.setBlk c i b).cards = s.cards := rfl
@[simp] theorem State.setByte_cards (s : State) (a : Nat) (b : Byte) : (s.setByte a b).cards = s.cards := rfl
@[simp] theorem State.setV_cards (s : State) (c p l n : Nat) (x : Word) : (s.setV c p l n x).cards = s.cards := rfl
@[simp] theorem State.freshenCopy_cards (s : State) (c l : Nat) : (s.freshenCopy c l).cards = s.cards := rfl
@[simp] theorem State.setGrp_cards (s : State) (c p : Nat) (g : Group) : (s.setGrp c p g).cards = s.cards := rfl
@[simp] theorem State.dropAccess_cards (s : State) (n : Nat) : (s.dropAccess n).cards = s.cards := rfl
@[simp] theorem State.setSraw_cards (s : State) (c p n : Nat) (x : Word) : (s.setSraw c p n x).cards = s.cards := rfl
@[simp] theorem State.setLaunch_cards (s : State) (n : Nat) (l : Launch) : (s.setLaunch n l).cards = s.cards := rfl
@[simp] theorem State.setQ_cards (s : State) (c p l n : Nat) (x : Word) : (s.setQ c p l n x).cards = s.cards := rfl
@[simp] theorem State.setAccess_cards (s : State) (a : Access) : (s.setAccess a).cards = s.cards := rfl
@[simp] theorem State.setPoolByte_cards (s : State) (c a : Nat) (b : Byte) : (s.setPoolByte c a b).cards = s.cards := rfl
@[simp] theorem State.setNode_cards (s : State) (n : Nat) (d : Node) : (s.setNode n d).cards = s.cards := rfl
@[simp] theorem State.timer_cards (s : State) (k : Bool) (d : Nat) (i : Instr) (ns : List Nat) : (s.timer k d i ns).cards = s.cards := rfl
@[simp] theorem State.post_cards (s : State) (i : Instr) (ns : List Nat) : (s.post i ns).cards = s.cards := by rw [State.post_eq]

/-! ### Who leaves chains alone -/

@[simp] theorem State.setCore_chains (s : State) (c : Nat) (k : Core) : (s.setCore c k).chains = s.chains := rfl
@[simp] theorem State.setBlk_chains (s : State) (c i : Nat) (b : Block) : (s.setBlk c i b).chains = s.chains := rfl
@[simp] theorem State.setByte_chains (s : State) (a : Nat) (b : Byte) : (s.setByte a b).chains = s.chains := rfl
@[simp] theorem State.setV_chains (s : State) (c p l n : Nat) (x : Word) : (s.setV c p l n x).chains = s.chains := rfl
@[simp] theorem State.freshenCopy_chains (s : State) (c l : Nat) : (s.freshenCopy c l).chains = s.chains := rfl
@[simp] theorem State.setGrp_chains (s : State) (c p : Nat) (g : Group) : (s.setGrp c p g).chains = s.chains := rfl
@[simp] theorem State.dropAccess_chains (s : State) (n : Nat) : (s.dropAccess n).chains = s.chains := rfl
@[simp] theorem State.setSraw_chains (s : State) (c p n : Nat) (x : Word) : (s.setSraw c p n x).chains = s.chains := rfl
@[simp] theorem State.setLaunch_chains (s : State) (n : Nat) (l : Launch) : (s.setLaunch n l).chains = s.chains := rfl
@[simp] theorem State.setQ_chains (s : State) (c p l n : Nat) (x : Word) : (s.setQ c p l n x).chains = s.chains := rfl
@[simp] theorem State.setAccess_chains (s : State) (a : Access) : (s.setAccess a).chains = s.chains := rfl
@[simp] theorem State.setPoolByte_chains (s : State) (c a : Nat) (b : Byte) : (s.setPoolByte c a b).chains = s.chains := rfl
@[simp] theorem State.setNode_chains (s : State) (n : Nat) (d : Node) : (s.setNode n d).chains = s.chains := rfl
@[simp] theorem State.timer_chains (s : State) (k : Bool) (d : Nat) (i : Instr) (ns : List Nat) : (s.timer k d i ns).chains = s.chains := rfl
@[simp] theorem State.post_chains (s : State) (i : Instr) (ns : List Nat) : (s.post i ns).chains = s.chains := by rw [State.post_eq]

/-! ### Who leaves mjobs alone -/

@[simp] theorem State.setCore_mjobs (s : State) (c : Nat) (k : Core) : (s.setCore c k).mjobs = s.mjobs := rfl
@[simp] theorem State.setBlk_mjobs (s : State) (c i : Nat) (b : Block) : (s.setBlk c i b).mjobs = s.mjobs := rfl
@[simp] theorem State.setByte_mjobs (s : State) (a : Nat) (b : Byte) : (s.setByte a b).mjobs = s.mjobs := rfl
@[simp] theorem State.setV_mjobs (s : State) (c p l n : Nat) (x : Word) : (s.setV c p l n x).mjobs = s.mjobs := rfl
@[simp] theorem State.freshenCopy_mjobs (s : State) (c l : Nat) : (s.freshenCopy c l).mjobs = s.mjobs := rfl
@[simp] theorem State.setGrp_mjobs (s : State) (c p : Nat) (g : Group) : (s.setGrp c p g).mjobs = s.mjobs := rfl
@[simp] theorem State.dropAccess_mjobs (s : State) (n : Nat) : (s.dropAccess n).mjobs = s.mjobs := rfl
@[simp] theorem State.setSraw_mjobs (s : State) (c p n : Nat) (x : Word) : (s.setSraw c p n x).mjobs = s.mjobs := rfl
@[simp] theorem State.setLaunch_mjobs (s : State) (n : Nat) (l : Launch) : (s.setLaunch n l).mjobs = s.mjobs := rfl
@[simp] theorem State.setQ_mjobs (s : State) (c p l n : Nat) (x : Word) : (s.setQ c p l n x).mjobs = s.mjobs := rfl
@[simp] theorem State.setAccess_mjobs (s : State) (a : Access) : (s.setAccess a).mjobs = s.mjobs := rfl
@[simp] theorem State.setPoolByte_mjobs (s : State) (c a : Nat) (b : Byte) : (s.setPoolByte c a b).mjobs = s.mjobs := rfl
@[simp] theorem State.setNode_mjobs (s : State) (n : Nat) (d : Node) : (s.setNode n d).mjobs = s.mjobs := rfl
@[simp] theorem State.timer_mjobs (s : State) (k : Bool) (d : Nat) (i : Instr) (ns : List Nat) : (s.timer k d i ns).mjobs = s.mjobs := rfl
@[simp] theorem State.post_mjobs (s : State) (i : Instr) (ns : List Nat) : (s.post i ns).mjobs = s.mjobs := by rw [State.post_eq]

/-! ### Who leaves rjobs alone -/

@[simp] theorem State.setCore_rjobs (s : State) (c : Nat) (k : Core) : (s.setCore c k).rjobs = s.rjobs := rfl
@[simp] theorem State.setBlk_rjobs (s : State) (c i : Nat) (b : Block) : (s.setBlk c i b).rjobs = s.rjobs := rfl
@[simp] theorem State.setByte_rjobs (s : State) (a : Nat) (b : Byte) : (s.setByte a b).rjobs = s.rjobs := rfl
@[simp] theorem State.setV_rjobs (s : State) (c p l n : Nat) (x : Word) : (s.setV c p l n x).rjobs = s.rjobs := rfl
@[simp] theorem State.freshenCopy_rjobs (s : State) (c l : Nat) : (s.freshenCopy c l).rjobs = s.rjobs := rfl
@[simp] theorem State.setGrp_rjobs (s : State) (c p : Nat) (g : Group) : (s.setGrp c p g).rjobs = s.rjobs := rfl
@[simp] theorem State.dropAccess_rjobs (s : State) (n : Nat) : (s.dropAccess n).rjobs = s.rjobs := rfl
@[simp] theorem State.setSraw_rjobs (s : State) (c p n : Nat) (x : Word) : (s.setSraw c p n x).rjobs = s.rjobs := rfl
@[simp] theorem State.setLaunch_rjobs (s : State) (n : Nat) (l : Launch) : (s.setLaunch n l).rjobs = s.rjobs := rfl
@[simp] theorem State.setQ_rjobs (s : State) (c p l n : Nat) (x : Word) : (s.setQ c p l n x).rjobs = s.rjobs := rfl
@[simp] theorem State.setAccess_rjobs (s : State) (a : Access) : (s.setAccess a).rjobs = s.rjobs := rfl
@[simp] theorem State.setPoolByte_rjobs (s : State) (c a : Nat) (b : Byte) : (s.setPoolByte c a b).rjobs = s.rjobs := rfl
@[simp] theorem State.setNode_rjobs (s : State) (n : Nat) (d : Node) : (s.setNode n d).rjobs = s.rjobs := rfl
@[simp] theorem State.timer_rjobs (s : State) (k : Bool) (d : Nat) (i : Instr) (ns : List Nat) : (s.timer k d i ns).rjobs = s.rjobs := rfl
@[simp] theorem State.post_rjobs (s : State) (i : Instr) (ns : List Nat) : (s.post i ns).rjobs = s.rjobs := by rw [State.post_eq]

/-! ### Who leaves engLost alone -/

@[simp] theorem State.setCore_engLost (s : State) (c : Nat) (k : Core) : (s.setCore c k).engLost = s.engLost := rfl
@[simp] theorem State.setBlk_engLost (s : State) (c i : Nat) (b : Block) : (s.setBlk c i b).engLost = s.engLost := rfl
@[simp] theorem State.setByte_engLost (s : State) (a : Nat) (b : Byte) : (s.setByte a b).engLost = s.engLost := rfl
@[simp] theorem State.setV_engLost (s : State) (c p l n : Nat) (x : Word) : (s.setV c p l n x).engLost = s.engLost := rfl
@[simp] theorem State.freshenCopy_engLost (s : State) (c l : Nat) : (s.freshenCopy c l).engLost = s.engLost := rfl
@[simp] theorem State.setGrp_engLost (s : State) (c p : Nat) (g : Group) : (s.setGrp c p g).engLost = s.engLost := rfl
@[simp] theorem State.dropAccess_engLost (s : State) (n : Nat) : (s.dropAccess n).engLost = s.engLost := rfl
@[simp] theorem State.setSraw_engLost (s : State) (c p n : Nat) (x : Word) : (s.setSraw c p n x).engLost = s.engLost := rfl
@[simp] theorem State.setLaunch_engLost (s : State) (n : Nat) (l : Launch) : (s.setLaunch n l).engLost = s.engLost := rfl
@[simp] theorem State.setQ_engLost (s : State) (c p l n : Nat) (x : Word) : (s.setQ c p l n x).engLost = s.engLost := rfl
@[simp] theorem State.setAccess_engLost (s : State) (a : Access) : (s.setAccess a).engLost = s.engLost := rfl
@[simp] theorem State.setPoolByte_engLost (s : State) (c a : Nat) (b : Byte) : (s.setPoolByte c a b).engLost = s.engLost := rfl
@[simp] theorem State.setNode_engLost (s : State) (n : Nat) (d : Node) : (s.setNode n d).engLost = s.engLost := rfl
@[simp] theorem State.timer_engLost (s : State) (k : Bool) (d : Nat) (i : Instr) (ns : List Nat) : (s.timer k d i ns).engLost = s.engLost := rfl
@[simp] theorem State.post_engLost (s : State) (i : Instr) (ns : List Nat) : (s.post i ns).engLost = s.engLost := by rw [State.post_eq]

/-! ### Who leaves frozenEng alone -/

@[simp] theorem State.setCore_frozenEng (s : State) (c : Nat) (k : Core) : (s.setCore c k).frozenEng = s.frozenEng := rfl
@[simp] theorem State.setBlk_frozenEng (s : State) (c i : Nat) (b : Block) : (s.setBlk c i b).frozenEng = s.frozenEng := rfl
@[simp] theorem State.setByte_frozenEng (s : State) (a : Nat) (b : Byte) : (s.setByte a b).frozenEng = s.frozenEng := rfl
@[simp] theorem State.setV_frozenEng (s : State) (c p l n : Nat) (x : Word) : (s.setV c p l n x).frozenEng = s.frozenEng := rfl
@[simp] theorem State.freshenCopy_frozenEng (s : State) (c l : Nat) : (s.freshenCopy c l).frozenEng = s.frozenEng := rfl
@[simp] theorem State.setGrp_frozenEng (s : State) (c p : Nat) (g : Group) : (s.setGrp c p g).frozenEng = s.frozenEng := rfl
@[simp] theorem State.dropAccess_frozenEng (s : State) (n : Nat) : (s.dropAccess n).frozenEng = s.frozenEng := rfl
@[simp] theorem State.setSraw_frozenEng (s : State) (c p n : Nat) (x : Word) : (s.setSraw c p n x).frozenEng = s.frozenEng := rfl
@[simp] theorem State.setLaunch_frozenEng (s : State) (n : Nat) (l : Launch) : (s.setLaunch n l).frozenEng = s.frozenEng := rfl
@[simp] theorem State.setQ_frozenEng (s : State) (c p l n : Nat) (x : Word) : (s.setQ c p l n x).frozenEng = s.frozenEng := rfl
@[simp] theorem State.setAccess_frozenEng (s : State) (a : Access) : (s.setAccess a).frozenEng = s.frozenEng := rfl
@[simp] theorem State.setPoolByte_frozenEng (s : State) (c a : Nat) (b : Byte) : (s.setPoolByte c a b).frozenEng = s.frozenEng := rfl
@[simp] theorem State.setNode_frozenEng (s : State) (n : Nat) (d : Node) : (s.setNode n d).frozenEng = s.frozenEng := rfl
@[simp] theorem State.timer_frozenEng (s : State) (k : Bool) (d : Nat) (i : Instr) (ns : List Nat) : (s.timer k d i ns).frozenEng = s.frozenEng := rfl
@[simp] theorem State.post_frozenEng (s : State) (i : Instr) (ns : List Nat) : (s.post i ns).frozenEng = s.frozenEng := by rw [State.post_eq]

/-! ### Who leaves dev alone -/

@[simp] theorem State.setCore_dev (s : State) (c : Nat) (k : Core) : (s.setCore c k).dev = s.dev := rfl
@[simp] theorem State.setBlk_dev (s : State) (c i : Nat) (b : Block) : (s.setBlk c i b).dev = s.dev := rfl
@[simp] theorem State.setByte_dev (s : State) (a : Nat) (b : Byte) : (s.setByte a b).dev = s.dev := rfl
@[simp] theorem State.setV_dev (s : State) (c p l n : Nat) (x : Word) : (s.setV c p l n x).dev = s.dev := rfl
@[simp] theorem State.freshenCopy_dev (s : State) (c l : Nat) : (s.freshenCopy c l).dev = s.dev := rfl
@[simp] theorem State.setGrp_dev (s : State) (c p : Nat) (g : Group) : (s.setGrp c p g).dev = s.dev := rfl
@[simp] theorem State.dropAccess_dev (s : State) (n : Nat) : (s.dropAccess n).dev = s.dev := rfl
@[simp] theorem State.setSraw_dev (s : State) (c p n : Nat) (x : Word) : (s.setSraw c p n x).dev = s.dev := rfl
@[simp] theorem State.setLaunch_dev (s : State) (n : Nat) (l : Launch) : (s.setLaunch n l).dev = s.dev := rfl
@[simp] theorem State.setQ_dev (s : State) (c p l n : Nat) (x : Word) : (s.setQ c p l n x).dev = s.dev := rfl
@[simp] theorem State.setAccess_dev (s : State) (a : Access) : (s.setAccess a).dev = s.dev := rfl
@[simp] theorem State.setPoolByte_dev (s : State) (c a : Nat) (b : Byte) : (s.setPoolByte c a b).dev = s.dev := rfl
@[simp] theorem State.setNode_dev (s : State) (n : Nat) (d : Node) : (s.setNode n d).dev = s.dev := rfl
@[simp] theorem State.timer_dev (s : State) (k : Bool) (d : Nat) (i : Instr) (ns : List Nat) : (s.timer k d i ns).dev = s.dev := rfl
@[simp] theorem State.post_dev (s : State) (i : Instr) (ns : List Nat) : (s.post i ns).dev = s.dev := by rw [State.post_eq]

/-! ### Who leaves timers alone -/

@[simp] theorem State.setCore_timers (s : State) (c : Nat) (k : Core) : (s.setCore c k).timers = s.timers := rfl
@[simp] theorem State.setBlk_timers (s : State) (c i : Nat) (b : Block) : (s.setBlk c i b).timers = s.timers := rfl
@[simp] theorem State.setByte_timers (s : State) (a : Nat) (b : Byte) : (s.setByte a b).timers = s.timers := rfl
@[simp] theorem State.setV_timers (s : State) (c p l n : Nat) (x : Word) : (s.setV c p l n x).timers = s.timers := rfl
@[simp] theorem State.freshenCopy_timers (s : State) (c l : Nat) : (s.freshenCopy c l).timers = s.timers := rfl
@[simp] theorem State.setGrp_timers (s : State) (c p : Nat) (g : Group) : (s.setGrp c p g).timers = s.timers := rfl
@[simp] theorem State.dropAccess_timers (s : State) (n : Nat) : (s.dropAccess n).timers = s.timers := rfl
@[simp] theorem State.setSraw_timers (s : State) (c p n : Nat) (x : Word) : (s.setSraw c p n x).timers = s.timers := rfl
@[simp] theorem State.setLaunch_timers (s : State) (n : Nat) (l : Launch) : (s.setLaunch n l).timers = s.timers := rfl
@[simp] theorem State.setQ_timers (s : State) (c p l n : Nat) (x : Word) : (s.setQ c p l n x).timers = s.timers := rfl
@[simp] theorem State.setAccess_timers (s : State) (a : Access) : (s.setAccess a).timers = s.timers := rfl
@[simp] theorem State.setPoolByte_timers (s : State) (c a : Nat) (b : Byte) : (s.setPoolByte c a b).timers = s.timers := rfl
@[simp] theorem State.setNode_timers (s : State) (n : Nat) (d : Node) : (s.setNode n d).timers = s.timers := rfl
@[simp] theorem State.post_timers (s : State) (i : Instr) (ns : List Nat) : (s.post i ns).timers = s.timers := by rw [State.post_eq]

/-! ### Who leaves freeCount alone -/

@[simp] theorem State.setCore_freeCount (s : State) (c : Nat) (k : Core) : (s.setCore c k).freeCount = s.freeCount := rfl
@[simp] theorem State.setBlk_freeCount (s : State) (c i : Nat) (b : Block) : (s.setBlk c i b).freeCount = s.freeCount := rfl
@[simp] theorem State.setByte_freeCount (s : State) (a : Nat) (b : Byte) : (s.setByte a b).freeCount = s.freeCount := rfl
@[simp] theorem State.setV_freeCount (s : State) (c p l n : Nat) (x : Word) : (s.setV c p l n x).freeCount = s.freeCount := rfl
@[simp] theorem State.freshenCopy_freeCount (s : State) (c l : Nat) : (s.freshenCopy c l).freeCount = s.freeCount := rfl
@[simp] theorem State.setGrp_freeCount (s : State) (c p : Nat) (g : Group) : (s.setGrp c p g).freeCount = s.freeCount := rfl
@[simp] theorem State.dropAccess_freeCount (s : State) (n : Nat) : (s.dropAccess n).freeCount = s.freeCount := rfl
@[simp] theorem State.setSraw_freeCount (s : State) (c p n : Nat) (x : Word) : (s.setSraw c p n x).freeCount = s.freeCount := rfl
@[simp] theorem State.setLaunch_freeCount (s : State) (n : Nat) (l : Launch) : (s.setLaunch n l).freeCount = s.freeCount := rfl
@[simp] theorem State.setQ_freeCount (s : State) (c p l n : Nat) (x : Word) : (s.setQ c p l n x).freeCount = s.freeCount := rfl
@[simp] theorem State.setAccess_freeCount (s : State) (a : Access) : (s.setAccess a).freeCount = s.freeCount := rfl
@[simp] theorem State.setPoolByte_freeCount (s : State) (c a : Nat) (b : Byte) : (s.setPoolByte c a b).freeCount = s.freeCount := rfl
@[simp] theorem State.setNode_freeCount (s : State) (n : Nat) (d : Node) : (s.setNode n d).freeCount = s.freeCount := rfl
@[simp] theorem State.timer_freeCount (s : State) (k : Bool) (d : Nat) (i : Instr) (ns : List Nat) : (s.timer k d i ns).freeCount = s.freeCount := rfl
@[simp] theorem State.post_freeCount (s : State) (i : Instr) (ns : List Nat) : (s.post i ns).freeCount = s.freeCount := by rw [State.post_eq]

/-! ### Who leaves picks alone -/

@[simp] theorem State.setCore_picks (s : State) (c : Nat) (k : Core) : (s.setCore c k).picks = s.picks := rfl
@[simp] theorem State.setBlk_picks (s : State) (c i : Nat) (b : Block) : (s.setBlk c i b).picks = s.picks := rfl
@[simp] theorem State.setByte_picks (s : State) (a : Nat) (b : Byte) : (s.setByte a b).picks = s.picks := rfl
@[simp] theorem State.setV_picks (s : State) (c p l n : Nat) (x : Word) : (s.setV c p l n x).picks = s.picks := rfl
@[simp] theorem State.freshenCopy_picks (s : State) (c l : Nat) : (s.freshenCopy c l).picks = s.picks := rfl
@[simp] theorem State.setGrp_picks (s : State) (c p : Nat) (g : Group) : (s.setGrp c p g).picks = s.picks := rfl
@[simp] theorem State.dropAccess_picks (s : State) (n : Nat) : (s.dropAccess n).picks = s.picks := rfl
@[simp] theorem State.setSraw_picks (s : State) (c p n : Nat) (x : Word) : (s.setSraw c p n x).picks = s.picks := rfl
@[simp] theorem State.setLaunch_picks (s : State) (n : Nat) (l : Launch) : (s.setLaunch n l).picks = s.picks := rfl
@[simp] theorem State.setQ_picks (s : State) (c p l n : Nat) (x : Word) : (s.setQ c p l n x).picks = s.picks := rfl
@[simp] theorem State.setAccess_picks (s : State) (a : Access) : (s.setAccess a).picks = s.picks := rfl
@[simp] theorem State.setPoolByte_picks (s : State) (c a : Nat) (b : Byte) : (s.setPoolByte c a b).picks = s.picks := rfl
@[simp] theorem State.setNode_picks (s : State) (n : Nat) (d : Node) : (s.setNode n d).picks = s.picks := rfl
@[simp] theorem State.timer_picks (s : State) (k : Bool) (d : Nat) (i : Instr) (ns : List Nat) : (s.timer k d i ns).picks = s.picks := rfl
@[simp] theorem State.post_picks (s : State) (i : Instr) (ns : List Nat) : (s.post i ns).picks = s.picks := by rw [State.post_eq]

/-! ### Who leaves agenda alone -/

@[simp] theorem State.setCore_agenda (s : State) (c : Nat) (k : Core) : (s.setCore c k).agenda = s.agenda := rfl
@[simp] theorem State.setBlk_agenda (s : State) (c i : Nat) (b : Block) : (s.setBlk c i b).agenda = s.agenda := rfl
@[simp] theorem State.setByte_agenda (s : State) (a : Nat) (b : Byte) : (s.setByte a b).agenda = s.agenda := rfl
@[simp] theorem State.setV_agenda (s : State) (c p l n : Nat) (x : Word) : (s.setV c p l n x).agenda = s.agenda := rfl
@[simp] theorem State.freshenCopy_agenda (s : State) (c l : Nat) : (s.freshenCopy c l).agenda = s.agenda := rfl
@[simp] theorem State.setGrp_agenda (s : State) (c p : Nat) (g : Group) : (s.setGrp c p g).agenda = s.agenda := rfl
@[simp] theorem State.dropAccess_agenda (s : State) (n : Nat) : (s.dropAccess n).agenda = s.agenda := rfl
@[simp] theorem State.setSraw_agenda (s : State) (c p n : Nat) (x : Word) : (s.setSraw c p n x).agenda = s.agenda := rfl
@[simp] theorem State.setLaunch_agenda (s : State) (n : Nat) (l : Launch) : (s.setLaunch n l).agenda = s.agenda := rfl
@[simp] theorem State.setQ_agenda (s : State) (c p l n : Nat) (x : Word) : (s.setQ c p l n x).agenda = s.agenda := rfl
@[simp] theorem State.setAccess_agenda (s : State) (a : Access) : (s.setAccess a).agenda = s.agenda := rfl
@[simp] theorem State.setPoolByte_agenda (s : State) (c a : Nat) (b : Byte) : (s.setPoolByte c a b).agenda = s.agenda := rfl
@[simp] theorem State.setNode_agenda (s : State) (n : Nat) (d : Node) : (s.setNode n d).agenda = s.agenda := rfl
@[simp] theorem State.timer_agenda (s : State) (k : Bool) (d : Nat) (i : Instr) (ns : List Nat) : (s.timer k d i ns).agenda = s.agenda := rfl

/-! ### Who leaves schedule alone -/

@[simp] theorem State.setCore_schedule (s : State) (c : Nat) (k : Core) : (s.setCore c k).schedule = s.schedule := rfl
@[simp] theorem State.setBlk_schedule (s : State) (c i : Nat) (b : Block) : (s.setBlk c i b).schedule = s.schedule := rfl
@[simp] theorem State.setByte_schedule (s : State) (a : Nat) (b : Byte) : (s.setByte a b).schedule = s.schedule := rfl
@[simp] theorem State.setV_schedule (s : State) (c p l n : Nat) (x : Word) : (s.setV c p l n x).schedule = s.schedule := rfl
@[simp] theorem State.freshenCopy_schedule (s : State) (c l : Nat) : (s.freshenCopy c l).schedule = s.schedule := rfl
@[simp] theorem State.setGrp_schedule (s : State) (c p : Nat) (g : Group) : (s.setGrp c p g).schedule = s.schedule := rfl
@[simp] theorem State.dropAccess_schedule (s : State) (n : Nat) : (s.dropAccess n).schedule = s.schedule := rfl
@[simp] theorem State.setSraw_schedule (s : State) (c p n : Nat) (x : Word) : (s.setSraw c p n x).schedule = s.schedule := rfl
@[simp] theorem State.setLaunch_schedule (s : State) (n : Nat) (l : Launch) : (s.setLaunch n l).schedule = s.schedule := rfl
@[simp] theorem State.setQ_schedule (s : State) (c p l n : Nat) (x : Word) : (s.setQ c p l n x).schedule = s.schedule := rfl
@[simp] theorem State.setAccess_schedule (s : State) (a : Access) : (s.setAccess a).schedule = s.schedule := rfl
@[simp] theorem State.setPoolByte_schedule (s : State) (c a : Nat) (b : Byte) : (s.setPoolByte c a b).schedule = s.schedule := rfl
@[simp] theorem State.setNode_schedule (s : State) (n : Nat) (d : Node) : (s.setNode n d).schedule = s.schedule := rfl
@[simp] theorem State.timer_schedule (s : State) (k : Bool) (d : Nat) (i : Instr) (ns : List Nat) : (s.timer k d i ns).schedule = s.schedule := rfl
@[simp] theorem State.post_schedule (s : State) (i : Instr) (ns : List Nat) : (s.post i ns).schedule = s.schedule := by rw [State.post_eq]

/-! ### Who leaves issuer alone -/

@[simp] theorem State.setCore_issuer (s : State) (c : Nat) (k : Core) : (s.setCore c k).issuer = s.issuer := rfl
@[simp] theorem State.setBlk_issuer (s : State) (c i : Nat) (b : Block) : (s.setBlk c i b).issuer = s.issuer := rfl
@[simp] theorem State.setByte_issuer (s : State) (a : Nat) (b : Byte) : (s.setByte a b).issuer = s.issuer := rfl
@[simp] theorem State.setV_issuer (s : State) (c p l n : Nat) (x : Word) : (s.setV c p l n x).issuer = s.issuer := rfl
@[simp] theorem State.freshenCopy_issuer (s : State) (c l : Nat) : (s.freshenCopy c l).issuer = s.issuer := rfl
@[simp] theorem State.setGrp_issuer (s : State) (c p : Nat) (g : Group) : (s.setGrp c p g).issuer = s.issuer := rfl
@[simp] theorem State.dropAccess_issuer (s : State) (n : Nat) : (s.dropAccess n).issuer = s.issuer := rfl
@[simp] theorem State.setSraw_issuer (s : State) (c p n : Nat) (x : Word) : (s.setSraw c p n x).issuer = s.issuer := rfl
@[simp] theorem State.setLaunch_issuer (s : State) (n : Nat) (l : Launch) : (s.setLaunch n l).issuer = s.issuer := rfl
@[simp] theorem State.setQ_issuer (s : State) (c p l n : Nat) (x : Word) : (s.setQ c p l n x).issuer = s.issuer := rfl
@[simp] theorem State.setAccess_issuer (s : State) (a : Access) : (s.setAccess a).issuer = s.issuer := rfl
@[simp] theorem State.setPoolByte_issuer (s : State) (c a : Nat) (b : Byte) : (s.setPoolByte c a b).issuer = s.issuer := rfl
@[simp] theorem State.setNode_issuer (s : State) (n : Nat) (d : Node) : (s.setNode n d).issuer = s.issuer := rfl
@[simp] theorem State.timer_issuer (s : State) (k : Bool) (d : Nat) (i : Instr) (ns : List Nat) : (s.timer k d i ns).issuer = s.issuer := rfl
@[simp] theorem State.post_issuer (s : State) (i : Instr) (ns : List Nat) : (s.post i ns).issuer = s.issuer := by rw [State.post_eq]

/-! ### Who leaves subject alone -/

@[simp] theorem State.setCore_subject (s : State) (c : Nat) (k : Core) : (s.setCore c k).subject = s.subject := rfl
@[simp] theorem State.setBlk_subject (s : State) (c i : Nat) (b : Block) : (s.setBlk c i b).subject = s.subject := rfl
@[simp] theorem State.setByte_subject (s : State) (a : Nat) (b : Byte) : (s.setByte a b).subject = s.subject := rfl
@[simp] theorem State.setV_subject (s : State) (c p l n : Nat) (x : Word) : (s.setV c p l n x).subject = s.subject := rfl
@[simp] theorem State.freshenCopy_subject (s : State) (c l : Nat) : (s.freshenCopy c l).subject = s.subject := rfl
@[simp] theorem State.setGrp_subject (s : State) (c p : Nat) (g : Group) : (s.setGrp c p g).subject = s.subject := rfl
@[simp] theorem State.dropAccess_subject (s : State) (n : Nat) : (s.dropAccess n).subject = s.subject := rfl
@[simp] theorem State.setSraw_subject (s : State) (c p n : Nat) (x : Word) : (s.setSraw c p n x).subject = s.subject := rfl
@[simp] theorem State.setLaunch_subject (s : State) (n : Nat) (l : Launch) : (s.setLaunch n l).subject = s.subject := rfl
@[simp] theorem State.setQ_subject (s : State) (c p l n : Nat) (x : Word) : (s.setQ c p l n x).subject = s.subject := rfl
@[simp] theorem State.setAccess_subject (s : State) (a : Access) : (s.setAccess a).subject = s.subject := rfl
@[simp] theorem State.setPoolByte_subject (s : State) (c a : Nat) (b : Byte) : (s.setPoolByte c a b).subject = s.subject := rfl
@[simp] theorem State.setNode_subject (s : State) (n : Nat) (d : Node) : (s.setNode n d).subject = s.subject := rfl
@[simp] theorem State.timer_subject (s : State) (k : Bool) (d : Nat) (i : Instr) (ns : List Nat) : (s.timer k d i ns).subject = s.subject := rfl
@[simp] theorem State.post_subject (s : State) (i : Instr) (ns : List Nat) : (s.post i ns).subject = s.subject := by rw [State.post_eq]

theorem State.core_setCore (s : State) (c d : Nat) (k : Core) : (s.setCore c k).core d = if d = c then k else s.core d := aget_aset _ _ _ _ _
@[simp] theorem State.core_setCore_self (s : State) (c : Nat) (k : Core) : (s.setCore c k).core c = k := aget_aset_self _ _ _ _
theorem State.launch_setLaunch (s : State) (c d : Nat) (k : Launch) : (s.setLaunch c k).launch d = if d = c then k else s.launch d := aget_aset _ _ _ _ _
@[simp] theorem State.launch_setLaunch_self (s : State) (c : Nat) (k : Launch) : (s.setLaunch c k).launch c = k := aget_aset_self _ _ _ _
theorem State.node_setNode (s : State) (c d : Nat) (k : Node) : (s.setNode c k).node d = if d = c then k else s.node d := aget_aset _ _ _ _ _
@[simp] theorem State.node_setNode_self (s : State) (c : Nat) (k : Node) : (s.setNode c k).node c = k := aget_aset_self _ _ _ _
theorem State.grp_setGrp (s : State) (c p d q : Nat) (g : Group) :
    (s.setGrp c p g).grp d q = if gid d q = gid c p then g else s.grp d q := aget_aset _ _ _ _ _
@[simp] theorem State.grp_setGrp_self (s : State) (c p : Nat) (g : Group) : (s.setGrp c p g).grp c p = g := aget_aset_self _ _ _ _
/-- The last of two writes of a group is the one that counts. -/
theorem State.setGrp_setGrp (s : State) (c p : Nat) (g h : Group) : (s.setGrp c p g).setGrp c p h = s.setGrp c p h := by
  simp only [State.setGrp, aset_aset]
theorem State.blkAt_setBlk (s : State) (c i d j : Nat) (b : Block) :
    (s.setBlk c i b).blkAt d j = if gid d j = gid c i then b else s.blkAt d j := aget_aset _ _ _ _ _
@[simp] theorem State.blkAt_setBlk_self (s : State) (c i : Nat) (b : Block) : (s.setBlk c i b).blkAt c i = b := aget_aset_self _ _ _ _


end Sys2Proof.Machine
end

