-- ==== Sys2Proof/Laws/Memory.lean ====
section
/-!
SUPPORT. The laws of memory and of the pools: what a byte reads as after a write, and that every operation keeps the maps canonical.
-/
namespace Sys2Proof.Machine

/-- Taking one address out of a region leaves every other address in it, under the same write. -/
theorem Undef.find_without (u : Undef) {pa a : Nat} (h : a ≠ pa) :
    ((u.without pa).find? fun r => r.lo ≤ a && a < r.lo + r.n).map (·.k) =
      if u.lo ≤ a && a < u.lo + u.n then some u.k else none := by
  unfold Undef.without
  by_cases hc : (decide (u.lo ≤ pa) && decide (pa < u.lo + u.n)) = true
  · rw [if_pos hc]
    simp only [Bool.and_eq_true, decide_eq_true_eq] at hc
    obtain ⟨h1, h2⟩ := hc
    by_cases hl : a < pa
    · by_cases ha : u.lo ≤ a
      · have h3 : pa - u.lo ≠ 0 := by omega
        have h4 : a < u.lo + (pa - u.lo) := by omega
        have h5 : a < u.lo + u.n := by omega
        simp [List.filter_cons, h3, ha, h4, h5]
      · by_cases h3 : pa - u.lo = 0 <;> by_cases h4 : u.lo + u.n - (pa + 1) = 0 <;>
          simp [h3, h4, ha] <;> omega
    · have hg : pa + 1 ≤ a := by omega
      by_cases ha : a < u.lo + u.n
      · have h4 : u.lo + u.n - (pa + 1) ≠ 0 := by omega
        have h5 : ¬ a < u.lo + (pa - u.lo) := by omega
        have h6 : a < pa + 1 + (u.lo + u.n - (pa + 1)) := by omega
        have h7 : u.lo ≤ a := by omega
        by_cases h3 : pa - u.lo = 0 <;> simp [h3, h4, h5, h6, h7, hg, ha]
        all_goals omega
      · have h5 : ¬ a < u.lo + (pa - u.lo) := by omega
        have h6 : ¬ a < pa + 1 + (u.lo + u.n - (pa + 1)) := by omega
        by_cases h3 : pa - u.lo = 0 <;> by_cases h4 : u.lo + u.n - (pa + 1) = 0 <;>
          simp [h3, h4, h5, h6, ha]
        all_goals omega
  · rw [if_neg hc]
    by_cases hb : (decide (u.lo ≤ a) && decide (a < u.lo + u.n)) = true <;> simp [hb]
    all_goals simpa using hb

/-- The region of an address, by its write: the same after another address has been taken out. -/
theorem find_flatMap_without (us : List Undef) {pa a : Nat} (h : a ≠ pa) :
    ((us.flatMap fun u => u.without pa).find? fun r => r.lo ≤ a && a < r.lo + r.n).map (·.k) =
      (us.find? fun r => r.lo ≤ a && a < r.lo + r.n).map (·.k) := by
  induction us with
  | nil => rfl
  | cons u us ih =>
    have hu := u.find_without h
    rw [List.flatMap_cons, List.find?_append, List.find?_cons]
    cases hq : (u.without pa).find? fun r => r.lo ≤ a && a < r.lo + r.n with
    | some r =>
      rw [hq] at hu
      by_cases hb : (decide (u.lo ≤ a) && decide (a < u.lo + u.n)) = true
      · rw [if_pos hb] at hu; rw [hb]; simpa using hu
      · rw [if_neg hb] at hu; simp at hu
    | none =>
      rw [hq] at hu
      by_cases hb : (decide (u.lo ≤ a) && decide (a < u.lo + u.n)) = true
      · rw [if_pos hb] at hu; simp at hu
      · simp only [Bool.not_eq_true] at hb
        rw [hb]; simpa using ih

/-- No region holds an address that has been taken out. -/
theorem find_flatMap_without_self (us : List Undef) (pa : Nat) :
    ((us.flatMap fun u => u.without pa).find? fun r => r.lo ≤ pa && pa < r.lo + r.n) = none := by
  rw [List.find?_eq_none]
  intro r hr
  rw [List.mem_flatMap] at hr
  obtain ⟨u, _, hu⟩ := hr
  unfold Undef.without at hu
  split at hu
  · rw [List.mem_filter] at hu
    rcases List.mem_cons.1 hu.1 with rfl | hu
    · simp only [Bool.and_eq_true, decide_eq_true_eq, not_and, Nat.not_lt]; omega
    · rcases List.mem_cons.1 hu with rfl | hu
      · simp only [Bool.and_eq_true, decide_eq_true_eq, not_and, Nat.not_lt]; omega
      · cases hu
  · rename_i hc; rw [List.mem_singleton] at hu; subst hu; exact hc

/-- What a byte reads as, by its region. -/
theorem State.byte_eq (s : State) (a : Nat) :
    s.byte a = match (s.undef.find? fun r => r.lo ≤ a && a < r.lo + r.n).map (·.k) with
      | some k => Config.freeByte k a
      | none => aget 0#8 s.mem a := by
  unfold State.byte
  cases s.undef.find? fun r => r.lo ≤ a && a < r.lo + r.n <;> rfl

@[simp] theorem State.byte_setByte_self (s : State) (pa : Nat) (b : Byte) : (s.setByte pa b).byte pa = b := by
  rw [State.byte_eq]
  show (match (((s.undef.flatMap fun u => u.without pa).find? fun r => r.lo ≤ pa && pa < r.lo + r.n).map (·.k)) with
    | some k => Config.freeByte k pa
    | none => aget 0#8 (aset 0#8 s.mem pa b) pa) = b
  rw [find_flatMap_without_self]
  exact aget_aset_self _ _ _ _

theorem State.byte_setByte_ne (s : State) {pa a : Nat} (b : Byte) (h : a ≠ pa) : (s.setByte pa b).byte a = s.byte a := by
  rw [State.byte_eq, State.byte_eq]
  show (match (((s.undef.flatMap fun u => u.without pa).find? fun r => r.lo ≤ a && a < r.lo + r.n).map (·.k)) with
    | some k => Config.freeByte k a
    | none => aget 0#8 (aset 0#8 s.mem pa b) a) = _
  rw [find_flatMap_without _ h, aget_aset_ne _ _ _ h]

/-- A byte outside the bytes written reads as before. -/
theorem State.byte_setBytes_ne (s : State) {pa a : Nat} (bs : List Byte) (h : a < pa ∨ pa + bs.length ≤ a) :
    (s.setBytes pa bs).byte a = s.byte a := by
  induction bs generalizing s pa with
  | nil => rfl
  | cons b bs ih =>
    simp only [List.length_cons] at h
    rw [State.setBytes, ih (s.setByte pa b) (by omega), State.byte_setByte_ne s b (by omega)]

/-- A byte written reads as written. -/
theorem State.byte_setBytes (s : State) (pa k : Nat) (bs : List Byte) (h : k < bs.length) :
    (s.setBytes pa bs).byte (pa + k) = bs.getD k 0#8 := by
  induction bs generalizing s pa k with
  | nil => simp at h
  | cons b bs ih =>
    rw [State.setBytes]
    cases k with
    | zero => rw [State.byte_setBytes_ne _ _ (by omega), Nat.add_zero, State.byte_setByte_self]; rfl
    | succ k =>
      have := ih (s.setByte pa b) (pa + 1) k (by simpa using h)
      rw [show pa + (k + 1) = pa + 1 + k by omega, this]; simp

theorem State.bytes_setBytes (s : State) (pa : Nat) (bs : List Byte) : (s.setBytes pa bs).bytes pa bs.length = bs := by
  apply List.ext_getElem
  · simp [State.bytes]
  · intro k h1 h2
    simp only [State.bytes, List.getElem_map, List.getElem_range]
    rw [State.byte_setBytes _ _ _ _ h2, List.getD_eq_getElem?_getD, List.getElem?_eq_getElem h2]; rfl

/-- Writing bytes changes memory alone. -/
theorem State.setBytes_eq (s : State) (pa : Nat) (bs : List Byte) :
    s.setBytes pa bs = { s with mem := (s.setBytes pa bs).mem, undef := (s.setBytes pa bs).undef } := by
  induction bs generalizing s pa with
  | nil => rfl
  | cons b bs ih => rw [State.setBytes, ih]; rfl

theorem State.poolByte_setPoolByte (s : State) (c a d o : Nat) (b : Byte) :
    (s.setPoolByte c a b).poolByte d o = if poolKey d o = poolKey c a then b else s.poolByte d o := aget_aset _ _ _ _ _

theorem State.poolByte_setPoolBytes_ne (s : State) {c a d o : Nat} (bs : List Byte)
    (h : poolKey d o < poolKey c a ∨ poolKey c a + bs.length ≤ poolKey d o) : (s.setPoolBytes c a bs).poolByte d o = s.poolByte d o := by
  induction bs generalizing s a with
  | nil => rfl
  | cons b bs ih =>
    simp only [List.length_cons] at h
    have hk : poolKey c (a + 1) = poolKey c a + 1 := by unfold poolKey; omega
    rw [State.setPoolBytes, ih (s.setPoolByte c a b) (by omega), State.poolByte_setPoolByte, if_neg (by omega)]

theorem State.poolByte_setPoolBytes (s : State) (c a k : Nat) (bs : List Byte) (h : k < bs.length) :
    (s.setPoolBytes c a bs).poolByte c (a + k) = bs.getD k 0#8 := by
  induction bs generalizing s a k with
  | nil => simp at h
  | cons b bs ih =>
    rw [State.setPoolBytes]
    cases k with
    | zero =>
      rw [State.poolByte_setPoolBytes_ne _ _ (by unfold poolKey; omega), Nat.add_zero, State.poolByte_setPoolByte, if_pos rfl]; rfl
    | succ k =>
      have := ih (s.setPoolByte c a b) (a + 1) k (by simpa using h)
      rw [show a + (k + 1) = a + 1 + k by omega, this]; simp

theorem State.poolBytes_setPoolBytes (s : State) (c a : Nat) (bs : List Byte) :
    (s.setPoolBytes c a bs).poolBytes c a bs.length = bs := by
  apply List.ext_getElem
  · simp [State.poolBytes]
  · intro k h1 h2
    simp only [State.poolBytes, List.getElem_map, List.getElem_range]
    rw [State.poolByte_setPoolBytes _ _ _ _ _ h2, List.getD_eq_getElem?_getD, List.getElem?_eq_getElem h2]; rfl

/-- Writing bytes of a pool changes the pools alone. -/
theorem State.setPoolBytes_eq (s : State) (c a : Nat) (bs : List Byte) :
    s.setPoolBytes c a bs = { s with pool := (s.setPoolBytes c a bs).pool } := by
  induction bs generalizing s a with
  | nil => rfl
  | cons b bs ih => rw [State.setPoolBytes, ih]; rfl

/-! ### Little-endian words -/

theorem leBytes_length (n x : Nat) : (leBytes n x).length = n := by
  induction n generalizing x with
  | zero => rfl
  | succ n ih => simp [leBytes, ih]

theorem leNat_leBytes (n x : Nat) : leNat (leBytes n x) = x % 256 ^ n := by
  induction n generalizing x with
  | zero => simp [leBytes, leNat, Nat.mod_one]
  | succ n ih =>
    simp only [leBytes, leNat, ih, BitVec.toNat_ofNat]
    rw [show (256 : Nat) ^ (n + 1) = 256 * 256 ^ n by rw [Nat.pow_succ, Nat.mul_comm], Nat.mod_mul]

/-! ### The canonical form is kept -/

theorem State.setByte_mapsWf {s : State} (pa : Nat) (b : Byte) (h : s.mapsWf) : (s.setByte pa b).mapsWf :=
  ⟨awf_aset _ _ h.1, h.2⟩

theorem State.setBytes_mapsWf {s : State} (pa : Nat) (bs : List Byte) (h : s.mapsWf) : (s.setBytes pa bs).mapsWf := by
  induction bs generalizing s pa with
  | nil => exact h
  | cons b bs ih => exact ih (pa + 1) (State.setByte_mapsWf pa b h)

theorem State.setPoolByte_mapsWf {s : State} (c a : Nat) (b : Byte) (h : s.mapsWf) : (s.setPoolByte c a b).mapsWf :=
  ⟨h.1, awf_aset _ _ h.2.1, h.2.2⟩

theorem State.setPoolBytes_mapsWf {s : State} (c a : Nat) (bs : List Byte) (h : s.mapsWf) : (s.setPoolBytes c a bs).mapsWf := by
  induction bs generalizing s a with
  | nil => exact h
  | cons b bs ih => exact ih (a + 1) (State.setPoolByte_mapsWf c a b h)

theorem State.undefine_mapsWf {s : State} (r : Option (Nat × Nat)) (h : s.mapsWf) : (s.undefine r).mapsWf := by
  cases r with
  | none => exact h
  | some r => exact ⟨awf_filter _ h.1, h.2⟩

theorem State.setV_mapsWf {s : State} (c p l n : Nat) (x : Word) (h : s.mapsWf) : (s.setV c p l n x).mapsWf :=
  ⟨h.1, h.2.1, awf_aset _ _ h.2.2.1, h.2.2.2⟩

theorem State.setSraw_mapsWf {s : State} (c p n : Nat) (x : Word) (h : s.mapsWf) : (s.setSraw c p n x).mapsWf :=
  ⟨h.1, h.2.1, h.2.2.1, awf_aset _ _ h.2.2.2.1, h.2.2.2.2⟩

theorem State.setSr_mapsWf {s : State} (c p n : Nat) (x : Word) (h : s.mapsWf) : (s.setSr c p n x).mapsWf := by
  unfold State.setSr
  dsimp only
  split
  · exact h
  · exact State.setSraw_mapsWf c p n x h

theorem State.setP_mapsWf {s : State} (c p n : Nat) (x : Word) (h : s.mapsWf) : (s.setP c p n x).mapsWf := by
  unfold State.setP
  split
  · exact h
  · exact ⟨h.1, h.2.1, h.2.2.1, h.2.2.2.1, awf_aset _ _ h.2.2.2.2.1, h.2.2.2.2.2⟩

theorem State.setQ_mapsWf {s : State} (c p l n : Nat) (x : Word) (h : s.mapsWf) : (s.setQ c p l n x).mapsWf :=
  ⟨h.1, h.2.1, h.2.2.1, h.2.2.2.1, h.2.2.2.2.1, awf_aset _ _ h.2.2.2.2.2⟩

/-- The memory of the state after reset is canonical. -/
theorem State.reset_memory_wf : Memory.wf State.reset.mem := rfl

end Sys2Proof.Machine
end

