-- ==== Sys2Proof/Laws/Exception.lean ====
section
/-!
SUPPORT. What an exception may change (R356 to R363): the spec lemmas of aborting a launch, entering a handler and taking an exception.
-/
namespace Sys2Proof.Machine

/-- Two states with the same memory, pools and registers. -/
abbrev State.sameData (s t : State) : Prop :=
  t.mem = s.mem ∧ t.undef = s.undef ∧ t.pool = s.pool ∧ t.vreg = s.vreg ∧ t.sreg = s.sreg ∧ t.pred = s.pred ∧ t.qreg = s.qreg

theorem State.sameData_refl (s : State) : s.sameData s := ⟨rfl, rfl, rfl, rfl, rfl, rfl, rfl⟩

theorem State.sameData_trans {s t u : State} (h : s.sameData t) (k : t.sameData u) : s.sameData u :=
  ⟨k.1.trans h.1, k.2.1.trans h.2.1, k.2.2.1.trans h.2.2.1, k.2.2.2.1.trans h.2.2.2.1, k.2.2.2.2.1.trans h.2.2.2.2.1,
   k.2.2.2.2.2.1.trans h.2.2.2.2.2.1, k.2.2.2.2.2.2.trans h.2.2.2.2.2.2⟩

theorem State.sameData_byte {s t : State} (h : s.sameData t) (a : Nat) : t.byte a = s.byte a := by
  unfold State.byte; rw [h.1, h.2.1]

theorem State.sameData_poolByte {s t : State} (h : s.sameData t) (c a : Nat) : t.poolByte c a = s.poolByte c a := by
  unfold State.poolByte; rw [h.2.2.1]

theorem State.sameData_mapsWf {s t : State} (h : s.sameData t) (w : s.mapsWf) : t.mapsWf := by
  unfold State.mapsWf at *; rw [h.1, h.2.2.1, h.2.2.2.1, h.2.2.2.2.1, h.2.2.2.2.2.1, h.2.2.2.2.2.2]; exact w

theorem State.sameData_foldl {α : Type} {f : State → α → State} (h : ∀ s x, State.sameData s (f s x)) (l : List α) (s : State) :
    s.sameData (l.foldl f s) := by
  induction l generalizing s with
  | nil => exact s.sameData_refl
  | cons x l ih => exact State.sameData_trans (h s x) (ih (f s x))

theorem State.sameData_post (s : State) (i : Instr) (ns : List Nat) : s.sameData (s.post i ns) := by
  rw [State.post_eq]; exact ⟨rfl, rfl, rfl, rfl, rfl, rfl, rfl⟩

/-- One group of an aborted launch is put at its end. -/
def endOfGroup (s : State) (e : Nat × Group) : State :=
  (s.setGrp (e.1 / 64) (e.1 % 64) { s.grp (e.1 / 64) (e.1 % 64) with
    frontier := [], parked := [], liveMask := 0#32, trap := none, requests := [], jregs := [] }).post .groupEnd [e.1 / 64, e.1 % 64]

/-- Whether an abort of the launch in a node cuts an access: an instruction of the launch under way made it. -/
def State.cutBy (s : State) (node : Nat) (a : Access) : Bool :=
  a.keep && (s.groups.filter fun e => e.2.live && e.2.node == node).any fun e => e.2.uid == a.uid

/-- What an abort does before it ends the groups: the launch is marked, loads under way are given up and stores under way run on. -/
def State.markAbort (s : State) (node code : Nat) : State :=
  ((s.accesses.filter fun a => s.cutBy node a && (a.kind != .load && !a.lost) && a.done).map (·.id)).foldl
    (fun t id => t.post .storeAcknowledgement [id])
    { s.setLaunch node { s.launch node with abort := (s.launch node).abort.orElse (fun _ => some code), saved := [] } with
      accesses := (s.accesses.filter fun a => !s.cutBy node a || (a.kind != .load && !a.lost)).map fun a =>
        if s.cutBy node a then { a with keep := false, gath := false } else a }

theorem State.abortLaunch_eq (s : State) (node code : Nat) : s.abortLaunch node code =
    (s.groups.filter fun e => e.2.live && e.2.node == node).foldl endOfGroup ((s.markAbort node code).post .nodeCompletion [node]) := rfl

theorem State.foldl_post {β α : Type} (f : State → β) (h : ∀ s i ns, f (State.post s i ns) = f s) (i : Instr) (g : α → List Nat) (l : List α)
    (s : State) : f (l.foldl (fun t x => t.post i (g x)) s) = f s := by
  induction l generalizing s with
  | nil => rfl
  | cons x l ih => exact (ih _).trans (h s i (g x))

/-- Marking a launch changes no memory, no pool and no register. -/
theorem State.markAbort_data (s : State) (node code : Nat) : s.sameData (s.markAbort node code) :=
  State.sameData_trans ⟨rfl, rfl, rfl, rfl, rfl, rfl, rfl⟩
    (State.sameData_foldl (fun t (id : Nat) => t.sameData_post .storeAcknowledgement [id]) _ _)

theorem State.markAbort_groups (s : State) (node code : Nat) : (s.markAbort node code).groups = s.groups :=
  State.foldl_post (·.groups) State.post_groups .storeAcknowledgement (fun id => [id]) _ _

theorem State.markAbort_launches (s : State) (node code : Nat) : (s.markAbort node code).launches =
    aset {} s.launches node { s.launch node with abort := (s.launch node).abort.orElse (fun _ => some code), saved := [] } :=
  State.foldl_post (·.launches) State.post_launches .storeAcknowledgement (fun id => [id]) _ _

theorem sameData_endOfGroup (s : State) (e : Nat × Group) : s.sameData (endOfGroup s e) :=
  State.sameData_trans ⟨rfl, rfl, rfl, rfl, rfl, rfl, rfl⟩ (State.sameData_post _ _ _)

/-- An abort changes no memory, no pool and no register. -/
theorem State.abortLaunch_data (s : State) (node code : Nat) : s.sameData (s.abortLaunch node code) := by
  rw [State.abortLaunch_eq]
  refine State.sameData_trans ?_ (State.sameData_foldl sameData_endOfGroup _ _)
  exact State.sameData_trans (s.markAbort_data node code) (State.sameData_post _ _ _)

/-- An abort records its code, unless one is under way. -/
theorem State.abortLaunch_code (s : State) (node code : Nat) :
    ((s.abortLaunch node code).launch node).abort = some ((s.launch node).abort.getD code) := by
  rw [State.abortLaunch_eq]
  have h : ∀ (l : List (Nat × Group)) (t : State), (l.foldl endOfGroup t).launch node = t.launch node := by
    intro l
    induction l with
    | nil => intro t; rfl
    | cons e l ih =>
      intro t
      rw [List.foldl_cons, ih]
      unfold endOfGroup State.launch
      rw [State.post_launches]; rfl
  rw [h]
  unfold State.launch
  rw [State.post_launches]
  rw [State.markAbort_launches, aget_aset_self]
  dsimp only
  unfold State.launch
  cases (aget ({} : Launch) s.launches node).abort <;> rfl

/-- A group differs from another at most in what ends it: its entries, parked lanes, live lanes, cause, requests and rejoin registers. -/
abbrev Group.endsFrom (g h : Group) : Prop :=
  h = { g with frontier := h.frontier, parked := h.parked, liveMask := h.liveMask, trap := h.trap, requests := h.requests, jregs := h.jregs }

theorem Group.endsFrom_trans {g h k : Group} (a : g.endsFrom h) (b : h.endsFrom k) : g.endsFrom k := by
  unfold Group.endsFrom at *
  rw [b, a]

theorem endOfGroup_grp (s : State) (e : Nat × Group) (c p : Nat) : (s.grp c p).endsFrom ((endOfGroup s e).grp c p) := by
  have h : (endOfGroup s e).grp c p = if gid c p = gid (e.1 / 64) (e.1 % 64) then
      { s.grp (e.1 / 64) (e.1 % 64) with frontier := [], parked := [], liveMask := 0#32, trap := none, requests := [], jregs := [] }
      else s.grp c p := by
    unfold endOfGroup State.grp
    rw [State.post_groups]
    exact aget_aset _ _ _ _ _
  rw [h]
  split
  · rename_i hk
    unfold State.grp; rw [hk]
  · rfl

/-- A group keeps, through an abort, everything but what ends it. -/
theorem State.abortLaunch_grp (s : State) (node code c p : Nat) : (s.grp c p).endsFrom ((s.abortLaunch node code).grp c p) := by
  rw [State.abortLaunch_eq]
  have h : ∀ (l : List (Nat × Group)) (t : State), (t.grp c p).endsFrom ((l.foldl endOfGroup t).grp c p) := by
    intro l
    induction l with
    | nil => intro t; rfl
    | cons e l ih => intro t; exact Group.endsFrom_trans (endOfGroup_grp t e c p) (ih _)
  have h0 : ((s.markAbort node code).post .nodeCompletion [node]).grp c p = s.grp c p := by
    unfold State.grp
    rw [State.post_groups, State.markAbort_groups]
  exact h0 ▸ h _ _

/-- A store performed now changes the bytes it covers and the copies of them alone. -/
theorem State.storeNow_fst (s : State) (c pa : Nat) (bs : List Byte) :
    (s.storeNow c pa bs).1 = (s.setBytes pa bs).patchL1 c pa bs := rfl

/-- A step that is tried again once pins are gone changes no memory, no pool and no register. -/
theorem State.retryStep_data (s : State) (ls : List Nat) (i : Instr) (ns : List Nat) : s.sameData (s.retryStep ls i ns) :=
  ⟨rfl, rfl, rfl, rfl, rfl, rfl, rfl⟩

theorem State.retryStep_groups (s : State) (ls : List Nat) (i : Instr) (ns : List Nat) : (s.retryStep ls i ns).groups = s.groups := rfl

/-- Entering a handler changes no register and no pool. -/
theorem State.enterTrap_regs (s : State) (c p : Nat) (t : Cause) :
    (s.enterTrap c p t).vreg = s.vreg ∧ (s.enterTrap c p t).sreg = s.sreg ∧ (s.enterTrap c p t).pred = s.pred ∧
    (s.enterTrap c p t).qreg = s.qreg ∧ (s.enterTrap c p t).pool = s.pool := by
  have ab : ∀ n k, (s.abortLaunch n k).vreg = s.vreg ∧ (s.abortLaunch n k).sreg = s.sreg ∧ (s.abortLaunch n k).pred = s.pred ∧
      (s.abortLaunch n k).qreg = s.qreg ∧ (s.abortLaunch n k).pool = s.pool := by
    intro n k
    have h := s.abortLaunch_data n k
    exact ⟨h.2.2.2.1, h.2.2.2.2.1, h.2.2.2.2.2.1, h.2.2.2.2.2.2, h.2.2.1⟩
  unfold State.enterTrap
  dsimp only
  split
  · exact ab _ _
  · split
    · exact ab _ _
    · rename_i ps _
      split
      · exact ab _ _
      split
      · exact ⟨rfl, rfl, rfl, rfl, rfl⟩
      split
      · have h := s.retryStep_data (s.pinnedBy c ps) .trapEntry [c, p]
        exact ⟨h.2.2.2.1, h.2.2.2.2.1, h.2.2.2.2.2.1, h.2.2.2.2.2.2, h.2.2.1⟩
      · have h : ∀ (ps : List (Nat × Nat)) (a : State × List Byte),
            let r := (ps.foldl (fun (a : State × List Byte) q => ((a.1.storeNow c q.1 (a.2.take q.2)).1, a.2.drop q.2)) a).1
            r.vreg = a.1.vreg ∧ r.sreg = a.1.sreg ∧ r.pred = a.1.pred ∧ r.qreg = a.1.qreg ∧ r.pool = a.1.pool := by
          intro ps
          induction ps with
          | nil => intro a; exact ⟨rfl, rfl, rfl, rfl, rfl⟩
          | cons q ps ih =>
            intro a
            obtain ⟨h1, h2, h3, h4, h5⟩ := ih ((a.1.storeNow c q.1 (a.2.take q.2)).1, a.2.drop q.2)
            rw [List.foldl_cons]
            refine ⟨h1.trans ?_, h2.trans ?_, h3.trans ?_, h4.trans ?_, h5.trans ?_⟩ <;>
              (rw [State.storeNow_fst]; unfold State.patchL1; dsimp only; rw [State.setBytes_eq])
        exact h ps (s, s.frame c p t)

/-- An exception changes no register and no pool. -/
theorem State.takeException_regs (s : State) (c p : Nat) (t : Cause) :
    (s.takeException c p t).vreg = s.vreg ∧ (s.takeException c p t).sreg = s.sreg ∧ (s.takeException c p t).pred = s.pred ∧
    (s.takeException c p t).qreg = s.qreg ∧ (s.takeException c p t).pool = s.pool := by
  unfold State.takeException
  dsimp only
  split
  · have h := s.abortLaunch_data (s.grp c p).node Code.DOUBLE_FAULT
    exact ⟨h.2.2.2.1, h.2.2.2.2.1, h.2.2.2.2.2.1, h.2.2.2.2.2.2, h.2.2.1⟩
  split
  · split <;> exact ⟨rfl, rfl, rfl, rfl, rfl⟩
  · split
    · have h := fun (s : State) => s.sameData_post .trapEntry [c, p]
      refine ⟨(h _).2.2.2.1, (h _).2.2.2.2.1, (h _).2.2.2.2.2.1, (h _).2.2.2.2.2.2, (h _).2.2.1⟩
    · exact State.enterTrap_regs _ _ _ _

/-- Entering a handler keeps the accumulators and tiles, and memory too unless the group is then in its handler. -/
theorem State.enterTrap_rest (s : State) (c p : Nat) (t : Cause) :
    ((s.enterTrap c p t).grp c p).accs = (s.grp c p).accs ∧ ((s.enterTrap c p t).grp c p).tiles = (s.grp c p).tiles ∧
    (((s.enterTrap c p t).grp c p).handler = true ∨ s.sameData (s.enterTrap c p t)) := by
  have ab : ∀ n k, ((s.abortLaunch n k).grp c p).accs = (s.grp c p).accs ∧ ((s.abortLaunch n k).grp c p).tiles = (s.grp c p).tiles ∧
      (((s.abortLaunch n k).grp c p).handler = true ∨ s.sameData (s.abortLaunch n k)) := by
    intro n k
    have h := s.abortLaunch_grp n k c p
    exact ⟨by rw [h], by rw [h], .inr (s.abortLaunch_data n k)⟩
  unfold State.enterTrap
  dsimp only
  split
  · exact ab _ _
  · split
    · exact ab _ _
    · split
      · exact ab _ _
      split
      · exact ⟨rfl, rfl, .inr ⟨rfl, rfl, rfl, rfl, rfl, rfl, rfl⟩⟩
      split
      · refine ⟨?_, ?_, .inr (s.retryStep_data _ _ _)⟩ <;> (unfold State.grp; rw [State.retryStep_groups])
      · exact ⟨by rw [State.grp_setGrp_self], by rw [State.grp_setGrp_self], .inl (by rw [State.grp_setGrp_self])⟩

/-- A cause raised beside one that a group keeps leaves the group's accumulators and tiles. -/
theorem Group.laterCause_rest {g h : Group} {t : Cause} {now : Nat} (e : g.laterCause t now = some h) : h.accs = g.accs ∧ h.tiles = g.tiles := by
  unfold Group.laterCause at e
  split at e
  · cases e
  · dsimp only at e
    split at e
    · cases e; exact ⟨rfl, rfl⟩
    · cases hn : g.nextFault with
      | none => rw [hn] at e; cases e
      | some a => rw [hn] at e; cases e; exact ⟨rfl, rfl⟩

/-- So does what becomes of the state, with all of its data. -/
theorem State.laterCause_rest (s : State) (c p : Nat) (t : Cause) :
    let u := (match (s.grp c p).laterCause t s.cycle with
      | some h => s.setGrp c p h
      | none => s)
    (u.grp c p).accs = (s.grp c p).accs ∧ (u.grp c p).tiles = (s.grp c p).tiles ∧
      ((u.grp c p).handler = (s.grp c p).handler → s.sameData u) := by
  dsimp only
  split
  · rename_i h e
    obtain ⟨h1, h2⟩ := Group.laterCause_rest e
    exact ⟨by rw [State.grp_setGrp_self, h1], by rw [State.grp_setGrp_self, h2], fun _ => ⟨rfl, rfl, rfl, rfl, rfl, rfl, rfl⟩⟩
  · exact ⟨rfl, rfl, fun _ => s.sameData_refl⟩

/-- An exception keeps the accumulators and tiles, and memory too unless it takes the group into its handler. -/
theorem State.takeException_rest (s : State) (c p : Nat) (t : Cause) :
    ((s.takeException c p t).grp c p).accs = (s.grp c p).accs ∧ ((s.takeException c p t).grp c p).tiles = (s.grp c p).tiles ∧
    (((s.takeException c p t).grp c p).handler = (s.grp c p).handler → s.sameData (s.takeException c p t)) := by
  unfold State.takeException
  dsimp only
  split
  · have h := s.abortLaunch_grp (s.grp c p).node Code.DOUBLE_FAULT c p
    exact ⟨by rw [h], by rw [h], fun _ => s.abortLaunch_data _ _⟩
  rename_i hh
  split
  · exact s.laterCause_rest c p t
  · split
    · refine ⟨?_, ?_, ?_⟩
      · unfold State.grp; rw [State.post_groups]
        show Group.accs (aget {} (aset {} s.groups (gid c p) _) (gid c p)) = _
        rw [aget_aset_self]
      · unfold State.grp; rw [State.post_groups]
        show Group.tiles (aget {} (aset {} s.groups (gid c p) _) (gid c p)) = _
        rw [aget_aset_self]
      · intro _
        exact State.sameData_trans ⟨rfl, rfl, rfl, rfl, rfl, rfl, rfl⟩ (State.sameData_post _ _ _)
    · obtain ⟨h1, h2, h3⟩ := State.enterTrap_rest
        (s.setGrp c p { s.grp c p with
          trap := some (t.noted s.cycle (s.grp c p).frontier), frontier := (s.grp c p).frontier.map Entry.stopped }) c p t
      refine ⟨h1.trans (by rw [State.grp_setGrp_self]), h2.trans (by rw [State.grp_setGrp_self]), ?_⟩
      intro e
      rcases h3 with h3 | h3
      · rw [h3] at e; exact absurd e.symm (by simpa using hh)
      · exact State.sameData_trans ⟨rfl, rfl, rfl, rfl, rfl, rfl, rfl⟩ h3

/-- The exception of a fault at the issuing instruction: what it may change. -/
theorem State.raise_regs (s : State) (n : Issuer) (code : Nat) (d : DWord) :
    (s.raise n code d).vreg = s.vreg ∧ (s.raise n code d).sreg = s.sreg ∧ (s.raise n code d).pred = s.pred ∧
    (s.raise n code d).qreg = s.qreg ∧ (s.raise n code d).pool = s.pool := by
  unfold State.raise
  dsimp only
  split
  · exact ⟨rfl, rfl, rfl, rfl, rfl⟩
  · obtain ⟨h1, h2, h3, h4, h5⟩ := State.takeException_regs (s.setGrp n.core n.grp _) n.core n.grp _
    exact ⟨h1, h2, h3, h4, h5⟩

theorem State.raise_rest (s : State) (n : Issuer) (code : Nat) (d : DWord) :
    ((s.raise n code d).grp n.core n.grp).accs = (s.grp n.core n.grp).accs ∧
    ((s.raise n code d).grp n.core n.grp).tiles = (s.grp n.core n.grp).tiles ∧
    (((s.raise n code d).grp n.core n.grp).handler = (s.grp n.core n.grp).handler → s.sameData (s.raise n code d)) := by
  unfold State.raise
  dsimp only
  split
  · exact ⟨rfl, rfl, fun _ => s.sameData_refl⟩
  · obtain ⟨h1, h2, h3⟩ := State.takeException_rest (s.setGrp n.core n.grp _) n.core n.grp _
    rw [State.grp_setGrp_self] at h1 h2 h3
    exact ⟨h1, h2, fun e => State.sameData_trans ⟨rfl, rfl, rfl, rfl, rfl, rfl, rfl⟩ (h3 e)⟩

end Sys2Proof.Machine
end

