-- ==== Sys2Proof/Laws/Frames.lean ====
section
/-!
SUPPORT. What each write to a register, a flag or an entry may change (State.changesOnly), and how such changes compose.
-/
namespace Sys2Proof.Machine

theorem State.groups_setGrp_ne (s : State) (c p : Nat) (g : Group) {k : Nat} (h : k ≠ gid c p) :
    aget {} (s.setGrp c p g).groups k = aget {} s.groups k := by
  simp [State.setGrp, aget_aset, h]

theorem State.changesOnly_refl (s : State) (n : Issuer) (w : Dests) : s.changesOnly s n w := by
  simp [State.changesOnly]

theorem State.changesOnly_trans {s t u : State} {n : Issuer} {w : Dests} (h : s.changesOnly t n w) (k : t.changesOnly u n w) :
    s.changesOnly u n w := by
  obtain ⟨h1, h2, h3, h4, h5, h6, h7, h8, h9, h10⟩ := h
  obtain ⟨k1, k2, k3, k4, k5, k6, k7, k8, k9, k10⟩ := k
  have hp : ∀ l, (t.grp n.core n.grp).placeOf n.grp l = (s.grp n.core n.grp).placeOf n.grp l := by
    intro l; rw [h7]; rfl
  refine ⟨?_, ?_, ?_, ?_, ?_, ?_, ?_, ?_, ?_, ?_⟩
  · rw [k1, h1]
  · intro key hk; rw [k2 key (by simpa only [hp] using hk), h2 key hk]
  · intro key hk; rw [k3 key (by simpa only [hp] using hk), h3 key hk]
  · intro key hk; rw [k4 key hk, h4 key hk]
  · intro key hk; rw [k5 key hk, h5 key hk]
  · intro key hk; rw [k6 key hk, h6 key hk]
  · rw [k7, h7]
  · intro j hj; rw [k8 j hj, h8 j hj]
  · intro hf; rw [k9 hf, h9 hf]
  · intro hf; rw [k10 hf, h10 hf]

theorem State.changesOnly_setV {s : State} {n : Issuer} {w : Dests} {l r : Nat} (x : Word) (hl : l < 32) (hr : r ∈ w.v) :
    s.changesOnly (s.setV n.core n.grp l r x) n w := by
  refine ⟨rfl, ?_, fun _ _ => rfl, fun _ _ => rfl, fun _ _ => rfl, fun _ _ => rfl, rfl, fun _ _ => rfl, fun _ => rfl, fun _ => rfl⟩
  intro key hk; exact aget_aset_ne _ _ _ (hk l hl r hr)

theorem State.changesOnly_setQ {s : State} {n : Issuer} {w : Dests} {l r : Nat} (x : Word) (hl : l < 32) (hr : r ∈ w.q) :
    s.changesOnly (s.setQ n.core n.grp l r x) n w := by
  refine ⟨rfl, fun _ _ => rfl, ?_, fun _ _ => rfl, fun _ _ => rfl, fun _ _ => rfl, rfl, fun _ _ => rfl, fun _ => rfl, fun _ => rfl⟩
  intro key hk; exact aget_aset_ne _ _ _ (hk l hl r hr)

theorem State.changesOnly_setP {s : State} {n : Issuer} {w : Dests} {r : Nat} (x : Word) (hr : r ∈ w.p) :
    s.changesOnly (s.setP n.core n.grp r x) n w := by
  unfold State.setP
  split
  · exact s.changesOnly_refl n w
  · refine ⟨rfl, fun _ _ => rfl, fun _ _ => rfl, fun _ _ => rfl, ?_, fun _ _ => rfl, rfl, fun _ _ => rfl, fun _ => rfl, fun _ => rfl⟩
    intro key hk; exact aget_aset_ne _ _ _ (hk r hr)

theorem State.changesOnly_grp {s : State} {n : Issuer} {w : Dests} {h : Group}
    (e : h = { s.grp n.core n.grp with frontier := h.frontier, fflags := h.fflags, xlane := h.xlane, shadow := h.shadow })
    (e1 : ∀ k, 120 + k ∉ w.s → aget 0#32 h.shadow k = aget 0#32 (s.grp n.core n.grp).shadow k)
    (e2 : w.fl = false → h.fflags = (s.grp n.core n.grp).fflags) (e3 : w.xl = false → h.xlane = (s.grp n.core n.grp).xlane) :
    s.changesOnly (s.setGrp n.core n.grp h) n w := by
  unfold State.changesOnly
  rw [State.grp_setGrp_self]
  exact ⟨rfl, fun _ _ => rfl, fun _ _ => rfl, fun _ _ => rfl, fun _ _ => rfl, fun _ hk => State.groups_setGrp_ne _ _ _ _ hk, e, e1, e2, e3⟩

theorem State.changesOnly_setSr {s : State} {n : Issuer} {w : Dests} {r : Nat} (x : Word) (hr : r ∈ w.s) :
    s.changesOnly (s.setSr n.core n.grp r x) n w := by
  unfold State.setSr
  dsimp only
  split
  · rename_i h
    refine State.changesOnly_grp rfl ?_ (fun _ => rfl) (fun _ => rfl)
    intro k hk
    simp only [Bool.and_eq_true, decide_eq_true_eq] at h
    exact aget_aset_ne _ _ _ (by rintro rfl; apply hk; rwa [Nat.add_sub_cancel' h.2])
  · refine ⟨rfl, fun _ _ => rfl, fun _ _ => rfl, ?_, fun _ _ => rfl, fun _ _ => rfl, rfl, fun _ _ => rfl, fun _ => rfl, fun _ => rfl⟩
    intro key hk; exact aget_aset_ne _ _ _ (hk r hr)

theorem State.changesOnly_orFlags {s : State} {n : Issuer} {w : Dests} (f : BitVec 6) (hf : w.fl = true) :
    s.changesOnly (s.orFlags n.core n.grp f) n w := by
  unfold State.orFlags
  split
  · exact s.changesOnly_refl n w
  · exact State.changesOnly_grp rfl (fun _ _ => rfl) (fun h => by simp [hf] at h) (fun _ => rfl)

theorem Ctx.changesOnly_setXlane {s : State} {n : Issuer} {gd : Guard} {w : Dests} {t : State} (m : Word) (hf : w.xl = true) :
    t.changesOnly ((s.ctx n gd).setXlane m t) n w :=
  State.changesOnly_grp rfl (fun _ _ => rfl) (fun _ => rfl) (fun h => by simp [hf] at h)

theorem State.changesOnly_advance {s : State} {n : Issuer} {w : Dests} : s.changesOnly (s.advance n) n w := by
  unfold State.advance
  dsimp only
  split
  · exact s.changesOnly_refl n w
  · exact State.changesOnly_grp rfl (fun _ _ => rfl) (fun _ => rfl) (fun _ => rfl)

theorem lanesOf_lt {m : Word} {l : Nat} (h : l ∈ lanesOf m) : l < 32 := by
  simp [lanesOf] at h; exact h.1

theorem State.changesOnly_foldl {s : State} {n : Issuer} {w : Dests} {α : Type} {f : State → α → State} {ls : List α}
    (h : ∀ l ∈ ls, ∀ t : State, t.changesOnly (f t l) n w) : s.changesOnly (ls.foldl f s) n w := by
  induction ls generalizing s with
  | nil => exact s.changesOnly_refl n w
  | cons l ls ih =>
    exact State.changesOnly_trans (h l (by simp) s) (ih fun k hk => h k (by simp [hk]))

theorem State.changesOnly_putLanes {s : State} {n : Issuer} {w : Dests} {m : Word} {r : Nat} (f : Nat → Word) (hr : r ∈ w.v) :
    s.changesOnly (s.putLanes n.core n.grp (lanesOf m) r f) n w :=
  State.changesOnly_foldl fun _ hl _ => State.changesOnly_setV _ (lanesOf_lt hl) hr

theorem Ctx.changesOnly_put {s t : State} {n : Issuer} {gd : Guard} {w : Dests} {d : VS} (f : Nat → Word)
    (h : if d.sc then d.n.toNat ∈ w.s else d.n.toNat ∈ w.v) : t.changesOnly ((s.ctx n gd).put d f t) n w := by
  unfold Ctx.put
  split
  · rename_i hd
    split
    · exact t.changesOnly_refl n w
    · exact State.changesOnly_setSr _ (by simpa [hd] using h)
  · rename_i hd
    exact State.changesOnly_putLanes _ (by simpa [hd] using h)

theorem State.changesOnly_setSr64 {s : State} {n : Issuer} {w : Dests} {r : Nat} (x : DWord) (hr : r ∈ w.s) (hr' : r + 1 ∈ w.s) :
    s.changesOnly (s.setSr64 n.core n.grp r x) n w :=
  State.changesOnly_trans (State.changesOnly_setSr _ hr) (State.changesOnly_setSr _ hr')

theorem Ctx.changesOnly_put64 {s t : State} {n : Issuer} {gd : Guard} {w : Dests} {d : VS} (f : Nat → DWord)
    (h : if d.sc then d.n.toNat ∈ w.s ∧ d.n.toNat + 1 ∈ w.s else d.n.toNat ∈ w.v ∧ d.n.toNat + 1 ∈ w.v) :
    t.changesOnly ((s.ctx n gd).put64 d f t) n w := by
  unfold Ctx.put64
  split
  · rename_i hd
    split
    · exact t.changesOnly_refl n w
    · have h := by simpa [hd] using h
      exact State.changesOnly_setSr64 _ h.1 h.2
  · rename_i hd
    have h := by simpa [hd] using h
    exact State.changesOnly_trans (State.changesOnly_putLanes _ h.1) (State.changesOnly_putLanes _ h.2)

theorem Ctx.changesOnly_putP {s t : State} {n : Issuer} {gd : Guard} {w : Dests} {d : BitVec 8} (f : Nat → Bool) (h : d.toNat ∈ w.p) :
    t.changesOnly ((s.ctx n gd).putP d f t) n w := State.changesOnly_setP _ h

theorem Ctx.changesOnly_putF {s t : State} {n : Issuer} {gd : Guard} {w : Dests} {d : VS} (f : Nat → FW)
    (h : if d.sc then d.n.toNat ∈ w.s else d.n.toNat ∈ w.v) (hf : w.fl = true) : t.changesOnly ((s.ctx n gd).putF d f t) n w :=
  State.changesOnly_trans (Ctx.changesOnly_put _ h) (State.changesOnly_orFlags _ hf)
theorem Ctx.changesOnly_putF64 {s t : State} {n : Issuer} {gd : Guard} {w : Dests} {d : VS} (f : Nat → DWord × FFlags)
    (h : if d.sc then d.n.toNat ∈ w.s ∧ d.n.toNat + 1 ∈ w.s else d.n.toNat ∈ w.v ∧ d.n.toNat + 1 ∈ w.v) (hf : w.fl = true) : t.changesOnly ((s.ctx n gd).putF64 d f t) n w :=
  State.changesOnly_trans (Ctx.changesOnly_put64 _ h) (State.changesOnly_orFlags _ hf)
theorem Ctx.changesOnly_putPF {s t : State} {n : Issuer} {gd : Guard} {w : Dests} {d : BitVec 8} (f : Nat → Bool × FFlags)
    (h : d.toNat ∈ w.p) (hf : w.fl = true) : t.changesOnly ((s.ctx n gd).putPF d f t) n w :=
  State.changesOnly_trans (Ctx.changesOnly_putP _ h) (State.changesOnly_orFlags _ hf)
theorem Ctx.changesOnly_putQ {s t : State} {n : Issuer} {gd : Guard} {w : Dests} {r : Nat} (f : Nat → Word) (h : r ∈ w.q) :
    t.changesOnly ((s.ctx n gd).putQ r f t) n w :=
  State.changesOnly_foldl fun _ hl _ => State.changesOnly_setQ _ (lanesOf_lt hl) h
/-- The destination of a result is among the registers it may write. -/
theorem vsDest_one (d : VS) (b : Bool) : if d.sc then d.n.toNat ∈ (vsDest d b).s else d.n.toNat ∈ (vsDest d b).v := by
  unfold vsDest; cases b <;> split <;> simp [*]
theorem vsDest_two (d : VS) : if d.sc then d.n.toNat ∈ (vsDest d true).s ∧ d.n.toNat + 1 ∈ (vsDest d true).s else d.n.toNat ∈ (vsDest d true).v ∧ d.n.toNat + 1 ∈ (vsDest d true).v := by
  unfold vsDest; split <;> simp [*]
theorem Ctx.changesOnly_putField {s t : State} {n : Issuer} {gd : Guard} {w : Dests} {d : VS} (f : BitVec 4) (p : BitVec 2) (g)
    (hs : w.s = (vsDest d (codeWidth f == 64)).s) (hv : w.v = (vsDest d (codeWidth f == 64)).v) (hf : w.fl = true) : t.changesOnly ((s.ctx n gd).putField d f p g t) n w := by
  unfold Ctx.putField
  dsimp only
  split
  · rename_i h
    refine Ctx.changesOnly_putF64 _ ?_ hf
    rw [hs, hv, h]; exact vsDest_two d
  · refine Ctx.changesOnly_putF _ ?_ hf
    rw [hs, hv]; exact vsDest_one d _
theorem Ctx.changesOnly_putFloat {s t : State} {n : Issuer} {gd : Guard} {w : Dests} {d : VS} (ty : BitVec 2) (srcs) (op)
    (hs : w.s = (vsDest d (ty == 0#2)).s) (hv : w.v = (vsDest d (ty == 0#2)).v) (hf : w.fl = true) : t.changesOnly ((s.ctx n gd).putFloat ty d srcs op t) n w := by
  unfold Ctx.putFloat
  dsimp only
  split
  · rename_i h
    have h : ty = 0#2 := by bv_omega
    subst h
    refine Ctx.changesOnly_putF64 _ ?_ hf
    rw [hs, hv]; exact vsDest_two d
  · refine Ctx.changesOnly_putF _ ?_ hf
    rw [hs, hv]; exact vsDest_one d _
  · refine Ctx.changesOnly_putF _ ?_ hf
    rw [hs, hv]; exact vsDest_one d _

end Sys2Proof.Machine
end

