-- ==== Sys2Proof/Laws/Issue.lean ====
section
/-!
SUPPORT. What issuing an instruction comes to: the fault of its fields, or its own effect and what becomes of its entry.
-/
namespace Sys2Proof.Machine

/-- An instruction whose fields raise no fault issues as its own effect. -/
theorem issue_ok {i : Instr} {gd : Guard} {body : Ctx → State → Res} {s : State} {n : Issuer} (h : s.runs n i) :
    issue i gd body s = .next ((body (s.ctx n gd) s).settle n) := by
  simp [issue, h.1, h.2]

/-- An effect after which the entry goes on. -/
theorem issue_eff {i : Instr} {gd : Guard} {body : Ctx → State → Res} {s t : State} {n : Issuer} (h : s.runs n i)
    (e : body (s.ctx n gd) s = .ok t) : issue i gd body s = .next (t.advance n) := by rw [issue_ok h, e]; rfl

/-- An effect that moves the entry itself. -/
theorem issue_done {i : Instr} {gd : Guard} {body : Ctx → State → Res} {s t : State} {n : Issuer} (h : s.runs n i)
    (e : body (s.ctx n gd) s = .done t) : issue i gd body s = .next t := by rw [issue_ok h, e]; rfl

/-- An effect that faults. -/
theorem issue_fault {i : Instr} {gd : Guard} {body : Ctx → State → Res} {s t : State} {n : Issuer} {code : Nat} {d : DWord} (h : s.runs n i)
    (e : body (s.ctx n gd) s = .fault code d t) : issue i gd body s = .next (t.raise n code d) := by rw [issue_ok h, e]; rfl

/-- Whenever an entry issues, an instruction answers a next state: the exception of its fields, or its effect. -/
theorem issue_next {i : Instr} {gd : Guard} {body : Ctx → State → Res} {s : State} {n : Issuer} (h : s.issuer = some n) :
    issue i gd body s = .next (match s.fieldFault n i with
      | some code => s.raise n code 0#64
      | none => (body (s.ctx n gd) s).settle n) := by
  unfold issue
  rw [h]
  dsimp only
  cases s.fieldFault n i <;> rfl

theorem once_live {body : Ctx → State → Res} {x : Ctx} {s : State} (h : x.live ≠ 0#32) : once body x s = body x s := by
  simp [once, h]

theorem once_dead {body : Ctx → State → Res} {x : Ctx} {s : State} (h : x.live = 0#32) : once body x s = .ok s := by
  simp [once, h]

/-- A hatch instruction whose slot its launch owns, with no load of it pending, acts on the slot's table. -/
theorem ring_ok {k : BitVec 2} {body : List Byte → Ctx → State → Res} {x : Ctx} {s : State}
    (h1 : s.slotPending x.c x.p k.toNat = false) (h2 : (aget {} (s.core x.c).slots k.toNat).owner = some x.g.node) :
    withRing k body x s = body (aget {} (s.core x.c).slots k.toNat).table x s := by
  simp [withRing, h1, h2]

/-- Moving the issuing entry changes its group's entries alone. -/
theorem State.advance_data (s : State) (n : Issuer) : s.sameData (s.advance n) := by
  unfold State.advance
  dsimp only
  split <;> exact ⟨rfl, rfl, rfl, rfl, rfl, rfl, rfl⟩

theorem State.advance_grp (s : State) (n : Issuer) :
    (s.advance n).grp n.core n.grp = { s.grp n.core n.grp with frontier := ((s.advance n).grp n.core n.grp).frontier } := by
  unfold State.advance
  dsimp only
  split
  · rfl
  · rw [State.grp_setGrp_self]

/-- What an answer of a meaning may change of the data, if its own effect left data, accumulators and tiles alone: only an exception that takes the
group into its handler writes memory. -/
theorem Res.settle_frame {s : State} {n : Issuer} {r : Res}
    (h : match r with
      | .ok t => s.sameData t ∧ (t.grp n.core n.grp).accs = (s.grp n.core n.grp).accs ∧ (t.grp n.core n.grp).tiles = (s.grp n.core n.grp).tiles
      | .done t => s.sameData t ∧ (t.grp n.core n.grp).accs = (s.grp n.core n.grp).accs ∧ (t.grp n.core n.grp).tiles = (s.grp n.core n.grp).tiles
      | .fault _ _ t => s.sameData t ∧ (t.grp n.core n.grp).accs = (s.grp n.core n.grp).accs ∧ (t.grp n.core n.grp).tiles = (s.grp n.core n.grp).tiles ∧
          (t.grp n.core n.grp).handler = (s.grp n.core n.grp).handler
      | .trap _ _ _ => False
      | .wait t _ => s.sameData t ∧ (t.grp n.core n.grp).accs = (s.grp n.core n.grp).accs ∧ (t.grp n.core n.grp).tiles = (s.grp n.core n.grp).tiles) :
    let t := r.settle n
    (t.vreg = s.vreg ∧ t.sreg = s.sreg ∧ t.pred = s.pred ∧ t.qreg = s.qreg ∧ t.pool = s.pool) ∧
    (t.grp n.core n.grp).accs = (s.grp n.core n.grp).accs ∧ (t.grp n.core n.grp).tiles = (s.grp n.core n.grp).tiles ∧
    ((t.grp n.core n.grp).handler = (s.grp n.core n.grp).handler → s.sameData t) := by
  have regs : ∀ {a b : State}, a.sameData b → b.vreg = a.vreg ∧ b.sreg = a.sreg ∧ b.pred = a.pred ∧ b.qreg = a.qreg ∧ b.pool = a.pool :=
    fun h => ⟨h.2.2.2.1, h.2.2.2.2.1, h.2.2.2.2.2.1, h.2.2.2.2.2.2, h.2.2.1⟩
  cases r with
  | ok t =>
    obtain ⟨h1, h2, h3⟩ := h
    have d := State.sameData_trans h1 (t.advance_data n)
    refine ⟨regs d, ?_, ?_, fun _ => d⟩
    · show ((t.advance n).grp _ _).accs = _; rw [t.advance_grp n]; exact h2
    · show ((t.advance n).grp _ _).tiles = _; rw [t.advance_grp n]; exact h3
  | done t => exact ⟨regs h.1, h.2.1, h.2.2, fun _ => h.1⟩
  | fault code d t =>
    obtain ⟨h1, h2, h3, h4⟩ := h
    obtain ⟨r1, r2, r3, r4, r5⟩ := t.raise_regs n code d
    obtain ⟨q1, q2, q3⟩ := t.raise_rest n code d
    obtain ⟨g1, g2, g3, g4, g5⟩ := regs h1
    exact ⟨⟨r1.trans g1, r2.trans g2, r3.trans g3, r4.trans g4, r5.trans g5⟩, q1.trans h2, q2.trans h3,
      fun e => State.sameData_trans h1 (q3 (e.trans h4.symm))⟩
  | trap _ _ _ => exact h.elim
  | wait t why =>
    obtain ⟨h1, h2, h3⟩ := h
    show _ ∧ _
    unfold Res.settle
    dsimp only
    split
    · exact ⟨regs h1, h2, h3, fun _ => h1⟩
    · have d : ∀ g, s.sameData (({ t with issuer := none } : State).setGrp n.core n.grp g) := fun g => State.sameData_trans h1 ⟨rfl, rfl, rfl, rfl, rfl, rfl, rfl⟩
      exact ⟨regs (d _), by rw [State.grp_setGrp_self]; exact h2, by rw [State.grp_setGrp_self]; exact h3, fun _ => d _⟩

end Sys2Proof.Machine
end

