-- ==== Sys2Proof/Laws/PerInstr.lean ====
section
/-! SUPPORT. The family Encoding, one lemma per constructor of Instr: what decoding answers on the word that
encodes a well-formed instruction. An event of the hardware or of the host has no word, so its lemma is empty. -/

namespace Sys2Proof
set_option maxRecDepth 20000

namespace Laws.Encoding

/-- Decoding the encoding of a well-formed instruction gives that instruction back. -/
def Statement (i : Instr) : Prop := ∀ w : DWord, encode i = some w → wellFormed i = true → decodeWord w = .ok i

theorem nop (g : Guard) : Statement (Instr.nop g) := by
  intro w h wf
  refine decodeWord_ok ?_ wf h
  have h : packG _ = w := Option.some.inj h
  subst h
  unfold candidate
  rw [opcode_packG]
  refine Eq.trans (congrArg some (?_ : (let r := unpackG (packG _); Instr.nop r.g) = Instr.nop g)) rfl
  rw [unpackG_packG]

theorem bra (g : Guard) (hint : Bool) (ofs : BitVec 32) : Statement (Instr.bra g hint ofs) := by
  intro w h wf
  refine decodeWord_ok ?_ wf h
  have h : packB _ = w := Option.some.inj h
  subst h
  unfold candidate
  rw [opcode_packB]
  refine Eq.trans (congrArg some (?_ : (let r := unpackB (packB _); Instr.bra r.g r.hint r.ofs) = Instr.bra g hint ofs)) rfl
  rw [unpackB_packB]

theorem brx (g : Guard) (a : VS) : Statement (Instr.brx g a) := by
  intro w h wf
  refine decodeWord_ok ?_ wf h
  have h : packG _ = w := Option.some.inj h
  subst h
  unfold candidate
  rw [opcode_packG]
  refine Eq.trans (congrArg some (?_ : (let r := unpackG (packG _); Instr.brx r.g ⟨r.fa, r.a⟩) = Instr.brx g a)) rfl
  rw [unpackG_packG]

theorem call (g : Guard) (hint : Bool) (a : VS) (ofs : BitVec 32) : Statement (Instr.call g hint a ofs) := by
  intro w h wf
  refine decodeWord_ok ?_ wf h
  have h : packB _ = w := Option.some.inj h
  subst h
  unfold candidate
  rw [opcode_packB]
  refine Eq.trans (congrArg some (?_ : (let r := unpackB (packB _); Instr.call r.g r.hint ⟨r.fa, r.a⟩ r.ofs) = Instr.call g hint a ofs)) rfl
  rw [unpackB_packB]

theorem callx (g : Guard) (d : VS) (a : VS) : Statement (Instr.callx g d a) := by
  intro w h wf
  refine decodeWord_ok ?_ wf h
  have h : packG _ = w := Option.some.inj h
  subst h
  unfold candidate
  rw [opcode_packG]
  refine Eq.trans (congrArg some (?_ : (let r := unpackG (packG _); Instr.callx r.g ⟨r.fd, r.d⟩ ⟨r.fa, r.a⟩) = Instr.callx g d a)) rfl
  rw [unpackG_packG]

theorem ret (g : Guard) (a : VS) : Statement (Instr.ret g a) := by
  intro w h wf
  refine decodeWord_ok ?_ wf h
  have h : packG _ = w := Option.some.inj h
  subst h
  unfold candidate
  rw [opcode_packG]
  refine Eq.trans (congrArg some (?_ : (let r := unpackG (packG _); Instr.ret r.g ⟨r.fa, r.a⟩) = Instr.ret g a)) rfl
  rw [unpackG_packG]

theorem exit (g : Guard) : Statement (Instr.exit g) := by
  intro w h wf
  refine decodeWord_ok ?_ wf h
  have h : packG _ = w := Option.some.inj h
  subst h
  unfold candidate
  rw [opcode_packG]
  refine Eq.trans (congrArg some (?_ : (let r := unpackG (packG _); Instr.exit r.g) = Instr.exit g)) rfl
  rw [unpackG_packG]

theorem loop (g : Guard) (hint : Bool) (a : VS) (ofs : BitVec 32) : Statement (Instr.loop g hint a ofs) := by
  intro w h wf
  refine decodeWord_ok ?_ wf h
  have h : packB _ = w := Option.some.inj h
  subst h
  unfold candidate
  rw [opcode_packB]
  refine Eq.trans (congrArg some (?_ : (let r := unpackB (packB _); Instr.loop r.g r.hint ⟨r.fa, r.a⟩ r.ofs) = Instr.loop g hint a ofs)) rfl
  rw [unpackB_packB]

theorem iter (g : Guard) (hint : Bool) (f64 : Bool) (st : BitVec 3) (a : VS) (ofs : BitVec 32) : Statement (Instr.iter g hint f64 st a ofs) := by
  intro w h wf
  refine decodeWord_ok ?_ wf h
  have h : packB _ = w := Option.some.inj h
  subst h
  unfold candidate
  rw [opcode_packB]
  refine Eq.trans (congrArg some (?_ : (let r := unpackB (packB _); Instr.iter r.g r.hint (r.mod.getLsbD 3) (r.mod.extractLsb' 0 3) ⟨r.fa, r.a⟩ r.ofs) = Instr.iter g hint f64 st a ofs)) rfl
  rw [unpackB_packB] <;> dsimp only <;> congr 1 <;> first
    | rfl
    | ((repeat rw [BitVec.extractLsb'_append_eq_of_le (by omega)])
       (try rw [BitVec.extractLsb'_append_eq_of_add_le (by omega)])
       (repeat rw [BitVec.getLsbD_append])
       simp)

theorem jarm (g : Guard) (j : BitVec 8) (sa : BitVec 8) (sb : BitVec 8) (ns : Bool) : Statement (Instr.jarm g j sa sb ns) := by
  intro w h wf
  refine decodeWord_ok ?_ wf h
  have h : packG _ = w := Option.some.inj h
  subst h
  unfold candidate
  rw [opcode_packG]
  refine Eq.trans (congrArg some (?_ : (let r := unpackG (packG _); Instr.jarm r.g r.d r.a r.b (r.mod.getLsbD 0)) = Instr.jarm g j sa sb ns)) rfl
  rw [unpackG_packG] <;> dsimp only <;> congr 1 <;> first
    | rfl
    | ((repeat rw [BitVec.extractLsb'_append_eq_of_le (by omega)])
       (try rw [BitVec.extractLsb'_append_eq_of_add_le (by omega)])
       (repeat rw [BitVec.getLsbD_append])
       simp)

theorem jarmL (g : Guard) (j : BitVec 8) (mask : BitVec 32) (c : BitVec 3) : Statement (Instr.jarmL g j mask c) := by
  intro w h wf
  refine decodeWord_ok ?_ wf h
  have h : packL _ = w := Option.some.inj h
  subst h
  unfold candidate
  rw [opcode_packL]
  refine Eq.trans (congrArg some (?_ : (let r := unpackL (packL _); Instr.jarmL r.g r.d r.lit (r.mod.extractLsb' 0 3)) = Instr.jarmL g j mask c)) rfl
  rw [unpackL_packL] <;> dsimp only <;> congr 1 <;> first
    | rfl
    | ((repeat rw [BitVec.extractLsb'_append_eq_of_le (by omega)])
       (try rw [BitVec.extractLsb'_append_eq_of_add_le (by omega)])
       (repeat rw [BitVec.getLsbD_append])
       simp)

theorem jwait (g : Guard) (pd : BitVec 8) (j : BitVec 8) : Statement (Instr.jwait g pd j) := by
  intro w h wf
  refine decodeWord_ok ?_ wf h
  have h : packG _ = w := Option.some.inj h
  subst h
  unfold candidate
  rw [opcode_packG]
  refine Eq.trans (congrArg some (?_ : (let r := unpackG (packG _); Instr.jwait r.g r.d r.a) = Instr.jwait g pd j)) rfl
  rw [unpackG_packG]

theorem jdrop (g : Guard) (j : BitVec 8) : Statement (Instr.jdrop g j) := by
  intro w h wf
  refine decodeWord_ok ?_ wf h
  have h : packG _ = w := Option.some.inj h
  subst h
  unfold candidate
  rw [opcode_packG]
  refine Eq.trans (congrArg some (?_ : (let r := unpackG (packG _); Instr.jdrop r.g r.a) = Instr.jdrop g j)) rfl
  rw [unpackG_packG]

theorem jqry (g : Guard) (sd : BitVec 8) (j : BitVec 8) (sel : BitVec 2) : Statement (Instr.jqry g sd j sel) := by
  intro w h wf
  refine decodeWord_ok ?_ wf h
  have h : packG _ = w := Option.some.inj h
  subst h
  unfold candidate
  rw [opcode_packG]
  refine Eq.trans (congrArg some (?_ : (let r := unpackG (packG _); Instr.jqry r.g r.d r.a (r.mod.extractLsb' 0 2)) = Instr.jqry g sd j sel)) rfl
  rw [unpackG_packG] <;> dsimp only <;> congr 1 <;> first
    | rfl
    | ((repeat rw [BitVec.extractLsb'_append_eq_of_le (by omega)])
       (try rw [BitVec.extractLsb'_append_eq_of_add_le (by omega)])
       (repeat rw [BitVec.getLsbD_append])
       simp)

theorem regrp (g : Guard) (sa : BitVec 8) (pb : BitVec 8) : Statement (Instr.regrp g sa pb) := by
  intro w h wf
  refine decodeWord_ok ?_ wf h
  have h : packG _ = w := Option.some.inj h
  subst h
  unfold candidate
  rw [opcode_packG]
  refine Eq.trans (congrArg some (?_ : (let r := unpackG (packG _); Instr.regrp r.g r.a r.b) = Instr.regrp g sa pb)) rfl
  rw [unpackG_packG]

theorem ungrp (g : Guard) (sa : BitVec 8) : Statement (Instr.ungrp g sa) := by
  intro w h wf
  refine decodeWord_ok ?_ wf h
  have h : packG _ = w := Option.some.inj h
  subst h
  unfold candidate
  rw [opcode_packG]
  refine Eq.trans (congrArg some (?_ : (let r := unpackG (packG _); Instr.ungrp r.g r.a) = Instr.ungrp g sa)) rfl
  rw [unpackG_packG]

theorem yield (g : Guard) : Statement (Instr.yield g) := by
  intro w h wf
  refine decodeWord_ok ?_ wf h
  have h : packG _ = w := Option.some.inj h
  subst h
  unfold candidate
  rw [opcode_packG]
  refine Eq.trans (congrArg some (?_ : (let r := unpackG (packG _); Instr.yield r.g) = Instr.yield g)) rfl
  rw [unpackG_packG]

theorem sleep (g : Guard) (sa : BitVec 8) (ns : Bool) : Statement (Instr.sleep g sa ns) := by
  intro w h wf
  refine decodeWord_ok ?_ wf h
  have h : packG _ = w := Option.some.inj h
  subst h
  unfold candidate
  rw [opcode_packG]
  refine Eq.trans (congrArg some (?_ : (let r := unpackG (packG _); Instr.sleep r.g r.a (r.mod.getLsbD 0)) = Instr.sleep g sa ns)) rfl
  rw [unpackG_packG] <;> dsimp only <;> congr 1 <;> first
    | rfl
    | ((repeat rw [BitVec.extractLsb'_append_eq_of_le (by omega)])
       (try rw [BitVec.extractLsb'_append_eq_of_add_le (by omega)])
       (repeat rw [BitVec.getLsbD_append])
       simp)

theorem sleepL (g : Guard) (n : BitVec 32) (ns : Bool) : Statement (Instr.sleepL g n ns) := by
  intro w h wf
  refine decodeWord_ok ?_ wf h
  have h : packL _ = w := Option.some.inj h
  subst h
  unfold candidate
  rw [opcode_packL]
  refine Eq.trans (congrArg some (?_ : (let r := unpackL (packL _); Instr.sleepL r.g r.lit (r.mod.getLsbD 0)) = Instr.sleepL g n ns)) rfl
  rw [unpackL_packL] <;> dsimp only <;> congr 1 <;> first
    | rfl
    | ((repeat rw [BitVec.extractLsb'_append_eq_of_le (by omega)])
       (try rw [BitVec.extractLsb'_append_eq_of_add_le (by omega)])
       (repeat rw [BitVec.getLsbD_append])
       simp)

theorem iadd (g : Guard) (d : VS) (a : VS) (b : VS) (sat : Bool) (u : Bool) : Statement (Instr.iadd g d a b sat u) := by
  intro w h wf
  refine decodeWord_ok ?_ wf h
  have h : packG _ = w := Option.some.inj h
  subst h
  unfold candidate
  rw [opcode_packG]
  refine Eq.trans (congrArg some (?_ : (let r := unpackG (packG _); Instr.iadd r.g ⟨r.fd, r.d⟩ ⟨r.fa, r.a⟩ ⟨r.fb, r.b⟩ (r.mod.getLsbD 14) (r.mod.getLsbD 15)) = Instr.iadd g d a b sat u)) rfl
  rw [unpackG_packG] <;> dsimp only <;> congr 1 <;> first
    | rfl
    | ((repeat rw [BitVec.extractLsb'_append_eq_of_le (by omega)])
       (try rw [BitVec.extractLsb'_append_eq_of_add_le (by omega)])
       (repeat rw [BitVec.getLsbD_append])
       simp)

theorem iaddL (g : Guard) (s : Bool) (d : BitVec 8) (a : BitVec 8) (lit : BitVec 32) (sat : Bool) (u : Bool) : Statement (Instr.iaddL g s d a lit sat u) := by
  intro w h wf
  refine decodeWord_ok ?_ wf h
  have h : packL _ = w := Option.some.inj h
  subst h
  unfold candidate
  rw [opcode_packL]
  refine Eq.trans (congrArg some (?_ : (let r := unpackL (packL _); Instr.iaddL r.g r.s r.d r.a r.lit (r.mod.getLsbD 2) (r.mod.getLsbD 1)) = Instr.iaddL g s d a lit sat u)) rfl
  rw [unpackL_packL] <;> dsimp only <;> congr 1 <;> first
    | rfl
    | ((repeat rw [BitVec.extractLsb'_append_eq_of_le (by omega)])
       (try rw [BitVec.extractLsb'_append_eq_of_add_le (by omega)])
       (repeat rw [BitVec.getLsbD_append])
       simp)

theorem isub (g : Guard) (d : VS) (a : VS) (b : VS) (sat : Bool) (u : Bool) : Statement (Instr.isub g d a b sat u) := by
  intro w h wf
  refine decodeWord_ok ?_ wf h
  have h : packG _ = w := Option.some.inj h
  subst h
  unfold candidate
  rw [opcode_packG]
  refine Eq.trans (congrArg some (?_ : (let r := unpackG (packG _); Instr.isub r.g ⟨r.fd, r.d⟩ ⟨r.fa, r.a⟩ ⟨r.fb, r.b⟩ (r.mod.getLsbD 14) (r.mod.getLsbD 15)) = Instr.isub g d a b sat u)) rfl
  rw [unpackG_packG] <;> dsimp only <;> congr 1 <;> first
    | rfl
    | ((repeat rw [BitVec.extractLsb'_append_eq_of_le (by omega)])
       (try rw [BitVec.extractLsb'_append_eq_of_add_le (by omega)])
       (repeat rw [BitVec.getLsbD_append])
       simp)

theorem isubL (g : Guard) (s : Bool) (d : BitVec 8) (a : BitVec 8) (lit : BitVec 32) (sat : Bool) (u : Bool) : Statement (Instr.isubL g s d a lit sat u) := by
  intro w h wf
  refine decodeWord_ok ?_ wf h
  have h : packL _ = w := Option.some.inj h
  subst h
  unfold candidate
  rw [opcode_packL]
  refine Eq.trans (congrArg some (?_ : (let r := unpackL (packL _); Instr.isubL r.g r.s r.d r.a r.lit (r.mod.getLsbD 2) (r.mod.getLsbD 1)) = Instr.isubL g s d a lit sat u)) rfl
  rw [unpackL_packL] <;> dsimp only <;> congr 1 <;> first
    | rfl
    | ((repeat rw [BitVec.extractLsb'_append_eq_of_le (by omega)])
       (try rw [BitVec.extractLsb'_append_eq_of_add_le (by omega)])
       (repeat rw [BitVec.getLsbD_append])
       simp)

theorem imul (g : Guard) (d : VS) (a : VS) (b : VS) : Statement (Instr.imul g d a b) := by
  intro w h wf
  refine decodeWord_ok ?_ wf h
  have h : packG _ = w := Option.some.inj h
  subst h
  unfold candidate
  rw [opcode_packG]
  refine Eq.trans (congrArg some (?_ : (let r := unpackG (packG _); Instr.imul r.g ⟨r.fd, r.d⟩ ⟨r.fa, r.a⟩ ⟨r.fb, r.b⟩) = Instr.imul g d a b)) rfl
  rw [unpackG_packG]

theorem imulL (g : Guard) (s : Bool) (d : BitVec 8) (a : BitVec 8) (lit : BitVec 32) : Statement (Instr.imulL g s d a lit) := by
  intro w h wf
  refine decodeWord_ok ?_ wf h
  have h : packL _ = w := Option.some.inj h
  subst h
  unfold candidate
  rw [opcode_packL]
  refine Eq.trans (congrArg some (?_ : (let r := unpackL (packL _); Instr.imulL r.g r.s r.d r.a r.lit) = Instr.imulL g s d a lit)) rfl
  rw [unpackL_packL]

theorem imulh (g : Guard) (d : VS) (a : VS) (b : VS) (u : Bool) : Statement (Instr.imulh g d a b u) := by
  intro w h wf
  refine decodeWord_ok ?_ wf h
  have h : packG _ = w := Option.some.inj h
  subst h
  unfold candidate
  rw [opcode_packG]
  refine Eq.trans (congrArg some (?_ : (let r := unpackG (packG _); Instr.imulh r.g ⟨r.fd, r.d⟩ ⟨r.fa, r.a⟩ ⟨r.fb, r.b⟩ (r.mod.getLsbD 15)) = Instr.imulh g d a b u)) rfl
  rw [unpackG_packG] <;> dsimp only <;> congr 1 <;> first
    | rfl
    | ((repeat rw [BitVec.extractLsb'_append_eq_of_le (by omega)])
       (try rw [BitVec.extractLsb'_append_eq_of_add_le (by omega)])
       (repeat rw [BitVec.getLsbD_append])
       simp)

theorem imad (g : Guard) (d : VS) (a : VS) (b : VS) (c : VS) : Statement (Instr.imad g d a b c) := by
  intro w h wf
  refine decodeWord_ok ?_ wf h
  have h : packG _ = w := Option.some.inj h
  subst h
  unfold candidate
  rw [opcode_packG]
  refine Eq.trans (congrArg some (?_ : (let r := unpackG (packG _); Instr.imad r.g ⟨r.fd, r.d⟩ ⟨r.fa, r.a⟩ ⟨r.fb, r.b⟩ ⟨r.fc, r.c⟩) = Instr.imad g d a b c)) rfl
  rw [unpackG_packG]

theorem iadd64 (g : Guard) (d : VS) (a : VS) (b : VS) : Statement (Instr.iadd64 g d a b) := by
  intro w h wf
  refine decodeWord_ok ?_ wf h
  have h : packG _ = w := Option.some.inj h
  subst h
  unfold candidate
  rw [opcode_packG]
  refine Eq.trans (congrArg some (?_ : (let r := unpackG (packG _); Instr.iadd64 r.g ⟨r.fd, r.d⟩ ⟨r.fa, r.a⟩ ⟨r.fb, r.b⟩) = Instr.iadd64 g d a b)) rfl
  rw [unpackG_packG]

theorem iadd64L (g : Guard) (s : Bool) (d : BitVec 8) (a : BitVec 8) (lit : BitVec 32) : Statement (Instr.iadd64L g s d a lit) := by
  intro w h wf
  refine decodeWord_ok ?_ wf h
  have h : packL _ = w := Option.some.inj h
  subst h
  unfold candidate
  rw [opcode_packL]
  refine Eq.trans (congrArg some (?_ : (let r := unpackL (packL _); Instr.iadd64L r.g r.s r.d r.a r.lit) = Instr.iadd64L g s d a lit)) rfl
  rw [unpackL_packL]

theorem isub64 (g : Guard) (d : VS) (a : VS) (b : VS) : Statement (Instr.isub64 g d a b) := by
  intro w h wf
  refine decodeWord_ok ?_ wf h
  have h : packG _ = w := Option.some.inj h
  subst h
  unfold candidate
  rw [opcode_packG]
  refine Eq.trans (congrArg some (?_ : (let r := unpackG (packG _); Instr.isub64 r.g ⟨r.fd, r.d⟩ ⟨r.fa, r.a⟩ ⟨r.fb, r.b⟩) = Instr.isub64 g d a b)) rfl
  rw [unpackG_packG]

theorem imad64 (g : Guard) (d : VS) (a : VS) (b : VS) (c : VS) (u : Bool) : Statement (Instr.imad64 g d a b c u) := by
  intro w h wf
  refine decodeWord_ok ?_ wf h
  have h : packG _ = w := Option.some.inj h
  subst h
  unfold candidate
  rw [opcode_packG]
  refine Eq.trans (congrArg some (?_ : (let r := unpackG (packG _); Instr.imad64 r.g ⟨r.fd, r.d⟩ ⟨r.fa, r.a⟩ ⟨r.fb, r.b⟩ ⟨r.fc, r.c⟩ (r.mod.getLsbD 15)) = Instr.imad64 g d a b c u)) rfl
  rw [unpackG_packG] <;> dsimp only <;> congr 1 <;> first
    | rfl
    | ((repeat rw [BitVec.extractLsb'_append_eq_of_le (by omega)])
       (try rw [BitVec.extractLsb'_append_eq_of_add_le (by omega)])
       (repeat rw [BitVec.getLsbD_append])
       simp)

theorem icmp (g : Guard) (p : BitVec 8) (a : VS) (b : VS) (cc : BitVec 4) : Statement (Instr.icmp g p a b cc) := by
  intro w h wf
  refine decodeWord_ok ?_ wf h
  have h : packG _ = w := Option.some.inj h
  subst h
  unfold candidate
  rw [opcode_packG]
  refine Eq.trans (congrArg some (?_ : (let r := unpackG (packG _); Instr.icmp r.g r.d ⟨r.fa, r.a⟩ ⟨r.fb, r.b⟩ (r.mod.extractLsb' 0 4)) = Instr.icmp g p a b cc)) rfl
  rw [unpackG_packG] <;> dsimp only <;> congr 1 <;> first
    | rfl
    | ((repeat rw [BitVec.extractLsb'_append_eq_of_le (by omega)])
       (try rw [BitVec.extractLsb'_append_eq_of_add_le (by omega)])
       (repeat rw [BitVec.getLsbD_append])
       simp)

theorem icmpL (g : Guard) (s : Bool) (p : BitVec 8) (a : BitVec 8) (lit : BitVec 32) (cc : BitVec 3) : Statement (Instr.icmpL g s p a lit cc) := by
  intro w h wf
  refine decodeWord_ok ?_ wf h
  have h : packL _ = w := Option.some.inj h
  subst h
  unfold candidate
  rw [opcode_packL]
  refine Eq.trans (congrArg some (?_ : (let r := unpackL (packL _); Instr.icmpL r.g r.s r.d r.a r.lit (r.mod.extractLsb' 0 3)) = Instr.icmpL g s p a lit cc)) rfl
  rw [unpackL_packL] <;> dsimp only <;> congr 1 <;> first
    | rfl
    | ((repeat rw [BitVec.extractLsb'_append_eq_of_le (by omega)])
       (try rw [BitVec.extractLsb'_append_eq_of_add_le (by omega)])
       (repeat rw [BitVec.getLsbD_append])
       simp)

theorem icmp64 (g : Guard) (p : BitVec 8) (a : VS) (b : VS) (cc : BitVec 4) : Statement (Instr.icmp64 g p a b cc) := by
  intro w h wf
  refine decodeWord_ok ?_ wf h
  have h : packG _ = w := Option.some.inj h
  subst h
  unfold candidate
  rw [opcode_packG]
  refine Eq.trans (congrArg some (?_ : (let r := unpackG (packG _); Instr.icmp64 r.g r.d ⟨r.fa, r.a⟩ ⟨r.fb, r.b⟩ (r.mod.extractLsb' 0 4)) = Instr.icmp64 g p a b cc)) rfl
  rw [unpackG_packG] <;> dsimp only <;> congr 1 <;> first
    | rfl
    | ((repeat rw [BitVec.extractLsb'_append_eq_of_le (by omega)])
       (try rw [BitVec.extractLsb'_append_eq_of_add_le (by omega)])
       (repeat rw [BitVec.getLsbD_append])
       simp)

theorem icmp64L (g : Guard) (s : Bool) (p : BitVec 8) (a : BitVec 8) (lit : BitVec 32) (cc : BitVec 3) : Statement (Instr.icmp64L g s p a lit cc) := by
  intro w h wf
  refine decodeWord_ok ?_ wf h
  have h : packL _ = w := Option.some.inj h
  subst h
  unfold candidate
  rw [opcode_packL]
  refine Eq.trans (congrArg some (?_ : (let r := unpackL (packL _); Instr.icmp64L r.g r.s r.d r.a r.lit (r.mod.extractLsb' 0 3)) = Instr.icmp64L g s p a lit cc)) rfl
  rw [unpackL_packL] <;> dsimp only <;> congr 1 <;> first
    | rfl
    | ((repeat rw [BitVec.extractLsb'_append_eq_of_le (by omega)])
       (try rw [BitVec.extractLsb'_append_eq_of_add_le (by omega)])
       (repeat rw [BitVec.getLsbD_append])
       simp)

theorem imin (g : Guard) (d : VS) (a : VS) (b : VS) (u : Bool) : Statement (Instr.imin g d a b u) := by
  intro w h wf
  refine decodeWord_ok ?_ wf h
  have h : packG _ = w := Option.some.inj h
  subst h
  unfold candidate
  rw [opcode_packG]
  refine Eq.trans (congrArg some (?_ : (let r := unpackG (packG _); Instr.imin r.g ⟨r.fd, r.d⟩ ⟨r.fa, r.a⟩ ⟨r.fb, r.b⟩ (r.mod.getLsbD 15)) = Instr.imin g d a b u)) rfl
  rw [unpackG_packG] <;> dsimp only <;> congr 1 <;> first
    | rfl
    | ((repeat rw [BitVec.extractLsb'_append_eq_of_le (by omega)])
       (try rw [BitVec.extractLsb'_append_eq_of_add_le (by omega)])
       (repeat rw [BitVec.getLsbD_append])
       simp)

theorem iminL (g : Guard) (s : Bool) (d : BitVec 8) (a : BitVec 8) (lit : BitVec 32) (u : Bool) : Statement (Instr.iminL g s d a lit u) := by
  intro w h wf
  refine decodeWord_ok ?_ wf h
  have h : packL _ = w := Option.some.inj h
  subst h
  unfold candidate
  rw [opcode_packL]
  refine Eq.trans (congrArg some (?_ : (let r := unpackL (packL _); Instr.iminL r.g r.s r.d r.a r.lit (r.mod.getLsbD 1)) = Instr.iminL g s d a lit u)) rfl
  rw [unpackL_packL] <;> dsimp only <;> congr 1 <;> first
    | rfl
    | ((repeat rw [BitVec.extractLsb'_append_eq_of_le (by omega)])
       (try rw [BitVec.extractLsb'_append_eq_of_add_le (by omega)])
       (repeat rw [BitVec.getLsbD_append])
       simp)

theorem imax (g : Guard) (d : VS) (a : VS) (b : VS) (u : Bool) : Statement (Instr.imax g d a b u) := by
  intro w h wf
  refine decodeWord_ok ?_ wf h
  have h : packG _ = w := Option.some.inj h
  subst h
  unfold candidate
  rw [opcode_packG]
  refine Eq.trans (congrArg some (?_ : (let r := unpackG (packG _); Instr.imax r.g ⟨r.fd, r.d⟩ ⟨r.fa, r.a⟩ ⟨r.fb, r.b⟩ (r.mod.getLsbD 15)) = Instr.imax g d a b u)) rfl
  rw [unpackG_packG] <;> dsimp only <;> congr 1 <;> first
    | rfl
    | ((repeat rw [BitVec.extractLsb'_append_eq_of_le (by omega)])
       (try rw [BitVec.extractLsb'_append_eq_of_add_le (by omega)])
       (repeat rw [BitVec.getLsbD_append])
       simp)

theorem imaxL (g : Guard) (s : Bool) (d : BitVec 8) (a : BitVec 8) (lit : BitVec 32) (u : Bool) : Statement (Instr.imaxL g s d a lit u) := by
  intro w h wf
  refine decodeWord_ok ?_ wf h
  have h : packL _ = w := Option.some.inj h
  subst h
  unfold candidate
  rw [opcode_packL]
  refine Eq.trans (congrArg some (?_ : (let r := unpackL (packL _); Instr.imaxL r.g r.s r.d r.a r.lit (r.mod.getLsbD 1)) = Instr.imaxL g s d a lit u)) rfl
  rw [unpackL_packL] <;> dsimp only <;> congr 1 <;> first
    | rfl
    | ((repeat rw [BitVec.extractLsb'_append_eq_of_le (by omega)])
       (try rw [BitVec.extractLsb'_append_eq_of_add_le (by omega)])
       (repeat rw [BitVec.getLsbD_append])
       simp)

theorem iabs (g : Guard) (d : VS) (a : VS) (sat : Bool) : Statement (Instr.iabs g d a sat) := by
  intro w h wf
  refine decodeWord_ok ?_ wf h
  have h : packG _ = w := Option.some.inj h
  subst h
  unfold candidate
  rw [opcode_packG]
  refine Eq.trans (congrArg some (?_ : (let r := unpackG (packG _); Instr.iabs r.g ⟨r.fd, r.d⟩ ⟨r.fa, r.a⟩ (r.mod.getLsbD 14)) = Instr.iabs g d a sat)) rfl
  rw [unpackG_packG] <;> dsimp only <;> congr 1 <;> first
    | rfl
    | ((repeat rw [BitVec.extractLsb'_append_eq_of_le (by omega)])
       (try rw [BitVec.extractLsb'_append_eq_of_add_le (by omega)])
       (repeat rw [BitVec.getLsbD_append])
       simp)

theorem iaddmin (g : Guard) (d : VS) (a : VS) (b : VS) (c : VS) (u : Bool) : Statement (Instr.iaddmin g d a b c u) := by
  intro w h wf
  refine decodeWord_ok ?_ wf h
  have h : packG _ = w := Option.some.inj h
  subst h
  unfold candidate
  rw [opcode_packG]
  refine Eq.trans (congrArg some (?_ : (let r := unpackG (packG _); Instr.iaddmin r.g ⟨r.fd, r.d⟩ ⟨r.fa, r.a⟩ ⟨r.fb, r.b⟩ ⟨r.fc, r.c⟩ (r.mod.getLsbD 15)) = Instr.iaddmin g d a b c u)) rfl
  rw [unpackG_packG] <;> dsimp only <;> congr 1 <;> first
    | rfl
    | ((repeat rw [BitVec.extractLsb'_append_eq_of_le (by omega)])
       (try rw [BitVec.extractLsb'_append_eq_of_add_le (by omega)])
       (repeat rw [BitVec.getLsbD_append])
       simp)

theorem and (g : Guard) (d : VS) (a : VS) (b : VS) : Statement (Instr.and g d a b) := by
  intro w h wf
  refine decodeWord_ok ?_ wf h
  have h : packG _ = w := Option.some.inj h
  subst h
  unfold candidate
  rw [opcode_packG]
  refine Eq.trans (congrArg some (?_ : (let r := unpackG (packG _); Instr.and r.g ⟨r.fd, r.d⟩ ⟨r.fa, r.a⟩ ⟨r.fb, r.b⟩) = Instr.and g d a b)) rfl
  rw [unpackG_packG]

theorem andL (g : Guard) (s : Bool) (d : BitVec 8) (a : BitVec 8) (lit : BitVec 32) : Statement (Instr.andL g s d a lit) := by
  intro w h wf
  refine decodeWord_ok ?_ wf h
  have h : packL _ = w := Option.some.inj h
  subst h
  unfold candidate
  rw [opcode_packL]
  refine Eq.trans (congrArg some (?_ : (let r := unpackL (packL _); Instr.andL r.g r.s r.d r.a r.lit) = Instr.andL g s d a lit)) rfl
  rw [unpackL_packL]

theorem or (g : Guard) (d : VS) (a : VS) (b : VS) : Statement (Instr.or g d a b) := by
  intro w h wf
  refine decodeWord_ok ?_ wf h
  have h : packG _ = w := Option.some.inj h
  subst h
  unfold candidate
  rw [opcode_packG]
  refine Eq.trans (congrArg some (?_ : (let r := unpackG (packG _); Instr.or r.g ⟨r.fd, r.d⟩ ⟨r.fa, r.a⟩ ⟨r.fb, r.b⟩) = Instr.or g d a b)) rfl
  rw [unpackG_packG]

theorem orL (g : Guard) (s : Bool) (d : BitVec 8) (a : BitVec 8) (lit : BitVec 32) : Statement (Instr.orL g s d a lit) := by
  intro w h wf
  refine decodeWord_ok ?_ wf h
  have h : packL _ = w := Option.some.inj h
  subst h
  unfold candidate
  rw [opcode_packL]
  refine Eq.trans (congrArg some (?_ : (let r := unpackL (packL _); Instr.orL r.g r.s r.d r.a r.lit) = Instr.orL g s d a lit)) rfl
  rw [unpackL_packL]

theorem xor (g : Guard) (d : VS) (a : VS) (b : VS) : Statement (Instr.xor g d a b) := by
  intro w h wf
  refine decodeWord_ok ?_ wf h
  have h : packG _ = w := Option.some.inj h
  subst h
  unfold candidate
  rw [opcode_packG]
  refine Eq.trans (congrArg some (?_ : (let r := unpackG (packG _); Instr.xor r.g ⟨r.fd, r.d⟩ ⟨r.fa, r.a⟩ ⟨r.fb, r.b⟩) = Instr.xor g d a b)) rfl
  rw [unpackG_packG]

theorem xorL (g : Guard) (s : Bool) (d : BitVec 8) (a : BitVec 8) (lit : BitVec 32) : Statement (Instr.xorL g s d a lit) := by
  intro w h wf
  refine decodeWord_ok ?_ wf h
  have h : packL _ = w := Option.some.inj h
  subst h
  unfold candidate
  rw [opcode_packL]
  refine Eq.trans (congrArg some (?_ : (let r := unpackL (packL _); Instr.xorL r.g r.s r.d r.a r.lit) = Instr.xorL g s d a lit)) rfl
  rw [unpackL_packL]

theorem andn (g : Guard) (d : VS) (a : VS) (b : VS) : Statement (Instr.andn g d a b) := by
  intro w h wf
  refine decodeWord_ok ?_ wf h
  have h : packG _ = w := Option.some.inj h
  subst h
  unfold candidate
  rw [opcode_packG]
  refine Eq.trans (congrArg some (?_ : (let r := unpackG (packG _); Instr.andn r.g ⟨r.fd, r.d⟩ ⟨r.fa, r.a⟩ ⟨r.fb, r.b⟩) = Instr.andn g d a b)) rfl
  rw [unpackG_packG]

theorem andnL (g : Guard) (s : Bool) (d : BitVec 8) (a : BitVec 8) (lit : BitVec 32) : Statement (Instr.andnL g s d a lit) := by
  intro w h wf
  refine decodeWord_ok ?_ wf h
  have h : packL _ = w := Option.some.inj h
  subst h
  unfold candidate
  rw [opcode_packL]
  refine Eq.trans (congrArg some (?_ : (let r := unpackL (packL _); Instr.andnL r.g r.s r.d r.a r.lit) = Instr.andnL g s d a lit)) rfl
  rw [unpackL_packL]

theorem not (g : Guard) (d : VS) (a : VS) : Statement (Instr.not g d a) := by
  intro w h wf
  refine decodeWord_ok ?_ wf h
  have h : packG _ = w := Option.some.inj h
  subst h
  unfold candidate
  rw [opcode_packG]
  refine Eq.trans (congrArg some (?_ : (let r := unpackG (packG _); Instr.not r.g ⟨r.fd, r.d⟩ ⟨r.fa, r.a⟩) = Instr.not g d a)) rfl
  rw [unpackG_packG]

theorem shl (g : Guard) (d : VS) (a : VS) (b : VS) : Statement (Instr.shl g d a b) := by
  intro w h wf
  refine decodeWord_ok ?_ wf h
  have h : packG _ = w := Option.some.inj h
  subst h
  unfold candidate
  rw [opcode_packG]
  refine Eq.trans (congrArg some (?_ : (let r := unpackG (packG _); Instr.shl r.g ⟨r.fd, r.d⟩ ⟨r.fa, r.a⟩ ⟨r.fb, r.b⟩) = Instr.shl g d a b)) rfl
  rw [unpackG_packG]

theorem shlL (g : Guard) (s : Bool) (d : BitVec 8) (a : BitVec 8) (lit : BitVec 32) : Statement (Instr.shlL g s d a lit) := by
  intro w h wf
  refine decodeWord_ok ?_ wf h
  have h : packL _ = w := Option.some.inj h
  subst h
  unfold candidate
  rw [opcode_packL]
  refine Eq.trans (congrArg some (?_ : (let r := unpackL (packL _); Instr.shlL r.g r.s r.d r.a r.lit) = Instr.shlL g s d a lit)) rfl
  rw [unpackL_packL]

theorem shr (g : Guard) (d : VS) (a : VS) (b : VS) : Statement (Instr.shr g d a b) := by
  intro w h wf
  refine decodeWord_ok ?_ wf h
  have h : packG _ = w := Option.some.inj h
  subst h
  unfold candidate
  rw [opcode_packG]
  refine Eq.trans (congrArg some (?_ : (let r := unpackG (packG _); Instr.shr r.g ⟨r.fd, r.d⟩ ⟨r.fa, r.a⟩ ⟨r.fb, r.b⟩) = Instr.shr g d a b)) rfl
  rw [unpackG_packG]

theorem shrL (g : Guard) (s : Bool) (d : BitVec 8) (a : BitVec 8) (lit : BitVec 32) : Statement (Instr.shrL g s d a lit) := by
  intro w h wf
  refine decodeWord_ok ?_ wf h
  have h : packL _ = w := Option.some.inj h
  subst h
  unfold candidate
  rw [opcode_packL]
  refine Eq.trans (congrArg some (?_ : (let r := unpackL (packL _); Instr.shrL r.g r.s r.d r.a r.lit) = Instr.shrL g s d a lit)) rfl
  rw [unpackL_packL]

theorem sar (g : Guard) (d : VS) (a : VS) (b : VS) : Statement (Instr.sar g d a b) := by
  intro w h wf
  refine decodeWord_ok ?_ wf h
  have h : packG _ = w := Option.some.inj h
  subst h
  unfold candidate
  rw [opcode_packG]
  refine Eq.trans (congrArg some (?_ : (let r := unpackG (packG _); Instr.sar r.g ⟨r.fd, r.d⟩ ⟨r.fa, r.a⟩ ⟨r.fb, r.b⟩) = Instr.sar g d a b)) rfl
  rw [unpackG_packG]

theorem sarL (g : Guard) (s : Bool) (d : BitVec 8) (a : BitVec 8) (lit : BitVec 32) : Statement (Instr.sarL g s d a lit) := by
  intro w h wf
  refine decodeWord_ok ?_ wf h
  have h : packL _ = w := Option.some.inj h
  subst h
  unfold candidate
  rw [opcode_packL]
  refine Eq.trans (congrArg some (?_ : (let r := unpackL (packL _); Instr.sarL r.g r.s r.d r.a r.lit) = Instr.sarL g s d a lit)) rfl
  rw [unpackL_packL]

theorem shl64 (g : Guard) (d : VS) (a : VS) (b : VS) : Statement (Instr.shl64 g d a b) := by
  intro w h wf
  refine decodeWord_ok ?_ wf h
  have h : packG _ = w := Option.some.inj h
  subst h
  unfold candidate
  rw [opcode_packG]
  refine Eq.trans (congrArg some (?_ : (let r := unpackG (packG _); Instr.shl64 r.g ⟨r.fd, r.d⟩ ⟨r.fa, r.a⟩ ⟨r.fb, r.b⟩) = Instr.shl64 g d a b)) rfl
  rw [unpackG_packG]

theorem shl64L (g : Guard) (s : Bool) (d : BitVec 8) (a : BitVec 8) (lit : BitVec 32) : Statement (Instr.shl64L g s d a lit) := by
  intro w h wf
  refine decodeWord_ok ?_ wf h
  have h : packL _ = w := Option.some.inj h
  subst h
  unfold candidate
  rw [opcode_packL]
  refine Eq.trans (congrArg some (?_ : (let r := unpackL (packL _); Instr.shl64L r.g r.s r.d r.a r.lit) = Instr.shl64L g s d a lit)) rfl
  rw [unpackL_packL]

theorem shr64 (g : Guard) (d : VS) (a : VS) (b : VS) : Statement (Instr.shr64 g d a b) := by
  intro w h wf
  refine decodeWord_ok ?_ wf h
  have h : packG _ = w := Option.some.inj h
  subst h
  unfold candidate
  rw [opcode_packG]
  refine Eq.trans (congrArg some (?_ : (let r := unpackG (packG _); Instr.shr64 r.g ⟨r.fd, r.d⟩ ⟨r.fa, r.a⟩ ⟨r.fb, r.b⟩) = Instr.shr64 g d a b)) rfl
  rw [unpackG_packG]

theorem shr64L (g : Guard) (s : Bool) (d : BitVec 8) (a : BitVec 8) (lit : BitVec 32) : Statement (Instr.shr64L g s d a lit) := by
  intro w h wf
  refine decodeWord_ok ?_ wf h
  have h : packL _ = w := Option.some.inj h
  subst h
  unfold candidate
  rw [opcode_packL]
  refine Eq.trans (congrArg some (?_ : (let r := unpackL (packL _); Instr.shr64L r.g r.s r.d r.a r.lit) = Instr.shr64L g s d a lit)) rfl
  rw [unpackL_packL]

theorem bfe (g : Guard) (d : VS) (a : VS) (b : VS) (c : VS) (u : Bool) : Statement (Instr.bfe g d a b c u) := by
  intro w h wf
  refine decodeWord_ok ?_ wf h
  have h : packG _ = w := Option.some.inj h
  subst h
  unfold candidate
  rw [opcode_packG]
  refine Eq.trans (congrArg some (?_ : (let r := unpackG (packG _); Instr.bfe r.g ⟨r.fd, r.d⟩ ⟨r.fa, r.a⟩ ⟨r.fb, r.b⟩ ⟨r.fc, r.c⟩ (r.mod.getLsbD 15)) = Instr.bfe g d a b c u)) rfl
  rw [unpackG_packG] <;> dsimp only <;> congr 1 <;> first
    | rfl
    | ((repeat rw [BitVec.extractLsb'_append_eq_of_le (by omega)])
       (try rw [BitVec.extractLsb'_append_eq_of_add_le (by omega)])
       (repeat rw [BitVec.getLsbD_append])
       simp)

theorem bfi (g : Guard) (d : VS) (a : VS) (b : VS) (c : VS) : Statement (Instr.bfi g d a b c) := by
  intro w h wf
  refine decodeWord_ok ?_ wf h
  have h : packG _ = w := Option.some.inj h
  subst h
  unfold candidate
  rw [opcode_packG]
  refine Eq.trans (congrArg some (?_ : (let r := unpackG (packG _); Instr.bfi r.g ⟨r.fd, r.d⟩ ⟨r.fa, r.a⟩ ⟨r.fb, r.b⟩ ⟨r.fc, r.c⟩) = Instr.bfi g d a b c)) rfl
  rw [unpackG_packG]

theorem popc (g : Guard) (d : VS) (a : VS) : Statement (Instr.popc g d a) := by
  intro w h wf
  refine decodeWord_ok ?_ wf h
  have h : packG _ = w := Option.some.inj h
  subst h
  unfold candidate
  rw [opcode_packG]
  refine Eq.trans (congrArg some (?_ : (let r := unpackG (packG _); Instr.popc r.g ⟨r.fd, r.d⟩ ⟨r.fa, r.a⟩) = Instr.popc g d a)) rfl
  rw [unpackG_packG]

theorem clz (g : Guard) (d : VS) (a : VS) : Statement (Instr.clz g d a) := by
  intro w h wf
  refine decodeWord_ok ?_ wf h
  have h : packG _ = w := Option.some.inj h
  subst h
  unfold candidate
  rw [opcode_packG]
  refine Eq.trans (congrArg some (?_ : (let r := unpackG (packG _); Instr.clz r.g ⟨r.fd, r.d⟩ ⟨r.fa, r.a⟩) = Instr.clz g d a)) rfl
  rw [unpackG_packG]

theorem brev (g : Guard) (d : VS) (a : VS) : Statement (Instr.brev g d a) := by
  intro w h wf
  refine decodeWord_ok ?_ wf h
  have h : packG _ = w := Option.some.inj h
  subst h
  unfold candidate
  rw [opcode_packG]
  refine Eq.trans (congrArg some (?_ : (let r := unpackG (packG _); Instr.brev r.g ⟨r.fd, r.d⟩ ⟨r.fa, r.a⟩) = Instr.brev g d a)) rfl
  rw [unpackG_packG]

theorem sel (g : Guard) (d : BitVec 8) (a : VS) (b : VS) (pc : BitVec 8) : Statement (Instr.sel g d a b pc) := by
  intro w h wf
  refine decodeWord_ok ?_ wf h
  have h : packG _ = w := Option.some.inj h
  subst h
  unfold candidate
  rw [opcode_packG]
  refine Eq.trans (congrArg some (?_ : (let r := unpackG (packG _); Instr.sel r.g r.d ⟨r.fa, r.a⟩ ⟨r.fb, r.b⟩ r.c) = Instr.sel g d a b pc)) rfl
  rw [unpackG_packG]

theorem mov (g : Guard) (d : VS) (a : VS) (b64 : Bool) : Statement (Instr.mov g d a b64) := by
  intro w h wf
  refine decodeWord_ok ?_ wf h
  have h : packG _ = w := Option.some.inj h
  subst h
  unfold candidate
  rw [opcode_packG]
  refine Eq.trans (congrArg some (?_ : (let r := unpackG (packG _); Instr.mov r.g ⟨r.fd, r.d⟩ ⟨r.fa, r.a⟩ (r.mod.getLsbD 4)) = Instr.mov g d a b64)) rfl
  rw [unpackG_packG] <;> dsimp only <;> congr 1 <;> first
    | rfl
    | ((repeat rw [BitVec.extractLsb'_append_eq_of_le (by omega)])
       (try rw [BitVec.extractLsb'_append_eq_of_add_le (by omega)])
       (repeat rw [BitVec.getLsbD_append])
       simp)

theorem movL (g : Guard) (s : Bool) (d : BitVec 8) (lit : BitVec 32) : Statement (Instr.movL g s d lit) := by
  intro w h wf
  refine decodeWord_ok ?_ wf h
  have h : packL _ = w := Option.some.inj h
  subst h
  unfold candidate
  rw [opcode_packL]
  refine Eq.trans (congrArg some (?_ : (let r := unpackL (packL _); Instr.movL r.g r.s r.d r.lit) = Instr.movL g s d lit)) rfl
  rw [unpackL_packL]

theorem plop (g : Guard) (pd : BitVec 8) (pa : BitVec 8) (pb : BitVec 8) (pc : BitVec 8) (lut : BitVec 8) : Statement (Instr.plop g pd pa pb pc lut) := by
  intro w h wf
  refine decodeWord_ok ?_ wf h
  have h : packG _ = w := Option.some.inj h
  subst h
  unfold candidate
  rw [opcode_packG]
  refine Eq.trans (congrArg some (?_ : (let r := unpackG (packG _); Instr.plop r.g r.d r.a r.b r.c (r.mod.extractLsb' 0 8)) = Instr.plop g pd pa pb pc lut)) rfl
  rw [unpackG_packG] <;> dsimp only <;> congr 1 <;> first
    | rfl
    | ((repeat rw [BitVec.extractLsb'_append_eq_of_le (by omega)])
       (try rw [BitVec.extractLsb'_append_eq_of_add_le (by omega)])
       (repeat rw [BitVec.getLsbD_append])
       simp)

theorem qswp (g : Guard) (d : BitVec 8) (a : BitVec 8) (k : BitVec 2) (b64 : Bool) (f : Bool) (c : VS) : Statement (Instr.qswp g d a k b64 f c) := by
  intro w h wf
  refine decodeWord_ok ?_ wf h
  have h : packG _ = w := Option.some.inj h
  subst h
  unfold candidate
  rw [opcode_packG]
  refine Eq.trans (congrArg some (?_ : (let r := unpackG (packG _); Instr.qswp r.g r.d r.a (r.mod.extractLsb' 0 2) (r.mod.getLsbD 4) (r.mod.getLsbD 3) ⟨r.fc, r.c⟩) = Instr.qswp g d a k b64 f c)) rfl
  rw [unpackG_packG] <;> dsimp only <;> congr 1 <;> first
    | rfl
    | ((repeat rw [BitVec.extractLsb'_append_eq_of_le (by omega)])
       (try rw [BitVec.extractLsb'_append_eq_of_add_le (by omega)])
       (repeat rw [BitVec.getLsbD_append])
       simp)

theorem qbcst (g : Guard) (d : BitVec 8) (a : BitVec 8) (k : BitVec 2) (b64 : Bool) (f : Bool) (c : VS) : Statement (Instr.qbcst g d a k b64 f c) := by
  intro w h wf
  refine decodeWord_ok ?_ wf h
  have h : packG _ = w := Option.some.inj h
  subst h
  unfold candidate
  rw [opcode_packG]
  refine Eq.trans (congrArg some (?_ : (let r := unpackG (packG _); Instr.qbcst r.g r.d r.a (r.mod.extractLsb' 0 2) (r.mod.getLsbD 4) (r.mod.getLsbD 3) ⟨r.fc, r.c⟩) = Instr.qbcst g d a k b64 f c)) rfl
  rw [unpackG_packG] <;> dsimp only <;> congr 1 <;> first
    | rfl
    | ((repeat rw [BitVec.extractLsb'_append_eq_of_le (by omega)])
       (try rw [BitVec.extractLsb'_append_eq_of_add_le (by omega)])
       (repeat rw [BitVec.getLsbD_append])
       simp)

theorem shfl (g : Guard) (d : BitVec 8) (a : BitVec 8) (b : VS) (w : BitVec 3) (x : Bool) (b64 : Bool) (f : Bool) (c : VS) : Statement (Instr.shfl g d a b w x b64 f c) := by
  intro w h wf
  refine decodeWord_ok ?_ wf h
  have h : packG _ = w := Option.some.inj h
  subst h
  unfold candidate
  rw [opcode_packG]
  refine Eq.trans (congrArg some (?_ : (let r := unpackG (packG _); Instr.shfl r.g r.d r.a ⟨r.fb, r.b⟩ (r.mod.extractLsb' 0 3) (r.mod.getLsbD 6) (r.mod.getLsbD 4) (r.mod.getLsbD 3) ⟨r.fc, r.c⟩) = Instr.shfl g d a b w x b64 f c)) rfl
  rw [unpackG_packG] <;> dsimp only <;> congr 1 <;> first
    | rfl
    | ((repeat rw [BitVec.extractLsb'_append_eq_of_le (by omega)])
       (try rw [BitVec.extractLsb'_append_eq_of_add_le (by omega)])
       (repeat rw [BitVec.getLsbD_append])
       simp)

theorem shflL (g : Guard) (d : BitVec 8) (a : BitVec 8) (n : BitVec 5) (x : Bool) (w : BitVec 3) : Statement (Instr.shflL g d a n x w) := by
  intro w h wf
  refine decodeWord_ok ?_ wf h
  have h : packL _ = w := Option.some.inj h
  subst h
  unfold candidate
  rw [opcode_packL]
  refine Eq.trans (congrArg some (?_ : (let r := unpackL (packL _); Instr.shflL r.g r.d r.a (r.lit.extractLsb' 0 5) (r.lit.getLsbD 8) (r.mod.extractLsb' 0 3)) = Instr.shflL g d a n x w)) rfl
  rw [unpackL_packL] <;> dsimp only <;> congr 1 <;> first
    | rfl
    | ((repeat rw [BitVec.extractLsb'_append_eq_of_le (by omega)])
       (try rw [BitVec.extractLsb'_append_eq_of_add_le (by omega)])
       (repeat rw [BitVec.getLsbD_append])
       simp)

theorem lshf (g : Guard) (d : BitVec 8) (a : BitVec 8) (b : VS) (w : BitVec 3) (dn : Bool) (b64 : Bool) (f : Bool) (c : VS) : Statement (Instr.lshf g d a b w dn b64 f c) := by
  intro w h wf
  refine decodeWord_ok ?_ wf h
  have h : packG _ = w := Option.some.inj h
  subst h
  unfold candidate
  rw [opcode_packG]
  refine Eq.trans (congrArg some (?_ : (let r := unpackG (packG _); Instr.lshf r.g r.d r.a ⟨r.fb, r.b⟩ (r.mod.extractLsb' 0 3) (r.mod.getLsbD 6) (r.mod.getLsbD 4) (r.mod.getLsbD 3) ⟨r.fc, r.c⟩) = Instr.lshf g d a b w dn b64 f c)) rfl
  rw [unpackG_packG] <;> dsimp only <;> congr 1 <;> first
    | rfl
    | ((repeat rw [BitVec.extractLsb'_append_eq_of_le (by omega)])
       (try rw [BitVec.extractLsb'_append_eq_of_add_le (by omega)])
       (repeat rw [BitVec.getLsbD_append])
       simp)

theorem lshfL (g : Guard) (d : BitVec 8) (a : BitVec 8) (n : BitVec 6) (dn : Bool) (w : BitVec 3) : Statement (Instr.lshfL g d a n dn w) := by
  intro w h wf
  refine decodeWord_ok ?_ wf h
  have h : packL _ = w := Option.some.inj h
  subst h
  unfold candidate
  rw [opcode_packL]
  refine Eq.trans (congrArg some (?_ : (let r := unpackL (packL _); Instr.lshfL r.g r.d r.a (r.lit.extractLsb' 0 6) (r.lit.getLsbD 8) (r.mod.extractLsb' 0 3)) = Instr.lshfL g d a n dn w)) rfl
  rw [unpackL_packL] <;> dsimp only <;> congr 1 <;> first
    | rfl
    | ((repeat rw [BitVec.extractLsb'_append_eq_of_le (by omega)])
       (try rw [BitVec.extractLsb'_append_eq_of_add_le (by omega)])
       (repeat rw [BitVec.getLsbD_append])
       simp)

theorem vote (g : Guard) (pd : BitVec 8) (pa : BitVec 8) (v : BitVec 2) : Statement (Instr.vote g pd pa v) := by
  intro w h wf
  refine decodeWord_ok ?_ wf h
  have h : packG _ = w := Option.some.inj h
  subst h
  unfold candidate
  rw [opcode_packG]
  refine Eq.trans (congrArg some (?_ : (let r := unpackG (packG _); Instr.vote r.g r.d r.a (r.mod.extractLsb' 0 2)) = Instr.vote g pd pa v)) rfl
  rw [unpackG_packG] <;> dsimp only <;> congr 1 <;> first
    | rfl
    | ((repeat rw [BitVec.extractLsb'_append_eq_of_le (by omega)])
       (try rw [BitVec.extractLsb'_append_eq_of_add_le (by omega)])
       (repeat rw [BitVec.getLsbD_append])
       simp)

theorem ballot (g : Guard) (sd : BitVec 8) (pa : BitVec 8) : Statement (Instr.ballot g sd pa) := by
  intro w h wf
  refine decodeWord_ok ?_ wf h
  have h : packG _ = w := Option.some.inj h
  subst h
  unfold candidate
  rw [opcode_packG]
  refine Eq.trans (congrArg some (?_ : (let r := unpackG (packG _); Instr.ballot r.g r.d r.a) = Instr.ballot g sd pa)) rfl
  rw [unpackG_packG]

theorem matchLanes (g : Guard) (d : BitVec 8) (a : BitVec 8) (b64 : Bool) : Statement (Instr.matchLanes g d a b64) := by
  intro w h wf
  refine decodeWord_ok ?_ wf h
  have h : packG _ = w := Option.some.inj h
  subst h
  unfold candidate
  rw [opcode_packG]
  refine Eq.trans (congrArg some (?_ : (let r := unpackG (packG _); Instr.matchLanes r.g r.d r.a (r.mod.getLsbD 4)) = Instr.matchLanes g d a b64)) rfl
  rw [unpackG_packG] <;> dsimp only <;> congr 1 <;> first
    | rfl
    | ((repeat rw [BitVec.extractLsb'_append_eq_of_le (by omega)])
       (try rw [BitVec.extractLsb'_append_eq_of_add_le (by omega)])
       (repeat rw [BitVec.getLsbD_append])
       simp)

theorem lcomp (g : Guard) (sd : BitVec 8) (pa : BitVec 8) (id : Bool) : Statement (Instr.lcomp g sd pa id) := by
  intro w h wf
  refine decodeWord_ok ?_ wf h
  have h : packG _ = w := Option.some.inj h
  subst h
  unfold candidate
  rw [opcode_packG]
  refine Eq.trans (congrArg some (?_ : (let r := unpackG (packG _); Instr.lcomp r.g r.d r.a (r.mod.getLsbD 0)) = Instr.lcomp g sd pa id)) rfl
  rw [unpackG_packG] <;> dsimp only <;> congr 1 <;> first
    | rfl
    | ((repeat rw [BitVec.extractLsb'_append_eq_of_le (by omega)])
       (try rw [BitVec.extractLsb'_append_eq_of_add_le (by omega)])
       (repeat rw [BitVec.getLsbD_append])
       simp)

theorem lpfx (g : Guard) (d : BitVec 8) (a : BitVec 8) (op : BitVec 2) (excl : Bool) (f32 : Bool) : Statement (Instr.lpfx g d a op excl f32) := by
  intro w h wf
  refine decodeWord_ok ?_ wf h
  have h : packG _ = w := Option.some.inj h
  subst h
  unfold candidate
  rw [opcode_packG]
  refine Eq.trans (congrArg some (?_ : (let r := unpackG (packG _); Instr.lpfx r.g r.d r.a (r.mod.extractLsb' 0 2) (r.mod.getLsbD 2) (r.mod.getLsbD 5)) = Instr.lpfx g d a op excl f32)) rfl
  rw [unpackG_packG] <;> dsimp only <;> congr 1 <;> first
    | rfl
    | ((repeat rw [BitVec.extractLsb'_append_eq_of_le (by omega)])
       (try rw [BitVec.extractLsb'_append_eq_of_add_le (by omega)])
       (repeat rw [BitVec.getLsbD_append])
       simp)

theorem segadd (g : Guard) (d : BitVec 8) (a : BitVec 8) (pb : BitVec 8) (f32 : Bool) : Statement (Instr.segadd g d a pb f32) := by
  intro w h wf
  refine decodeWord_ok ?_ wf h
  have h : packG _ = w := Option.some.inj h
  subst h
  unfold candidate
  rw [opcode_packG]
  refine Eq.trans (congrArg some (?_ : (let r := unpackG (packG _); Instr.segadd r.g r.d r.a r.b (r.mod.getLsbD 5)) = Instr.segadd g d a pb f32)) rfl
  rw [unpackG_packG] <;> dsimp only <;> congr 1 <;> first
    | rfl
    | ((repeat rw [BitVec.extractLsb'_append_eq_of_le (by omega)])
       (try rw [BitVec.extractLsb'_append_eq_of_add_le (by omega)])
       (repeat rw [BitVec.getLsbD_append])
       simp)

theorem rdlane (g : Guard) (sd : BitVec 8) (a : BitVec 8) (sb : BitVec 8) (b64 : Bool) (f : Bool) (c : VS) : Statement (Instr.rdlane g sd a sb b64 f c) := by
  intro w h wf
  refine decodeWord_ok ?_ wf h
  have h : packG _ = w := Option.some.inj h
  subst h
  unfold candidate
  rw [opcode_packG]
  refine Eq.trans (congrArg some (?_ : (let r := unpackG (packG _); Instr.rdlane r.g r.d r.a r.b (r.mod.getLsbD 4) (r.mod.getLsbD 3) ⟨r.fc, r.c⟩) = Instr.rdlane g sd a sb b64 f c)) rfl
  rw [unpackG_packG] <;> dsimp only <;> congr 1 <;> first
    | rfl
    | ((repeat rw [BitVec.extractLsb'_append_eq_of_le (by omega)])
       (try rw [BitVec.extractLsb'_append_eq_of_add_le (by omega)])
       (repeat rw [BitVec.getLsbD_append])
       simp)

theorem rdlaneL (g : Guard) (sd : BitVec 8) (a : BitVec 8) (n : BitVec 5) : Statement (Instr.rdlaneL g sd a n) := by
  intro w h wf
  refine decodeWord_ok ?_ wf h
  have h : packL _ = w := Option.some.inj h
  subst h
  unfold candidate
  rw [opcode_packL]
  refine Eq.trans (congrArg some (?_ : (let r := unpackL (packL _); Instr.rdlaneL r.g r.d r.a (r.lit.extractLsb' 0 5)) = Instr.rdlaneL g sd a n)) rfl
  rw [unpackL_packL] <;> dsimp only <;> congr 1 <;> first
    | rfl
    | ((repeat rw [BitVec.extractLsb'_append_eq_of_le (by omega)])
       (try rw [BitVec.extractLsb'_append_eq_of_add_le (by omega)])
       (repeat rw [BitVec.getLsbD_append])
       simp)

theorem fadd (g : Guard) (d : VS) (a : VS) (b : VS) (ty : BitVec 2) (rm : BitVec 2) (na : Bool) (nb : Bool) : Statement (Instr.fadd g d a b ty rm na nb) := by
  intro w h wf
  refine decodeWord_ok ?_ wf h
  have h : packG _ = w := Option.some.inj h
  subst h
  unfold candidate
  rw [opcode_packG]
  refine Eq.trans (congrArg some (?_ : (let r := unpackG (packG _); Instr.fadd r.g ⟨r.fd, r.d⟩ ⟨r.fa, r.a⟩ ⟨r.fb, r.b⟩ (r.mod.extractLsb' 14 2) (r.mod.extractLsb' 12 2) (r.mod.getLsbD 0) (r.mod.getLsbD 1)) = Instr.fadd g d a b ty rm na nb)) rfl
  rw [unpackG_packG] <;> dsimp only <;> congr 1 <;> first
    | rfl
    | ((repeat rw [BitVec.extractLsb'_append_eq_of_le (by omega)])
       (try rw [BitVec.extractLsb'_append_eq_of_add_le (by omega)])
       (repeat rw [BitVec.getLsbD_append])
       simp)

theorem faddL (g : Guard) (s : Bool) (d : BitVec 8) (a : BitVec 8) (lit : BitVec 32) (rm : BitVec 2) : Statement (Instr.faddL g s d a lit rm) := by
  intro w h wf
  refine decodeWord_ok ?_ wf h
  have h : packL _ = w := Option.some.inj h
  subst h
  unfold candidate
  rw [opcode_packL]
  refine Eq.trans (congrArg some (?_ : (let r := unpackL (packL _); Instr.faddL r.g r.s r.d r.a r.lit (r.mod.extractLsb' 1 2)) = Instr.faddL g s d a lit rm)) rfl
  rw [unpackL_packL] <;> dsimp only <;> congr 1 <;> first
    | rfl
    | ((repeat rw [BitVec.extractLsb'_append_eq_of_le (by omega)])
       (try rw [BitVec.extractLsb'_append_eq_of_add_le (by omega)])
       (repeat rw [BitVec.getLsbD_append])
       simp)

theorem fmul (g : Guard) (d : VS) (a : VS) (b : VS) (ty : BitVec 2) (rm : BitVec 2) (na : Bool) (nb : Bool) : Statement (Instr.fmul g d a b ty rm na nb) := by
  intro w h wf
  refine decodeWord_ok ?_ wf h
  have h : packG _ = w := Option.some.inj h
  subst h
  unfold candidate
  rw [opcode_packG]
  refine Eq.trans (congrArg some (?_ : (let r := unpackG (packG _); Instr.fmul r.g ⟨r.fd, r.d⟩ ⟨r.fa, r.a⟩ ⟨r.fb, r.b⟩ (r.mod.extractLsb' 14 2) (r.mod.extractLsb' 12 2) (r.mod.getLsbD 0) (r.mod.getLsbD 1)) = Instr.fmul g d a b ty rm na nb)) rfl
  rw [unpackG_packG] <;> dsimp only <;> congr 1 <;> first
    | rfl
    | ((repeat rw [BitVec.extractLsb'_append_eq_of_le (by omega)])
       (try rw [BitVec.extractLsb'_append_eq_of_add_le (by omega)])
       (repeat rw [BitVec.getLsbD_append])
       simp)

theorem fmulL (g : Guard) (s : Bool) (d : BitVec 8) (a : BitVec 8) (lit : BitVec 32) (rm : BitVec 2) : Statement (Instr.fmulL g s d a lit rm) := by
  intro w h wf
  refine decodeWord_ok ?_ wf h
  have h : packL _ = w := Option.some.inj h
  subst h
  unfold candidate
  rw [opcode_packL]
  refine Eq.trans (congrArg some (?_ : (let r := unpackL (packL _); Instr.fmulL r.g r.s r.d r.a r.lit (r.mod.extractLsb' 1 2)) = Instr.fmulL g s d a lit rm)) rfl
  rw [unpackL_packL] <;> dsimp only <;> congr 1 <;> first
    | rfl
    | ((repeat rw [BitVec.extractLsb'_append_eq_of_le (by omega)])
       (try rw [BitVec.extractLsb'_append_eq_of_add_le (by omega)])
       (repeat rw [BitVec.getLsbD_append])
       simp)

theorem ffma (g : Guard) (d : VS) (a : VS) (b : VS) (c : VS) (ty : BitVec 2) (rm : BitVec 2) (na : Bool) (nb : Bool) (nc : Bool) : Statement (Instr.ffma g d a b c ty rm na nb nc) := by
  intro w h wf
  refine decodeWord_ok ?_ wf h
  have h : packG _ = w := Option.some.inj h
  subst h
  unfold candidate
  rw [opcode_packG]
  refine Eq.trans (congrArg some (?_ : (let r := unpackG (packG _); Instr.ffma r.g ⟨r.fd, r.d⟩ ⟨r.fa, r.a⟩ ⟨r.fb, r.b⟩ ⟨r.fc, r.c⟩ (r.mod.extractLsb' 14 2) (r.mod.extractLsb' 12 2) (r.mod.getLsbD 0) (r.mod.getLsbD 1) (r.mod.getLsbD 2)) = Instr.ffma g d a b c ty rm na nb nc)) rfl
  rw [unpackG_packG] <;> dsimp only <;> congr 1 <;> first
    | rfl
    | ((repeat rw [BitVec.extractLsb'_append_eq_of_le (by omega)])
       (try rw [BitVec.extractLsb'_append_eq_of_add_le (by omega)])
       (repeat rw [BitVec.getLsbD_append])
       simp)

theorem fmin (g : Guard) (d : VS) (a : VS) (b : VS) (ty : BitVec 2) : Statement (Instr.fmin g d a b ty) := by
  intro w h wf
  refine decodeWord_ok ?_ wf h
  have h : packG _ = w := Option.some.inj h
  subst h
  unfold candidate
  rw [opcode_packG]
  refine Eq.trans (congrArg some (?_ : (let r := unpackG (packG _); Instr.fmin r.g ⟨r.fd, r.d⟩ ⟨r.fa, r.a⟩ ⟨r.fb, r.b⟩ (r.mod.extractLsb' 14 2)) = Instr.fmin g d a b ty)) rfl
  rw [unpackG_packG] <;> dsimp only <;> congr 1 <;> first
    | rfl
    | ((repeat rw [BitVec.extractLsb'_append_eq_of_le (by omega)])
       (try rw [BitVec.extractLsb'_append_eq_of_add_le (by omega)])
       (repeat rw [BitVec.getLsbD_append])
       simp)

theorem fminL (g : Guard) (s : Bool) (d : BitVec 8) (a : BitVec 8) (lit : BitVec 32) : Statement (Instr.fminL g s d a lit) := by
  intro w h wf
  refine decodeWord_ok ?_ wf h
  have h : packL _ = w := Option.some.inj h
  subst h
  unfold candidate
  rw [opcode_packL]
  refine Eq.trans (congrArg some (?_ : (let r := unpackL (packL _); Instr.fminL r.g r.s r.d r.a r.lit) = Instr.fminL g s d a lit)) rfl
  rw [unpackL_packL]

theorem fmax (g : Guard) (d : VS) (a : VS) (b : VS) (ty : BitVec 2) : Statement (Instr.fmax g d a b ty) := by
  intro w h wf
  refine decodeWord_ok ?_ wf h
  have h : packG _ = w := Option.some.inj h
  subst h
  unfold candidate
  rw [opcode_packG]
  refine Eq.trans (congrArg some (?_ : (let r := unpackG (packG _); Instr.fmax r.g ⟨r.fd, r.d⟩ ⟨r.fa, r.a⟩ ⟨r.fb, r.b⟩ (r.mod.extractLsb' 14 2)) = Instr.fmax g d a b ty)) rfl
  rw [unpackG_packG] <;> dsimp only <;> congr 1 <;> first
    | rfl
    | ((repeat rw [BitVec.extractLsb'_append_eq_of_le (by omega)])
       (try rw [BitVec.extractLsb'_append_eq_of_add_le (by omega)])
       (repeat rw [BitVec.getLsbD_append])
       simp)

theorem fmaxL (g : Guard) (s : Bool) (d : BitVec 8) (a : BitVec 8) (lit : BitVec 32) : Statement (Instr.fmaxL g s d a lit) := by
  intro w h wf
  refine decodeWord_ok ?_ wf h
  have h : packL _ = w := Option.some.inj h
  subst h
  unfold candidate
  rw [opcode_packL]
  refine Eq.trans (congrArg some (?_ : (let r := unpackL (packL _); Instr.fmaxL r.g r.s r.d r.a r.lit) = Instr.fmaxL g s d a lit)) rfl
  rw [unpackL_packL]

theorem fcmp (g : Guard) (p : BitVec 8) (a : VS) (b : VS) (ty : BitVec 2) (cc : BitVec 3) : Statement (Instr.fcmp g p a b ty cc) := by
  intro w h wf
  refine decodeWord_ok ?_ wf h
  have h : packG _ = w := Option.some.inj h
  subst h
  unfold candidate
  rw [opcode_packG]
  refine Eq.trans (congrArg some (?_ : (let r := unpackG (packG _); Instr.fcmp r.g r.d ⟨r.fa, r.a⟩ ⟨r.fb, r.b⟩ (r.mod.extractLsb' 14 2) (r.mod.extractLsb' 9 3)) = Instr.fcmp g p a b ty cc)) rfl
  rw [unpackG_packG] <;> dsimp only <;> congr 1 <;> first
    | rfl
    | ((repeat rw [BitVec.extractLsb'_append_eq_of_le (by omega)])
       (try rw [BitVec.extractLsb'_append_eq_of_add_le (by omega)])
       (repeat rw [BitVec.getLsbD_append])
       simp)

theorem fcmpL (g : Guard) (s : Bool) (p : BitVec 8) (a : BitVec 8) (lit : BitVec 32) (cc : BitVec 3) : Statement (Instr.fcmpL g s p a lit cc) := by
  intro w h wf
  refine decodeWord_ok ?_ wf h
  have h : packL _ = w := Option.some.inj h
  subst h
  unfold candidate
  rw [opcode_packL]
  refine Eq.trans (congrArg some (?_ : (let r := unpackL (packL _); Instr.fcmpL r.g r.s r.d r.a r.lit (r.mod.extractLsb' 0 3)) = Instr.fcmpL g s p a lit cc)) rfl
  rw [unpackL_packL] <;> dsimp only <;> congr 1 <;> first
    | rfl
    | ((repeat rw [BitVec.extractLsb'_append_eq_of_le (by omega)])
       (try rw [BitVec.extractLsb'_append_eq_of_add_le (by omega)])
       (repeat rw [BitVec.getLsbD_append])
       simp)

theorem fclass (g : Guard) (d : VS) (a : VS) (ty : BitVec 2) : Statement (Instr.fclass g d a ty) := by
  intro w h wf
  refine decodeWord_ok ?_ wf h
  have h : packG _ = w := Option.some.inj h
  subst h
  unfold candidate
  rw [opcode_packG]
  refine Eq.trans (congrArg some (?_ : (let r := unpackG (packG _); Instr.fclass r.g ⟨r.fd, r.d⟩ ⟨r.fa, r.a⟩ (r.mod.extractLsb' 14 2)) = Instr.fclass g d a ty)) rfl
  rw [unpackG_packG] <;> dsimp only <;> congr 1 <;> first
    | rfl
    | ((repeat rw [BitVec.extractLsb'_append_eq_of_le (by omega)])
       (try rw [BitVec.extractLsb'_append_eq_of_add_le (by omega)])
       (repeat rw [BitVec.getLsbD_append])
       simp)

theorem frnd (g : Guard) (d : VS) (a : VS) (ty : BitVec 2) (rm : BitVec 2) : Statement (Instr.frnd g d a ty rm) := by
  intro w h wf
  refine decodeWord_ok ?_ wf h
  have h : packG _ = w := Option.some.inj h
  subst h
  unfold candidate
  rw [opcode_packG]
  refine Eq.trans (congrArg some (?_ : (let r := unpackG (packG _); Instr.frnd r.g ⟨r.fd, r.d⟩ ⟨r.fa, r.a⟩ (r.mod.extractLsb' 14 2) (r.mod.extractLsb' 12 2)) = Instr.frnd g d a ty rm)) rfl
  rw [unpackG_packG] <;> dsimp only <;> congr 1 <;> first
    | rfl
    | ((repeat rw [BitVec.extractLsb'_append_eq_of_le (by omega)])
       (try rw [BitVec.extractLsb'_append_eq_of_add_le (by omega)])
       (repeat rw [BitVec.getLsbD_append])
       simp)

theorem fscale (g : Guard) (d : VS) (a : VS) (b : VS) (ty : BitVec 2) (rm : BitVec 2) : Statement (Instr.fscale g d a b ty rm) := by
  intro w h wf
  refine decodeWord_ok ?_ wf h
  have h : packG _ = w := Option.some.inj h
  subst h
  unfold candidate
  rw [opcode_packG]
  refine Eq.trans (congrArg some (?_ : (let r := unpackG (packG _); Instr.fscale r.g ⟨r.fd, r.d⟩ ⟨r.fa, r.a⟩ ⟨r.fb, r.b⟩ (r.mod.extractLsb' 14 2) (r.mod.extractLsb' 12 2)) = Instr.fscale g d a b ty rm)) rfl
  rw [unpackG_packG] <;> dsimp only <;> congr 1 <;> first
    | rfl
    | ((repeat rw [BitVec.extractLsb'_append_eq_of_le (by omega)])
       (try rw [BitVec.extractLsb'_append_eq_of_add_le (by omega)])
       (repeat rw [BitVec.getLsbD_append])
       simp)

theorem fdot2 (g : Guard) (d : VS) (a : VS) (b : VS) (c : VS) (ty : BitVec 2) (rm : BitVec 2) (na : Bool) (nb : Bool) (nc : Bool) : Statement (Instr.fdot2 g d a b c ty rm na nb nc) := by
  intro w h wf
  refine decodeWord_ok ?_ wf h
  have h : packG _ = w := Option.some.inj h
  subst h
  unfold candidate
  rw [opcode_packG]
  refine Eq.trans (congrArg some (?_ : (let r := unpackG (packG _); Instr.fdot2 r.g ⟨r.fd, r.d⟩ ⟨r.fa, r.a⟩ ⟨r.fb, r.b⟩ ⟨r.fc, r.c⟩ (r.mod.extractLsb' 14 2) (r.mod.extractLsb' 12 2) (r.mod.getLsbD 0) (r.mod.getLsbD 1) (r.mod.getLsbD 2)) = Instr.fdot2 g d a b c ty rm na nb nc)) rfl
  rw [unpackG_packG] <;> dsimp only <;> congr 1 <;> first
    | rfl
    | ((repeat rw [BitVec.extractLsb'_append_eq_of_le (by omega)])
       (try rw [BitVec.extractLsb'_append_eq_of_add_le (by omega)])
       (repeat rw [BitVec.getLsbD_append])
       simp)

theorem srcp (g : Guard) (d : VS) (a : VS) : Statement (Instr.srcp g d a) := by
  intro w h wf
  refine decodeWord_ok ?_ wf h
  have h : packG _ = w := Option.some.inj h
  subst h
  unfold candidate
  rw [opcode_packG]
  refine Eq.trans (congrArg some (?_ : (let r := unpackG (packG _); Instr.srcp r.g ⟨r.fd, r.d⟩ ⟨r.fa, r.a⟩) = Instr.srcp g d a)) rfl
  rw [unpackG_packG]

theorem srsq (g : Guard) (d : VS) (a : VS) : Statement (Instr.srsq g d a) := by
  intro w h wf
  refine decodeWord_ok ?_ wf h
  have h : packG _ = w := Option.some.inj h
  subst h
  unfold candidate
  rw [opcode_packG]
  refine Eq.trans (congrArg some (?_ : (let r := unpackG (packG _); Instr.srsq r.g ⟨r.fd, r.d⟩ ⟨r.fa, r.a⟩) = Instr.srsq g d a)) rfl
  rw [unpackG_packG]

theorem ssqrt (g : Guard) (d : VS) (a : VS) : Statement (Instr.ssqrt g d a) := by
  intro w h wf
  refine decodeWord_ok ?_ wf h
  have h : packG _ = w := Option.some.inj h
  subst h
  unfold candidate
  rw [opcode_packG]
  refine Eq.trans (congrArg some (?_ : (let r := unpackG (packG _); Instr.ssqrt r.g ⟨r.fd, r.d⟩ ⟨r.fa, r.a⟩) = Instr.ssqrt g d a)) rfl
  rw [unpackG_packG]

theorem sexp2 (g : Guard) (d : VS) (a : VS) : Statement (Instr.sexp2 g d a) := by
  intro w h wf
  refine decodeWord_ok ?_ wf h
  have h : packG _ = w := Option.some.inj h
  subst h
  unfold candidate
  rw [opcode_packG]
  refine Eq.trans (congrArg some (?_ : (let r := unpackG (packG _); Instr.sexp2 r.g ⟨r.fd, r.d⟩ ⟨r.fa, r.a⟩) = Instr.sexp2 g d a)) rfl
  rw [unpackG_packG]

theorem slog2 (g : Guard) (d : VS) (a : VS) : Statement (Instr.slog2 g d a) := by
  intro w h wf
  refine decodeWord_ok ?_ wf h
  have h : packG _ = w := Option.some.inj h
  subst h
  unfold candidate
  rw [opcode_packG]
  refine Eq.trans (congrArg some (?_ : (let r := unpackG (packG _); Instr.slog2 r.g ⟨r.fd, r.d⟩ ⟨r.fa, r.a⟩) = Instr.slog2 g d a)) rfl
  rw [unpackG_packG]

theorem ssin (g : Guard) (d : VS) (a : VS) : Statement (Instr.ssin g d a) := by
  intro w h wf
  refine decodeWord_ok ?_ wf h
  have h : packG _ = w := Option.some.inj h
  subst h
  unfold candidate
  rw [opcode_packG]
  refine Eq.trans (congrArg some (?_ : (let r := unpackG (packG _); Instr.ssin r.g ⟨r.fd, r.d⟩ ⟨r.fa, r.a⟩) = Instr.ssin g d a)) rfl
  rw [unpackG_packG]

theorem scos (g : Guard) (d : VS) (a : VS) : Statement (Instr.scos g d a) := by
  intro w h wf
  refine decodeWord_ok ?_ wf h
  have h : packG _ = w := Option.some.inj h
  subst h
  unfold candidate
  rw [opcode_packG]
  refine Eq.trans (congrArg some (?_ : (let r := unpackG (packG _); Instr.scos r.g ⟨r.fd, r.d⟩ ⟨r.fa, r.a⟩) = Instr.scos g d a)) rfl
  rw [unpackG_packG]

theorem stanh (g : Guard) (d : VS) (a : VS) : Statement (Instr.stanh g d a) := by
  intro w h wf
  refine decodeWord_ok ?_ wf h
  have h : packG _ = w := Option.some.inj h
  subst h
  unfold candidate
  rw [opcode_packG]
  refine Eq.trans (congrArg some (?_ : (let r := unpackG (packG _); Instr.stanh r.g ⟨r.fd, r.d⟩ ⟨r.fa, r.a⟩) = Instr.stanh g d a)) rfl
  rw [unpackG_packG]

theorem cvf (g : Guard) (d : VS) (a : VS) (df : BitVec 4) (sf : BitVec 4) (rm : BitVec 2) (sat : Bool) (sp : BitVec 2) (dp : BitVec 2) : Statement (Instr.cvf g d a df sf rm sat sp dp) := by
  intro w h wf
  refine decodeWord_ok ?_ wf h
  have h : packG _ = w := Option.some.inj h
  subst h
  unfold candidate
  rw [opcode_packG]
  refine Eq.trans (congrArg some (?_ : (let r := unpackG (packG _); Instr.cvf r.g ⟨r.fd, r.d⟩ ⟨r.fa, r.a⟩ (r.mod.extractLsb' 12 4) (r.mod.extractLsb' 8 4) (r.mod.extractLsb' 6 2) (r.mod.getLsbD 5) (r.mod.extractLsb' 2 2) (r.mod.extractLsb' 0 2)) = Instr.cvf g d a df sf rm sat sp dp)) rfl
  rw [unpackG_packG] <;> dsimp only <;> congr 1 <;> first
    | rfl
    | ((repeat rw [BitVec.extractLsb'_append_eq_of_le (by omega)])
       (try rw [BitVec.extractLsb'_append_eq_of_add_le (by omega)])
       (repeat rw [BitVec.getLsbD_append])
       simp)

theorem cvn (g : Guard) (d : BitVec 8) (a : BitVec 8) (q : BitVec 8) (df : BitVec 4) (sf : BitVec 4) (rm : BitVec 2) (sat : Bool) (dp : BitVec 2) : Statement (Instr.cvn g d a q df sf rm sat dp) := by
  intro w h wf
  refine decodeWord_ok ?_ wf h
  have h : packG _ = w := Option.some.inj h
  subst h
  unfold candidate
  rw [opcode_packG]
  refine Eq.trans (congrArg some (?_ : (let r := unpackG (packG _); Instr.cvn r.g r.d r.a r.c (r.mod.extractLsb' 12 4) (r.mod.extractLsb' 8 4) (r.mod.extractLsb' 6 2) (r.mod.getLsbD 5) (r.mod.extractLsb' 0 2)) = Instr.cvn g d a q df sf rm sat dp)) rfl
  rw [unpackG_packG] <;> dsimp only <;> congr 1 <;> first
    | rfl
    | ((repeat rw [BitVec.extractLsb'_append_eq_of_le (by omega)])
       (try rw [BitVec.extractLsb'_append_eq_of_add_le (by omega)])
       (repeat rw [BitVec.getLsbD_append])
       simp)

theorem cvi (g : Guard) (d : VS) (a : VS) (df : BitVec 4) (sf : BitVec 4) (rm : BitVec 2) (sp : BitVec 2) (dp : BitVec 2) : Statement (Instr.cvi g d a df sf rm sp dp) := by
  intro w h wf
  refine decodeWord_ok ?_ wf h
  have h : packG _ = w := Option.some.inj h
  subst h
  unfold candidate
  rw [opcode_packG]
  refine Eq.trans (congrArg some (?_ : (let r := unpackG (packG _); Instr.cvi r.g ⟨r.fd, r.d⟩ ⟨r.fa, r.a⟩ (r.mod.extractLsb' 12 4) (r.mod.extractLsb' 8 4) (r.mod.extractLsb' 6 2) (r.mod.extractLsb' 2 2) (r.mod.extractLsb' 0 2)) = Instr.cvi g d a df sf rm sp dp)) rfl
  rw [unpackG_packG] <;> dsimp only <;> congr 1 <;> first
    | rfl
    | ((repeat rw [BitVec.extractLsb'_append_eq_of_le (by omega)])
       (try rw [BitVec.extractLsb'_append_eq_of_add_le (by omega)])
       (repeat rw [BitVec.getLsbD_append])
       simp)

theorem cvsh (g : Guard) (d : VS) (a : VS) (b : VS) (dp : BitVec 2) : Statement (Instr.cvsh g d a b dp) := by
  intro w h wf
  refine decodeWord_ok ?_ wf h
  have h : packG _ = w := Option.some.inj h
  subst h
  unfold candidate
  rw [opcode_packG]
  refine Eq.trans (congrArg some (?_ : (let r := unpackG (packG _); Instr.cvsh r.g ⟨r.fd, r.d⟩ ⟨r.fa, r.a⟩ ⟨r.fb, r.b⟩ (r.mod.extractLsb' 0 2)) = Instr.cvsh g d a b dp)) rfl
  rw [unpackG_packG] <;> dsimp only <;> congr 1 <;> first
    | rfl
    | ((repeat rw [BitVec.extractLsb'_append_eq_of_le (by omega)])
       (try rw [BitVec.extractLsb'_append_eq_of_add_le (by omega)])
       (repeat rw [BitVec.getLsbD_append])
       simp)

theorem dcsh (g : Guard) (d : VS) (a : VS) (b : VS) (sp : BitVec 2) : Statement (Instr.dcsh g d a b sp) := by
  intro w h wf
  refine decodeWord_ok ?_ wf h
  have h : packG _ = w := Option.some.inj h
  subst h
  unfold candidate
  rw [opcode_packG]
  refine Eq.trans (congrArg some (?_ : (let r := unpackG (packG _); Instr.dcsh r.g ⟨r.fd, r.d⟩ ⟨r.fa, r.a⟩ ⟨r.fb, r.b⟩ (r.mod.extractLsb' 2 2)) = Instr.dcsh g d a b sp)) rfl
  rw [unpackG_packG] <;> dsimp only <;> congr 1 <;> first
    | rfl
    | ((repeat rw [BitVec.extractLsb'_append_eq_of_le (by omega)])
       (try rw [BitVec.extractLsb'_append_eq_of_add_le (by omega)])
       (repeat rw [BitVec.getLsbD_append])
       simp)

theorem qclr (g : Guard) (nn : BitVec 8) : Statement (Instr.qclr g nn) := by
  intro w h wf
  refine decodeWord_ok ?_ wf h
  have h : packG _ = w := Option.some.inj h
  subst h
  unfold candidate
  rw [opcode_packG]
  refine Eq.trans (congrArg some (?_ : (let r := unpackG (packG _); Instr.qclr r.g (r.mod.extractLsb' 0 8)) = Instr.qclr g nn)) rfl
  rw [unpackG_packG] <;> dsimp only <;> congr 1 <;> first
    | rfl
    | ((repeat rw [BitVec.extractLsb'_append_eq_of_le (by omega)])
       (try rw [BitVec.extractLsb'_append_eq_of_add_le (by omega)])
       (repeat rw [BitVec.getLsbD_append])
       simp)

theorem qmov (g : Guard) (x : BitVec 8) (y : BitVec 8) (dir : Bool) : Statement (Instr.qmov g x y dir) := by
  intro w h wf
  refine decodeWord_ok ?_ wf h
  have h : packG _ = w := Option.some.inj h
  subst h
  unfold candidate
  rw [opcode_packG]
  refine Eq.trans (congrArg some (?_ : (let r := unpackG (packG _); Instr.qmov r.g r.d r.a (r.mod.getLsbD 0)) = Instr.qmov g x y dir)) rfl
  rw [unpackG_packG] <;> dsimp only <;> congr 1 <;> first
    | rfl
    | ((repeat rw [BitVec.extractLsb'_append_eq_of_le (by omega)])
       (try rw [BitVec.extractLsb'_append_eq_of_add_le (by omega)])
       (repeat rw [BitVec.getLsbD_append])
       simp)

theorem vchain (g : Guard) (sd : BitVec 8) (sa : BitVec 8) : Statement (Instr.vchain g sd sa) := by
  intro w h wf
  refine decodeWord_ok ?_ wf h
  have h : packG _ = w := Option.some.inj h
  subst h
  unfold candidate
  rw [opcode_packG]
  refine Eq.trans (congrArg some (?_ : (let r := unpackG (packG _); Instr.vchain r.g r.d r.a) = Instr.vchain g sd sa)) rfl
  rw [unpackG_packG]

theorem hring (g : Guard) (sa : BitVec 8) (k : BitVec 2) (ofs : BitVec 25) : Statement (Instr.hring g sa k ofs) := by
  intro w h wf
  refine decodeWord_ok ?_ wf h
  have h : packL _ = w := Option.some.inj h
  subst h
  unfold candidate
  rw [opcode_packL]
  refine Eq.trans (congrArg some (?_ : (let r := unpackL (packL _); Instr.hring r.g r.a (r.lit.extractLsb' 0 2) (r.lit.extractLsb' 7 25)) = Instr.hring g sa k ofs)) rfl
  rw [unpackL_packL] <;> dsimp only <;> congr 1 <;> first
    | rfl
    | ((repeat rw [BitVec.extractLsb'_append_eq_of_le (by omega)])
       (try rw [BitVec.extractLsb'_append_eq_of_add_le (by omega)])
       (repeat rw [BitVec.getLsbD_append])
       simp)

theorem hfrom (g : Guard) (d : VS) (a : VS) (k : BitVec 2) (f64 : Bool) : Statement (Instr.hfrom g d a k f64) := by
  intro w h wf
  refine decodeWord_ok ?_ wf h
  have h : packG _ = w := Option.some.inj h
  subst h
  unfold candidate
  rw [opcode_packG]
  refine Eq.trans (congrArg some (?_ : (let r := unpackG (packG _); Instr.hfrom r.g ⟨r.fd, r.d⟩ ⟨r.fa, r.a⟩ (r.mod.extractLsb' 14 2) (r.mod.getLsbD 13)) = Instr.hfrom g d a k f64)) rfl
  rw [unpackG_packG] <;> dsimp only <;> congr 1 <;> first
    | rfl
    | ((repeat rw [BitVec.extractLsb'_append_eq_of_le (by omega)])
       (try rw [BitVec.extractLsb'_append_eq_of_add_le (by omega)])
       (repeat rw [BitVec.getLsbD_append])
       simp)

theorem htof (g : Guard) (d : VS) (a : VS) (k : BitVec 2) : Statement (Instr.htof g d a k) := by
  intro w h wf
  refine decodeWord_ok ?_ wf h
  have h : packG _ = w := Option.some.inj h
  subst h
  unfold candidate
  rw [opcode_packG]
  refine Eq.trans (congrArg some (?_ : (let r := unpackG (packG _); Instr.htof r.g ⟨r.fd, r.d⟩ ⟨r.fa, r.a⟩ (r.mod.extractLsb' 14 2)) = Instr.htof g d a k)) rfl
  rw [unpackG_packG] <;> dsimp only <;> congr 1 <;> first
    | rfl
    | ((repeat rw [BitVec.extractLsb'_append_eq_of_le (by omega)])
       (try rw [BitVec.extractLsb'_append_eq_of_add_le (by omega)])
       (repeat rw [BitVec.getLsbD_append])
       simp)

theorem hadd (g : Guard) (d : VS) (a : VS) (b : VS) (k : BitVec 2) : Statement (Instr.hadd g d a b k) := by
  intro w h wf
  refine decodeWord_ok ?_ wf h
  have h : packG _ = w := Option.some.inj h
  subst h
  unfold candidate
  rw [opcode_packG]
  refine Eq.trans (congrArg some (?_ : (let r := unpackG (packG _); Instr.hadd r.g ⟨r.fd, r.d⟩ ⟨r.fa, r.a⟩ ⟨r.fb, r.b⟩ (r.mod.extractLsb' 14 2)) = Instr.hadd g d a b k)) rfl
  rw [unpackG_packG] <;> dsimp only <;> congr 1 <;> first
    | rfl
    | ((repeat rw [BitVec.extractLsb'_append_eq_of_le (by omega)])
       (try rw [BitVec.extractLsb'_append_eq_of_add_le (by omega)])
       (repeat rw [BitVec.getLsbD_append])
       simp)

theorem hsub (g : Guard) (d : VS) (a : VS) (b : VS) (k : BitVec 2) : Statement (Instr.hsub g d a b k) := by
  intro w h wf
  refine decodeWord_ok ?_ wf h
  have h : packG _ = w := Option.some.inj h
  subst h
  unfold candidate
  rw [opcode_packG]
  refine Eq.trans (congrArg some (?_ : (let r := unpackG (packG _); Instr.hsub r.g ⟨r.fd, r.d⟩ ⟨r.fa, r.a⟩ ⟨r.fb, r.b⟩ (r.mod.extractLsb' 14 2)) = Instr.hsub g d a b k)) rfl
  rw [unpackG_packG] <;> dsimp only <;> congr 1 <;> first
    | rfl
    | ((repeat rw [BitVec.extractLsb'_append_eq_of_le (by omega)])
       (try rw [BitVec.extractLsb'_append_eq_of_add_le (by omega)])
       (repeat rw [BitVec.getLsbD_append])
       simp)

theorem hmul (g : Guard) (d : VS) (a : VS) (b : VS) (k : BitVec 2) : Statement (Instr.hmul g d a b k) := by
  intro w h wf
  refine decodeWord_ok ?_ wf h
  have h : packG _ = w := Option.some.inj h
  subst h
  unfold candidate
  rw [opcode_packG]
  refine Eq.trans (congrArg some (?_ : (let r := unpackG (packG _); Instr.hmul r.g ⟨r.fd, r.d⟩ ⟨r.fa, r.a⟩ ⟨r.fb, r.b⟩ (r.mod.extractLsb' 14 2)) = Instr.hmul g d a b k)) rfl
  rw [unpackG_packG] <;> dsimp only <;> congr 1 <;> first
    | rfl
    | ((repeat rw [BitVec.extractLsb'_append_eq_of_le (by omega)])
       (try rw [BitVec.extractLsb'_append_eq_of_add_le (by omega)])
       (repeat rw [BitVec.getLsbD_append])
       simp)

theorem hdiv (g : Guard) (d : VS) (a : VS) (b : VS) (k : BitVec 2) : Statement (Instr.hdiv g d a b k) := by
  intro w h wf
  refine decodeWord_ok ?_ wf h
  have h : packG _ = w := Option.some.inj h
  subst h
  unfold candidate
  rw [opcode_packG]
  refine Eq.trans (congrArg some (?_ : (let r := unpackG (packG _); Instr.hdiv r.g ⟨r.fd, r.d⟩ ⟨r.fa, r.a⟩ ⟨r.fb, r.b⟩ (r.mod.extractLsb' 14 2)) = Instr.hdiv g d a b k)) rfl
  rw [unpackG_packG] <;> dsimp only <;> congr 1 <;> first
    | rfl
    | ((repeat rw [BitVec.extractLsb'_append_eq_of_le (by omega)])
       (try rw [BitVec.extractLsb'_append_eq_of_add_le (by omega)])
       (repeat rw [BitVec.getLsbD_append])
       simp)

theorem hneg (g : Guard) (d : VS) (a : VS) (k : BitVec 2) : Statement (Instr.hneg g d a k) := by
  intro w h wf
  refine decodeWord_ok ?_ wf h
  have h : packG _ = w := Option.some.inj h
  subst h
  unfold candidate
  rw [opcode_packG]
  refine Eq.trans (congrArg some (?_ : (let r := unpackG (packG _); Instr.hneg r.g ⟨r.fd, r.d⟩ ⟨r.fa, r.a⟩ (r.mod.extractLsb' 14 2)) = Instr.hneg g d a k)) rfl
  rw [unpackG_packG] <;> dsimp only <;> congr 1 <;> first
    | rfl
    | ((repeat rw [BitVec.extractLsb'_append_eq_of_le (by omega)])
       (try rw [BitVec.extractLsb'_append_eq_of_add_le (by omega)])
       (repeat rw [BitVec.getLsbD_append])
       simp)

theorem hrcp (g : Guard) (d : VS) (a : VS) (k : BitVec 2) : Statement (Instr.hrcp g d a k) := by
  intro w h wf
  refine decodeWord_ok ?_ wf h
  have h : packG _ = w := Option.some.inj h
  subst h
  unfold candidate
  rw [opcode_packG]
  refine Eq.trans (congrArg some (?_ : (let r := unpackG (packG _); Instr.hrcp r.g ⟨r.fd, r.d⟩ ⟨r.fa, r.a⟩ (r.mod.extractLsb' 14 2)) = Instr.hrcp g d a k)) rfl
  rw [unpackG_packG] <;> dsimp only <;> congr 1 <;> first
    | rfl
    | ((repeat rw [BitVec.extractLsb'_append_eq_of_le (by omega)])
       (try rw [BitVec.extractLsb'_append_eq_of_add_le (by omega)])
       (repeat rw [BitVec.getLsbD_append])
       simp)

theorem hsq (g : Guard) (d : VS) (a : VS) (k : BitVec 2) : Statement (Instr.hsq g d a k) := by
  intro w h wf
  refine decodeWord_ok ?_ wf h
  have h : packG _ = w := Option.some.inj h
  subst h
  unfold candidate
  rw [opcode_packG]
  refine Eq.trans (congrArg some (?_ : (let r := unpackG (packG _); Instr.hsq r.g ⟨r.fd, r.d⟩ ⟨r.fa, r.a⟩ (r.mod.extractLsb' 14 2)) = Instr.hsq g d a k)) rfl
  rw [unpackG_packG] <;> dsimp only <;> congr 1 <;> first
    | rfl
    | ((repeat rw [BitVec.extractLsb'_append_eq_of_le (by omega)])
       (try rw [BitVec.extractLsb'_append_eq_of_add_le (by omega)])
       (repeat rw [BitVec.getLsbD_append])
       simp)

theorem huni (g : Guard) (d : VS) (a : VS) (b : VS) : Statement (Instr.huni g d a b) := by
  intro w h wf
  refine decodeWord_ok ?_ wf h
  have h : packG _ = w := Option.some.inj h
  subst h
  unfold candidate
  rw [opcode_packG]
  refine Eq.trans (congrArg some (?_ : (let r := unpackG (packG _); Instr.huni r.g ⟨r.fd, r.d⟩ ⟨r.fa, r.a⟩ ⟨r.fb, r.b⟩) = Instr.huni g d a b)) rfl
  rw [unpackG_packG]

theorem hcap (g : Guard) (d : VS) (a : VS) (b : VS) : Statement (Instr.hcap g d a b) := by
  intro w h wf
  refine decodeWord_ok ?_ wf h
  have h : packG _ = w := Option.some.inj h
  subst h
  unfold candidate
  rw [opcode_packG]
  refine Eq.trans (congrArg some (?_ : (let r := unpackG (packG _); Instr.hcap r.g ⟨r.fd, r.d⟩ ⟨r.fa, r.a⟩ ⟨r.fb, r.b⟩) = Instr.hcap g d a b)) rfl
  rw [unpackG_packG]

theorem hinFlt (g : Guard) (p : BitVec 8) (a : VS) (b : VS) (k : BitVec 2) (f64 : Bool) : Statement (Instr.hinFlt g p a b k f64) := by
  intro w h wf
  refine decodeWord_ok ?_ wf h
  have h : packG _ = w := Option.some.inj h
  subst h
  unfold candidate
  rw [opcode_packG]
  show (if (unpackG (packG _)).mod.getLsbD 0 then some (let r := unpackG (packG _); Instr.hinSub r.g r.d ⟨r.fa, r.a⟩ ⟨r.fb, r.b⟩) else some (let r := unpackG (packG _); Instr.hinFlt r.g r.d ⟨r.fa, r.a⟩ ⟨r.fb, r.b⟩ (r.mod.extractLsb' 14 2) (r.mod.getLsbD 13))) = _
  rw [unpackG_packG]
  dsimp only
  (repeat rw [BitVec.extractLsb'_append_eq_of_le (by omega)])
  (repeat rw [BitVec.getLsbD_append])
  simp

theorem hinSub (g : Guard) (p : BitVec 8) (a : VS) (b : VS) : Statement (Instr.hinSub g p a b) := by
  intro w h wf
  refine decodeWord_ok ?_ wf h
  have h : packG _ = w := Option.some.inj h
  subst h
  unfold candidate
  rw [opcode_packG]
  show (if (unpackG (packG _)).mod.getLsbD 0 then some (let r := unpackG (packG _); Instr.hinSub r.g r.d ⟨r.fa, r.a⟩ ⟨r.fb, r.b⟩) else some (let r := unpackG (packG _); Instr.hinFlt r.g r.d ⟨r.fa, r.a⟩ ⟨r.fb, r.b⟩ (r.mod.extractLsb' 14 2) (r.mod.getLsbD 13))) = _
  rw [unpackG_packG]
  dsimp only
  (repeat rw [BitVec.extractLsb'_append_eq_of_le (by omega)])
  (repeat rw [BitVec.getLsbD_append])
  simp

theorem harc (g : Guard) (d : VS) (a : VS) : Statement (Instr.harc g d a) := by
  intro w h wf
  refine decodeWord_ok ?_ wf h
  have h : packG _ = w := Option.some.inj h
  subst h
  unfold candidate
  rw [opcode_packG]
  refine Eq.trans (congrArg some (?_ : (let r := unpackG (packG _); Instr.harc r.g ⟨r.fd, r.d⟩ ⟨r.fa, r.a⟩) = Instr.harc g d a)) rfl
  rw [unpackG_packG]

theorem hexp (g : Guard) (d : VS) (a : VS) : Statement (Instr.hexp g d a) := by
  intro w h wf
  refine decodeWord_ok ?_ wf h
  have h : packG _ = w := Option.some.inj h
  subst h
  unfold candidate
  rw [opcode_packG]
  refine Eq.trans (congrArg some (?_ : (let r := unpackG (packG _); Instr.hexp r.g ⟨r.fd, r.d⟩ ⟨r.fa, r.a⟩) = Instr.hexp g d a)) rfl
  rw [unpackG_packG]

theorem hcnt (g : Guard) (d : VS) (a : VS) (runs : Bool) : Statement (Instr.hcnt g d a runs) := by
  intro w h wf
  refine decodeWord_ok ?_ wf h
  have h : packG _ = w := Option.some.inj h
  subst h
  unfold candidate
  rw [opcode_packG]
  refine Eq.trans (congrArg some (?_ : (let r := unpackG (packG _); Instr.hcnt r.g ⟨r.fd, r.d⟩ ⟨r.fa, r.a⟩ (r.mod.getLsbD 0)) = Instr.hcnt g d a runs)) rfl
  rw [unpackG_packG] <;> dsimp only <;> congr 1 <;> first
    | rfl
    | ((repeat rw [BitVec.extractLsb'_append_eq_of_le (by omega)])
       (try rw [BitVec.extractLsb'_append_eq_of_add_le (by omega)])
       (repeat rw [BitVec.getLsbD_append])
       simp)

theorem ld (g : Guard) (data : BitVec 8) (base : BitVec 8) (idx : BitVec 8) (form : BitVec 2) (width : BitVec 4) (nl1 : BitVec 2) (ofs : BitVec 14) : Statement (Instr.ld g data base idx form width nl1 ofs) := by
  intro w h wf
  refine decodeWord_ok ?_ wf h
  have h : packM _ = w := Option.some.inj h
  subst h
  unfold candidate
  rw [opcode_packM]
  refine Eq.trans (congrArg some (?_ : (let r := unpackM (packM _); Instr.ld r.g r.data r.base r.idx r.form r.width (r.mod.extractLsb' 6 2) r.ofs) = Instr.ld g data base idx form width nl1 ofs)) rfl
  rw [unpackM_packM] <;> dsimp only <;> congr 1 <;> first
    | rfl
    | ((repeat rw [BitVec.extractLsb'_append_eq_of_le (by omega)])
       (try rw [BitVec.extractLsb'_append_eq_of_add_le (by omega)])
       (repeat rw [BitVec.getLsbD_append])
       simp)

theorem st (g : Guard) (data : BitVec 8) (base : BitVec 8) (idx : BitVec 8) (form : BitVec 2) (width : BitVec 4) (nl1 : BitVec 2) (ofs : BitVec 14) : Statement (Instr.st g data base idx form width nl1 ofs) := by
  intro w h wf
  refine decodeWord_ok ?_ wf h
  have h : packM _ = w := Option.some.inj h
  subst h
  unfold candidate
  rw [opcode_packM]
  refine Eq.trans (congrArg some (?_ : (let r := unpackM (packM _); Instr.st r.g r.data r.base r.idx r.form r.width (r.mod.extractLsb' 6 2) r.ofs) = Instr.st g data base idx form width nl1 ofs)) rfl
  rw [unpackM_packM] <;> dsimp only <;> congr 1 <;> first
    | rfl
    | ((repeat rw [BitVec.extractLsb'_append_eq_of_le (by omega)])
       (try rw [BitVec.extractLsb'_append_eq_of_add_le (by omega)])
       (repeat rw [BitVec.getLsbD_append])
       simp)

theorem lds (g : Guard) (data : BitVec 8) (base : BitVec 8) (form : BitVec 2) (width : BitVec 4) (ofs : BitVec 14) : Statement (Instr.lds g data base form width ofs) := by
  intro w h wf
  refine decodeWord_ok ?_ wf h
  have h : packM _ = w := Option.some.inj h
  subst h
  unfold candidate
  rw [opcode_packM]
  refine Eq.trans (congrArg some (?_ : (let r := unpackM (packM _); Instr.lds r.g r.data r.base r.form r.width r.ofs) = Instr.lds g data base form width ofs)) rfl
  rw [unpackM_packM]

theorem sts (g : Guard) (data : BitVec 8) (base : BitVec 8) (form : BitVec 2) (width : BitVec 4) (ofs : BitVec 14) : Statement (Instr.sts g data base form width ofs) := by
  intro w h wf
  refine decodeWord_ok ?_ wf h
  have h : packM _ = w := Option.some.inj h
  subst h
  unfold candidate
  rw [opcode_packM]
  refine Eq.trans (congrArg some (?_ : (let r := unpackM (packM _); Instr.sts r.g r.data r.base r.form r.width r.ofs) = Instr.sts g data base form width ofs)) rfl
  rw [unpackM_packM]

theorem ldp (g : Guard) (data : BitVec 8) (base : BitVec 8) (form : BitVec 2) (ofs : BitVec 14) : Statement (Instr.ldp g data base form ofs) := by
  intro w h wf
  refine decodeWord_ok ?_ wf h
  have h : packM _ = w := Option.some.inj h
  subst h
  unfold candidate
  rw [opcode_packM]
  refine Eq.trans (congrArg some (?_ : (let r := unpackM (packM _); Instr.ldp r.g r.data r.base r.form r.ofs) = Instr.ldp g data base form ofs)) rfl
  rw [unpackM_packM]

theorem stp (g : Guard) (data : BitVec 8) (base : BitVec 8) (form : BitVec 2) (ofs : BitVec 14) : Statement (Instr.stp g data base form ofs) := by
  intro w h wf
  refine decodeWord_ok ?_ wf h
  have h : packM _ = w := Option.some.inj h
  subst h
  unfold candidate
  rw [opcode_packM]
  refine Eq.trans (congrArg some (?_ : (let r := unpackM (packM _); Instr.stp r.g r.data r.base r.form r.ofs) = Instr.stp g data base form ofs)) rfl
  rw [unpackM_packM]

theorem ldk (g : Guard) (data : BitVec 8) (base : BitVec 8) (width : BitVec 4) (ofs : BitVec 14) : Statement (Instr.ldk g data base width ofs) := by
  intro w h wf
  refine decodeWord_ok ?_ wf h
  have h : packM _ = w := Option.some.inj h
  subst h
  unfold candidate
  rw [opcode_packM]
  refine Eq.trans (congrArg some (?_ : (let r := unpackM (packM _); Instr.ldk r.g r.data r.base r.width r.ofs) = Instr.ldk g data base width ofs)) rfl
  rw [unpackM_packM]

theorem atom (g : Guard) (dst : BitVec 8) (base : BitVec 8) (opd : BitVec 8) (cmp : BitVec 8) (form : BitVec 2) (aop : BitVec 4) (scope : BitVec 3) (w64 : Bool) (ofs : BitVec 10) : Statement (Instr.atom g dst base opd cmp form aop scope w64 ofs) := by
  intro w h wf
  refine decodeWord_ok ?_ wf h
  have h : packA _ = w := Option.some.inj h
  subst h
  unfold candidate
  rw [opcode_packA]
  refine Eq.trans (congrArg some (?_ : (let r := unpackA (packA _); Instr.atom r.g r.dst r.base r.opd r.cmp r.form r.aop r.scope r.w64 r.ofs) = Instr.atom g dst base opd cmp form aop scope w64 ofs)) rfl
  rw [unpackA_packA]

theorem atoms (g : Guard) (dst : BitVec 8) (base : BitVec 8) (opd : BitVec 8) (cmp : BitVec 8) (form : BitVec 2) (aop : BitVec 4) (scope : BitVec 3) (w64 : Bool) (ofs : BitVec 10) : Statement (Instr.atoms g dst base opd cmp form aop scope w64 ofs) := by
  intro w h wf
  refine decodeWord_ok ?_ wf h
  have h : packA _ = w := Option.some.inj h
  subst h
  unfold candidate
  rw [opcode_packA]
  refine Eq.trans (congrArg some (?_ : (let r := unpackA (packA _); Instr.atoms r.g r.dst r.base r.opd r.cmp r.form r.aop r.scope r.w64 r.ofs) = Instr.atoms g dst base opd cmp form aop scope w64 ofs)) rfl
  rw [unpackA_packA]

theorem pref (g : Guard) (base : BitVec 8) (idx : BitVec 8) (form : BitVec 2) (llc : BitVec 2) (ofs : BitVec 14) : Statement (Instr.pref g base idx form llc ofs) := by
  intro w h wf
  refine decodeWord_ok ?_ wf h
  have h : packM _ = w := Option.some.inj h
  subst h
  unfold candidate
  rw [opcode_packM]
  refine Eq.trans (congrArg some (?_ : (let r := unpackM (packM _); Instr.pref r.g r.base r.idx r.form (r.mod.extractLsb' 6 2) r.ofs) = Instr.pref g base idx form llc ofs)) rfl
  rw [unpackM_packM] <;> dsimp only <;> congr 1 <;> first
    | rfl
    | ((repeat rw [BitVec.extractLsb'_append_eq_of_le (by omega)])
       (try rw [BitVec.extractLsb'_append_eq_of_add_le (by omega)])
       (repeat rw [BitVec.getLsbD_append])
       simp)

theorem xlat (g : Guard) (d : VS) (a : VS) : Statement (Instr.xlat g d a) := by
  intro w h wf
  refine decodeWord_ok ?_ wf h
  have h : packG _ = w := Option.some.inj h
  subst h
  unfold candidate
  rw [opcode_packG]
  refine Eq.trans (congrArg some (?_ : (let r := unpackG (packG _); Instr.xlat r.g ⟨r.fd, r.d⟩ ⟨r.fa, r.a⟩) = Instr.xlat g d a)) rfl
  rw [unpackG_packG]

theorem xacq (g : Guard) (sd : BitVec 8) (sa : BitVec 8) (tr : Bool) : Statement (Instr.xacq g sd sa tr) := by
  intro w h wf
  refine decodeWord_ok ?_ wf h
  have h : packG _ = w := Option.some.inj h
  subst h
  unfold candidate
  rw [opcode_packG]
  refine Eq.trans (congrArg some (?_ : (let r := unpackG (packG _); Instr.xacq r.g r.d r.a (r.mod.getLsbD 0)) = Instr.xacq g sd sa tr)) rfl
  rw [unpackG_packG] <;> dsimp only <;> congr 1 <;> first
    | rfl
    | ((repeat rw [BitVec.extractLsb'_append_eq_of_le (by omega)])
       (try rw [BitVec.extractLsb'_append_eq_of_add_le (by omega)])
       (repeat rw [BitVec.getLsbD_append])
       simp)

theorem xrel (g : Guard) (sa : BitVec 8) : Statement (Instr.xrel g sa) := by
  intro w h wf
  refine decodeWord_ok ?_ wf h
  have h : packG _ = w := Option.some.inj h
  subst h
  unfold candidate
  rw [opcode_packG]
  refine Eq.trans (congrArg some (?_ : (let r := unpackG (packG _); Instr.xrel r.g r.a) = Instr.xrel g sa)) rfl
  rw [unpackG_packG]

theorem fence (g : Guard) (scope : BitVec 3) : Statement (Instr.fence g scope) := by
  intro w h wf
  refine decodeWord_ok ?_ wf h
  have h : packG _ = w := Option.some.inj h
  subst h
  unfold candidate
  rw [opcode_packG]
  refine Eq.trans (congrArg some (?_ : (let r := unpackG (packG _); Instr.fence r.g (r.mod.extractLsb' 0 3)) = Instr.fence g scope)) rfl
  rw [unpackG_packG] <;> dsimp only <;> congr 1 <;> first
    | rfl
    | ((repeat rw [BitVec.extractLsb'_append_eq_of_le (by omega)])
       (try rw [BitVec.extractLsb'_append_eq_of_add_le (by omega)])
       (repeat rw [BitVec.getLsbD_append])
       simp)

theorem rel (g : Guard) (scope : BitVec 3) : Statement (Instr.rel g scope) := by
  intro w h wf
  refine decodeWord_ok ?_ wf h
  have h : packG _ = w := Option.some.inj h
  subst h
  unfold candidate
  rw [opcode_packG]
  refine Eq.trans (congrArg some (?_ : (let r := unpackG (packG _); Instr.rel r.g (r.mod.extractLsb' 0 3)) = Instr.rel g scope)) rfl
  rw [unpackG_packG] <;> dsimp only <;> congr 1 <;> first
    | rfl
    | ((repeat rw [BitVec.extractLsb'_append_eq_of_le (by omega)])
       (try rw [BitVec.extractLsb'_append_eq_of_add_le (by omega)])
       (repeat rw [BitVec.getLsbD_append])
       simp)

theorem acq (g : Guard) (scope : BitVec 3) : Statement (Instr.acq g scope) := by
  intro w h wf
  refine decodeWord_ok ?_ wf h
  have h : packG _ = w := Option.some.inj h
  subst h
  unfold candidate
  rw [opcode_packG]
  refine Eq.trans (congrArg some (?_ : (let r := unpackG (packG _); Instr.acq r.g (r.mod.extractLsb' 0 3)) = Instr.acq g scope)) rfl
  rw [unpackG_packG] <;> dsimp only <;> congr 1 <;> first
    | rfl
    | ((repeat rw [BitVec.extractLsb'_append_eq_of_le (by omega)])
       (try rw [BitVec.extractLsb'_append_eq_of_add_le (by omega)])
       (repeat rw [BitVec.getLsbD_append])
       simp)

theorem bar (g : Guard) (a : VS) (n : BitVec 4) (sync : Bool) (cnt : Bool) : Statement (Instr.bar g a n sync cnt) := by
  intro w h wf
  refine decodeWord_ok ?_ wf h
  have h : packG _ = w := Option.some.inj h
  subst h
  unfold candidate
  rw [opcode_packG]
  refine Eq.trans (congrArg some (?_ : (let r := unpackG (packG _); Instr.bar r.g ⟨r.fa, r.a⟩ (r.mod.extractLsb' 0 4) (r.mod.getLsbD 4) (r.mod.getLsbD 5)) = Instr.bar g a n sync cnt)) rfl
  rw [unpackG_packG] <;> dsimp only <;> congr 1 <;> first
    | rfl
    | ((repeat rw [BitVec.extractLsb'_append_eq_of_le (by omega)])
       (try rw [BitVec.extractLsb'_append_eq_of_add_le (by omega)])
       (repeat rw [BitVec.getLsbD_append])
       simp)

theorem boinit (g : Guard) (sa : BitVec 8) (b : VS) (inv : Bool) : Statement (Instr.boinit g sa b inv) := by
  intro w h wf
  refine decodeWord_ok ?_ wf h
  have h : packG _ = w := Option.some.inj h
  subst h
  unfold candidate
  rw [opcode_packG]
  refine Eq.trans (congrArg some (?_ : (let r := unpackG (packG _); Instr.boinit r.g r.a ⟨r.fb, r.b⟩ (r.mod.getLsbD 0)) = Instr.boinit g sa b inv)) rfl
  rw [unpackG_packG] <;> dsimp only <;> congr 1 <;> first
    | rfl
    | ((repeat rw [BitVec.extractLsb'_append_eq_of_le (by omega)])
       (try rw [BitVec.extractLsb'_append_eq_of_add_le (by omega)])
       (repeat rw [BitVec.getLsbD_append])
       simp)

theorem boarr (g : Guard) (sd : BitVec 8) (sa : BitVec 8) (b : VS) (tx : Bool) : Statement (Instr.boarr g sd sa b tx) := by
  intro w h wf
  refine decodeWord_ok ?_ wf h
  have h : packG _ = w := Option.some.inj h
  subst h
  unfold candidate
  rw [opcode_packG]
  refine Eq.trans (congrArg some (?_ : (let r := unpackG (packG _); Instr.boarr r.g r.d r.a ⟨r.fb, r.b⟩ (r.mod.getLsbD 0)) = Instr.boarr g sd sa b tx)) rfl
  rw [unpackG_packG] <;> dsimp only <;> congr 1 <;> first
    | rfl
    | ((repeat rw [BitVec.extractLsb'_append_eq_of_le (by omega)])
       (try rw [BitVec.extractLsb'_append_eq_of_add_le (by omega)])
       (repeat rw [BitVec.getLsbD_append])
       simp)

theorem bowait (g : Guard) (sa : BitVec 8) (sb : BitVec 8) : Statement (Instr.bowait g sa sb) := by
  intro w h wf
  refine decodeWord_ok ?_ wf h
  have h : packG _ = w := Option.some.inj h
  subst h
  unfold candidate
  rw [opcode_packG]
  refine Eq.trans (congrArg some (?_ : (let r := unpackG (packG _); Instr.bowait r.g r.a r.b) = Instr.bowait g sa sb)) rfl
  rw [unpackG_packG]

theorem botry (g : Guard) (sd : BitVec 8) (sa : BitVec 8) (sb : BitVec 8) : Statement (Instr.botry g sd sa sb) := by
  intro w h wf
  refine decodeWord_ok ?_ wf h
  have h : packG _ = w := Option.some.inj h
  subst h
  unfold candidate
  rw [opcode_packG]
  refine Eq.trans (congrArg some (?_ : (let r := unpackG (packG _); Instr.botry r.g r.d r.a r.b) = Instr.botry g sd sa sb)) rfl
  rw [unpackG_packG]

theorem fwait (g : Guard) (sd : BitVec 8) (sa : BitVec 8) (sb : BitVec 8) (sc : BitVec 8) (cc : BitVec 4) (slice : Bool) : Statement (Instr.fwait g sd sa sb sc cc slice) := by
  intro w h wf
  refine decodeWord_ok ?_ wf h
  have h : packG _ = w := Option.some.inj h
  subst h
  unfold candidate
  rw [opcode_packG]
  refine Eq.trans (congrArg some (?_ : (let r := unpackG (packG _); Instr.fwait r.g r.d r.a r.b r.c (r.mod.extractLsb' 0 4) (r.mod.getLsbD 4)) = Instr.fwait g sd sa sb sc cc slice)) rfl
  rw [unpackG_packG] <;> dsimp only <;> congr 1 <;> first
    | rfl
    | ((repeat rw [BitVec.extractLsb'_append_eq_of_le (by omega)])
       (try rw [BitVec.extractLsb'_append_eq_of_add_le (by omega)])
       (repeat rw [BitVec.getLsbD_append])
       simp)

theorem dtime (g : Guard) (sd : BitVec 8) (ord : Bool) : Statement (Instr.dtime g sd ord) := by
  intro w h wf
  refine decodeWord_ok ?_ wf h
  have h : packG _ = w := Option.some.inj h
  subst h
  unfold candidate
  rw [opcode_packG]
  refine Eq.trans (congrArg some (?_ : (let r := unpackG (packG _); Instr.dtime r.g r.d (r.mod.getLsbD 0)) = Instr.dtime g sd ord)) rfl
  rw [unpackG_packG] <;> dsimp only <;> congr 1 <;> first
    | rfl
    | ((repeat rw [BitVec.extractLsb'_append_eq_of_le (by omega)])
       (try rw [BitVec.extractLsb'_append_eq_of_add_le (by omega)])
       (repeat rw [BitVec.getLsbD_append])
       simp)

theorem wct (g : Guard) (sd : BitVec 8) : Statement (Instr.wct g sd) := by
  intro w h wf
  refine decodeWord_ok ?_ wf h
  have h : packG _ = w := Option.some.inj h
  subst h
  unfold candidate
  rw [opcode_packG]
  refine Eq.trans (congrArg some (?_ : (let r := unpackG (packG _); Instr.wct r.g r.d) = Instr.wct g sd)) rfl
  rw [unpackG_packG]

theorem acopy (g : Guard) (sd : BitVec 8) (sa : BitVec 8) (sb : BitVec 8) (sc : BitVec 8) (sp : BitVec 2) : Statement (Instr.acopy g sd sa sb sc sp) := by
  intro w h wf
  refine decodeWord_ok ?_ wf h
  have h : packG _ = w := Option.some.inj h
  subst h
  unfold candidate
  rw [opcode_packG]
  refine Eq.trans (congrArg some (?_ : (let r := unpackG (packG _); Instr.acopy r.g r.d r.a r.b r.c (r.mod.extractLsb' 0 2)) = Instr.acopy g sd sa sb sc sp)) rfl
  rw [unpackG_packG] <;> dsimp only <;> congr 1 <;> first
    | rfl
    | ((repeat rw [BitVec.extractLsb'_append_eq_of_le (by omega)])
       (try rw [BitVec.extractLsb'_append_eq_of_add_le (by omega)])
       (repeat rw [BitVec.getLsbD_append])
       simp)

theorem acopyt (g : Guard) (sd : BitVec 8) (sa : BitVec 8) (sb : BitVec 8) (sc : BitVec 8) (sp : BitVec 2) : Statement (Instr.acopyt g sd sa sb sc sp) := by
  intro w h wf
  refine decodeWord_ok ?_ wf h
  have h : packG _ = w := Option.some.inj h
  subst h
  unfold candidate
  rw [opcode_packG]
  refine Eq.trans (congrArg some (?_ : (let r := unpackG (packG _); Instr.acopyt r.g r.d r.a r.b r.c (r.mod.extractLsb' 0 2)) = Instr.acopyt g sd sa sb sc sp)) rfl
  rw [unpackG_packG] <;> dsimp only <;> congr 1 <;> first
    | rfl
    | ((repeat rw [BitVec.extractLsb'_append_eq_of_le (by omega)])
       (try rw [BitVec.extractLsb'_append_eq_of_add_le (by omega)])
       (repeat rw [BitVec.getLsbD_append])
       simp)

theorem asto (g : Guard) (sd : BitVec 8) (sa : BitVec 8) (vb : BitVec 8) (sc : BitVec 8) : Statement (Instr.asto g sd sa vb sc) := by
  intro w h wf
  refine decodeWord_ok ?_ wf h
  have h : packG _ = w := Option.some.inj h
  subst h
  unfold candidate
  rw [opcode_packG]
  refine Eq.trans (congrArg some (?_ : (let r := unpackG (packG _); Instr.asto r.g r.d r.a r.b r.c) = Instr.asto g sd sa vb sc)) rfl
  rw [unpackG_packG]

theorem kick (g : Guard) (sa : BitVec 8) (sb : BitVec 8) : Statement (Instr.kick g sa sb) := by
  intro w h wf
  refine decodeWord_ok ?_ wf h
  have h : packG _ = w := Option.some.inj h
  subst h
  unfold candidate
  rw [opcode_packG]
  refine Eq.trans (congrArg some (?_ : (let r := unpackG (packG _); Instr.kick r.g r.a r.b) = Instr.kick g sa sb)) rfl
  rw [unpackG_packG]

theorem kstat (g : Guard) (sd : BitVec 8) (clr : Bool) : Statement (Instr.kstat g sd clr) := by
  intro w h wf
  refine decodeWord_ok ?_ wf h
  have h : packG _ = w := Option.some.inj h
  subst h
  unfold candidate
  rw [opcode_packG]
  refine Eq.trans (congrArg some (?_ : (let r := unpackG (packG _); Instr.kstat r.g r.d (r.mod.getLsbD 0)) = Instr.kstat g sd clr)) rfl
  rw [unpackG_packG] <;> dsimp only <;> congr 1 <;> first
    | rfl
    | ((repeat rw [BitVec.extractLsb'_append_eq_of_le (by omega)])
       (try rw [BitVec.extractLsb'_append_eq_of_add_le (by omega)])
       (repeat rw [BitVec.getLsbD_append])
       simp)

theorem ghnd (g : Guard) (sd : BitVec 8) (sa : BitVec 8) : Statement (Instr.ghnd g sd sa) := by
  intro w h wf
  refine decodeWord_ok ?_ wf h
  have h : packG _ = w := Option.some.inj h
  subst h
  unfold candidate
  rw [opcode_packG]
  show (if (unpackG (packG _)).mod.getLsbD 0 then some (let r := unpackG (packG _); Instr.ghndFree r.g r.a) else some (let r := unpackG (packG _); Instr.ghnd r.g r.d r.a)) = _
  rw [unpackG_packG]
  dsimp only
  (repeat rw [BitVec.extractLsb'_append_eq_of_le (by omega)])
  (repeat rw [BitVec.getLsbD_append])
  simp

theorem ghndFree (g : Guard) (sa : BitVec 8) : Statement (Instr.ghndFree g sa) := by
  intro w h wf
  refine decodeWord_ok ?_ wf h
  have h : packG _ = w := Option.some.inj h
  subst h
  unfold candidate
  rw [opcode_packG]
  show (if (unpackG (packG _)).mod.getLsbD 0 then some (let r := unpackG (packG _); Instr.ghndFree r.g r.a) else some (let r := unpackG (packG _); Instr.ghnd r.g r.d r.a)) = _
  rw [unpackG_packG]
  dsimp only
  (repeat rw [BitVec.extractLsb'_append_eq_of_le (by omega)])
  (repeat rw [BitVec.getLsbD_append])
  simp

theorem gath (g : Guard) (d : BitVec 8) (sa : BitVec 8) (vb : BitVec 8) (c : VS) (nf : Bool) (bs : Bool) : Statement (Instr.gath g d sa vb c nf bs) := by
  intro w h wf
  refine decodeWord_ok ?_ wf h
  have h : packG _ = w := Option.some.inj h
  subst h
  unfold candidate
  rw [opcode_packG]
  refine Eq.trans (congrArg some (?_ : (let r := unpackG (packG _); Instr.gath r.g r.d r.a r.b ⟨r.fc, r.c⟩ (r.mod.getLsbD 0) (r.mod.getLsbD 1)) = Instr.gath g d sa vb c nf bs)) rfl
  rw [unpackG_packG] <;> dsimp only <;> congr 1 <;> first
    | rfl
    | ((repeat rw [BitVec.extractLsb'_append_eq_of_le (by omega)])
       (try rw [BitVec.extractLsb'_append_eq_of_add_le (by omega)])
       (repeat rw [BitVec.getLsbD_append])
       simp)

theorem scat (g : Guard) (sa : BitVec 8) (vb : BitVec 8) (vc : BitVec 8) (nf : Bool) : Statement (Instr.scat g sa vb vc nf) := by
  intro w h wf
  refine decodeWord_ok ?_ wf h
  have h : packG _ = w := Option.some.inj h
  subst h
  unfold candidate
  rw [opcode_packG]
  refine Eq.trans (congrArg some (?_ : (let r := unpackG (packG _); Instr.scat r.g r.a r.b r.c (r.mod.getLsbD 0)) = Instr.scat g sa vb vc nf)) rfl
  rw [unpackG_packG] <;> dsimp only <;> congr 1 <;> first
    | rfl
    | ((repeat rw [BitVec.extractLsb'_append_eq_of_le (by omega)])
       (try rw [BitVec.extractLsb'_append_eq_of_add_le (by omega)])
       (repeat rw [BitVec.getLsbD_append])
       simp)

theorem gcmr (g : Guard) (sd : BitVec 8) (code : Bool) : Statement (Instr.gcmr g sd code) := by
  intro w h wf
  refine decodeWord_ok ?_ wf h
  have h : packG _ = w := Option.some.inj h
  subst h
  unfold candidate
  rw [opcode_packG]
  refine Eq.trans (congrArg some (?_ : (let r := unpackG (packG _); Instr.gcmr r.g r.d (r.mod.getLsbD 0)) = Instr.gcmr g sd code)) rfl
  rw [unpackG_packG] <;> dsimp only <;> congr 1 <;> first
    | rfl
    | ((repeat rw [BitVec.extractLsb'_append_eq_of_le (by omega)])
       (try rw [BitVec.extractLsb'_append_eq_of_add_le (by omega)])
       (repeat rw [BitVec.getLsbD_append])
       simp)

theorem gcmw (g : Guard) (sa : BitVec 8) : Statement (Instr.gcmw g sa) := by
  intro w h wf
  refine decodeWord_ok ?_ wf h
  have h : packG _ = w := Option.some.inj h
  subst h
  unfold candidate
  rw [opcode_packG]
  refine Eq.trans (congrArg some (?_ : (let r := unpackG (packG _); Instr.gcmw r.g r.a) = Instr.gcmw g sa)) rfl
  rw [unpackG_packG]

theorem mbq (g : Guard) (vq : BitVec 8) (sa : BitVec 8) : Statement (Instr.mbq g vq sa) := by
  intro w h wf
  refine decodeWord_ok ?_ wf h
  have h : packG _ = w := Option.some.inj h
  subst h
  unfold candidate
  rw [opcode_packG]
  refine Eq.trans (congrArg some (?_ : (let r := unpackG (packG _); Instr.mbq r.g r.d r.a) = Instr.mbq g vq sa)) rfl
  rw [unpackG_packG]

theorem mloop (g : Guard) (m : BitVec 8) (sa : BitVec 8) (sb : BitVec 8) (sc : BitVec 8) (ta : BitVec 3) (tb : BitVec 3) (msk : Bool) : Statement (Instr.mloop g m sa sb sc ta tb msk) := by
  intro w h wf
  refine decodeWord_ok ?_ wf h
  have h : packG _ = w := Option.some.inj h
  subst h
  unfold candidate
  rw [opcode_packG]
  refine Eq.trans (congrArg some (?_ : (let r := unpackG (packG _); Instr.mloop r.g r.d r.a r.b r.c (r.mod.extractLsb' 13 3) (r.mod.extractLsb' 10 3) (r.mod.getLsbD 9)) = Instr.mloop g m sa sb sc ta tb msk)) rfl
  rw [unpackG_packG] <;> dsimp only <;> congr 1 <;> first
    | rfl
    | ((repeat rw [BitVec.extractLsb'_append_eq_of_le (by omega)])
       (try rw [BitVec.extractLsb'_append_eq_of_add_le (by omega)])
       (repeat rw [BitVec.getLsbD_append])
       simp)

theorem mma (g : Guard) (m : BitVec 8) (va : BitVec 8) (ta : BitVec 3) (tb : BitVec 3) : Statement (Instr.mma g m va ta tb) := by
  intro w h wf
  refine decodeWord_ok ?_ wf h
  have h : packG _ = w := Option.some.inj h
  subst h
  unfold candidate
  rw [opcode_packG]
  refine Eq.trans (congrArg some (?_ : (let r := unpackG (packG _); Instr.mma r.g r.d r.a (r.mod.extractLsb' 13 3) (r.mod.extractLsb' 10 3)) = Instr.mma g m va ta tb)) rfl
  rw [unpackG_packG] <;> dsimp only <;> congr 1 <;> first
    | rfl
    | ((repeat rw [BitVec.extractLsb'_append_eq_of_le (by omega)])
       (try rw [BitVec.extractLsb'_append_eq_of_add_le (by omega)])
       (repeat rw [BitVec.getLsbD_append])
       simp)

theorem mzero (g : Guard) (m : BitVec 8) (f64 : Bool) : Statement (Instr.mzero g m f64) := by
  intro w h wf
  refine decodeWord_ok ?_ wf h
  have h : packG _ = w := Option.some.inj h
  subst h
  unfold candidate
  rw [opcode_packG]
  refine Eq.trans (congrArg some (?_ : (let r := unpackG (packG _); Instr.mzero r.g r.d (r.mod.getLsbD 0)) = Instr.mzero g m f64)) rfl
  rw [unpackG_packG] <;> dsimp only <;> congr 1 <;> first
    | rfl
    | ((repeat rw [BitVec.extractLsb'_append_eq_of_le (by omega)])
       (try rw [BitVec.extractLsb'_append_eq_of_add_le (by omega)])
       (repeat rw [BitVec.getLsbD_append])
       simp)

theorem mdrain (g : Guard) (d : BitVec 8) (m : BitVec 8) (sb : BitVec 8) (bf16 : Bool) (rel : Bool) : Statement (Instr.mdrain g d m sb bf16 rel) := by
  intro w h wf
  refine decodeWord_ok ?_ wf h
  have h : packG _ = w := Option.some.inj h
  subst h
  unfold candidate
  rw [opcode_packG]
  show (if (unpackG (packG _)).fd then some (let r := unpackG (packG _); Instr.mdrainS r.g r.d r.a r.b (r.mod.getLsbD 0) (r.mod.getLsbD 1)) else some (let r := unpackG (packG _); Instr.mdrain r.g r.d r.a r.b (r.mod.getLsbD 0) (r.mod.getLsbD 1))) = _
  rw [unpackG_packG]
  dsimp only
  (repeat rw [BitVec.extractLsb'_append_eq_of_le (by omega)])
  (repeat rw [BitVec.getLsbD_append])
  simp

theorem mdrainS (g : Guard) (sd : BitVec 8) (m : BitVec 8) (sb : BitVec 8) (bf16 : Bool) (rel : Bool) : Statement (Instr.mdrainS g sd m sb bf16 rel) := by
  intro w h wf
  refine decodeWord_ok ?_ wf h
  have h : packG _ = w := Option.some.inj h
  subst h
  unfold candidate
  rw [opcode_packG]
  show (if (unpackG (packG _)).fd then some (let r := unpackG (packG _); Instr.mdrainS r.g r.d r.a r.b (r.mod.getLsbD 0) (r.mod.getLsbD 1)) else some (let r := unpackG (packG _); Instr.mdrain r.g r.d r.a r.b (r.mod.getLsbD 0) (r.mod.getLsbD 1))) = _
  rw [unpackG_packG]
  dsimp only
  (repeat rw [BitVec.extractLsb'_append_eq_of_le (by omega)])
  (repeat rw [BitVec.getLsbD_append])
  simp

theorem mdrainc (g : Guard) (m : BitVec 8) (sb : BitVec 8) (sc : BitVec 8) (rel : Bool) : Statement (Instr.mdrainc g m sb sc rel) := by
  intro w h wf
  refine decodeWord_ok ?_ wf h
  have h : packG _ = w := Option.some.inj h
  subst h
  unfold candidate
  rw [opcode_packG]
  refine Eq.trans (congrArg some (?_ : (let r := unpackG (packG _); Instr.mdrainc r.g r.a r.b r.c (r.mod.getLsbD 1)) = Instr.mdrainc g m sb sc rel)) rfl
  rw [unpackG_packG] <;> dsimp only <;> congr 1 <;> first
    | rfl
    | ((repeat rw [BitVec.extractLsb'_append_eq_of_le (by omega)])
       (try rw [BitVec.extractLsb'_append_eq_of_add_le (by omega)])
       (repeat rw [BitVec.getLsbD_append])
       simp)

theorem mguide (g : Guard) (d : VS) (m : BitVec 8) (sb : BitVec 8) (sc : BitVec 8) (bf16 : Bool) (rel : Bool) : Statement (Instr.mguide g d m sb sc bf16 rel) := by
  intro w h wf
  refine decodeWord_ok ?_ wf h
  have h : packG _ = w := Option.some.inj h
  subst h
  unfold candidate
  rw [opcode_packG]
  refine Eq.trans (congrArg some (?_ : (let r := unpackG (packG _); Instr.mguide r.g ⟨r.fd, r.d⟩ r.a r.b r.c (r.mod.getLsbD 0) (r.mod.getLsbD 1)) = Instr.mguide g d m sb sc bf16 rel)) rfl
  rw [unpackG_packG] <;> dsimp only <;> congr 1 <;> first
    | rfl
    | ((repeat rw [BitVec.extractLsb'_append_eq_of_le (by omega)])
       (try rw [BitVec.extractLsb'_append_eq_of_add_le (by omega)])
       (repeat rw [BitVec.getLsbD_append])
       simp)

theorem mtwin (g : Guard) : Statement (Instr.mtwin g) := by
  intro w h wf
  refine decodeWord_ok ?_ wf h
  have h : packG _ = w := Option.some.inj h
  subst h
  unfold candidate
  rw [opcode_packG]
  refine Eq.trans (congrArg some (?_ : (let r := unpackG (packG _); Instr.mtwin r.g) = Instr.mtwin g)) rfl
  rw [unpackG_packG]

theorem msketch (g : Guard) (sd : BitVec 8) (t : BitVec 8) (sb : BitVec 8) (sc : BitVec 8) : Statement (Instr.msketch g sd t sb sc) := by
  intro w h wf
  refine decodeWord_ok ?_ wf h
  have h : packG _ = w := Option.some.inj h
  subst h
  unfold candidate
  rw [opcode_packG]
  refine Eq.trans (congrArg some (?_ : (let r := unpackG (packG _); Instr.msketch r.g r.d r.a r.b r.c) = Instr.msketch g sd t sb sc)) rfl
  rw [unpackG_packG]

theorem mmask (g : Guard) (sa : BitVec 8) (sb : BitVec 8) : Statement (Instr.mmask g sa sb) := by
  intro w h wf
  refine decodeWord_ok ?_ wf h
  have h : packG _ = w := Option.some.inj h
  subst h
  unfold candidate
  rw [opcode_packG]
  refine Eq.trans (congrArg some (?_ : (let r := unpackG (packG _); Instr.mmask r.g r.a r.b) = Instr.mmask g sa sb)) rfl
  rw [unpackG_packG]

theorem mstat (g : Guard) (sd : BitVec 8) (m : BitVec 8) (clr : Bool) : Statement (Instr.mstat g sd m clr) := by
  intro w h wf
  refine decodeWord_ok ?_ wf h
  have h : packG _ = w := Option.some.inj h
  subst h
  unfold candidate
  rw [opcode_packG]
  refine Eq.trans (congrArg some (?_ : (let r := unpackG (packG _); Instr.mstat r.g r.d r.a (r.mod.getLsbD 0)) = Instr.mstat g sd m clr)) rfl
  rw [unpackG_packG] <;> dsimp only <;> congr 1 <;> first
    | rfl
    | ((repeat rw [BitVec.extractLsb'_append_eq_of_le (by omega)])
       (try rw [BitVec.extractLsb'_append_eq_of_add_le (by omega)])
       (repeat rw [BitVec.getLsbD_append])
       simp)

theorem msave (g : Guard) (sa : BitVec 8) (m : BitVec 8) (rel : Bool) : Statement (Instr.msave g sa m rel) := by
  intro w h wf
  refine decodeWord_ok ?_ wf h
  have h : packG _ = w := Option.some.inj h
  subst h
  unfold candidate
  rw [opcode_packG]
  refine Eq.trans (congrArg some (?_ : (let r := unpackG (packG _); Instr.msave r.g r.a r.b (r.mod.getLsbD 1)) = Instr.msave g sa m rel)) rfl
  rw [unpackG_packG] <;> dsimp only <;> congr 1 <;> first
    | rfl
    | ((repeat rw [BitVec.extractLsb'_append_eq_of_le (by omega)])
       (try rw [BitVec.extractLsb'_append_eq_of_add_le (by omega)])
       (repeat rw [BitVec.getLsbD_append])
       simp)

theorem mrstr (g : Guard) (m : BitVec 8) (sa : BitVec 8) : Statement (Instr.mrstr g m sa) := by
  intro w h wf
  refine decodeWord_ok ?_ wf h
  have h : packG _ = w := Option.some.inj h
  subst h
  unfold candidate
  rw [opcode_packG]
  refine Eq.trans (congrArg some (?_ : (let r := unpackG (packG _); Instr.mrstr r.g r.d r.a) = Instr.mrstr g m sa)) rfl
  rw [unpackG_packG]

theorem tdesc (g : Guard) (t : BitVec 8) (sa : BitVec 8) (b : VS) (rcd : Bool) : Statement (Instr.tdesc g t sa b rcd) := by
  intro w h wf
  refine decodeWord_ok ?_ wf h
  have h : packG _ = w := Option.some.inj h
  subst h
  unfold candidate
  rw [opcode_packG]
  show (if (unpackG (packG _)).mod.getLsbD 0 then some (let r := unpackG (packG _); Instr.tdescRd r.g r.d r.a) else some (let r := unpackG (packG _); Instr.tdesc r.g r.d r.a ⟨r.fb, r.b⟩ (r.mod.getLsbD 1))) = _
  rw [unpackG_packG]
  dsimp only
  (repeat rw [BitVec.extractLsb'_append_eq_of_le (by omega)])
  (repeat rw [BitVec.getLsbD_append])
  simp

theorem tdescRd (g : Guard) (sd : BitVec 8) (t : BitVec 8) : Statement (Instr.tdescRd g sd t) := by
  intro w h wf
  refine decodeWord_ok ?_ wf h
  have h : packG _ = w := Option.some.inj h
  subst h
  unfold candidate
  rw [opcode_packG]
  show (if (unpackG (packG _)).mod.getLsbD 0 then some (let r := unpackG (packG _); Instr.tdescRd r.g r.d r.a) else some (let r := unpackG (packG _); Instr.tdesc r.g r.d r.a ⟨r.fb, r.b⟩ (r.mod.getLsbD 1))) = _
  rw [unpackG_packG]
  dsimp only
  (repeat rw [BitVec.extractLsb'_append_eq_of_le (by omega)])
  (repeat rw [BitVec.getLsbD_append])
  simp

theorem tld (g : Guard) (t : BitVec 8) (sa : BitVec 8) (sb : BitVec 8) : Statement (Instr.tld g t sa sb) := by
  intro w h wf
  refine decodeWord_ok ?_ wf h
  have h : packG _ = w := Option.some.inj h
  subst h
  unfold candidate
  rw [opcode_packG]
  show (if (unpackG (packG _)).mod.getLsbD 0 then some (let r := unpackG (packG _); Instr.tldHeap r.g r.a) else some (let r := unpackG (packG _); Instr.tld r.g r.d r.a r.b)) = _
  rw [unpackG_packG]
  dsimp only
  (repeat rw [BitVec.extractLsb'_append_eq_of_le (by omega)])
  (repeat rw [BitVec.getLsbD_append])
  simp

theorem tldHeap (g : Guard) (sa : BitVec 8) : Statement (Instr.tldHeap g sa) := by
  intro w h wf
  refine decodeWord_ok ?_ wf h
  have h : packG _ = w := Option.some.inj h
  subst h
  unfold candidate
  rw [opcode_packG]
  show (if (unpackG (packG _)).mod.getLsbD 0 then some (let r := unpackG (packG _); Instr.tldHeap r.g r.a) else some (let r := unpackG (packG _); Instr.tld r.g r.d r.a r.b)) = _
  rw [unpackG_packG]
  dsimp only
  (repeat rw [BitVec.extractLsb'_append_eq_of_le (by omega)])
  (repeat rw [BitVec.getLsbD_append])
  simp

theorem tldf (g : Guard) (t : BitVec 8) (sa : BitVec 8) (sb : BitVec 8) : Statement (Instr.tldf g t sa sb) := by
  intro w h wf
  refine decodeWord_ok ?_ wf h
  have h : packG _ = w := Option.some.inj h
  subst h
  unfold candidate
  rw [opcode_packG]
  refine Eq.trans (congrArg some (?_ : (let r := unpackG (packG _); Instr.tldf r.g r.d r.a r.b) = Instr.tldf g t sa sb)) rfl
  rw [unpackG_packG]

theorem tstD (g : Guard) (sa : BitVec 8) (t : BitVec 8) (sc : BitVec 8) : Statement (Instr.tstD g sa t sc) := by
  intro w h wf
  refine decodeWord_ok ?_ wf h
  have h : packG _ = w := Option.some.inj h
  subst h
  unfold candidate
  rw [opcode_packG]
  show (if (unpackG (packG _)).mod.getLsbD 0 then some (let r := unpackG (packG _); Instr.tstF r.g r.a r.b) else if (unpackG (packG _)).mod.getLsbD 1 then some (let r := unpackG (packG _); Instr.tstHeap r.g r.a) else some (let r := unpackG (packG _); Instr.tstD r.g r.a r.b r.c)) = _
  rw [unpackG_packG]
  dsimp only
  (repeat rw [BitVec.extractLsb'_append_eq_of_le (by omega)])
  (repeat rw [BitVec.getLsbD_append])
  simp

theorem tstF (g : Guard) (sa : BitVec 8) (t : BitVec 8) : Statement (Instr.tstF g sa t) := by
  intro w h wf
  refine decodeWord_ok ?_ wf h
  have h : packG _ = w := Option.some.inj h
  subst h
  unfold candidate
  rw [opcode_packG]
  show (if (unpackG (packG _)).mod.getLsbD 0 then some (let r := unpackG (packG _); Instr.tstF r.g r.a r.b) else if (unpackG (packG _)).mod.getLsbD 1 then some (let r := unpackG (packG _); Instr.tstHeap r.g r.a) else some (let r := unpackG (packG _); Instr.tstD r.g r.a r.b r.c)) = _
  rw [unpackG_packG]
  dsimp only
  (repeat rw [BitVec.extractLsb'_append_eq_of_le (by omega)])
  (repeat rw [BitVec.getLsbD_append])
  simp

theorem tstHeap (g : Guard) (sa : BitVec 8) : Statement (Instr.tstHeap g sa) := by
  intro w h wf
  refine decodeWord_ok ?_ wf h
  have h : packG _ = w := Option.some.inj h
  subst h
  unfold candidate
  rw [opcode_packG]
  show (if (unpackG (packG _)).mod.getLsbD 0 then some (let r := unpackG (packG _); Instr.tstF r.g r.a r.b) else if (unpackG (packG _)).mod.getLsbD 1 then some (let r := unpackG (packG _); Instr.tstHeap r.g r.a) else some (let r := unpackG (packG _); Instr.tstD r.g r.a r.b r.c)) = _
  rw [unpackG_packG]
  dsimp only
  (repeat rw [BitVec.extractLsb'_append_eq_of_le (by omega)])
  (repeat rw [BitVec.getLsbD_append])
  simp

theorem tzero (g : Guard) (t : BitVec 8) : Statement (Instr.tzero g t) := by
  intro w h wf
  refine decodeWord_ok ?_ wf h
  have h : packG _ = w := Option.some.inj h
  subst h
  unfold candidate
  rw [opcode_packG]
  refine Eq.trans (congrArg some (?_ : (let r := unpackG (packG _); Instr.tzero r.g r.d) = Instr.tzero g t)) rfl
  rw [unpackG_packG]

theorem tadd (g : Guard) (t : BitVec 8) (ta : BitVec 8) (tb : BitVec 8) : Statement (Instr.tadd g t ta tb) := by
  intro w h wf
  refine decodeWord_ok ?_ wf h
  have h : packG _ = w := Option.some.inj h
  subst h
  unfold candidate
  rw [opcode_packG]
  refine Eq.trans (congrArg some (?_ : (let r := unpackG (packG _); Instr.tadd r.g r.d r.a r.b) = Instr.tadd g t ta tb)) rfl
  rw [unpackG_packG]

theorem tscl (g : Guard) (t : BitVec 8) (ta : BitVec 8) (sb : BitVec 8) : Statement (Instr.tscl g t ta sb) := by
  intro w h wf
  refine decodeWord_ok ?_ wf h
  have h : packG _ = w := Option.some.inj h
  subst h
  unfold candidate
  rw [opcode_packG]
  refine Eq.trans (congrArg some (?_ : (let r := unpackG (packG _); Instr.tscl r.g r.d r.a r.b) = Instr.tscl g t ta sb)) rfl
  rw [unpackG_packG]

theorem tmul (g : Guard) (t : BitVec 8) (ta : BitVec 8) (tb : BitVec 8) : Statement (Instr.tmul g t ta tb) := by
  intro w h wf
  refine decodeWord_ok ?_ wf h
  have h : packG _ = w := Option.some.inj h
  subst h
  unfold candidate
  rw [opcode_packG]
  refine Eq.trans (congrArg some (?_ : (let r := unpackG (packG _); Instr.tmul r.g r.d r.a r.b) = Instr.tmul g t ta tb)) rfl
  rw [unpackG_packG]

theorem tmulv (g : Guard) (d : BitVec 8) (ta : BitVec 8) (vb : BitVec 8) : Statement (Instr.tmulv g d ta vb) := by
  intro w h wf
  refine decodeWord_ok ?_ wf h
  have h : packG _ = w := Option.some.inj h
  subst h
  unfold candidate
  rw [opcode_packG]
  refine Eq.trans (congrArg some (?_ : (let r := unpackG (packG _); Instr.tmulv r.g r.d r.a r.b) = Instr.tmulv g d ta vb)) rfl
  rw [unpackG_packG]

theorem trnd (g : Guard) (t : BitVec 8) (ta : BitVec 8) (b : VS) (st : Bool) (abs : Bool) : Statement (Instr.trnd g t ta b st abs) := by
  intro w h wf
  refine decodeWord_ok ?_ wf h
  have h : packG _ = w := Option.some.inj h
  subst h
  unfold candidate
  rw [opcode_packG]
  refine Eq.trans (congrArg some (?_ : (let r := unpackG (packG _); Instr.trnd r.g r.d r.a ⟨r.fb, r.b⟩ (r.mod.getLsbD 0) (r.mod.getLsbD 1)) = Instr.trnd g t ta b st abs)) rfl
  rw [unpackG_packG] <;> dsimp only <;> congr 1 <;> first
    | rfl
    | ((repeat rw [BitVec.extractLsb'_append_eq_of_le (by omega)])
       (try rw [BitVec.extractLsb'_append_eq_of_add_le (by omega)])
       (repeat rw [BitVec.getLsbD_append])
       simp)

theorem trank (g : Guard) (sd : BitVec 8) (ta : BitVec 8) (clr : Bool) : Statement (Instr.trank g sd ta clr) := by
  intro w h wf
  refine decodeWord_ok ?_ wf h
  have h : packG _ = w := Option.some.inj h
  subst h
  unfold candidate
  rw [opcode_packG]
  refine Eq.trans (congrArg some (?_ : (let r := unpackG (packG _); Instr.trank r.g r.d r.a (r.mod.getLsbD 0)) = Instr.trank g sd ta clr)) rfl
  rw [unpackG_packG] <;> dsimp only <;> congr 1 <;> first
    | rfl
    | ((repeat rw [BitVec.extractLsb'_append_eq_of_le (by omega)])
       (try rw [BitVec.extractLsb'_append_eq_of_add_le (by omega)])
       (repeat rw [BitVec.getLsbD_append])
       simp)

theorem ttod (g : Guard) (t : BitVec 8) (ta : BitVec 8) : Statement (Instr.ttod g t ta) := by
  intro w h wf
  refine decodeWord_ok ?_ wf h
  have h : packG _ = w := Option.some.inj h
  subst h
  unfold candidate
  rw [opcode_packG]
  refine Eq.trans (congrArg some (?_ : (let r := unpackG (packG _); Instr.ttod r.g r.d r.a) = Instr.ttod g t ta)) rfl
  rw [unpackG_packG]

theorem ttol (g : Guard) (t : BitVec 8) (ta : BitVec 8) : Statement (Instr.ttol g t ta) := by
  intro w h wf
  refine decodeWord_ok ?_ wf h
  have h : packG _ = w := Option.some.inj h
  subst h
  unfold candidate
  rw [opcode_packG]
  refine Eq.trans (congrArg some (?_ : (let r := unpackG (packG _); Instr.ttol r.g r.d r.a) = Instr.ttol g t ta)) rfl
  rw [unpackG_packG]

theorem tpotrf (g : Guard) (t : BitVec 8) (ta : BitVec 8) : Statement (Instr.tpotrf g t ta) := by
  intro w h wf
  refine decodeWord_ok ?_ wf h
  have h : packG _ = w := Option.some.inj h
  subst h
  unfold candidate
  rw [opcode_packG]
  refine Eq.trans (congrArg some (?_ : (let r := unpackG (packG _); Instr.tpotrf r.g r.d r.a) = Instr.tpotrf g t ta)) rfl
  rw [unpackG_packG]

theorem ttrsm (g : Guard) (t : BitVec 8) (ta : BitVec 8) (tb : BitVec 8) (rgt : Bool) (tr : Bool) (up : Bool) (un : Bool) : Statement (Instr.ttrsm g t ta tb rgt tr up un) := by
  intro w h wf
  refine decodeWord_ok ?_ wf h
  have h : packG _ = w := Option.some.inj h
  subst h
  unfold candidate
  rw [opcode_packG]
  refine Eq.trans (congrArg some (?_ : (let r := unpackG (packG _); Instr.ttrsm r.g r.d r.a r.b (r.mod.getLsbD 0) (r.mod.getLsbD 1) (r.mod.getLsbD 2) (r.mod.getLsbD 3)) = Instr.ttrsm g t ta tb rgt tr up un)) rfl
  rw [unpackG_packG] <;> dsimp only <;> congr 1 <;> first
    | rfl
    | ((repeat rw [BitVec.extractLsb'_append_eq_of_le (by omega)])
       (try rw [BitVec.extractLsb'_append_eq_of_add_le (by omega)])
       (repeat rw [BitVec.getLsbD_append])
       simp)

theorem tupd (g : Guard) (t : BitVec 8) (ta : BitVec 8) (tb : BitVec 8) : Statement (Instr.tupd g t ta tb) := by
  intro w h wf
  refine decodeWord_ok ?_ wf h
  have h : packG _ = w := Option.some.inj h
  subst h
  unfold candidate
  rw [opcode_packG]
  refine Eq.trans (congrArg some (?_ : (let r := unpackG (packG _); Instr.tupd r.g r.d r.a r.b) = Instr.tupd g t ta tb)) rfl
  rw [unpackG_packG]

theorem thalc (g : Guard) (t : BitVec 8) : Statement (Instr.thalc g t) := by
  intro w h wf
  refine decodeWord_ok ?_ wf h
  have h : packG _ = w := Option.some.inj h
  subst h
  unfold candidate
  rw [opcode_packG]
  refine Eq.trans (congrArg some (?_ : (let r := unpackG (packG _); Instr.thalc r.g r.d) = Instr.thalc g t)) rfl
  rw [unpackG_packG]

theorem thfre (g : Guard) (t : BitVec 8) : Statement (Instr.thfre g t) := by
  intro w h wf
  refine decodeWord_ok ?_ wf h
  have h : packG _ = w := Option.some.inj h
  subst h
  unfold candidate
  rw [opcode_packG]
  refine Eq.trans (congrArg some (?_ : (let r := unpackG (packG _); Instr.thfre r.g r.d) = Instr.thfre g t)) rfl
  rw [unpackG_packG]

theorem qpost (g : Guard) (sd : BitVec 8) (sa : BitVec 8) : Statement (Instr.qpost g sd sa) := by
  intro w h wf
  refine decodeWord_ok ?_ wf h
  have h : packG _ = w := Option.some.inj h
  subst h
  unfold candidate
  rw [opcode_packG]
  refine Eq.trans (congrArg some (?_ : (let r := unpackG (packG _); Instr.qpost r.g r.d r.a) = Instr.qpost g sd sa)) rfl
  rw [unpackG_packG]

theorem qtick (g : Guard) (sd : BitVec 8) (sa : BitVec 8) (tr : Bool) : Statement (Instr.qtick g sd sa tr) := by
  intro w h wf
  refine decodeWord_ok ?_ wf h
  have h : packG _ = w := Option.some.inj h
  subst h
  unfold candidate
  rw [opcode_packG]
  refine Eq.trans (congrArg some (?_ : (let r := unpackG (packG _); Instr.qtick r.g r.d r.a (r.mod.getLsbD 0)) = Instr.qtick g sd sa tr)) rfl
  rw [unpackG_packG] <;> dsimp only <;> congr 1 <;> first
    | rfl
    | ((repeat rw [BitVec.extractLsb'_append_eq_of_le (by omega)])
       (try rw [BitVec.extractLsb'_append_eq_of_add_le (by omega)])
       (repeat rw [BitVec.getLsbD_append])
       simp)

theorem put (g : Guard) (sd : BitVec 8) (sa : BitVec 8) : Statement (Instr.put g sd sa) := by
  intro w h wf
  refine decodeWord_ok ?_ wf h
  have h : packG _ = w := Option.some.inj h
  subst h
  unfold candidate
  rw [opcode_packG]
  refine Eq.trans (congrArg some (?_ : (let r := unpackG (packG _); Instr.put r.g r.d r.a) = Instr.put g sd sa)) rfl
  rw [unpackG_packG]

theorem puts (g : Guard) (sd : BitVec 8) (sa : BitVec 8) : Statement (Instr.puts g sd sa) := by
  intro w h wf
  refine decodeWord_ok ?_ wf h
  have h : packG _ = w := Option.some.inj h
  subst h
  unfold candidate
  rw [opcode_packG]
  refine Eq.trans (congrArg some (?_ : (let r := unpackG (packG _); Instr.puts r.g r.d r.a) = Instr.puts g sd sa)) rfl
  rw [unpackG_packG]

theorem putr (g : Guard) (sd : BitVec 8) (sa : BitVec 8) : Statement (Instr.putr g sd sa) := by
  intro w h wf
  refine decodeWord_ok ?_ wf h
  have h : packG _ = w := Option.some.inj h
  subst h
  unfold candidate
  rw [opcode_packG]
  refine Eq.trans (congrArg some (?_ : (let r := unpackG (packG _); Instr.putr r.g r.d r.a) = Instr.putr g sd sa)) rfl
  rw [unpackG_packG]

theorem get (g : Guard) (sd : BitVec 8) (sa : BitVec 8) : Statement (Instr.get g sd sa) := by
  intro w h wf
  refine decodeWord_ok ?_ wf h
  have h : packG _ = w := Option.some.inj h
  subst h
  unfold candidate
  rw [opcode_packG]
  refine Eq.trans (congrArg some (?_ : (let r := unpackG (packG _); Instr.get r.g r.d r.a) = Instr.get g sd sa)) rfl
  rw [unpackG_packG]

theorem qarm (g : Guard) (sa : BitVec 8) (sb : BitVec 8) (sc : BitVec 8) : Statement (Instr.qarm g sa sb sc) := by
  intro w h wf
  refine decodeWord_ok ?_ wf h
  have h : packG _ = w := Option.some.inj h
  subst h
  unfold candidate
  rw [opcode_packG]
  refine Eq.trans (congrArg some (?_ : (let r := unpackG (packG _); Instr.qarm r.g r.a r.b r.c) = Instr.qarm g sa sb sc)) rfl
  rw [unpackG_packG]

theorem tcnt (g : Guard) (sd : BitVec 8) (sa : BitVec 8) (b : VS) (op : BitVec 2) : Statement (Instr.tcnt g sd sa b op) := by
  intro w h wf
  refine decodeWord_ok ?_ wf h
  have h : packG _ = w := Option.some.inj h
  subst h
  unfold candidate
  rw [opcode_packG]
  refine Eq.trans (congrArg some (?_ : (let r := unpackG (packG _); Instr.tcnt r.g r.d r.a ⟨r.fb, r.b⟩ (r.mod.extractLsb' 0 2)) = Instr.tcnt g sd sa b op)) rfl
  rw [unpackG_packG] <;> dsimp only <;> congr 1 <;> first
    | rfl
    | ((repeat rw [BitVec.extractLsb'_append_eq_of_le (by omega)])
       (try rw [BitVec.extractLsb'_append_eq_of_add_le (by omega)])
       (repeat rw [BitVec.getLsbD_append])
       simp)

theorem qring (g : Guard) (sd : BitVec 8) (sa : BitVec 8) : Statement (Instr.qring g sd sa) := by
  intro w h wf
  refine decodeWord_ok ?_ wf h
  have h : packG _ = w := Option.some.inj h
  subst h
  unfold candidate
  rw [opcode_packG]
  refine Eq.trans (congrArg some (?_ : (let r := unpackG (packG _); Instr.qring r.g r.d r.a) = Instr.qring g sd sa)) rfl
  rw [unpackG_packG]

theorem qcomp (g : Guard) (sd : BitVec 8) (sa : BitVec 8) (nw : Bool) (fre : Bool) : Statement (Instr.qcomp g sd sa nw fre) := by
  intro w h wf
  refine decodeWord_ok ?_ wf h
  have h : packG _ = w := Option.some.inj h
  subst h
  unfold candidate
  rw [opcode_packG]
  refine Eq.trans (congrArg some (?_ : (let r := unpackG (packG _); Instr.qcomp r.g r.d r.a (r.mod.getLsbD 0) (r.mod.getLsbD 1)) = Instr.qcomp g sd sa nw fre)) rfl
  rw [unpackG_packG] <;> dsimp only <;> congr 1 <;> first
    | rfl
    | ((repeat rw [BitVec.extractLsb'_append_eq_of_le (by omega)])
       (try rw [BitVec.extractLsb'_append_eq_of_add_le (by omega)])
       (repeat rw [BitVec.getLsbD_append])
       simp)

theorem qcancel (g : Guard) (sd : BitVec 8) (sa : BitVec 8) : Statement (Instr.qcancel g sd sa) := by
  intro w h wf
  refine decodeWord_ok ?_ wf h
  have h : packG _ = w := Option.some.inj h
  subst h
  unfold candidate
  rw [opcode_packG]
  refine Eq.trans (congrArg some (?_ : (let r := unpackG (packG _); Instr.qcancel r.g r.d r.a) = Instr.qcancel g sd sa)) rfl
  rw [unpackG_packG]

theorem qstat (g : Guard) (sd : BitVec 8) (sa : BitVec 8) (sel : BitVec 2) (rst : Bool) : Statement (Instr.qstat g sd sa sel rst) := by
  intro w h wf
  refine decodeWord_ok ?_ wf h
  have h : packG _ = w := Option.some.inj h
  subst h
  unfold candidate
  rw [opcode_packG]
  refine Eq.trans (congrArg some (?_ : (let r := unpackG (packG _); Instr.qstat r.g r.d r.a (r.mod.extractLsb' 0 2) (r.mod.getLsbD 2)) = Instr.qstat g sd sa sel rst)) rfl
  rw [unpackG_packG] <;> dsimp only <;> congr 1 <;> first
    | rfl
    | ((repeat rw [BitVec.extractLsb'_append_eq_of_le (by omega)])
       (try rw [BitVec.extractLsb'_append_eq_of_add_le (by omega)])
       (repeat rw [BitVec.getLsbD_append])
       simp)

theorem gnode (g : Guard) (sd : BitVec 8) (sa : BitVec 8) : Statement (Instr.gnode g sd sa) := by
  intro w h wf
  refine decodeWord_ok ?_ wf h
  have h : packG _ = w := Option.some.inj h
  subst h
  unfold candidate
  rw [opcode_packG]
  refine Eq.trans (congrArg some (?_ : (let r := unpackG (packG _); Instr.gnode r.g r.d r.a) = Instr.gnode g sd sa)) rfl
  rw [unpackG_packG]

theorem gedge (g : Guard) (sa : BitVec 8) (sb : BitVec 8) : Statement (Instr.gedge g sa sb) := by
  intro w h wf
  refine decodeWord_ok ?_ wf h
  have h : packG _ = w := Option.some.inj h
  subst h
  unfold candidate
  rw [opcode_packG]
  refine Eq.trans (congrArg some (?_ : (let r := unpackG (packG _); Instr.gedge r.g r.a r.b) = Instr.gedge g sa sb)) rfl
  rw [unpackG_packG]

theorem gsub (g : Guard) (sa : BitVec 8) : Statement (Instr.gsub g sa) := by
  intro w h wf
  refine decodeWord_ok ?_ wf h
  have h : packG _ = w := Option.some.inj h
  subst h
  unfold candidate
  rw [opcode_packG]
  refine Eq.trans (congrArg some (?_ : (let r := unpackG (packG _); Instr.gsub r.g r.a) = Instr.gsub g sa)) rfl
  rw [unpackG_packG]

theorem gwait (g : Guard) (sd : BitVec 8) (sa : BitVec 8) (tr : Bool) : Statement (Instr.gwait g sd sa tr) := by
  intro w h wf
  refine decodeWord_ok ?_ wf h
  have h : packG _ = w := Option.some.inj h
  subst h
  unfold candidate
  rw [opcode_packG]
  refine Eq.trans (congrArg some (?_ : (let r := unpackG (packG _); Instr.gwait r.g r.d r.a (r.mod.getLsbD 0)) = Instr.gwait g sd sa tr)) rfl
  rw [unpackG_packG] <;> dsimp only <;> congr 1 <;> first
    | rfl
    | ((repeat rw [BitVec.extractLsb'_append_eq_of_le (by omega)])
       (try rw [BitVec.extractLsb'_append_eq_of_add_le (by omega)])
       (repeat rw [BitVec.getLsbD_append])
       simp)

theorem launch (g : Guard) (sd : BitVec 8) (sa : BitVec 8) : Statement (Instr.launch g sd sa) := by
  intro w h wf
  refine decodeWord_ok ?_ wf h
  have h : packG _ = w := Option.some.inj h
  subst h
  unfold candidate
  rw [opcode_packG]
  refine Eq.trans (congrArg some (?_ : (let r := unpackG (packG _); Instr.launch r.g r.d r.a) = Instr.launch g sd sa)) rfl
  rw [unpackG_packG]

theorem dline (g : Guard) (sa : BitVec 8) (sb : BitVec 8) : Statement (Instr.dline g sa sb) := by
  intro w h wf
  refine decodeWord_ok ?_ wf h
  have h : packG _ = w := Option.some.inj h
  subst h
  unfold candidate
  rw [opcode_packG]
  refine Eq.trans (congrArg some (?_ : (let r := unpackG (packG _); Instr.dline r.g r.a r.b) = Instr.dline g sa sb)) rfl
  rw [unpackG_packG]

theorem dgst (g : Guard) (sd : BitVec 8) : Statement (Instr.dgst g sd) := by
  intro w h wf
  refine decodeWord_ok ?_ wf h
  have h : packG _ = w := Option.some.inj h
  subst h
  unfold candidate
  rw [opcode_packG]
  refine Eq.trans (congrArg some (?_ : (let r := unpackG (packG _); Instr.dgst r.g r.d) = Instr.dgst g sd)) rfl
  rw [unpackG_packG]

theorem dgchk (g : Guard) (sa : BitVec 8) : Statement (Instr.dgchk g sa) := by
  intro w h wf
  refine decodeWord_ok ?_ wf h
  have h : packG _ = w := Option.some.inj h
  subst h
  unfold candidate
  rw [opcode_packG]
  refine Eq.trans (congrArg some (?_ : (let r := unpackG (packG _); Instr.dgchk r.g r.a) = Instr.dgchk g sa)) rfl
  rw [unpackG_packG]

theorem trap (g : Guard) (a : VS) : Statement (Instr.trap g a) := by
  intro w h wf
  refine decodeWord_ok ?_ wf h
  have h : packG _ = w := Option.some.inj h
  subst h
  unfold candidate
  rw [opcode_packG]
  refine Eq.trans (congrArg some (?_ : (let r := unpackG (packG _); Instr.trap r.g ⟨r.fa, r.a⟩) = Instr.trap g a)) rfl
  rw [unpackG_packG]

theorem rte (g : Guard) (yld : Bool) : Statement (Instr.rte g yld) := by
  intro w h wf
  refine decodeWord_ok ?_ wf h
  have h : packG _ = w := Option.some.inj h
  subst h
  unfold candidate
  rw [opcode_packG]
  refine Eq.trans (congrArg some (?_ : (let r := unpackG (packG _); Instr.rte r.g (r.mod.getLsbD 0)) = Instr.rte g yld)) rfl
  rw [unpackG_packG] <;> dsimp only <;> congr 1 <;> first
    | rfl
    | ((repeat rw [BitVec.extractLsb'_append_eq_of_le (by omega)])
       (try rw [BitVec.extractLsb'_append_eq_of_add_le (by omega)])
       (repeat rw [BitVec.getLsbD_append])
       simp)

theorem savelive (g : Guard) (sd : BitVec 8) (sa : BitVec 8) : Statement (Instr.savelive g sd sa) := by
  intro w h wf
  refine decodeWord_ok ?_ wf h
  have h : packG _ = w := Option.some.inj h
  subst h
  unfold candidate
  rw [opcode_packG]
  refine Eq.trans (congrArg some (?_ : (let r := unpackG (packG _); Instr.savelive r.g r.d r.a) = Instr.savelive g sd sa)) rfl
  rw [unpackG_packG]

theorem restlive (g : Guard) (sa : BitVec 8) : Statement (Instr.restlive g sa) := by
  intro w h wf
  refine decodeWord_ok ?_ wf h
  have h : packG _ = w := Option.some.inj h
  subst h
  unfold candidate
  rw [opcode_packG]
  refine Eq.trans (congrArg some (?_ : (let r := unpackG (packG _); Instr.restlive r.g r.a) = Instr.restlive g sa)) rfl
  rw [unpackG_packG]

theorem srd (g : Guard) (d : VS) (n : BitVec 8) : Statement (Instr.srd g d n) := by
  intro w h wf
  refine decodeWord_ok ?_ wf h
  have h : packG _ = w := Option.some.inj h
  subst h
  unfold candidate
  rw [opcode_packG]
  refine Eq.trans (congrArg some (?_ : (let r := unpackG (packG _); Instr.srd r.g ⟨r.fd, r.d⟩ r.a) = Instr.srd g d n)) rfl
  rw [unpackG_packG]

theorem swr (g : Guard) (n : BitVec 8) (sa : BitVec 8) : Statement (Instr.swr g n sa) := by
  intro w h wf
  refine decodeWord_ok ?_ wf h
  have h : packG _ = w := Option.some.inj h
  subst h
  unfold candidate
  rw [opcode_packG]
  refine Eq.trans (congrArg some (?_ : (let r := unpackG (packG _); Instr.swr r.g r.d r.a) = Instr.swr g n sa)) rfl
  rw [unpackG_packG]

theorem bkpt (g : Guard) (id : BitVec 16) : Statement (Instr.bkpt g id) := by
  intro w h wf
  refine decodeWord_ok ?_ wf h
  have h : packG _ = w := Option.some.inj h
  subst h
  unfold candidate
  rw [opcode_packG]
  refine Eq.trans (congrArg some (?_ : (let r := unpackG (packG _); Instr.bkpt r.g (r.mod.extractLsb' 0 16)) = Instr.bkpt g id)) rfl
  rw [unpackG_packG] <;> dsimp only <;> congr 1 <;> first
    | rfl
    | ((repeat rw [BitVec.extractLsb'_append_eq_of_le (by omega)])
       (try rw [BitVec.extractLsb'_append_eq_of_add_le (by omega)])
       (repeat rw [BitVec.getLsbD_append])
       simp)

theorem pmark (g : Guard) (id : BitVec 16) : Statement (Instr.pmark g id) := by
  intro w h wf
  refine decodeWord_ok ?_ wf h
  have h : packG _ = w := Option.some.inj h
  subst h
  unfold candidate
  rw [opcode_packG]
  refine Eq.trans (congrArg some (?_ : (let r := unpackG (packG _); Instr.pmark r.g (r.mod.extractLsb' 0 16)) = Instr.pmark g id)) rfl
  rw [unpackG_packG] <;> dsimp only <;> congr 1 <;> first
    | rfl
    | ((repeat rw [BitVec.extractLsb'_append_eq_of_le (by omega)])
       (try rw [BitVec.extractLsb'_append_eq_of_add_le (by omega)])
       (repeat rw [BitVec.getLsbD_append])
       simp)

theorem haltb (g : Guard) (sa : BitVec 8) (abt : Bool) : Statement (Instr.haltb g sa abt) := by
  intro w h wf
  refine decodeWord_ok ?_ wf h
  have h : packG _ = w := Option.some.inj h
  subst h
  unfold candidate
  rw [opcode_packG]
  refine Eq.trans (congrArg some (?_ : (let r := unpackG (packG _); Instr.haltb r.g r.a (r.mod.getLsbD 0)) = Instr.haltb g sa abt)) rfl
  rw [unpackG_packG] <;> dsimp only <;> congr 1 <;> first
    | rfl
    | ((repeat rw [BitVec.extractLsb'_append_eq_of_le (by omega)])
       (try rw [BitVec.extractLsb'_append_eq_of_add_le (by omega)])
       (repeat rw [BitVec.getLsbD_append])
       simp)

theorem rdbaro (g : Guard) (sd : BitVec 8) (sa : BitVec 8) (clr : Bool) : Statement (Instr.rdbaro g sd sa clr) := by
  intro w h wf
  refine decodeWord_ok ?_ wf h
  have h : packG _ = w := Option.some.inj h
  subst h
  unfold candidate
  rw [opcode_packG]
  refine Eq.trans (congrArg some (?_ : (let r := unpackG (packG _); Instr.rdbaro r.g r.d r.a (r.mod.getLsbD 0)) = Instr.rdbaro g sd sa clr)) rfl
  rw [unpackG_packG] <;> dsimp only <;> congr 1 <;> first
    | rfl
    | ((repeat rw [BitVec.extractLsb'_append_eq_of_le (by omega)])
       (try rw [BitVec.extractLsb'_append_eq_of_add_le (by omega)])
       (repeat rw [BitVec.getLsbD_append])
       simp)

/-- What no word encodes is no instruction of a program. -/
theorem noWord {i : Instr} (h : encode i = none) : Statement i := fun _ e _ => nomatch h.symm.trans e

def issueEvents : List Instr := [.joinTimeout, .sleepExpiry, .fairnessRotation, .clauseFetch,
  .chainCompletion, .ringSlotCommit, .releaseCompletion]
theorem issueEvents_noWord : ∀ i ∈ issueEvents, encode i = none := by decide
theorem joinTimeout : Statement .joinTimeout := noWord (issueEvents_noWord _ (by simp [issueEvents]))
theorem sleepExpiry : Statement .sleepExpiry := noWord (issueEvents_noWord _ (by simp [issueEvents]))
theorem fairnessRotation : Statement .fairnessRotation := noWord (issueEvents_noWord _ (by simp [issueEvents]))
theorem clauseFetch : Statement .clauseFetch := noWord (issueEvents_noWord _ (by simp [issueEvents]))
theorem chainCompletion : Statement .chainCompletion := noWord (issueEvents_noWord _ (by simp [issueEvents]))
theorem ringSlotCommit : Statement .ringSlotCommit := noWord (issueEvents_noWord _ (by simp [issueEvents]))
theorem releaseCompletion : Statement .releaseCompletion := noWord (issueEvents_noWord _ (by simp [issueEvents]))

def memoryEvents : List Instr := [.fwaitReread, .homeRequest, .loadDataWritten, .storeAcknowledgement,
  .takingAPin, .retry, .pinTimeout]
theorem memoryEvents_noWord : ∀ i ∈ memoryEvents, encode i = none := by decide
theorem fwaitReread : Statement .fwaitReread := noWord (memoryEvents_noWord _ (by simp [memoryEvents]))
theorem homeRequest : Statement .homeRequest := noWord (memoryEvents_noWord _ (by simp [memoryEvents]))
theorem loadDataWritten : Statement .loadDataWritten := noWord (memoryEvents_noWord _ (by simp [memoryEvents]))
theorem storeAcknowledgement : Statement .storeAcknowledgement := noWord (memoryEvents_noWord _ (by simp [memoryEvents]))
theorem takingAPin : Statement .takingAPin := noWord (memoryEvents_noWord _ (by simp [memoryEvents]))
theorem retry : Statement .retry := noWord (memoryEvents_noWord _ (by simp [memoryEvents]))
theorem pinTimeout : Statement .pinTimeout := noWord (memoryEvents_noWord _ (by simp [memoryEvents]))

def engineEvents : List Instr := [.asyncCompletion, .cardCompletion, .gathSettled, .kStep,
  .twinHoldTimeout, .burnisherPhaseBoundary, .burnisherCommit, .entryCompletion]
theorem engineEvents_noWord : ∀ i ∈ engineEvents, encode i = none := by decide
theorem asyncCompletion : Statement .asyncCompletion := noWord (engineEvents_noWord _ (by simp [engineEvents]))
theorem cardCompletion : Statement .cardCompletion := noWord (engineEvents_noWord _ (by simp [engineEvents]))
theorem gathSettled : Statement .gathSettled := noWord (engineEvents_noWord _ (by simp [engineEvents]))
theorem kStep : Statement .kStep := noWord (engineEvents_noWord _ (by simp [engineEvents]))
theorem twinHoldTimeout : Statement .twinHoldTimeout := noWord (engineEvents_noWord _ (by simp [engineEvents]))
theorem burnisherPhaseBoundary : Statement .burnisherPhaseBoundary := noWord (engineEvents_noWord _ (by simp [engineEvents]))
theorem burnisherCommit : Statement .burnisherCommit := noWord (engineEvents_noWord _ (by simp [engineEvents]))
theorem entryCompletion : Statement .entryCompletion := noWord (engineEvents_noWord _ (by simp [engineEvents]))

def fabricEvents : List Instr := [.putPacket, .putWithSignal, .writeWithReduce, .getRequest,
  .acknowledgement, .getData, .remoteDeviceAccess, .packetTimeout, .linkDown, .routeSwitch]
theorem fabricEvents_noWord : ∀ i ∈ fabricEvents, encode i = none := by decide
theorem putPacket : Statement .putPacket := noWord (fabricEvents_noWord _ (by simp [fabricEvents]))
theorem putWithSignal : Statement .putWithSignal := noWord (fabricEvents_noWord _ (by simp [fabricEvents]))
theorem writeWithReduce : Statement .writeWithReduce := noWord (fabricEvents_noWord _ (by simp [fabricEvents]))
theorem getRequest : Statement .getRequest := noWord (fabricEvents_noWord _ (by simp [fabricEvents]))
theorem acknowledgement : Statement .acknowledgement := noWord (fabricEvents_noWord _ (by simp [fabricEvents]))
theorem getData : Statement .getData := noWord (fabricEvents_noWord _ (by simp [fabricEvents]))
theorem remoteDeviceAccess : Statement .remoteDeviceAccess := noWord (fabricEvents_noWord _ (by simp [fabricEvents]))
theorem packetTimeout : Statement .packetTimeout := noWord (fabricEvents_noWord _ (by simp [fabricEvents]))
theorem linkDown : Statement .linkDown := noWord (fabricEvents_noWord _ (by simp [fabricEvents]))
theorem routeSwitch : Statement .routeSwitch := noWord (fabricEvents_noWord _ (by simp [fabricEvents]))

def messageEvents : List Instr := [.postMessage, .ticketMessage, .mismatchMessage, .cancelMessage,
  .cancelledMessage, .postTimeout]
theorem messageEvents_noWord : ∀ i ∈ messageEvents, encode i = none := by decide
theorem postMessage : Statement .postMessage := noWord (messageEvents_noWord _ (by simp [messageEvents]))
theorem ticketMessage : Statement .ticketMessage := noWord (messageEvents_noWord _ (by simp [messageEvents]))
theorem mismatchMessage : Statement .mismatchMessage := noWord (messageEvents_noWord _ (by simp [messageEvents]))
theorem cancelMessage : Statement .cancelMessage := noWord (messageEvents_noWord _ (by simp [messageEvents]))
theorem cancelledMessage : Statement .cancelledMessage := noWord (messageEvents_noWord _ (by simp [messageEvents]))
theorem postTimeout : Statement .postTimeout := noWord (messageEvents_noWord _ (by simp [messageEvents]))

def collectiveEvents : List Instr := [.collectiveStart, .foldChunk, .resultChunk, .credit,
  .collectiveTimeout, .collectiveResultTimeout, .collectiveEnd]
theorem collectiveEvents_noWord : ∀ i ∈ collectiveEvents, encode i = none := by decide
theorem collectiveStart : Statement .collectiveStart := noWord (collectiveEvents_noWord _ (by simp [collectiveEvents]))
theorem foldChunk : Statement .foldChunk := noWord (collectiveEvents_noWord _ (by simp [collectiveEvents]))
theorem resultChunk : Statement .resultChunk := noWord (collectiveEvents_noWord _ (by simp [collectiveEvents]))
theorem credit : Statement .credit := noWord (collectiveEvents_noWord _ (by simp [collectiveEvents]))
theorem collectiveTimeout : Statement .collectiveTimeout := noWord (collectiveEvents_noWord _ (by simp [collectiveEvents]))
theorem collectiveResultTimeout : Statement .collectiveResultTimeout := noWord (collectiveEvents_noWord _ (by simp [collectiveEvents]))
theorem collectiveEnd : Statement .collectiveEnd := noWord (collectiveEvents_noWord _ (by simp [collectiveEvents]))

def taskEvents : List Instr := [.nodeDispatch, .blockPlacement, .nodeCompletion, .deadlinePassed,
  .groupEnd, .trapEntry]
theorem taskEvents_noWord : ∀ i ∈ taskEvents, encode i = none := by decide
theorem nodeDispatch : Statement .nodeDispatch := noWord (taskEvents_noWord _ (by simp [taskEvents]))
theorem blockPlacement : Statement .blockPlacement := noWord (taskEvents_noWord _ (by simp [taskEvents]))
theorem nodeCompletion : Statement .nodeCompletion := noWord (taskEvents_noWord _ (by simp [taskEvents]))
theorem deadlinePassed : Statement .deadlinePassed := noWord (taskEvents_noWord _ (by simp [taskEvents]))
theorem groupEnd : Statement .groupEnd := noWord (taskEvents_noWord _ (by simp [taskEvents]))
theorem trapEntry : Statement .trapEntry := noWord (taskEvents_noWord _ (by simp [taskEvents]))

def commandEvents : List Instr := [.submit, .wait, .inval, .preempt, .release, .resync, .checkpoint,
  .restore, .trace, .checkpointStreamComplete]
theorem commandEvents_noWord : ∀ i ∈ commandEvents, encode i = none := by decide
theorem submit : Statement .submit := noWord (commandEvents_noWord _ (by simp [commandEvents]))
theorem wait : Statement .wait := noWord (commandEvents_noWord _ (by simp [commandEvents]))
theorem inval : Statement .inval := noWord (commandEvents_noWord _ (by simp [commandEvents]))
theorem preempt : Statement .preempt := noWord (commandEvents_noWord _ (by simp [commandEvents]))
theorem release : Statement .release := noWord (commandEvents_noWord _ (by simp [commandEvents]))
theorem resync : Statement .resync := noWord (commandEvents_noWord _ (by simp [commandEvents]))
theorem checkpoint : Statement .checkpoint := noWord (commandEvents_noWord _ (by simp [commandEvents]))
theorem restore : Statement .restore := noWord (commandEvents_noWord _ (by simp [commandEvents]))
theorem trace : Statement .trace := noWord (commandEvents_noWord _ (by simp [commandEvents]))
theorem checkpointStreamComplete : Statement .checkpointStreamComplete := noWord (commandEvents_noWord _ (by simp [commandEvents]))

def controlEvents : List Instr := [.qTailWrite, .lplaceWrite, .fwinWrite, .stageWrite, .prouteWrite,
  .teamCfgWrite, .devFidWrite, .queueContextWrite, .controlRegisterWrite, .cxlMemAccess]
theorem controlEvents_noWord : ∀ i ∈ controlEvents, encode i = none := by decide
theorem qTailWrite : Statement .qTailWrite := noWord (controlEvents_noWord _ (by simp [controlEvents]))
theorem lplaceWrite : Statement .lplaceWrite := noWord (controlEvents_noWord _ (by simp [controlEvents]))
theorem fwinWrite : Statement .fwinWrite := noWord (controlEvents_noWord _ (by simp [controlEvents]))
theorem stageWrite : Statement .stageWrite := noWord (controlEvents_noWord _ (by simp [controlEvents]))
theorem prouteWrite : Statement .prouteWrite := noWord (controlEvents_noWord _ (by simp [controlEvents]))
theorem teamCfgWrite : Statement .teamCfgWrite := noWord (controlEvents_noWord _ (by simp [controlEvents]))
theorem devFidWrite : Statement .devFidWrite := noWord (controlEvents_noWord _ (by simp [controlEvents]))
theorem queueContextWrite : Statement .queueContextWrite := noWord (controlEvents_noWord _ (by simp [controlEvents]))
theorem controlRegisterWrite : Statement .controlRegisterWrite := noWord (controlEvents_noWord _ (by simp [controlEvents]))
theorem cxlMemAccess : Statement .cxlMemAccess := noWord (controlEvents_noWord _ (by simp [controlEvents]))

def deviceEvents : List Instr := [.powerOnReset, .firmwareVerify, .version, .capabilities,
  .algorithmNegotiation, .digests, .certificates, .challenge, .measurements]
theorem deviceEvents_noWord : ∀ i ∈ deviceEvents, encode i = none := by decide
theorem powerOnReset : Statement .powerOnReset := noWord (deviceEvents_noWord _ (by simp [deviceEvents]))
theorem firmwareVerify : Statement .firmwareVerify := noWord (deviceEvents_noWord _ (by simp [deviceEvents]))
theorem version : Statement .version := noWord (deviceEvents_noWord _ (by simp [deviceEvents]))
theorem capabilities : Statement .capabilities := noWord (deviceEvents_noWord _ (by simp [deviceEvents]))
theorem algorithmNegotiation : Statement .algorithmNegotiation := noWord (deviceEvents_noWord _ (by simp [deviceEvents]))
theorem digests : Statement .digests := noWord (deviceEvents_noWord _ (by simp [deviceEvents]))
theorem certificates : Statement .certificates := noWord (deviceEvents_noWord _ (by simp [deviceEvents]))
theorem challenge : Statement .challenge := noWord (deviceEvents_noWord _ (by simp [deviceEvents]))
theorem measurements : Statement .measurements := noWord (deviceEvents_noWord _ (by simp [deviceEvents]))

def powerEvents : List Instr := [.powerWithhold, .thermalTrip, .linkUp, .flitResend, .packetForwarding]
theorem powerEvents_noWord : ∀ i ∈ powerEvents, encode i = none := by decide
theorem powerWithhold : Statement .powerWithhold := noWord (powerEvents_noWord _ (by simp [powerEvents]))
theorem thermalTrip : Statement .thermalTrip := noWord (powerEvents_noWord _ (by simp [powerEvents]))
theorem linkUp : Statement .linkUp := noWord (powerEvents_noWord _ (by simp [powerEvents]))
theorem flitResend : Statement .flitResend := noWord (powerEvents_noWord _ (by simp [powerEvents]))
theorem packetForwarding : Statement .packetForwarding := noWord (powerEvents_noWord _ (by simp [powerEvents]))
end Laws.Encoding
end Sys2Proof
end

