-- ==== Sys2Proof/Tests/Slice0.lean ====
section
/-!
SUPPORT. Tests: ill-formed terms that the checks refuse, words written out from their encodings, single instructions and hardware steps on
small states, and for each statement with hypotheses a state and operands that meet them (witness_<statement>, clause by clause).
-/

set_option Elab.async false
set_option maxRecDepth 100000
set_option linter.unusedVariables false
open Sys2Proof Sys2Proof.Machine

/-! ### Small states -/

/-- Changes of a state in one place: the group, its entry and what it remembers, its core, launch and block, one node, scalar registers
and 32-bit words of memory by number and value, the event that a hardware step takes up. -/
def Sys2Proof.Machine.State.withGrp (s : State) (f : Group → Group) : State := s.setGrp 0 0 (f (s.grp 0 0))
def Sys2Proof.Machine.State.noting (s : State) (k : List Nat) : State :=
  s.withGrp fun g => { g with frontier := g.frontier.map fun e => { e with note := k } }
def Sys2Proof.Machine.State.withCore (s : State) (f : Core → Core) : State := s.setCore 0 (f (s.core 0))
def Sys2Proof.Machine.State.withLaunch (s : State) (f : Launch → Launch) : State := s.setLaunch 0 (f (s.launch 0))
def Sys2Proof.Machine.State.withBlk (s : State) (f : Block → Block) : State := s.setBlk 0 0 (f (s.blkAt 0 0))
def Sys2Proof.Machine.State.sregs (s : State) (l : List (Nat × Nat)) : State := l.foldl (fun s e => s.setSr 0 0 e.1 (BitVec.ofNat 32 e.2)) s
def Sys2Proof.Machine.State.words (s : State) (l : List (Nat × Nat)) : State := l.foldl (fun s e => s.setBytes e.1 (leBytes 4 e.2)) s
def Sys2Proof.Machine.State.onEvent (s : State) (k : List Nat) : State := { s with subject := { nums := k } }

/-- Queue 0 with one command in its ring, which lies at host address 0 and translates as the group does; 32-bit words by number. -/
def Sys2Proof.Machine.State.commanded (s : State) (l : List (Nat × Nat)) : State :=
  let s := ((s.setCtl (qBase 0 + 8) 0x80000000#64).setCtl (qBase 0 + 16) 1#64).setCtl (qBase 0 + 32) 0x1001#64
  s.words (l.map fun e => (2 ^ 51 + 4 * e.1, e.2))

/-- Every link works, and port 0 leads to device 1. -/
def Sys2Proof.Machine.State.linked (s : State) : State := { s with linksDown := [] }.setCtl 0x10008 0x8000000000000000#64
namespace Sys2Proof.Tests

/-- The entry that issues. -/
def me : Issuer := { core := 0, grp := 0, ent := 0, count := 0 }

/-- A group of 32 lanes about to issue in place 0 of core 0, with 256 KiB of scratchpad, 256 KiB of heap and 16 private words. -/
def ready : State :=
  let s := { State.reset.withFetchWord 64 0 with issuer := some me }
  let s := s.setCore 0 { s.core 0 with poolScr := 0x10000#32, poolHeap := 0x50000#32, poolL1 := 0x90000#32 }
  s.setLaunch 0 { s.launch 0 with priv := 16 }

/-- Two groups of a twinned role on core 0, with a bound accumulator each. -/
def twins : State :=
  let s := ready.withLaunch fun l => { l with roles := [(0, 32, 2, true)] }
  let s := s.withGrp fun g => { g with twin := some 1, accs := [(0, { bound := true })] }
  s.setGrp 0 1 { s.grp 0 0 with uid := 2, bgrp := 1, twin := some 0 }

/-- The value of a computation that has not failed; whether it gives a value, and whether it gives that one. -/
def okOr (d : α) : Except ε α → α
  | .ok x => x
  | .error _ => d
def okB : Except ε α → Bool
  | .ok _ => true
  | .error _ => false
def okIs [DecidableEq α] (v : α) : Except ε α → Bool
  | .ok x => decide (x = v)
  | .error _ => false

theorem okOr_eq {e : Except ε α} {d : α} (h : okB e = true) : e = .ok (okOr d e) := by
  cases e with
  | ok x => rfl
  | error x => exact absurd h (by simp [okB])

theorem okOr_pair {e : Except ε (α × β)} {d : α × β} (h : okB e = true) : e = .ok ((okOr d e).1, (okOr d e).2) := okOr_eq h

theorem okIs_eq [DecidableEq α] {e : Except ε α} {v : α} (h : okIs v e = true) : e = .ok v := by
  cases e with
  | ok x => exact congrArg _ (of_decide_eq_true h)
  | error x => exact absurd h (by simp [okIs])

/-- What Ctx.reads asks for, as a test. -/
def readsB (x : Ctx) (s : State) (addr : DWord) (n : Nat) (b : List Byte) (ps : List (Nat × Nat)) : Bool :=
  s.loadsFree x.c x.p x.e.mask && !s.linesFull x.c (linesIn ps) &&
    okIs ps (s.translateRange x.c (s.launchOf x.c x.p).context { handler := x.g.handler } addr n) &&
    decide (∀ q ∈ ps, s.ownPending x.g.uid q.1 q.2 = false ∧ s.pinnedLines x.c q.1 q.2 = []) && decide (s.readPieces ps = b)

theorem readsB_reads {x : Ctx} {s : State} {addr : DWord} {n : Nat} {b : List Byte} {ps : List (Nat × Nat)}
    (h : readsB x s addr n b ps = true) : x.reads s addr n b ps := by
  simp only [readsB, Bool.and_eq_true, Bool.not_eq_true', decide_eq_true_eq] at h
  exact ⟨h.1.1.1.1, h.1.1.1.2, okIs_eq h.1.1.2, h.1.2, h.2⟩

theorem okAll {xs : List Nat} {f : Nat → Except ε Nat} {v : Nat → Nat} (h : (xs.all fun l => okIs (v l) (f l)) = true) :
    ∀ l ∈ xs, f l = .ok (v l) := fun l hl => okIs_eq (List.all_eq_true.mp h l hl)

theorem mapped {xs : List Nat} {f : Nat → Except ε Nat} {v : Nat → Nat} {q : Nat → Prop}
    (h : (xs.all fun l => okIs (v l) (f l)) = true) (k : ∀ l ∈ xs, q l) : ∀ l ∈ xs, f l = .ok (v l) ∧ q l :=
  fun l hl => ⟨okAll h l hl, k l hl⟩

theorem gath_mapped {xs : List Nat} {f : Nat → Except ε Nat} {v : Nat → Nat} {p q r : Nat → Prop}
    (h : (xs.all fun l => okIs (v l) (f l)) = true) (k : ∀ l ∈ xs, p l ∧ q l ∧ r l) :
    ∀ l ∈ xs, p l ∧ q l ∧ r l ∧ f l = .ok (v l) :=
  fun l hl => ⟨(k l hl).1, (k l hl).2.1, (k l hl).2.2, okAll h l hl⟩

theorem scat_mapped {xs : List Nat} {f : Nat → Except ε Nat} {v : Nat → Nat} {p q r t : Nat → Prop}
    (h : (xs.all fun l => okIs (v l) (f l)) = true) (k : ∀ l ∈ xs, p l ∧ q l ∧ r l ∧ t l) :
    ∀ l ∈ xs, p l ∧ q l ∧ r l ∧ t l ∧ f l = .ok (v l) :=
  fun l hl => ⟨(k l hl).1, (k l hl).2.1, (k l hl).2.2.1, (k l hl).2.2.2, okAll h l hl⟩

theorem all_mapped {xs : List α} {f : α → Except ε Nat} {v : α → Nat} {q : α → Bool}
    (h : (xs.all fun l => okIs (v l) (f l) && !q l) = true) : ∀ l ∈ xs, q l = false ∧ f l = .ok (v l) := by
  intro l hl
  have := List.all_eq_true.mp h l hl
  rw [Bool.and_eq_true, Bool.not_eq_true'] at this
  exact ⟨this.2, okIs_eq this.1⟩

theorem lines_mapped {n : Nat} {f : Nat → Except ε Nat} {v : Nat → Nat} {q : Nat → Bool}
    (h : ((List.range n).all fun l => okIs (v l) (f l) && !q l) = true) (l : Nat) (hl : l < n) : q l = false ∧ f l = .ok (v l) :=
  all_mapped h l (List.mem_range.mpr hl)

/-- What a rank-tile instruction that is done has given. -/
def endOf (d : State) : RankEnd → State × FFlags × Nat × List (Nat × Byte)
  | .done s f t w => (s, f, t, w)
  | _ => (d, {}, 0, [])
def isDone : RankEnd → Bool
  | .done .. => true
  | _ => false

theorem isDone_eq {r : RankEnd} {d : State} (h : isDone r = true) :
    r = .done (endOf d r).1 (endOf d r).2.1 (endOf d r).2.2.1 (endOf d r).2.2.2 := by
  cases r with
  | done s f t w => rfl
  | record c a => exact absurd h (by simp [isDone])
  | violate a => exact absurd h (by simp [isDone])

/-- The state that an outcome or an attempt gives, and the instruction that an attempt brings to issue. -/
def nextOr (d : State) : Host.Outcome State Fault Refusal → State
  | .next t => t
  | _ => d
def isNext : Host.Outcome State Fault Refusal → Bool
  | .next _ => true
  | _ => false

theorem isNext_eq {o : Host.Outcome State Fault Refusal} {d : State} (h : isNext o = true) : o = .next (nextOr d o) := by
  cases o with
  | next t => rfl
  | fault f => exact absurd h (by simp [isNext])
  | refused r => exact absurd h (by simp [isNext])

def pickedState : Pick → State
  | .idle t => t
  | .run _ _ t => t
def countedBy : Pick → Bool
  | .idle _ => false
  | .run _ b _ => b
def runsAs (i : Instr) : Pick → Bool
  | .run j _ _ => decide (j = i)
  | .idle _ => false
def isIdle : Pick → Bool
  | .idle _ => true
  | .run .. => false

theorem runsAs_eq {i : Instr} {p : Pick} (h : runsAs i p = true) : p = .run i (countedBy p) (pickedState p) := by
  cases p with
  | run j b t => rw [show j = i from of_decide_eq_true h]; rfl
  | idle t => exact absurd h (by simp [runsAs])

theorem isIdle_eq {p : Pick} (h : isIdle p = true) : p = .idle (pickedState p) := by
  cases p with
  | run j b t => exact absurd h (by simp [isIdle])
  | idle t => rfl

theorem aget_of_all {P : α → Prop} {d : α} (hd : P d) : ∀ {m : List (Nat × α)} (k : Nat), (∀ e ∈ m, P e.2) → P (aget d m k)
  | [], _, _ => hd
  | (j, v) :: rest, k, h => by
    rw [aget]
    split
    · exact h (j, v) (List.mem_cons_self ..)
    · exact aget_of_all hd k fun e he => h e (List.mem_cons_of_mem _ he)

/-- The word of R97's example, its instruction, and the machine about to fetch it. -/
def example97 : Instr := .iaddmin ⟨false, 7#3⟩ ⟨false, 10#8⟩ ⟨false, 7#8⟩ ⟨true, 4#8⟩ ⟨false, 9#8⟩ false
def about : State := State.reset.withFetchWord 64 0x2570A07040920000
def always : Guard := ⟨false, 7#3⟩

/-! ### Ill-formed terms that the checks refuse (R48, R50 to R54, and the reserved codes of single rules) -/

theorem test_wellFormed_guard : wellFormed (.nop ⟨true, 7#3⟩) = false ∧ wellFormed (.regrp ⟨false, 6#3⟩ 0#8 0#8) = false := by decide
theorem test_wellFormed_scalar_range :
    wellFormed (.jqry always 128#8 0#8 0#2) = false ∧ wellFormed (.iadd always ⟨true, 128#8⟩ ⟨true, 0#8⟩ ⟨true, 0#8⟩ false false) = false ∧
    wellFormed (.iaddL always true 0#8 128#8 0#32 false false) = false ∧ wellFormed (.put always 0#8 122#8) = false ∧
    wellFormed (.mloop always 0#8 0#8 0#8 124#8 0#3 0#3 false) = false ∧ wellFormed (.acopyt always 0#8 0#8 0#8 125#8 0#2) = false ∧
    wellFormed (.qcomp always 125#8 0#8 false false) = false ∧ wellFormed (.gwait always 126#8 0#8 false) = false ∧
    wellFormed (.iter always false false 0#3 ⟨true, 125#8⟩ 0#32) = false := by decide
theorem test_wellFormed_pairs :
    wellFormed (.iadd64 always ⟨false, 1#8⟩ ⟨false, 0#8⟩ ⟨false, 0#8⟩) = false ∧ wellFormed (.brx always ⟨true, 1#8⟩) = false ∧
    wellFormed (.mov always ⟨false, 2#8⟩ ⟨false, 3#8⟩ true) = false ∧ wellFormed (.dtime always 1#8 false) = false ∧
    wellFormed (.iadd64L always false 1#8 0#8 0#32) = false ∧ wellFormed (.acopy always 0#8 1#8 0#8 0#8 2#2) = false ∧
    wellFormed (.mma always 0#8 1#8 4#3 4#3) = false ∧ wellFormed (.fadd always ⟨false, 0#8⟩ ⟨false, 1#8⟩ ⟨false, 0#8⟩ 0#2 0#2 false false) = false ∧
    wellFormed (.fwait always 0#8 1#8 0#8 0#8 0#4 false) = false := by decide
theorem test_wellFormed_scalar_destination :
    wellFormed (.iadd always ⟨true, 0#8⟩ ⟨false, 0#8⟩ ⟨true, 0#8⟩ false false) = false ∧ wellFormed (.srd always ⟨true, 0#8⟩ 0#8) = false ∧
    wellFormed (.xlat always ⟨true, 0#8⟩ ⟨false, 0#8⟩) = false := by decide
theorem test_wellFormed_register_files :
    wellFormed (.jdrop always 16#8) = false ∧ wellFormed (.icmp always 8#8 ⟨false, 0#8⟩ ⟨false, 0#8⟩ 0#4) = false ∧
    wellFormed (.mzero always 4#8 false) = false ∧ wellFormed (.tzero always 16#8) = false ∧ wellFormed (.qmov always 8#8 0#8 false) = false := by
  decide
theorem test_wellFormed_codes :
    wellFormed (.icmp always 0#8 ⟨false, 0#8⟩ ⟨false, 0#8⟩ 10#4) = false ∧ wellFormed (.fence always 0#3) = false ∧
    wellFormed (.vote always 0#8 0#8 3#2) = false ∧ wellFormed (.lpfx always 0#8 0#8 3#2 false false) = false ∧
    wellFormed (.shflL always 0#8 0#8 0#5 false 5#3) = false ∧ wellFormed (.lshfL always 0#8 0#8 33#6 false 0#3) = false ∧
    wellFormed (.qswp always 0#8 0#8 0#2 false false ⟨false, 0#8⟩) = false ∧ wellFormed (.tcnt always 0#8 0#8 ⟨true, 0#8⟩ 3#2) = false ∧
    wellFormed (.fcmp always 0#8 ⟨false, 0#8⟩ ⟨false, 0#8⟩ 2#2 0#3) = false ∧ wellFormed (.mma always 0#8 0#8 5#3 0#3) = false ∧
    wellFormed (.mloop always 0#8 0#8 0#8 0#8 1#3 5#3 false) = false ∧ wellFormed (.srd always ⟨false, 0#8⟩ 0x17#8) = false ∧
    wellFormed (.swr always 0x17#8 0#8) = false ∧ wellFormed (.fdot2 always ⟨false, 0#8⟩ ⟨false, 0#8⟩ ⟨false, 0#8⟩ ⟨false, 0#8⟩ 1#2 0#2 false false false) = false :=
  by decide
theorem test_wellFormed_modifiers :
    wellFormed (.iadd always ⟨false, 0#8⟩ ⟨false, 0#8⟩ ⟨false, 0#8⟩ false true) = false ∧
    wellFormed (.lpfx always 0#8 0#8 1#2 false true) = false ∧ wellFormed (.lcomp always 0#8 0#8 true) = false ∧
    wellFormed (.trnd always 0#8 0#8 ⟨false, 0#8⟩ false true) = false ∧ wellFormed (.trap always ⟨false, 1#8⟩) = false := by decide
theorem test_wellFormed_optional_operands :
    wellFormed (.bar always ⟨false, 0#8⟩ 0#4 false true) = false ∧ wellFormed (.boinit always 0#8 ⟨true, 0#8⟩ true) = false ∧
    wellFormed (.boarr always 0#8 0#8 ⟨false, 0#8⟩ true) = false ∧ wellFormed (.gath always 0#8 0#8 0#8 ⟨true, 0#8⟩ false false) = false ∧
    wellFormed (.tdesc always 0#8 0#8 ⟨true, 0#8⟩ false) = false ∧ wellFormed (.tcnt always 0#8 0#8 ⟨true, 0#8⟩ 0#2) = false ∧
    wellFormed (.rdlane always 0#8 0#8 0#8 false true ⟨false, 0#8⟩) = false ∧
    wellFormed (.qbcst always 0#8 0#8 0#2 false false ⟨true, 0#8⟩) = false := by decide
theorem test_wellFormed_conversions :
    wellFormed (.cvf always ⟨false, 0#8⟩ ⟨false, 0#8⟩ 1#4 1#4 0#2 false 0#2 0#2) = false ∧
    wellFormed (.cvsh always ⟨true, 0#8⟩ ⟨true, 0#8⟩ ⟨true, 0#8⟩ 0#2) = false ∧
    wellFormed (.dcsh always ⟨true, 0#8⟩ ⟨true, 0#8⟩ ⟨true, 0#8⟩ 0#2) = false ∧ wellFormed (.qcomp always 1#8 0#8 false false) = false ∧
    wellFormed (.cvf always ⟨false, 0#8⟩ ⟨false, 0#8⟩ 2#4 1#4 0#2 false 0#2 1#2) = false ∧
    wellFormed (.cvi always ⟨false, 0#8⟩ ⟨false, 0#8⟩ 1#4 0#4 0#2 0#2 0#2) = false ∧
    wellFormed (.cvn always 0#8 0#8 0#8 1#4 0#4 0#2 false 0#2) = false := by decide
theorem test_wellFormed_memory_forms :
    wellFormed (.ld always 0#8 0#8 0#8 3#2 4#4 0#2 0#14) = false ∧ wellFormed (.ld always 0#8 0#8 1#8 0#2 4#4 0#2 0#14) = false ∧
    wellFormed (.ld always 1#8 0#8 0#8 0#2 5#4 0#2 0#14) = false ∧ wellFormed (.ld always 2#8 0#8 0#8 0#2 6#4 0#2 0#14) = false ∧
    wellFormed (.ld always 0#8 0#8 0#8 0#2 8#4 0#2 0#14) = false ∧ wellFormed (.st always 0#8 0#8 0#8 0#2 1#4 0#2 0#14) = false ∧
    wellFormed (.lds always 0#8 0#8 0#2 4#4 0#14) = false ∧ wellFormed (.ldk always 0#8 0#8 7#4 0#14) = false ∧
    wellFormed (.atom always 0#8 0#8 0#8 1#8 0#2 0#4 6#3 false 0#10) = false ∧
    wellFormed (.atom always 0#8 0#8 0#8 0#8 0#2 11#4 6#3 false 0#10) = false ∧
    wellFormed (.atoms always 0#8 0#8 0#8 0#8 2#2 0#4 6#3 false 0#10) = false ∧ wellFormed (.pref always 0#8 0#8 0#2 2#2 0#14) = false := by decide

/-! ### Words written out from their encodings (R38, R49 to R57) -/

/-- Whether a word decodes to an instruction. -/
def reads (w : DWord) (i : Instr) : Bool := okIs i (decodeWord w)

theorem test_header : isHeader 0xC3E0000000000000#64 = true ∧ isHeader 0x2570A07040920000#64 = false ∧
    decodeHeader 0xC000000000000001#64 = none := by decide +kernel
theorem test_decode_control : reads 0x0228000000000005#64 (.bra ⟨false, 2#3⟩ true 5#32) = true := by decide +kernel
theorem test_decode_integer :
    reads 0x2570A07040920000#64 example97 = true ∧ reads 0x3C70204200000000#64 (.icmpL always false 2#8 4#8 0#32 2#3) = true ∧
    reads 0x4470201000000002#64 (.shlL always false 2#8 1#8 2#32) = true := by decide +kernel
theorem test_decode_float :
    reads 0x5A706050A0B34000#64 (.ffma always ⟨false, 6#8⟩ ⟨false, 5#8⟩ ⟨true, 10#8⟩ ⟨true, 11#8⟩ 1#2 0#2 false false false) = true := by
  decide +kernel
theorem test_decode_order :
    reads 0x9570000000000006#64 (.fence always 6#3) = true ∧ reads 0x9870006000040022#64 (.bar always ⟨true, 6#8⟩ 2#4 false true) = true ∧
    reads 0x9A704090A00E0001#64 (.boarr always 4#8 9#8 ⟨true, 10#8⟩ true) = true ∧
    reads 0x9D704140607F0005#64 (.fwait always 4#8 20#8 6#8 7#8 5#4 false) = true := by decide +kernel
theorem test_decode_async :
    reads 0xA071E04080CF0001#64 (.acopy always 30#8 4#8 8#8 12#8 1#2) = true ∧ reads 0xA370010110060000#64 (.kick always 16#8 17#8) = true ∧
    reads 0xA6714060C0040000#64 (.gath always 20#8 6#8 12#8 ⟨false, 0#8⟩ false false) = true := by decide +kernel
theorem test_decode_matrix :
    reads 0xB270010000000000#64 (.mma always 0#8 16#8 0#3 0#3) = true ∧ reads 0xD570301020000000#64 (.tadd always 3#8 1#8 2#8) = true := by
  decide +kernel
theorem test_decode_collective :
    reads 0xE2728080000C0000#64 (.qpost always 40#8 8#8) = true ∧ reads 0xEE70A140000C0000#64 (.gnode always 10#8 20#8) = true ∧
    reads 0xF170C0A0000C0001#64 (.gwait always 12#8 10#8 true) = true ∧ reads 0xF370004060060000#64 (.dline always 4#8 6#8) = true := by decide +kernel
theorem test_decode_system :
    reads 0xFA70100000000000#64 (.srd always ⟨false, 1#8⟩ 0#8) = true ∧ reads 0xF670009000040000#64 (.trap always ⟨true, 9#8⟩) = true ∧
    reads 0xF877A780000C0000#64 (.savelive always 122#8 120#8) = true ∧ reads 0xFC7000000000002A#64 (.bkpt always 42#16) = true ∧
    reads 0xFF704060000C0001#64 (.rdbaro always 4#8 6#8 true) = true := by decide +kernel
theorem test_decode_refuses :
    okB (decodeWord 0x2570A07040920001#64) = false ∧ okB (decodeWord 0x25F0A07040920000#64) = false ∧ okB (decodeWord 0xC000000000000000#64) = false := by
  decide +kernel

/-! ### One instruction, or one hardware step, on small states: results computed by hand from the rules -/

/-- The state after an instruction, of which lane 0 holds values in some vector registers and the group in some scalar registers. -/
def ranOn (i : Instr) (vs ss : List (Nat × Nat)) : State :=
  let s := vs.foldl (fun (s : State) e => s.setV 0 0 0 e.1 (BitVec.ofNat 32 e.2)) (ready.sregs ss)
  nextOr s (exec i s)

theorem test_step_iaddmin :
    let s := ((about.setV 0 0 0 7 10#32).setV 0 0 0 9 14#32).setV 0 0 1 7 (-10#32)
    let t := nextOr s (step (s.sregs [(4, 5)]))
    t.v 0 0 0 10 = 14#32 ∧ t.v 0 0 1 10 = -5#32 ∧ t.v 0 0 2 10 = 0#32 := by decide +kernel
theorem test_iadd_source_is_destination : (ranOn (.iadd always ⟨false, 1#8⟩ ⟨false, 1#8⟩ ⟨true, 2#8⟩ false false) [(1, 0xFFFFFFFF)] [(2, 3)]).v 0 0 0 1 = 2#32 := by
  decide +kernel
theorem test_iadd_saturates :
    (ranOn (.iaddL always false 1#8 1#8 1#32 true false) [(1, 0x7FFFFFFF)] []).v 0 0 0 1 = 0x7FFFFFFF#32 ∧
    (ranOn (.isubL always false 1#8 1#8 2#32 true true) [(1, 1)] []).v 0 0 0 1 = 0#32 := by decide +kernel
theorem test_imulh :
    (ranOn (.imulh always ⟨false, 0#8⟩ ⟨false, 1#8⟩ ⟨false, 1#8⟩ false) [(1, 0xFFFFFFFF)] []).v 0 0 0 0 = 0#32 ∧
    (ranOn (.imulh always ⟨false, 0#8⟩ ⟨false, 1#8⟩ ⟨false, 1#8⟩ true) [(1, 0xFFFFFFFF)] []).v 0 0 0 0 = 0xFFFFFFFE#32 := by decide +kernel
theorem test_iabs : (ranOn (.iabs always ⟨false, 0#8⟩ ⟨false, 1#8⟩ true) [(1, 0x80000000)] []).v 0 0 0 0 = 0x7FFFFFFF#32 := by decide +kernel
theorem test_imad64 :
    let t := ranOn (.imad64 always ⟨false, 2#8⟩ ⟨false, 1#8⟩ ⟨false, 1#8⟩ ⟨false, 4#8⟩ true) [(1, 0xFFFFFFFF), (4, 2), (5, 1)] []
    t.v 0 0 0 2 = 3#32 ∧ t.v 0 0 0 3 = 0xFFFFFFFF#32 := by decide +kernel
theorem test_sar_full_width : (ranOn (.sarL always false 0#8 1#8 32#32) [(1, 0x80000000)] []).v 0 0 0 0 = 0xFFFFFFFF#32 := by decide +kernel
theorem test_shl64 : (ranOn (.shl64L always false 2#8 0#8 33#32) [(0, 3)] []).v 0 0 0 3 = 6#32 := by decide +kernel
theorem test_bfe :
    (ranOn (.bfe always ⟨false, 0#8⟩ ⟨false, 1#8⟩ ⟨true, 2#8⟩ ⟨true, 3#8⟩ false) [(1, 0xF80)] [(2, 7), (3, 5)]).v 0 0 0 0 = 0xFFFFFFFF#32 ∧
    (ranOn (.bfe always ⟨false, 0#8⟩ ⟨false, 1#8⟩ ⟨true, 2#8⟩ ⟨true, 3#8⟩ true) [(1, 0xF80)] [(2, 7), (3, 5)]).v 0 0 0 0 = 0x1F#32 := by decide +kernel
theorem test_bfi : (ranOn (.bfi always ⟨false, 0#8⟩ ⟨false, 1#8⟩ ⟨true, 2#8⟩ ⟨true, 3#8⟩) [(1, 0xAB)] [(2, 0xFFFFFFFF), (3, 0x081C)]).v 0 0 0 0 = 0xBFFFFFFF#32 := by
  decide +kernel
theorem test_clz_zero : (ranOn (.clz always ⟨false, 0#8⟩ ⟨false, 1#8⟩) [(1, 0)] []).v 0 0 0 0 = 32#32 := by decide +kernel
theorem test_icmp_signed_and_unsigned :
    ((ranOn (.icmpL always false 2#8 4#8 0#32 2#3) [(4, 0xFFFFFFFF)] []).p 0 0 2) = 1#32 ∧
    ((ranOn (.icmpL always false 2#8 4#8 0#32 6#3) [(4, 0xFFFFFFFF)] []).p 0 0 2) = 0#32 := by decide +kernel
theorem test_fadd : (ranOn (.fadd always ⟨true, 0#8⟩ ⟨true, 1#8⟩ ⟨true, 2#8⟩ 1#2 0#2 false false) [] [(1, 0x3FC00000), (2, 0x40100000)]).sr 0 0 0 = 0x40700000#32 := by
  decide +kernel
theorem test_ffma_rounds_once :
    (ranOn (.ffma always ⟨true, 0#8⟩ ⟨true, 1#8⟩ ⟨true, 2#8⟩ ⟨true, 3#8⟩ 1#2 0#2 false false false) []
      [(1, 0x3F800001), (2, 0x3F7FFFFE), (3, 0xBF800000)]).sr 0 0 0 = 0xA8800000#32 := by decide +kernel
theorem test_cvf_f16 : (ranOn (.cvf always ⟨true, 0#8⟩ ⟨true, 1#8⟩ 2#4 1#4 0#2 false 0#2 2#2) [] [(0, 0x1234), (1, 0x3F800000)]).sr 0 0 0 = 0x3C001234#32 := by
  decide +kernel
theorem test_vote_of_no_lane :
    let g : Guard := ⟨true, 0#3⟩
    let s := ready.setP 0 0 0 0xFFFFFFFF#32
    (nextOr s (exec (.ballot always 0#8 0#8) s)).sr 0 0 0 = 0xFFFFFFFF#32 ∧ (s.ctx me g).live = 0#32 := by decide +kernel
theorem test_match : ((ranOn (.matchLanes always 0#8 1#8 false) [(1, 7)] []).v 0 0 0 0 = 1#32) ∧
    ((ranOn (.matchLanes always 0#8 1#8 false) [(1, 7)] []).v 0 0 5 0 = 0xFFFFFFFE#32) := by decide +kernel
theorem test_bra_target : ((ranOn (.bra always false 0xFFFFFFFE#32) [] []).grp 0 0).frontier.map (·.hdr) = [0xFFF8#64] := by decide +kernel
theorem test_call_link : (ranOn (.call always false ⟨true, 2#8⟩ 0#32) [] []).sr64 0 0 2 = 0x10010#64 := by decide +kernel
theorem test_loop_count : (ranOn (.loop always false ⟨true, 2#8⟩ 0#32) [] [(2, 1)]).sr 0 0 2 = 0#32 := by decide +kernel
theorem test_exit_ends_lanes : ((ranOn (.exit always) [] []).grp 0 0).liveMask = 0#32 := by decide +kernel
theorem test_sts_bytes : (ranOn (.sts always 1#8 0#8 2#2 2#4 8#14) [(1, 0xABCD1234)] []).poolBytes 0 0x10008 2 = [0#8, 0#8] := by decide +kernel
theorem test_lds_sign :
    let s := ready.setPoolBytes 0 0x10000 [0x80#8]
    (nextOr s (exec (.lds always 1#8 0#8 3#2 1#4 0#14) s)).v 0 0 0 1 = 0xFFFFFF80#32 := by decide +kernel
theorem test_atoms_lane_order :
    let t := ranOn (.atoms always 1#8 0#8 2#8 0#8 3#2 0#4 1#3 false 0#10) [(2, 5)] []
    t.v 0 0 1 1 = 5#32 ∧ t.v 0 0 0 1 = 0#32 := by decide +kernel
theorem test_st_access : (ranOn (.st always 1#8 0#8 0#8 0#2 4#4 0#2 0#14) [(1, 0x01020304)] [(0, 0x4000)]).accesses.head?.map (fun a => (a.pa, a.data)) =
    some (0x4000, [4#8, 3#8, 2#8, 1#8]) := by decide +kernel
theorem test_srd_lane : (ranOn (.srd always ⟨false, 1#8⟩ 0#8) [] []).v 0 0 31 1 = 31#32 := by decide +kernel
theorem test_swr_in_user_mode_needs_handler : ((ranOn (.swr always 0x19#8 2#8) [] [(2, 9)]).grp 0 0).xlane = 9#32 := by decide +kernel
theorem test_home_store :
    let s := { ready with accesses := [{ id := 5, kind := .store, pa := 0x4000, n := 4, data := leBytes 4 0x0A0B0C0D }] }.onEvent [5]
    (nextOr s (exec .homeRequest s)).bytes 0x4000 4 = [0x0D#8, 0x0C#8, 0x0B#8, 0x0A#8] := by decide +kernel
theorem test_home_atomic :
    let s := { ready.words [(0x4000, 9)] with accesses := [{ id := 5, kind := .atomic 0, pa := 0x4000, n := 4, data := leBytes 4 5 }] }.onEvent [5]
    let t := nextOr s (exec .homeRequest s)
    t.bytes 0x4000 4 = leBytes 4 14 ∧ (t.access 5).map (·.value) = some (leBytes 4 9) := by decide +kernel
theorem test_load_data_sign :
    let s := { ready with accesses := [{ id := 5, pa := 0x4000, n := 1, value := [0x80#8], done := true, sext := true, dest := .vec ⟨0, 3⟩ 7 }] }.onEvent [5]
    (nextOr s (exec .loadDataWritten s)).v 0 0 3 7 = 0xFFFFFF80#32 := by decide +kernel
/-- FIPS 180-4's example of one block, "abc"; the reviewed value stands in that standard, not in spec/. -/
theorem test_sha256_abc :
    sha256 [0x61#8, 0x62#8, 0x63#8] = beBytes 32 0xBA7816BF8F01CFEA414140DE5DAE2223B00361A396177A9CB410FF61F20015AD := by decide +kernel
theorem test_firmware_unsigned : Firmware.verifies { image := [], key := (0, 0), sig := (0, 0) } = false := by
  have h : ecdsaVerifies (0, 0) (sha256 []) 0 0 = false := by decide +kernel
  simp [Firmware.verifies, h]
theorem test_stage_write :
    let s := ready.onEvent [1, 3]
    (nextOr s (exec .stageWrite s)).ctlReg 0x3008 = 3#64 := by decide +kernel

/-! ### Witnesses of the statements about instructions and hardware steps -/

theorem witness_LogicAndMoveResults :
    (let s : State := ready; let n : Issuer := me; let g : Guard := ⟨false, 7#3⟩; let d : VS := ⟨false, 0#8⟩; let a : VS := ⟨false, 0#8⟩
     let b : VS := ⟨false, 0#8⟩; let rd : BitVec 8 := 0#8; let ra : BitVec 8 := 0#8; let pc : BitVec 8 := 0#8; let lit : Word := 0#32
     let sc : Bool := false
     s.runs n (.and g d a b) ∧ s.runs n (.andL g sc rd ra lit) ∧ s.runs n (.or g d a b) ∧ s.runs n (.orL g sc rd ra lit) ∧
     s.runs n (.xor g d a b) ∧ s.runs n (.xorL g sc rd ra lit) ∧ s.runs n (.andn g d a b) ∧ s.runs n (.andnL g sc rd ra lit) ∧
     s.runs n (.not g d a) ∧ s.runs n (.sel g rd a b pc) ∧ s.runs n (.mov g d a false) ∧ s.runs n (.mov g d a true) ∧
     s.runs n (.movL g sc rd lit)) :=
  by decide +kernel

theorem witness_PredicateResults :
    (let s : State := ready; let n : Issuer := me; let g : Guard := ⟨false, 7#3⟩; let a : VS := ⟨false, 0#8⟩; let b : VS := ⟨false, 0#8⟩
     let pd : BitVec 8 := 0#8; let pa : BitVec 8 := 0#8; let pb : BitVec 8 := 0#8; let pc : BitVec 8 := 0#8; let lut : BitVec 8 := 0#8
     let ra : BitVec 8 := 0#8; let lit : Word := 0#32; let sc : Bool := false; let cl : BitVec 3 := 0#3; let ty : BitVec 2 := 0#2
     s.runs n (.plop g pd pa pb pc lut) ∧ s.runs n (.fcmp g pd a b ty cl) ∧ s.runs n (.fcmpL g sc pd ra lit cl) ∧ s.runs n (.hinSub g pd a b)) :=
  by decide +kernel

theorem witness_LaneExchangeResults :
    (let s : State := ready; let n : Issuer := me; let g : Guard := ⟨false, 7#3⟩; let b : VS := ⟨false, 0#8⟩; let c : VS := ⟨false, 0#8⟩
     let rd : BitVec 8 := 0#8; let ra : BitVec 8 := 0#8; let k : BitVec 2 := 0#2; let w : BitVec 3 := 0#3; let n5 : BitVec 5 := 0#5
     let n6 : BitVec 6 := 0#6; let y : Bool := false; let f : Bool := false
     s.runs n (.qswp g rd ra k false f c) ∧ s.runs n (.qbcst g rd ra k false f c) ∧ s.runs n (.shfl g rd ra b w y false f c) ∧
     s.runs n (.lshf g rd ra b w y false f c) ∧ s.runs n (.qswp g rd ra k true f c) ∧ s.runs n (.qbcst g rd ra k true f c) ∧
     s.runs n (.shfl g rd ra b w y true f c) ∧ s.runs n (.lshf g rd ra b w y true f c) ∧ s.runs n (.shflL g rd ra n5 y w) ∧
     s.runs n (.lshfL g rd ra n6 y w)) :=
  by decide +kernel

theorem witness_VoteAndFoldResults :
    (let s : State := ready; let n : Issuer := me; let g : Guard := ⟨false, 7#3⟩; let c : VS := ⟨false, 0#8⟩; let sd : BitVec 8 := 0#8
     let sb : BitVec 8 := 0#8; let rd : BitVec 8 := 0#8; let ra : BitVec 8 := 0#8; let pa : BitVec 8 := 0#8; let n5 : BitVec 5 := 0#5
     let op : BitVec 2 := 0#2; let excl : Bool := false; let y : Bool := false; let f : Bool := false; let id : Bool := false; let x := s.ctx n g
     s.runs n (.rdlane g sd ra sb false f c) ∧ x.live ≠ 0#32 ∧ s.runs n (.rdlane g sd ra sb true f c) ∧ s.runs n (.rdlaneL g sd ra n5) ∧
     s.runs n (.lpfx g rd ra op excl y) ∧ s.runs n (.segadd g rd ra pa y) ∧ s.runs n (.lcomp g sd pa id) ∧ x.g.frontier.length = 1 ∧
     x.g.parked = [] ∧ s.scoreboardEmpty x.c x.p = true) :=
  by decide +kernel

theorem witness_FloatResults :
    (let s : State := ready; let n : Issuer := me; let g : Guard := ⟨false, 7#3⟩; let d : VS := ⟨false, 0#8⟩; let a : VS := ⟨false, 0#8⟩
     let b : VS := ⟨false, 0#8⟩; let c : VS := ⟨false, 0#8⟩; let rd : BitVec 8 := 0#8; let ra : BitVec 8 := 0#8; let lit : Word := 0#32
     let ty : BitVec 2 := 0#2; let rm : BitVec 2 := 0#2; let sc : Bool := false; let na : Bool := false; let nb : Bool := false
     let nc : Bool := false
     s.runs n (.fadd g d a b ty rm na nb) ∧ s.runs n (.fmul g d a b ty rm na nb) ∧ s.runs n (.ffma g d a b c ty rm na nb nc) ∧
     s.runs n (.fmin g d a b ty) ∧ s.runs n (.fmax g d a b ty) ∧ s.runs n (.frnd g d a ty rm) ∧ s.runs n (.faddL g sc rd ra lit rm) ∧
     s.runs n (.fmulL g sc rd ra lit rm) ∧ s.runs n (.fminL g sc rd ra lit) ∧ s.runs n (.fmaxL g sc rd ra lit) ∧ s.runs n (.fclass g d a 0#2) ∧
     s.runs n (.fclass g d a 1#2) ∧ s.runs n (.fclass g d a 2#2) ∧ s.runs n (.fclass g d a 3#2) ∧ s.runs n (.fscale g d a b ty rm) ∧
     s.runs n (.fdot2 g d a b c ty rm na nb nc) ∧ s.runs n (.srcp g d a) ∧ s.runs n (.srsq g d a) ∧ s.runs n (.ssqrt g d a) ∧
     s.runs n (.sexp2 g d a) ∧ s.runs n (.slog2 g d a) ∧ s.runs n (.ssin g d a) ∧ s.runs n (.scos g d a) ∧ s.runs n (.stanh g d a)) :=
  by decide +kernel

theorem witness_ConversionResults :
    (let s : State := ready; let n : Issuer := me; let g : Guard := ⟨false, 7#3⟩; let d : VS := ⟨false, 0#8⟩; let a : VS := ⟨false, 0#8⟩
     let b : VS := ⟨false, 0#8⟩; let rd : BitVec 8 := 0#8; let ra : BitVec 8 := 0#8; let rq : BitVec 8 := 0#8; let nn : BitVec 8 := 0#8
     let df : BitVec 4 := 0#4; let sf : BitVec 4 := 0#4; let rm : BitVec 2 := 0#2; let sp : BitVec 2 := 0#2; let dp : BitVec 2 := 0#2
     let sat : Bool := false
     s.runs n (.cvf g d a df sf rm sat sp dp) ∧ s.runs n (.cvi g d a df sf rm sp dp) ∧ s.runs n (.cvn g rd ra rq df sf rm sat dp) ∧
     s.runs n (.cvsh g d a b dp) ∧ s.runs n (.dcsh g d a b sp) ∧ s.runs n (.qclr g nn) ∧ s.runs n (.qmov g rd ra true) ∧
     s.runs n (.qmov g rd ra false)) :=
  by decide +kernel

theorem witness_HatchResults :
    (let n : Issuer := me; let g : Guard := ⟨false, 7#3⟩; let d : VS := ⟨false, 0#8⟩; let a : VS := ⟨false, 0#8⟩; let b : VS := ⟨false, 0#8⟩
     let pd : BitVec 8 := 0#8; let k : BitVec 2 := 0#2
     let s : State := ready.withCore fun k => { k with slots := [(0, { owner := some 0 })] }
     let f64 : Bool := false; let x := s.ctx n g
     s.runs n (.hadd g d a b k) ∧ s.slotPending x.c x.p k.toNat = false ∧ (aget {} (s.core x.c).slots k.toNat).owner = some x.g.node ∧
     s.runs n (.hsub g d a b k) ∧ s.runs n (.hmul g d a b k) ∧ s.runs n (.hdiv g d a b k) ∧ s.runs n (.hneg g d a k) ∧ s.runs n (.hrcp g d a k) ∧
     s.runs n (.hsq g d a k) ∧ s.runs n (.hfrom g d a k f64) ∧ s.runs n (.htof g d a k) ∧ s.runs n (.hinFlt g pd a b k f64)) ∧
    (let s : State := ready; let n : Issuer := me; let g : Guard := ⟨false, 7#3⟩; let d : VS := ⟨false, 0#8⟩; let a : VS := ⟨false, 0#8⟩
     let b : VS := ⟨false, 0#8⟩
     s.runs n (.huni g d a b) ∧ s.runs n (.hcap g d a b) ∧ s.runs n (.harc g d a) ∧ s.runs n (.hexp g d a) ∧ s.runs n (.hcnt g d a true) ∧
     s.runs n (.hcnt g d a false)) :=
  ⟨by decide +kernel,
   by decide +kernel⟩

theorem witness_TransferResults :
    (let s : State := ready; let n : Issuer := me; let g : Guard := ⟨false, 7#3⟩; let a : VS := ⟨false, 0#8⟩; let d : VS := ⟨false, 0#8⟩
     let ofs : BitVec 32 := 0#32; let st : BitVec 3 := 0#3; let hint : Bool := false; let f64 : Bool := false
     s.runs n (.nop g) ∧ s.runs n (.bra g hint ofs) ∧ s.runs n (.brx g a) ∧ s.runs n (.call g hint a ofs) ∧ s.runs n (.callx g d a) ∧
     s.runs n (.ret g a) ∧ s.runs n (.loop g hint a ofs) ∧ s.runs n (.exit g) ∧ s.runs n (.iter g hint f64 st a ofs)) :=
  by decide +kernel

theorem witness_RejoinAndRegroupResults :
    (let s : State := ready; let n : Issuer := me; let g : Guard := ⟨false, 7#3⟩; let j : BitVec 8 := 0#8; let sa : BitVec 8 := 0#8
     let sb : BitVec 8 := 0#8; let sd : BitVec 8 := 0#8; let pd : BitVec 8 := 0#8; let mask : BitVec 32 := 0#32; let k : BitVec 3 := 0#3
     let sel : BitVec 2 := 0#2; let ns : Bool := false; let x := s.ctx n g; let r := s.jreg x.c x.p j.toNat
     let park := if r.armed then x.live &&& r.exp else 0#32
     s.runs n (.jarm g j sa sb ns) ∧ x.live ≠ 0#32 ∧ r.arr = 0#32 ∧ s.runs n (.jarmL g j mask k) ∧ s.runs n (.jwait g pd j) ∧ park = 0#32 ∧
     s.runs n (.jdrop g j) ∧ s.runs n (.jqry g sd j sel)) ∧
    (let s : State := ready.setJreg 0 0 0 { armed := true, exp := 0xFFFFFFFF#32, tmo := 256 }
     let n : Issuer := me; let g : Guard := ⟨false, 7#3⟩; let j : BitVec 8 := 0#8; let pd : BitVec 8 := 0#8; let x := s.ctx n g
     let r := s.jreg x.c x.p j.toNat; let park := if r.armed then x.live &&& r.exp else 0#32
     s.runs n (.jwait g pd j) ∧ park ≠ 0#32) ∧
    (let s : State := ready; let n : Issuer := me; let g : Guard := ⟨false, 7#3⟩; let sa : BitVec 8 := 0#8; let pb : BitVec 8 := 0#8
     let num : BitVec 32 := 0#32; let ns : Bool := false; let x := s.ctx n g; let h := s.grp x.c x.p
     let sleep := fun (k : Nat) =>
       if min k (2 ^ 24 - 1) = 0 then s
       else if ns then (x.hold [.sleepUntil (s.dtime + min k (2 ^ 24 - 1))] s).timer false (s.dtime + min k (2 ^ 24 - 1)) .sleepExpiry [x.c, x.p]
       else x.hold [.sleepCycles (min k (2 ^ 24 - 1))] s
     s.runs n (.regrp g sa pb) ∧ h.frontier.length = 1 ∧ h.parked = [] ∧ s.scoreboardEmpty x.c x.p = true ∧
     (∀ o ∈ (s.blkAt x.c h.slot).owed, o.1.getLsbD h.bgrp = false) ∧ s.runs n (.yield g) ∧ x.live ≠ 0#32 ∧ s.runs n (.sleep g sa ns) ∧
     s.runs n (.sleepL g num ns)) ∧
    (let s : State := (ready.withBlk fun b => { b with regroups := [1#32] }).sregs [(0, 1)]
     let n : Issuer := me; let g : Guard := ⟨false, 7#3⟩; let sa : BitVec 8 := 0#8; let x := s.ctx n g; let h := s.grp x.c x.p
     s.runs n (.ungrp g sa) ∧ (s.blkAt x.c h.slot).regroups.contains (x.sreg s sa) = true ∧ (x.sreg s sa).getLsbD h.bgrp = true) ∧
    (let s : State := ready.withBlk fun b => { b with owed := [(1#32, 5)] }
     let n : Issuer := me; let g : Guard := ⟨false, 7#3⟩; let sa : BitVec 8 := 0#8; let pb : BitVec 8 := 0#8; let code : Nat := 5
     let x := s.ctx n g; let h := s.grp x.c x.p; let pos := nextPos x.e.hdr x.e.idx n.count
     let gone := s.setGrp x.c x.p { h with
       frontier := [], regrp := some (x.e.hdr, x.e.idx, x.sreg s sa, pb.toNat),
       parked := [{ kind := .regrp, mask := x.e.mask, hdr := pos.1, idx := pos.2, src := x.pc }] }
     s.runs n (.regrp g sa pb) ∧ h.frontier.length = 1 ∧ h.parked = [] ∧ s.scoreboardEmpty x.c x.p = true ∧
     (gone.takeOwed x.c x.p).1 = some code) :=
  by refine ⟨?_, ?_, ?_, ?_, ?_⟩ <;> decide +kernel

theorem witness_MemoryAccessResults :
    (let s : State := ready; let n : Issuer := me; let g : Guard := ⟨false, 7#3⟩; let data : BitVec 8 := 0#8; let base : BitVec 8 := 0#8
     let idx : BitVec 8 := 0#8; let opd : BitVec 8 := 0#8; let cmp : BitVec 8 := 0#8; let form : BitVec 2 := 0#2; let nl1 : BitVec 2 := 0#2
     let w : BitVec 4 := 0#4; let aop : BitVec 4 := 0#4; let scope : BitVec 3 := 0#3; let w64 : Bool := false; let ofs : BitVec 14 := 0#14
     let ofa : BitVec 10 := 0#10; let pa : Nat → Nat := fun _ => 0; let x := s.ctx n g; let at_ := fun l => x.addr s form base idx ofs l
     let ata := fun l => x.addr s form base 0#8 ofa l; let na := if w64 then 8 else 4
     let maps := fun (write : Bool) (va : Nat → DWord) (m : Nat) => ∀ l ∈ x.todo,
       s.translate x.c (s.launchOf x.c x.p).context { write := write, handler := x.g.handler } (va l) = .ok (pa l) ∧
       (write = true → s.holdsCode (pa l) m = false)
     let lines := (lanesOf x.live).filterMap fun l => match x.elemPhys false (at_ l) s with
       | .error _ => none
       | .ok pa => some pa
     let room := fun (as : Nat → Access) => s.linesFull x.c (linesOf (x.todo.map as)) = false
     let load := fun (l : Nat) => ({ x.baseAccess s with
       lane := l, pa := pa l, n := widthBytes w, dest := .vec (x.g.placeOf x.p l) data.toNat, sext := signedWidth w, nl1 := nl1 == 1#2,
       addr := at_ l } : Access)
     let store := fun (l : Nat) => ({ x.baseAccess s with
       lane := l, kind := .store, pa := pa l, n := widthBytes w, data := x.laneBytes s l (widthBytes w) data.toNat, nl1 := nl1 == 1#2,
       addr := at_ l, afterRel := s.gatesOf x.c x.p x.e.mask } : Access)
     let atomic := fun (l : Nat) => ({ x.baseAccess s with
       lane := l, kind := .atomic aop.toNat, pa := pa l, n := na, data := x.opdBytes s w64 opd l, cmp := x.opdBytes s w64 cmp l,
       dest := .vec (x.g.placeOf x.p l) data.toNat, scope := scope.toNat, addr := ata l,
       afterRel := s.gatesOf x.c x.p x.e.mask } : Access)
     (s.runs n (.ld g data base idx form w nl1 ofs) ∧ x.live ≠ 0#32 ∧ w ≠ 7#4 ∧ (∀ l ∈ x.todo, (at_ l).toNat % widthBytes w = 0) ∧ room load ∧
     s.runs n (.st g data base idx form w nl1 ofs) ∧ room store ∧ s.runs n (.atom g data base opd cmp form aop scope w64 ofa) ∧
     (∀ l ∈ x.todo, (ata l).toNat % na = 0) ∧ room atomic ∧ s.runs n (.ldk g data base w ofs) ∧
     (x.addr s 0#2 base 0#8 ofs 0).toNat % widthBytes w = 0 ∧ s.linesFull x.c 1 = false ∧ s.runs n (.pref g base idx form 1#2 ofs) ∧
     s.linesFull x.c (lines.map lineOf).eraseDups.length = false ∧ s.runs n (.pref g base idx form 0#2 ofs)) ∧ maps false at_ 0 ∧
     maps true at_ (widthBytes w) ∧ maps true ata na ∧
     s.translate x.c (s.launchOf x.c x.p).context { handler := x.g.handler } (x.addr s 0#2 base 0#8 ofs 0) = .ok (pa 0)) ∧
    (let s : State := ready.setCtl 0x2000 0x8000000000000000#64; let n : Issuer := me; let g : Guard := ⟨false, 7#3⟩; let data : BitVec 8 := 0#8
     let base : BitVec 8 := 0#8; let idx : BitVec 8 := 0#8; let form : BitVec 2 := 0#2; let nl1 : BitVec 2 := 0#2; let ofs : BitVec 14 := 0#14
     let pa : Nat → Nat := fun _ => 0; let k : Nat → Fwin := fun _ => s.fwin 0; let x := s.ctx n g
     let at_ := fun l => x.addr s form base idx ofs l
     let maps := fun (write : Bool) (va : Nat → DWord) (m : Nat) => ∀ l ∈ x.todo,
       s.translate x.c (s.launchOf x.c x.p).context { write := write, handler := x.g.handler } (va l) = .ok (pa l) ∧
       (write = true → s.holdsCode (pa l) m = false)
     let room := fun (as : Nat → Access) => s.linesFull x.c (linesOf (x.todo.map as)) = false
     let wload := fun (k : Nat → Fwin) (l : Nat) => ({ x.baseAccess s with
       lane := l, pa := pa l, n := (k l).size, dest := .vec (x.g.placeOf x.p l) data.toNat, sext := false, nl1 := nl1 == 1#2,
       addr := at_ l,
       win := some ((k l).fmt, if (k l).scl then some ((k l).scale + 4 * ((pa l - (k l).lo) / (k l).size / 128)) else none) } : Access)
     (s.runs n (.ld g data base idx form 7#4 nl1 ofs) ∧ x.live ≠ 0#32 ∧ (∀ l ∈ x.todo, s.windowAt (pa l) = some (k l) ∧ pa l % (k l).size = 0) ∧
     room (wload k)) ∧ maps false at_ 0) :=
  ⟨⟨by decide +kernel, mapped (by decide +kernel) (by decide +kernel), mapped (by decide +kernel) (by decide +kernel), mapped (by decide +kernel) (by decide +kernel), okIs_eq (by decide +kernel)⟩,
   ⟨by decide +kernel, mapped (by decide +kernel) (by decide +kernel)⟩⟩

theorem witness_PoolAccessResults :
    (let s : State := ready; let n : Issuer := me; let g : Guard := ⟨false, 7#3⟩; let data : BitVec 8 := 0#8; let base : BitVec 8 := 0#8
     let opd : BitVec 8 := 0#8; let cmp : BitVec 8 := 0#8; let form : BitVec 2 := 0#2; let w : BitVec 4 := 0#4; let aop : BitVec 4 := 0#4
     let scope : BitVec 3 := 0#3; let w64 : Bool := false; let ofs : BitVec 14 := 0#14; let ofa : BitVec 10 := 0#10; let x := s.ctx n g
     let at_ := x.poolAddr s form base ofs; let ata := x.poolAddr s form base ofa; let idx := x.winIndex s form base ofs
     let na := if w64 then 8 else 4
     s.runs n (.lds g data base form w ofs) ∧ x.sliceFault false (widthBytes w) at_ s = none ∧ s.loadsFree x.c x.p x.e.mask = true ∧
     x.sliceHeld false (widthBytes w) at_ s = false ∧ s.runs n (.sts g data base form w ofs) ∧ x.sliceFault true (widthBytes w) at_ s = none ∧
     s.storesFree x.c x.p x.e.mask = true ∧ x.sliceHeld true (widthBytes w) at_ s = false ∧
     s.runs n (.atoms g data base opd cmp form aop scope w64 ofa) ∧ x.sliceFault true na ata s = none ∧ x.sliceHeld true na ata s = false ∧
     s.runs n (.ldp g data base form ofs) ∧ (∀ l ∈ lanesOf x.live, idx l < (s.launchOf x.c x.p).priv) ∧
     s.linesFull x.c (x.privLines s idx) = false ∧ x.privPinned s idx false = [] ∧ s.runs n (.stp g data base form ofs) ∧
     x.privPinned s idx true = [] ∧ (∀ l ∈ x.todo, s.holdsCode (s.privAddr x.c x.p l (idx l)) 4 = false)) :=
  by decide +kernel

theorem witness_TranslationAndExtensionResults :
    (let s : State := ready; let n : Issuer := me; let g : Guard := ⟨false, 7#3⟩; let d : VS := ⟨false, 0#8⟩; let a : VS := ⟨false, 0#8⟩
     s.runs n (.xlat g d a)) ∧
    (let n : Issuer := me; let g : Guard := ⟨false, 7#3⟩
     let s : State := (ready.withGrp fun g => { g with baseRegs := 32 }).sregs [(0, 7)]
     let sd : BitVec 8 := 0#8; let sa : BitVec 8 := 0#8; let tr : Bool := false; let x := s.ctx n g; let k := (x.sreg s sa).toNat
     s.runs n (.xacq g sd sa tr) ∧ x.live ≠ 0#32 ∧ x.e.note = [] ∧ 1 ≤ k ∧ k ≤ 7 ∧ x.g.count + 32 * k ≤ 256 ∧ 4096 * k ≤ s.reserve x.c x.p ∧
     4096 * k ≤ s.reserveFree x.c x.p ∧ (tr = true ∨ s.xwaiting x.c = [])) ∧
    (let n : Issuer := me; let g : Guard := ⟨false, 7#3⟩
     let s : State := (ready.withGrp fun g => { g with baseRegs := 32, ext := 7 }).sregs [(0, 7)]
     let sa : BitVec 8 := 0#8; let x := s.ctx n g; let k := (x.sreg s sa).toNat
     s.runs n (.xrel g sa) ∧ x.live ≠ 0#32 ∧ 1 ≤ k ∧ k ≤ x.g.ext ∧ (∀ r ∈ s.pendingV x.c x.p, r < x.g.count - 32 * k)) :=
  by refine ⟨?_, ?_, ?_⟩ <;> decide +kernel

theorem witness_OrderingResults :
    (let s : State := ready; let n : Issuer := me; let g : Guard := ⟨false, 7#3⟩; let sd : BitVec 8 := 0#8; let scope : BitVec 3 := 0#3
     let ord : Bool := false; let x := s.ctx n g; let rel := fun (sc : Nat) => s.startRelease x.c x.p sc
     s.runs n (.fence g scope) ∧ x.live ≠ 0#32 ∧ s.runs n (.rel g scope) ∧ s.runs n (.acq g scope) ∧ s.runs n (.dtime g sd ord) ∧
     (ord = true → x.e.note = [] ∧ s.openAll x.g.uid = []) ∧ s.runs n (.wct g sd) ∧ x.e.note = [] ∧ s.openStores x.g.uid = []) ∧
    (let s : State := ready.sregs [(0, 32)]; let n : Issuer := me; let g : Guard := ⟨false, 7#3⟩; let a : VS := ⟨true, 0#8⟩
     let k : BitVec 4 := 0#4; let sync : Bool := false; let cnt : Bool := true; let x := s.ctx n g
     s.runs n (.bar g a k sync cnt) ∧ x.live ≠ 0#32 ∧ x.g.handler = false ∧ x.e.note = [] ∧ (cnt = true → 1 ≤ (x.sreg s a.n).toNat ∧
     (x.sreg s a.n).toNat ≤ 32)) ∧
    (let s : State := ready.noting [0xF8, 0, 32]; let n : Issuer := me; let g : Guard := ⟨false, 7#3⟩; let a : VS := ⟨true, 0#8⟩
     let k : BitVec 4 := 0#4; let sync : Bool := false; let cnt : Bool := true; let id : Nat := 0; let count : Nat := 32; let x := s.ctx n g
     let b := aget {} (s.blkAt x.c x.g.slot).bars k.toNat; let want := if cnt then some count else none
     s.runs n (.bar g a k sync cnt) ∧ x.live ≠ 0#32 ∧ x.g.handler = false ∧ x.e.note = [0xF8, id, count] ∧ s.relOpen id = false ∧
     s.storesFree x.c x.p x.e.mask = true ∧ b.arr.getLsbD x.g.bgrp = false ∧ (b.arr = 0#32 ∨ b.explicit = want)) :=
  by refine ⟨?_, ?_, ?_⟩ <;> decide +kernel

theorem witness_BarrierObjectResults :
    (let s : State := ready.sregs [(1, 32767)]; let n : Issuer := me; let g : Guard := ⟨false, 7#3⟩; let b : VS := ⟨true, 1#8⟩
     let sa : BitVec 8 := 0#8; let x := s.ctx n g; let ofs := (x.sreg s sa).toNat; let q := s.scrSlice x.c x.g.slot; let a := q.1 + ofs
     let reaches := fun (ofs : Nat) => scrFault q.2 ofs 8 8 = none ∧ s.engineHold x.g.uid s.nextId true true (q.1 + ofs) 8 = false
     let reach := reaches ofs; let count := (x.sreg s b.n).toNat
     s.runs n (.boinit g sa b false) ∧ x.live ≠ 0#32 ∧ s.storesFree x.c x.p x.e.mask = true ∧ reach ∧
     (s.tagged x.c a && s.objWaiters x.c x.g.slot a) = false ∧ 1 ≤ count ∧ count ≤ 32767) ∧
    (let s : State := ({ ready with tags := [poolKey 0 0x10000] }.setPoolBytes 0 0x10000 (BarObj.image ⟨false, 1#15, 1#15, 0⟩))
     let n : Issuer := me; let g : Guard := ⟨false, 7#3⟩; let b : VS := ⟨false, 0#8⟩; let sd : BitVec 8 := 0#8; let sa : BitVec 8 := 0#8
     let sb : BitVec 8 := 0#8; let x := s.ctx n g; let ofs := (x.sreg s sa).toNat; let q := s.scrSlice x.c x.g.slot; let a := q.1 + ofs
     let reaches := fun (ofs : Nat) => scrFault q.2 ofs 8 8 = none ∧ s.engineHold x.g.uid s.nextId true true (q.1 + ofs) 8 = false
     let reach := reaches ofs
     s.runs n (.boinit g sa b true) ∧ x.live ≠ 0#32 ∧ s.storesFree x.c x.p x.e.mask = true ∧ reach ∧
     (s.tagged x.c a && s.objWaiters x.c x.g.slot a) = false ∧ s.runs n (.bowait g sa sb) ∧ s.loadsFree x.c x.p x.e.mask = true ∧
     s.tagged x.c a = true ∧ s.runs n (.botry g sd sa sb)) ∧
    (let s : State := ({ ready with tags := [poolKey 0 0x10000] }.setPoolBytes 0 0x10000 (BarObj.image ⟨false, 1#15, 1#15, 0⟩)).noting [0xA8, 0, 0, 0]
     let n : Issuer := me; let g : Guard := ⟨false, 7#3⟩; let b : VS := ⟨false, 0#8⟩; let sd : BitVec 8 := 0#8; let sa : BitVec 8 := 0#8
     let tx : Bool := false; let id : Nat := 0; let ofs0 : Nat := 0; let count0 : Nat := 0; let o : BarObj := ⟨false, 1#15, 0#15, 0⟩
     let x := s.ctx n g; let ofs := (x.sreg s sa).toNat; let q := s.scrSlice x.c x.g.slot; let a0 := q.1 + ofs0
     let reaches := fun (ofs : Nat) => scrFault q.2 ofs 8 8 = none ∧ s.engineHold x.g.uid s.nextId true true (q.1 + ofs) 8 = false
     s.runs n (.boarr g sd sa b tx) ∧ x.live ≠ 0#32 ∧ x.e.note = [0xA8, id, ofs0, count0] ∧ s.relOpen id = false ∧
     s.storesFree x.c x.p x.e.mask = true ∧ reaches ofs0 ∧ s.tagged x.c a0 = true ∧
     (s.barObj x.c a0).arrive (if tx then (count0 : Int) else 0) 1 = some o) ∧
    (let s : State := ready; let n : Issuer := me; let g : Guard := ⟨false, 7#3⟩; let sd : BitVec 8 := 0#8; let sa : BitVec 8 := 0#8
     let sb : BitVec 8 := 0#8; let sc : BitVec 8 := 0#8; let cc : BitVec 4 := 0#4; let slice : Bool := false; let pa : Nat := 0
     let v : Word := 0#32; let x := s.ctx n g
     (s.runs n (.fwait g sd sa sb sc cc slice) ∧ x.live ≠ 0#32 ∧ x.e.note = [] ∧ s.loadsFree x.c x.p x.e.mask = true ∧
     (slice = false → s.ownPending x.g.uid pa 4 = false ∧ s.linesFull x.c 1 = false ∧ s.pinnedLines x.c pa 4 = []) ∧
     (slice = true → s.engineHold x.g.uid s.nextId true false pa 4 = false) ∧ fwaitWord slice x pa s = v ∧
     (intCmp cc.toNat v (x.sreg s sb) = true ∨ (x.sreg s sc).toNat = 0)) ∧ fwaitAddr sa slice x s = .ok pa) :=
  by refine ⟨?_, ?_, ?_, ⟨by decide +kernel, okIs_eq (by decide +kernel)⟩⟩ <;> decide +kernel

theorem witness_ChainAndRingLoadResults :
    (let s : State := (ready.sregs [(0, 0x4000)]).words [(0x4000, 0x5000), (0x4010, 0x6000), (0x4018, 1), (0x401C, 0x01000000), (0x4040, 1)]
     let n : Issuer := me; let g : Guard := ⟨false, 7#3⟩; let sd : BitVec 8 := 0#8; let sa : BitVec 8 := 0#8
     let b : List Byte := s.bytes 0x4000 128; let ps : List (Nat × Nat) := [(0x4000, 128)]; let x := s.ctx n g; let d := chainDesc b
     let free := x.g.tokens.length < 16 ∧ ∀ h ∈ s.chains, h.core ≠ x.c ∨ h.part ≠ partOf x.p
     let addr := x.sreg64 s sa
     (s.runs n (.vchain g sd sa) ∧ x.live ≠ 0#32 ∧ free ∧ addr.toNat % 128 = 0 ∧ s.engineFrozen x.c 1 = false ∧ d.bad b = false ∧ d.n ≠ 0 ∧
     d.overlap = false) ∧ x.reads s addr 128 b ps) ∧
    (let s : State := (ready.sregs [(0, 0x4000)]).words [(0x4000, 0x5000), (0x4010, 0x6000), (0x4018, 0), (0x401C, 0x01000000), (0x4040, 1)]
     let n : Issuer := me; let g : Guard := ⟨false, 7#3⟩; let sd : BitVec 8 := 0#8; let sa : BitVec 8 := 0#8
     let b : List Byte := s.bytes 0x4000 128; let ps : List (Nat × Nat) := [(0x4000, 128)]; let x := s.ctx n g; let d := chainDesc b
     let free := x.g.tokens.length < 16 ∧ ∀ h ∈ s.chains, h.core ≠ x.c ∨ h.part ≠ partOf x.p
     let addr := x.sreg64 s sa
     (s.runs n (.vchain g sd sa) ∧ x.live ≠ 0#32 ∧ free ∧ addr.toNat % 128 = 0 ∧ s.engineFrozen x.c 1 = false ∧ d.bad b = false ∧ d.n = 0) ∧
     x.reads s addr 128 b ps) ∧
    (let as : List Access := [{ id := 5, done := true, value := [0, 0x3F800000, 0x40000000, 0x40800000, 0x7F800000, 0xC0800000, 0xC0000000, 0xBF800000].flatMap (leBytes 4) ++ List.replicate 1632 0#8 }]
     let s : State := { ready with accesses := as }.noting [0xA7, 0, 5]
     let n : Issuer := me; let g : Guard := ⟨false, 7#3⟩; let sa : BitVec 8 := 0#8; let k : BitVec 2 := 0#2; let ofs : BitVec 25 := 0#25
     let x := s.ctx n g; let ids := as.map (·.id); let t := as.flatMap (·.value)
     s.runs n (.hring g sa k ofs) ∧ x.live ≠ 0#32 ∧ x.e.note = 0xA7 :: k.toNat :: ids ∧ (∀ a ∈ as, s.access a.id = some a ∧ a.done = true) ∧
     ringValid t = true) :=
  ⟨⟨by decide +kernel, readsB_reads (by decide +kernel)⟩,
   ⟨by decide +kernel, readsB_reads (by decide +kernel)⟩,
   by decide +kernel⟩

theorem witness_CopyAndCardResults :
    (let s : State := ready.sregs [(0, 0x4000), (2, 0x5000), (4, 0x1000)]
     let n : Issuer := me; let g : Guard := ⟨false, 7#3⟩; let sd : BitVec 8 := 0#8; let sa : BitVec 8 := 0#8; let sb : BitVec 8 := 2#8
     let sc : BitVec 8 := 4#8; let sp : BitVec 2 := 0#2; let x := s.ctx n g; let dscr := sp.getLsbD 0; let sscr := sp.getLsbD 1
     let size := (s.scrSlice x.c x.g.slot).2; let d := x.copyOperand s dscr sa; let a := x.copyOperand s sscr sb
     let c := fun (k : Nat) => s.sr x.c x.p (sc.toNat + k); let len := (x.sreg s sc).toNat
     s.runs n (.acopy g sd sa sb sc sp) ∧ x.live ≠ 0#32 ∧ copyBad size dscr sscr d a 1 len len len = false ∧ x.g.tokens.length < 16 ∧
     s.engineFrozen x.c 3 = false) ∧
    (let s : State := ready.sregs [(0, 0x4000), (2, 0x5000), (4, 2), (5, 16), (6, 32), (7, 32)]
     let n : Issuer := me; let g : Guard := ⟨false, 7#3⟩; let sd : BitVec 8 := 0#8; let sa : BitVec 8 := 0#8; let sb : BitVec 8 := 2#8
     let sc : BitVec 8 := 4#8; let sp : BitVec 2 := 0#2; let x := s.ctx n g; let dscr := sp.getLsbD 0; let sscr := sp.getLsbD 1
     let size := (s.scrSlice x.c x.g.slot).2; let d := x.copyOperand s dscr sa; let a := x.copyOperand s sscr sb
     let c := fun (k : Nat) => s.sr x.c x.p (sc.toNat + k)
     s.runs n (.acopyt g sd sa sb sc sp) ∧ x.live ≠ 0#32 ∧ (c 1).toNat ≤ 65536 ∧
     copyBad size dscr sscr d a (c 0).toNat (c 1).toNat (c 2).toInt (c 3).toInt = false ∧ x.g.tokens.length < 16 ∧ s.engineFrozen x.c 3 = false) ∧
    (let s : State := ready.sregs [(0, 0x4000), (4, 8)]; let n : Issuer := me; let g : Guard := ⟨false, 7#3⟩; let sd : BitVec 8 := 0#8
     let sa : BitVec 8 := 0#8; let sc : BitVec 8 := 4#8; let vb : BitVec 8 := 248#8; let x := s.ctx n g
     let c := fun (k : Nat) => s.sr x.c x.p (sc.toNat + k); let len := (x.sreg s sc).toNat; let addr := x.sreg64 s sa
     s.runs n (.asto g sd sa vb sc) ∧ x.live ≠ 0#32 ∧ len ≠ 0 ∧ len ≤ 8 ∧ addr.toNat % 128 = 0 ∧ x.g.tokens.length < 16 ∧
     s.engineFrozen x.c 3 = false) ∧
    (let s : State := (ready.sregs [(1, 1)]).setPoolBytes 0 0x10000 ([0x4000, 0, 0x5000, 0, 64, 0, 0, 0, 0, 0xFFFFFFFF].flatMap (leBytes 4))
     let n : Issuer := me; let g : Guard := ⟨false, 7#3⟩; let sa : BitVec 8 := 0#8; let sb : BitVec 8 := 1#8; let sc : BitVec 8 := 0#8
     let x := s.ctx n g; let base := (s.scrSlice x.c x.g.slot).1; let size := (s.scrSlice x.c x.g.slot).2
     let c := fun (k : Nat) => s.sr x.c x.p (sc.toNat + k); let ofs := (x.sreg s sa).toNat; let count := (x.sreg s sb).toNat
     let cards := (List.range count).map fun k => s.poolBytes x.c (base + ofs + 64 * k) 64
     s.runs n (.kick g sa sb) ∧ x.live ≠ 0#32 ∧ ofs % 64 = 0 ∧ count ≠ 0 ∧ count ≤ 256 ∧ s.loadsFree x.c x.p x.e.mask = true ∧
     s.engineHold x.g.uid s.nextId true false (base + ofs) (64 * count) = false ∧ s.engineFrozen x.c 3 = false ∧ ofs + 64 * count ≤ size ∧
     (∀ b ∈ cards, s.cardBad x.c x.g.slot b = false) ∧ (s.cards.filter (·.core == x.c)).length + count ≤ 1024) ∧
    (let s : State := ready; let n : Issuer := me; let g : Guard := ⟨false, 7#3⟩; let sd : BitVec 8 := 0#8; let clr : Bool := false
     let x := s.ctx n g
     s.runs n (.kstat g sd clr) ∧ x.live ≠ 0#32) :=
  by refine ⟨?_, ?_, ?_, ?_, ?_⟩ <;> decide +kernel

theorem witness_HandleGatherAndScatterResults :
    (let n : Issuer := me; let g : Guard := ⟨false, 7#3⟩; let sd : BitVec 8 := 0#8; let sa : BitVec 8 := 0#8; let c : VS := ⟨false, 0#8⟩
     let a : Access := { id := 5, done := true, value := ([0x4000, 0, 16, 0, 0].flatMap (leBytes 4) ++ List.replicate 44 0#8) }
     let s : State := { ready with accesses := [a] }.noting [1, 5, 3]
     let k : Nat := 0; let k1 : Nat := 1; let k3 : Nat := 3; let x := s.ctx n g
     s.runs n (.ghnd g sd sa) ∧ x.live ≠ 0#32 ∧ x.e.note = [k1, a.id, k3] ∧ s.access a.id = some a ∧ a.done = true ∧
     (descOf a.value).bad a.value = false ∧ k < 64 ∧ (s.handle x.c k).owner = none ∧ (∀ m < k, (s.handle x.c m).owner ≠ none)) ∧
    (let s : State := ready.setHandle 0 0 { owner := some 0 }; let n : Issuer := me; let g : Guard := ⟨false, 7#3⟩; let sa : BitVec 8 := 0#8
     let c : VS := ⟨false, 0#8⟩; let x := s.ctx n g; let num := (x.sreg s sa).toNat; let h := s.handle x.c num
     s.runs n (.ghndFree g sa) ∧ x.live ≠ 0#32 ∧ num < 64 ∧ h.owner = some x.g.node) ∧
    (let s : State := ready.setHandle 0 0 { owner := some 0, desc := ([0x4000, 0, 16, 0, 0x200].flatMap (leBytes 4) ++ List.replicate 44 0#8) }
     let n : Issuer := me; let g : Guard := ⟨false, 7#3⟩; let vd : BitVec 8 := 0#8; let sa : BitVec 8 := 0#8; let vb : BitVec 8 := 0#8
     let vc : BitVec 8 := 0#8; let c : VS := ⟨false, 0#8⟩; let nf : Bool := false; let bs : Bool := false; let pa : Nat → Nat := fun _ => 0x4000
     let x := s.ctx n g; let num := (x.sreg s sa).toNat; let h := s.handle x.c num; let d := descOf h.desc
     let i := fun (l : Nat) => (s.v x.c x.p l vb.toNat).toNat + if bs then (x.sreg s c.n).toNat else 0
     let j := fun (l : Nat) => (s.v x.c x.p l vb.toNat).toNat
     let mine := fun (reg : Nat) => x.e.note = [] ∧ x.live ≠ 0#32 ∧ num < 64 ∧ h.owner = some x.g.node ∧
       (d.kind = 0 → d.esz = 3 → (s.pendingV x.c x.p).contains (reg + 1) = false)
     let at_ := fun (i : Nat) => d.base + BitVec.ofNat 64 (i * 2 ^ d.esz)
     let load := fun (l : Nat) => ({ x.baseAccess s with
       lane := l, dest := .vec (x.g.placeOf x.p l) vd.toNat, stip := true, pa := pa l, n := 2 ^ d.esz, addr := at_ (i l),
       sext := d.sgn == 1 } : Access)
     let store := fun (l : Nat) => ({ x.baseAccess s with
       lane := l, kind := .store, data := x.laneBytes s l (2 ^ d.esz) vc.toNat, afterRel := s.gatesOf x.c x.p x.e.mask,
       pa := pa l, n := 2 ^ d.esz, addr := at_ (j l), sext := d.sgn == 1 } : Access)
     let room := fun (as : Nat → Access) => s.linesFull x.c (linesOf (x.gathTodo.map as)) = false
     (s.runs n (.gath g vd sa vb c nf bs) ∧ mine vd.toNat ∧ d.kind = 0 ∧ room load ∧ s.runs n (.scat g sa vb vc nf) ∧ mine vc.toNat ∧
     room store) ∧ (∀ l ∈ x.gathTodo, i l < d.count ∧ (at_ (i l)).toNat % 2 ^ d.esz = 0 ∧ windowOf (pa l) ≠ some .remote ∧
     s.translate x.c (s.launchOf x.c x.p).context { handler := x.g.handler } (at_ (i l)) = .ok (pa l)) ∧ (∀ l ∈ x.gathTodo, j l < d.count ∧
     (at_ (j l)).toNat % 2 ^ d.esz = 0 ∧ windowOf (pa l) ≠ some .remote ∧ s.holdsCode (pa l) (2 ^ d.esz) = false ∧
     s.translate x.c (s.launchOf x.c x.p).context { write := true, handler := x.g.handler } (at_ (j l)) = .ok (pa l))) ∧
    (let s : State := ((ready.setHandle 0 0 { owner := some 0, desc := ([0x4000, 0, 16, 0, 0x101].flatMap (leBytes 4) ++ List.replicate 44 0#8) }).setCtl 0x2000 0x8000000000000000#64).setCtl 0x2008 0x4000#64
     let n : Issuer := me; let g : Guard := ⟨false, 7#3⟩; let vd : BitVec 8 := 0#8; let sa : BitVec 8 := 0#8; let vb : BitVec 8 := 0#8
     let c : VS := ⟨false, 0#8⟩; let nf : Bool := false; let bs : Bool := false; let a : Access := {}; let pa : Nat → Nat := fun _ => 0
     let x := s.ctx n g; let num := (x.sreg s sa).toNat; let h := s.handle x.c num; let d := descOf h.desc
     let i := fun (l : Nat) => (s.v x.c x.p l vb.toNat).toNat + if bs then (x.sreg s c.n).toNat else 0
     let mine := fun (reg : Nat) => x.e.note = [] ∧ x.live ≠ 0#32 ∧ num < 64 ∧ h.owner = some x.g.node ∧
       (d.kind = 0 → d.esz = 3 → (s.pendingV x.c x.p).contains (reg + 1) = false)
     let room := fun (as : Nat → Access) => s.linesFull x.c (linesOf (x.gathTodo.map as)) = false
     let acc : Nat → Access := fun l => match x.gathElem d vd.toNat (i l) l s with | .access a => a | _ => {}
     s.runs n (.gath g vd sa vb c nf bs) ∧ mine vd.toNat ∧ d.kind = 1 ∧ (∀ l ∈ x.gathTodo, x.gathElem d vd.toNat (i l) l s = .access (acc l) ∧
     windowOf (acc l).pa ≠ some .remote) ∧ room acc) ∧
    (let s : State := ready.noting [0xA6, 64]; let n : Issuer := me; let g : Guard := ⟨false, 7#3⟩; let vd : BitVec 8 := 0#8
     let sa : BitVec 8 := 0#8; let vb : BitVec 8 := 0#8; let c : VS := ⟨false, 0#8⟩; let nf : Bool := false; let bs : Bool := false
     let word : Nat → Word := fun _ => 0#32; let x := s.ctx n g; let blocks := deltaOf x.e.note; let read := blocks.2.2.filterMap s.access
     s.runs n (.gath g vd sa vb c nf bs) ∧ x.e.note.head? = some 0xA6 ∧ x.e.note.getD 1 0 = 64 ∧ (∀ q ∈ blocks.2.1, q.1 < 32 ∧
     x.deltaElem blocks.1 read q.2 s = .word (word q.1))) ∧
    (let s : State := { ready with accesses := [{ id := 5, kind := .load, done := true, value := [1#8], n := 1 }] }.noting (gathNote {} none [5])
     let n : Issuer := me; let g : Guard := ⟨false, 7#3⟩; let vd : BitVec 8 := 0#8; let sa : BitVec 8 := 0#8; let vb : BitVec 8 := 0#8
     let c : VS := ⟨false, 0#8⟩; let nf : Bool := false; let bs : Bool := false; let a : Access := {}; let pa : Nat → Nat := fun _ => 0
     let ids : List Nat := [5]; let x := s.ctx n g; let num := (x.sreg s sa).toNat; let h := s.handle x.c num; let d := descOf h.desc
     let i := fun (l : Nat) => (s.v x.c x.p l vb.toNat).toNat + if bs then (x.sreg s c.n).toNat else 0
     let at_ := fun (i : Nat) => d.base + BitVec.ofNat 64 (i * 2 ^ d.esz)
     let load := fun (l : Nat) => ({ x.baseAccess s with
       lane := l, dest := .vec (x.g.placeOf x.p l) vd.toNat, stip := true, pa := pa l, n := 2 ^ d.esz, addr := at_ (i l),
       sext := d.sgn == 1 } : Access)
     let came := ids.filterMap s.access
     let answered := x.e.note = gathNote {} none ids ∧ ∀ a ∈ came, a.done = true ∧ a.lost = false ∧ a.lane < 32
     s.runs n (.gath g vd sa vb c nf bs) ∧ answered ∧ (∀ a ∈ came, a.kind = .load)) ∧
    (let s : State := { ready with accesses := [{ id := 5, kind := .store, done := true, value := [1#8], n := 1 }] }.noting (gathNote {} none [5])
     let n : Issuer := me; let g : Guard := ⟨false, 7#3⟩; let sa : BitVec 8 := 0#8; let vb : BitVec 8 := 0#8; let vc : BitVec 8 := 0#8
     let c : VS := ⟨false, 0#8⟩; let nf : Bool := false; let bs : Bool := false; let a : Access := {}; let pa : Nat → Nat := fun _ => 0
     let ids : List Nat := [5]; let x := s.ctx n g; let num := (x.sreg s sa).toNat; let h := s.handle x.c num; let d := descOf h.desc
     let i := fun (l : Nat) => (s.v x.c x.p l vb.toNat).toNat + if bs then (x.sreg s c.n).toNat else 0
     let j := fun (l : Nat) => (s.v x.c x.p l vb.toNat).toNat
     let at_ := fun (i : Nat) => d.base + BitVec.ofNat 64 (i * 2 ^ d.esz)
     let store := fun (l : Nat) => ({ x.baseAccess s with
       lane := l, kind := .store, data := x.laneBytes s l (2 ^ d.esz) vc.toNat, afterRel := s.gatesOf x.c x.p x.e.mask,
       pa := pa l, n := 2 ^ d.esz, addr := at_ (j l), sext := d.sgn == 1 } : Access)
     let came := ids.filterMap s.access
     let answered := x.e.note = gathNote {} none ids ∧ ∀ a ∈ came, a.done = true ∧ a.lost = false ∧ a.lane < 32
     s.runs n (.scat g sa vb vc nf) ∧ answered ∧ (∀ a ∈ came, a.kind = .store)) ∧
    (let s : State := ready; let n : Issuer := me; let g : Guard := ⟨false, 7#3⟩; let sd : BitVec 8 := 0#8; let sa : BitVec 8 := 0#8
     let code : Bool := false; let x := s.ctx n g
     s.runs n (.gcmr g sd code) ∧ x.live ≠ 0#32 ∧ s.runs n (.gcmw g sa)) :=
  by refine ⟨?_, ?_, ⟨by decide +kernel, gath_mapped (by decide +kernel) (by decide +kernel), scat_mapped (by decide +kernel) (by decide +kernel)⟩, ?_, ?_, ?_, ?_, ?_⟩ <;> decide +kernel

theorem witness_MatrixStepResults :
    (let s : State := ready.sregs [(0, 1)]; let n : Issuer := me; let g : Guard := ⟨false, 7#3⟩; let vq : BitVec 8 := 128#8
     let sa : BitVec 8 := 0#8; let x := s.ctx n g; let set := x.sreg s sa; let k := popCount set
     s.runs n (.mbq g vq sa) ∧ x.live ≠ 0#32 ∧ (k = 1 ∨ k = 2 ∨ k = 4) ∧ set.getLsbD x.g.bgrp = true) ∧
    (let s : State := ready; let n : Issuer := me; let g : Guard := ⟨false, 7#3⟩; let sd : BitVec 8 := 0#8; let m : BitVec 8 := 0#8
     let f64 : Bool := false; let clr : Bool := false; let x := s.ctx n g; let a := s.acc x.c x.p m.toNat
     let bound := (fun (f64 : Bool) => if a.bound then s else s.setAcc x.c x.p m.toNat { bound := true, f64 := f64, flt := a.flt })
     let room := a.bound = true ∨ s.freeBanks x.c ≠ 0; let free := s.guideWaits x.c x.p m.toNat = false
     s.runs n (.mzero g m f64) ∧ x.live ≠ 0#32 ∧ free ∧ room ∧ s.runs n (.mstat g sd m clr)) ∧
    (let n : Issuer := me; let g : Guard := ⟨false, 7#3⟩
     let s : State := ready.withGrp fun g => { g with mbq := some (0, 1#32) }
     let va : BitVec 8 := 128#8; let m : BitVec 8 := 0#8; let ta : BitVec 3 := 0#3; let tb : BitVec 3 := 0#3; let f64 : Bool := false
     let ps : List Nat := [0]; let reg : Nat := 0; let mask : Word := 1#32
     let req : Nat → Nat × MmaReq := fun _ => (0, ⟨1, 0, 128, 0, 0⟩)
     let x := s.ctx n g; let a := s.acc x.c x.p m.toNat
     let bound := (fun (f64 : Bool) => if a.bound then s else s.setAcc x.c x.p m.toNat { bound := true, f64 := f64, flt := a.flt })
     let free := s.guideWaits x.c x.p m.toNat = false
     let mma : MmaReq := { n := x.g.mmaCount + 1, m := m.toNat, va := va.toNat, ta := ta.toNat, tb := tb.toNat }
     let t := x.remember mma.note s
     s.runs n (.mma g m va ta tb) ∧ x.live ≠ 0#32 ∧ x.e.note = [] ∧ x.g.mbq = some (reg, mask) ∧ a.flt.f = false ∧ free ∧
     s.mmaOf x.c x.p = none ∧ s.engineFrozen x.c 4 = false ∧ (lanesOf mask).map (t.groupAt x.c x.g.slot) = ps.map some ∧
     (∀ p ∈ ps, t.mmaOf x.c p = some (req p) ∧ (req p).2.n = mma.n ∧ (req p).2.ta = mma.ta ∧ (req p).2.tb = mma.tb ∧
     ((t.grp x.c p).mbq.map (·.2)) = some mask ∧ (t.acc x.c p (req p).2.m).otherType (mma.ta == 4) = false ∧
     t.guideWaits x.c p (req p).2.m = false ∧ (t.acc x.c p (req p).2.m).flt.f = false ∧ t.mmaStalled x.c p = false) ∧
     ((ps.map fun p => t.acc x.c p (req p).2.m).filter fun a => !a.bound).length ≤ t.freeBanks x.c) ∧
    (let s : State := ready.sregs [(8, 65535)]; let n : Issuer := me; let g : Guard := ⟨false, 7#3⟩; let sa : BitVec 8 := 0#8
     let sb : BitVec 8 := 0#8; let sc : BitVec 8 := 8#8; let m : BitVec 8 := 0#8; let ta : BitVec 3 := 0#3; let tb : BitVec 3 := 0#3
     let f64 : Bool := false; let msk : Bool := false; let x := s.ctx n g; let a := s.acc x.c x.p m.toNat; let set := x.sreg s sa
     let k := popCount set
     let bound := (fun (f64 : Bool) => if a.bound then s else s.setAcc x.c x.p m.toNat { bound := true, f64 := f64, flt := a.flt })
     let room := a.bound = true ∨ s.freeBanks x.c ≠ 0; let free := s.guideWaits x.c x.p m.toNat = false
     let r := fun (k : Nat) => s.sr x.c x.p (sc.toNat + k)
     s.runs n (.mloop g m sa sb sc ta tb msk) ∧ x.live ≠ 0#32 ∧ (r 0).toNat ≠ 0 ∧ (r 0).toNat ≤ 65535 ∧
     (msk = true → (r 0).toNat * stepDepth ta.toNat ≤ x.g.mbits) ∧ a.flt.f = false ∧ a.otherType (ta == 4#3) = false ∧
     s.engineFrozen x.c 4 = false ∧ free ∧ room) ∧
    (let s : State := ready.sregs [(1, 4096)]; let n : Issuer := me; let g : Guard := ⟨false, 7#3⟩; let sa : BitVec 8 := 0#8
     let sb : BitVec 8 := 1#8; let mask : Word := 0#32; let x := s.ctx n g; let ofs := (x.sreg s sa).toNat; let bits := (x.sreg s sb).toNat
     let base := (s.scrSlice x.c x.g.slot).1; let size := (s.scrSlice x.c x.g.slot).2
     s.runs n (.mmask g sa sb) ∧ x.live ≠ 0#32 ∧ 32 ≤ bits ∧ bits ≤ 4096 ∧ bits % 32 = 0 ∧ scrFault size ofs (bits / 8) 4 = none ∧
     s.loadsFree x.c x.p x.e.mask = true ∧ s.engineHold x.g.uid s.nextId true false (base + ofs) (bits / 8) = false) :=
  by refine ⟨?_, ?_, ?_, ?_, ?_⟩ <;> decide +kernel

theorem witness_DrainTwinSketchSaveResults :
    (let s : State := ready.sregs [(0, 7)]; let n : Issuer := me; let g : Guard := ⟨false, 7#3⟩; let d : BitVec 8 := 0#8; let m : BitVec 8 := 0#8
     let sb : BitVec 8 := 0#8; let bf16 : Bool := false; let rel : Bool := false; let x := s.ctx n g; let a := s.acc x.c x.p m.toNat
     let c := (x.sreg s sb).toNat
     let able := c ≤ 7 ∧ a.flt.f = false ∧ (bf16 = true → a.f64 = false) ∧ (rel = true → s.guideWaits x.c x.p m.toNat = false)
     s.runs n (.mdrain g d m sb bf16 rel) ∧ x.live ≠ 0#32 ∧ able) ∧
    (let s : State := ready.sregs [(0, 7)]; let n : Issuer := me; let g : Guard := ⟨false, 7#3⟩; let m : BitVec 8 := 0#8; let sb : BitVec 8 := 0#8
     let sd : BitVec 8 := 1#8; let bf16 : Bool := false; let rel : Bool := false; let r : GuideReq := ⟨0,0,0,0,0,0,0⟩; let x := s.ctx n g
     let a := s.acc x.c x.p m.toNat; let c := (x.sreg s sb).toNat; let base := (s.scrSlice x.c x.g.slot).1; let size := (s.scrSlice x.c x.g.slot).2
     let able := c ≤ 7 ∧ a.flt.f = false ∧ (bf16 = true → a.f64 = false) ∧ (rel = true → s.guideWaits x.c x.p m.toNat = false)
     let rows := (a.chunk c).map (drainRow a.f64 bf16 (x.ftz s))
     let image := fun (ws : List (List Word)) => ws.flatMap fun r => r.flatMap fun w => leBytes 4 w.toNat
     let open_ := fun (seq ofs : Nat) (ws : List (List Word)) => scrFault size ofs (image ws).length 4 = none ∧
       s.clobbers x.c (base + ofs) (image ws).length = false ∧ s.storesFree x.c x.p x.e.mask = true ∧
       s.engineHold x.g.uid seq true true (base + ofs) (image ws).length = false
     s.runs n (.mdrainS g sd m sb bf16 rel) ∧ x.live ≠ 0#32 ∧ able ∧ open_ s.nextId (x.sreg s sd).toNat (rows.map (·.1))) ∧
    (let s : State := twins.noting [0xB6, 0, 1, 0, 0, 0, 0, 0]; let n : Issuer := me; let g : Guard := ⟨false, 7#3⟩; let m : BitVec 8 := 0#8
     let sb : BitVec 8 := 0#8; let sc : BitVec 8 := 0#8; let o : VS := ⟨false, 0#8⟩; let bf16 : Bool := false; let rel : Bool := false
     let q : Nat := 1; let r : GuideReq := ⟨0, 1, 0, 0, 0, 0, 0⟩; let x := s.ctx n g; let c := (x.sreg s sb).toNat
     let pc := s.conditional x.c x.p q; let pu := if pc = q then x.p else q; let ac := s.acc x.c pc r.m; let au := s.acc x.c pu r.m
     let allOver := x.e.note = r.note ∧ s.partner x.c x.p = some q ∧
       (∀ j ∈ s.mjobs, (j.uid = x.g.uid ∨ j.uid = (s.grp x.c q).uid) → j.m = r.m → r.seq ≤ j.id) ∧
       (rel = true → s.guideBefore x.c q r.m r.seq = false) ∧ (s.acc x.c x.p r.m).flt.f = false ∧
       ac.bound = true ∧ au.bound = true ∧ ac.f64 = false ∧ au.f64 = false ∧ ac.flt.f = false ∧ au.flt.f = false
     s.runs n (.mguide g o m sb sc bf16 rel) ∧ x.live ≠ 0#32 ∧ allOver ∧ o.sc = false) ∧
    (let s : State := twins.noting [0xB6, 0, 1, 0, 0, 0, 0, 0]; let n : Issuer := me; let g : Guard := ⟨false, 7#3⟩; let m : BitVec 8 := 0#8
     let sb : BitVec 8 := 0#8; let sc : BitVec 8 := 0#8; let o : VS := ⟨true, 0#8⟩; let bf16 : Bool := false; let rel : Bool := false
     let q : Nat := 1; let r : GuideReq := ⟨0, 1, 0, 0, 0, 0, 0⟩; let x := s.ctx n g; let c := (x.sreg s sb).toNat
     let base := (s.scrSlice x.c x.g.slot).1; let size := (s.scrSlice x.c x.g.slot).2
     let image := fun (ws : List (List Word)) => ws.flatMap fun r => r.flatMap fun w => leBytes 4 w.toNat
     let open_ := fun (seq ofs : Nat) (ws : List (List Word)) => scrFault size ofs (image ws).length 4 = none ∧
       s.clobbers x.c (base + ofs) (image ws).length = false ∧ s.storesFree x.c x.p x.e.mask = true ∧
       s.engineHold x.g.uid seq true true (base + ofs) (image ws).length = false
     let pc := s.conditional x.c x.p q; let pu := if pc = q then x.p else q; let ac := s.acc x.c pc r.m; let au := s.acc x.c pu r.m
     let allOver := x.e.note = r.note ∧ s.partner x.c x.p = some q ∧
       (∀ j ∈ s.mjobs, (j.uid = x.g.uid ∨ j.uid = (s.grp x.c q).uid) → j.m = r.m → r.seq ≤ j.id) ∧
       (rel = true → s.guideBefore x.c q r.m r.seq = false) ∧ (s.acc x.c x.p r.m).flt.f = false ∧
       ac.bound = true ∧ au.bound = true ∧ ac.f64 = false ∧ au.f64 = false ∧ ac.flt.f = false ∧ au.flt.f = false
     let gr := guidedRows (x.ftz s) (BitVec.ofNat 32 r.gain) ac au r.c
     let gw := gr.map fun r => drainRow false bf16 (x.ftz s) (r.map (·.1.toNat))
     s.runs n (.mguide g o m sb sc bf16 rel) ∧ x.live ≠ 0#32 ∧ allOver ∧ o.sc = true ∧ open_ r.seq r.ofs (gw.map (·.1))) ∧
    (let s : State := twins.setGrp 0 1 { twins.grp 0 1 with frontier := [{ mask := 1#32, note := [0xB7, 1, 1] }] }
     let n : Issuer := me; let g : Guard := ⟨false, 7#3⟩; let q : Nat := 1; let k : Nat := 0; let x := s.ctx n g
     s.runs n (.mtwin g) ∧ x.live ≠ 0#32 ∧ s.twinned x.c x.p = true ∧ s.partner x.c x.p = some q ∧ s.twinWait x.c q = some k) ∧
    (let s : State := ready; let n : Issuer := me; let g : Guard := ⟨false, 7#3⟩; let sd : BitVec 8 := 0#8; let t : BitVec 8 := 0#8
     let sb : BitVec 8 := 0#8; let sc : BitVec 8 := 0#8; let m : BitVec 8 := 0#8; let x := s.ctx n g; let base := (s.scrSlice x.c x.g.slot).1
     let size := (s.scrSlice x.c x.g.slot).2; let d := TDesc.of (s.tile x.c x.p t.toNat).img; let xo := (x.sreg s sb).toNat
     let mo := (x.sreg s sd).toNat; let nb := 4 * ceilDiv d.n 32
     let job : RJob := { toEng := x.engine [] s, what := .tzero ⟨false, 7#3⟩ 0#8 }
     s.runs n (.msketch g sd t sb sc) ∧ x.live ≠ 0#32 ∧ x.e.note = [] ∧ (∀ j ∈ s.rjobs, j.core ≠ x.c) ∧ d.kind ≠ 1 ∧ d.et ≠ 1 ∧
     (s.tile x.c x.p t.toNat).code = 0 ∧ d.allocated (s.jobMap job) = true ∧ scrFault size xo (128 * d.m) 4 = none ∧
     scrFault size mo nb 4 = none ∧ s.clobbers x.c (base + mo) nb = false ∧ s.storesFree x.c x.p x.e.mask = true ∧
     s.engineHold x.g.uid s.nextId true false (base + xo) (128 * d.m) = false ∧ s.engineHold x.g.uid s.nextId true true (base + mo) nb = false) ∧
    (let s : State := ready.sregs [(0, 0x8000)]; let n : Issuer := me; let g : Guard := ⟨false, 7#3⟩; let sa : BitVec 8 := 0#8
     let m : BitVec 8 := 0#8; let rel : Bool := false; let pa : Nat → Nat := fun i => 0x8000 + 128 * i; let x := s.ctx n g
     let a := s.acc x.c x.p m.toNat; let addr := x.sreg64 s sa
     let loop := (s.mjobs.filter fun j => j.uid == x.g.uid && j.m == m.toNat).head?
     let m0 := match loop with
       | some j => if j.masked then (j.mask, j.mbits) else (x.g.mmask, x.g.mbits)
       | none => (x.g.mmask, x.g.mbits)
     let img := a.image ++ saveRecord a loop m0.2 ++ slice m0.1 0 512
     let line := fun (i : Nat) => addr + BitVec.ofNat 64 (128 * i)
     let lines := (chunksOf 128 img.length img).zipIdx.map fun c => ({ x.baseAccess s with
       lane := 32, kind := .store, pa := pa c.2, n := c.1.length, data := c.1, addr := line c.2, afterRel := s.gatesOf x.c x.p x.e.mask } : Access)
     (s.runs n (.msave g sa m rel) ∧ x.live ≠ 0#32 ∧ addr.toNat % 128 = 0 ∧ (∀ j ∈ s.mjobs, j.uid = x.g.uid → j.m = m.toNat → j.loop = true ∧
     s.engineFrozen x.c 4 = false) ∧ (rel = true → s.guideWaits x.c x.p m.toNat = false) ∧ s.linesFull x.c (linesOf lines) = false) ∧
     (∀ i < 261, s.holdsCode (pa i) 128 = false ∧
     s.translate x.c (s.launchOf x.c x.p).context { write := true, handler := x.g.handler } (line i) = .ok (pa i))) :=
  by refine ⟨?_, ?_, ?_, ?_, ?_, ?_, ⟨by decide +kernel, lines_mapped (by decide +kernel)⟩⟩ <;> decide +kernel

theorem witness_RankTileIssueResults_1 :
    (let s : State := ready; let n : Issuer := me; let g : Guard := ⟨false, 7#3⟩; let t : BitVec 8 := 0#8; let a : BitVec 8 := 0#8
     let b : BitVec 8 := 0#8; let sa : BitVec 8 := 0#8; let sb : BitVec 8 := 0#8; let sd : BitVec 8 := 0#8; let d : BitVec 8 := 0#8
     let vb : BitVec 8 := 0#8; let o : VS := ⟨false, 0#8⟩; let rcd : Bool := false; let st : Bool := false; let x := s.ctx n g
     let de := fun (t : BitVec 8) => TDesc.of (s.tile x.c x.p t.toNat).img
     let clean := fun (t : BitVec 8) => (s.tile x.c x.p t.toNat).code = 0
     let heapsz := (s.heapSlice x.c x.g.slot).2; let addr := x.sreg64 s sa; let stride := x.sreg s sb
     let rcw := if rcd then x.sreg s o.n else 0#32
     s.runs n (.tdesc g t sa o rcd) ∧ x.live ≠ 0#32 ∧ s.engineFrozen x.c 5 = false ∧ (TDesc.of (x.sreg64 s sa)).valid heapsz = true ∧
     recordOk rcw = true ∧ s.runs n (.tdescRd g sd t) ∧ s.runs n (.tld g t sa sb) ∧ addr.toNat % (de t).e = 0 ∧ stride.toNat % (de t).e = 0 ∧
     clean t ∧ s.runs n (.tstD g sa t sb) ∧ s.runs n (.tldHeap g sa) ∧ addr.toNat % 128 = 0 ∧ (s.blkAt x.c x.g.slot).heapFlt.1 = 0 ∧
     s.runs n (.tstHeap g sa) ∧ s.runs n (.tzero g t) ∧ s.runs n (.thfre g t) ∧ s.runs n (.trank g sd t rcd) ∧ s.runs n (.tadd g t a b) ∧
     (de a).like (de t) = true ∧ (de b).like (de t) = true ∧ clean a ∧ clean b ∧ s.runs n (.tmul g t a b) ∧ (de a).cols = (de b).rows ∧
     (de t).rows = (de a).rows ∧ (de t).cols = (de b).cols ∧ (de a).et = (de t).et ∧ (de b).et = (de t).et ∧ s.runs n (.tupd g t a b) ∧
     (de a).cols = (de b).cols ∧ (de t).cols = (de b).rows ∧ s.runs n (.tscl g t a sb) ∧ s.runs n (.trnd g t a o st rcd) ∧ (de a).kind ≠ 1 ∧
     s.runs n (.ttod g t a) ∧ s.runs n (.ttol g t a) ∧ (de a).kind ≠ 2 ∧ s.runs n (.tmulv g d a vb)) :=
  by and_intros <;> decide +kernel

theorem witness_RankTileIssueResults_2 :
    (let s : State := ready.sregs [(2, 32)]; let n : Issuer := me; let g : Guard := ⟨false, 7#3⟩; let t : BitVec 8 := 0#8; let sa : BitVec 8 := 0#8
     let sb : BitVec 8 := 2#8; let x := s.ctx n g
     let de := fun (t : BitVec 8) => TDesc.of (s.tile x.c x.p t.toNat).img
     let clean := fun (t : BitVec 8) => (s.tile x.c x.p t.toNat).code = 0
     let addr := x.sreg64 s sa; let stride := x.sreg s sb
     s.runs n (.tldf g t sa sb) ∧ x.live ≠ 0#32 ∧ s.engineFrozen x.c 5 = false ∧ addr.toNat % (de t).e = 0 ∧ 1 ≤ stride.toNat ∧
     stride.toNat ≤ 32 ∧ clean t) :=
  by and_intros <;> decide +kernel

theorem witness_RankTileIssueResults_3 :
    (let n : Issuer := me; let g : Guard := ⟨false, 7#3⟩
     let s : State := ready.withGrp fun g => { g with tiles := [(0, { img := 0x8002080000000000#64 })] }
     let t : BitVec 8 := 0#8; let sa : BitVec 8 := 0#8; let x := s.ctx n g
     let de := fun (t : BitVec 8) => TDesc.of (s.tile x.c x.p t.toNat).img
     let clean := fun (t : BitVec 8) => (s.tile x.c x.p t.toNat).code = 0
     let addr := x.sreg64 s sa
     s.runs n (.tstF g sa t) ∧ x.live ≠ 0#32 ∧ s.engineFrozen x.c 5 = false ∧ addr.toNat % (de t).e = 0 ∧ (de t).kind = 2 ∧ clean t) :=
  by and_intros <;> decide +kernel

theorem witness_RankTileIssueResults_4 :
    (let n : Issuer := me; let g : Guard := ⟨false, 7#3⟩
     let s : State := ready.withGrp fun g => { g with tiles := [(0, { img := 0x1#64 })] }
     let t : BitVec 8 := 0#8; let x := s.ctx n g
     let de := fun (t : BitVec 8) => TDesc.of (s.tile x.c x.p t.toNat).img
     let clean := fun (t : BitVec 8) => (s.tile x.c x.p t.toNat).code = 0
     s.runs n (.thalc g t) ∧ x.live ≠ 0#32 ∧ s.engineFrozen x.c 5 = false ∧ (de t).size ≠ 0 ∧ clean t) :=
  by and_intros <;> decide +kernel

theorem witness_RankTileIssueResults_5 :
    (let n : Issuer := me; let g : Guard := ⟨false, 7#3⟩
     let s : State := ready.withGrp fun g => { g with tiles := [(0, { img := 0x4000000000000000#64 })] }
     let t : BitVec 8 := 0#8; let a : BitVec 8 := 0#8; let b : BitVec 8 := 0#8; let rgt : Bool := false; let tr : Bool := false
     let up : Bool := false; let un : Bool := false; let x := s.ctx n g
     let de := fun (t : BitVec 8) => TDesc.of (s.tile x.c x.p t.toNat).img
     let clean := fun (t : BitVec 8) => (s.tile x.c x.p t.toNat).code = 0
     s.runs n (.tpotrf g t a) ∧ x.live ≠ 0#32 ∧ s.engineFrozen x.c 5 = false ∧ (de a).kind = 1 ∧ (de a).rows = (de a).cols ∧
     (de a).like (de t) = true ∧ clean t ∧ clean a ∧ s.runs n (.ttrsm g t a b rgt tr up un) ∧
     (de a).rows = (if rgt then (de b).cols else (de b).rows) ∧ (de a).et = (de b).et ∧ (de b).like (de t) = true ∧ clean b) :=
  by and_intros <;> decide +kernel

theorem witness_WorkEntryResults :
    (let s : State := (ready.linked).sregs [(3, 0x10100), (4, 4096)]
     let n : Issuer := me; let g : Guard := ⟨false, 7#3⟩; let sd : BitVec 8 := 0#8; let sa : BitVec 8 := 0#8; let k : Nat := 0; let x := s.ctx n g
     let b := x.block8 s sa
     let free := k < 2048 ∧ s.pickFree 2048 (fun e => (s.workAt e).state == .free) = some k
     s.runs n (.put g sd sa) ∧ x.live ≠ 0#32 ∧ s.blockBad .put b = false ∧ free ∧ s.runs n (.puts g sd sa) ∧ s.blockBad .puts b = false ∧
     s.runs n (.putr g sd sa) ∧ s.blockBad .putr b = false ∧ s.runs n (.get g sd sa) ∧ s.blockBad .get b = false) ∧
    (let s : State := { ready with work := [(0, { state := .built })] }.noting [0xF8, 0, 0, 0, 0]
     let n : Issuer := me; let g : Guard := ⟨false, 7#3⟩; let sd : BitVec 8 := 0#8; let sa : BitVec 8 := 0#8; let sb : BitVec 8 := 0#8
     let sc : BitVec 8 := 0#8; let k : Nat := 0; let id : Nat := 0; let o1 : Word := 0#32; let o2 : Word := 0#32; let o3 : Word := 0#32
     let x := s.ctx n g; let b := x.block8 s sa; let l := s.launchOf x.c x.p
     let built := (fun (kind : WorkKind) =>
       let w : Work := { state := .built, kind := kind, id := s.nextId, owner := x.g.node, core := x.c, grp := x.p, uid := x.g.uid, block := b,
                         root := l.root, rootV := l.rootV, handler := x.g.handler }
       x.putS sd (BitVec.ofNat 32 k) (({ s with nextId := s.nextId + 1 } : State).setWork k w))
     let released := fun (ops : List Word) =>
       x.e.note = 0xF8 :: id :: ops.map BitVec.toNat ∧ s.relOpen id = false ∧ s.storesFree x.c x.p x.e.mask = true
     s.runs n (.qarm g sa sb sc) ∧ x.live ≠ 0#32 ∧ released [o1, o2, o3] ∧ o1.toNat < 2048 ∧ (s.workAt o1.toNat).state = .built ∧
     (s.workAt o1.toNat).owner = x.g.node ∧ o2.toNat < 4096) ∧
    (let s : State := ready; let n : Issuer := me; let g : Guard := ⟨false, 7#3⟩; let sd : BitVec 8 := 0#8; let sa : BitVec 8 := 0#8
     let v : VS := ⟨false, 0#8⟩; let op : BitVec 2 := 0#2; let rst : Bool := false; let x := s.ctx n g; let a := (x.sreg s sa).toNat
     s.runs n (.tcnt g sd sa v 0#2) ∧ x.live ≠ 0#32 ∧ x.e.note = [] ∧ a < 4096 ∧ s.loadsFree x.c x.p x.e.mask = true ∧
     s.runs n (.qstat g sd sa op rst) ∧ (op = 1#2 ∨ op = 2#2 → a < 256) ∧ (rst = true → op = 2#2)) ∧
    (let s : State := ready.noting [0xF8, 0, 0, 0]; let n : Issuer := me; let g : Guard := ⟨false, 7#3⟩; let sd : BitVec 8 := 0#8
     let sa : BitVec 8 := 0#8; let v : VS := ⟨false, 0#8⟩; let op : BitVec 2 := 1#2; let id : Nat := 0; let o1 : Word := 0#32
     let o2 : Word := 0#32; let x := s.ctx n g
     let released := fun (ops : List Word) =>
       x.e.note = 0xF8 :: id :: ops.map BitVec.toNat ∧ s.relOpen id = false ∧ s.storesFree x.c x.p x.e.mask = true
     s.runs n (.tcnt g sd sa v op) ∧ op ≠ 0#2 ∧ x.live ≠ 0#32 ∧ released [o1, o2] ∧ o1.toNat < 4096) :=
  by refine ⟨?_, ?_, ?_, ?_⟩ <;> decide +kernel

theorem witness_CollectiveResults :
    (let s : State := (((ready.setCtl 0x20000 0x8000000000000000#64).sregs [(0, 0x400)]).noting [0xF8, 0, 0x400, 0, 0, 0, 0, 0, 0, 0])
     let n : Issuer := me; let g : Guard := ⟨false, 7#3⟩; let sd : BitVec 8 := 0#8; let sa : BitVec 8 := 0#8; let sb : BitVec 8 := 0#8
     let id : Nat := 0
     let ops : List Word := [0x400#32, 0#32, 0#32, 0#32, 0#32, 0#32, 0#32, 0#32]
     let x := s.ctx n g; let l := s.launchOf x.c x.p
     let mk : Coll := { owner := some x.g.node, core := x.c, grp := x.p, uid := x.g.uid, root := l.root, rootV := l.rootV, handler := x.g.handler }
     let c := (x.sreg s sb).toNat; let t : State := (okOr (0, s) (s.postSlot ops mk)).2; let slot : Nat := (okOr (0, s) (s.postSlot ops mk)).1
     (s.runs n (.qpost g sd sa) ∧ x.live ≠ 0#32 ∧ x.e.note = 0xF8 :: id :: ops.map BitVec.toNat ∧ s.relOpen id = false ∧
     s.storesFree x.c x.p x.e.mask = true) ∧ s.postSlot ops mk = .ok (slot, t)) ∧
    (let s : State := { ready with colls := [(0, { state := .ticketed, owner := some 0 })] }
     let n : Issuer := me; let g : Guard := ⟨false, 7#3⟩; let sd : BitVec 8 := 0#8; let sa : BitVec 8 := 0#8; let tr : Bool := false
     let x := s.ctx n g; let a := (x.sreg s sa).toNat; let k := s.coll a
     let mine := x.live ≠ 0#32 ∧ a < 256 ∧ k.state ≠ .free ∧ k.owner = some x.g.node
     s.runs n (.qtick g sd sa tr) ∧ mine ∧ 3 ≤ k.state.code) ∧
    (let s : State := { ready with colls := [(0, { state := .posted, owner := some 0 })] }
     let n : Issuer := me; let g : Guard := ⟨false, 7#3⟩; let sd : BitVec 8 := 0#8; let sa : BitVec 8 := 0#8; let fre : Bool := false
     let x := s.ctx n g; let a := (x.sreg s sa).toNat; let k := s.coll a
     let mine := x.live ≠ 0#32 ∧ a < 256 ∧ k.state ≠ .free ∧ k.owner = some x.g.node
     s.runs n (.qtick g sd sa true) ∧ mine ∧ k.state.code < 3 ∧ s.runs n (.qcomp g sd sa true fre) ∧ k.state.ended = false ∧
     s.runs n (.qcancel g sd sa)) ∧
    (let s : State := { ready with colls := [(0, { state := .done, owner := some 0 })] }
     let n : Issuer := me; let g : Guard := ⟨false, 7#3⟩; let sd : BitVec 8 := 0#8; let sa : BitVec 8 := 0#8; let nw : Bool := false
     let fre : Bool := false; let x := s.ctx n g; let a := (x.sreg s sa).toNat; let k := s.coll a
     let mine := x.live ≠ 0#32 ∧ a < 256 ∧ k.state ≠ .free ∧ k.owner = some x.g.node
     s.runs n (.qcomp g sd sa nw fre) ∧ mine ∧ k.state.ended = true) ∧
    (let s : State := ready; let n : Issuer := me; let g : Guard := ⟨false, 7#3⟩; let sd : BitVec 8 := 0#8; let sa : BitVec 8 := 0#8
     let x := s.ctx n g
     s.runs n (.qring g sd sa) ∧ x.live ≠ 0#32) ∧
    (let s : State := { ready with colls := [(0, { state := .started, owner := some 0, block := [0x1000000#32, 1024#32] })] }
     let n : Issuer := me; let g : Guard := ⟨false, 7#3⟩; let sb : BitVec 8 := 0#8; let sc : BitVec 8 := 0#8; let m : BitVec 8 := 0#8
     let rel : Bool := false; let x := s.ctx n g; let acc := s.acc x.c x.p m.toNat; let c := (x.sreg s sb).toNat; let to_ := (x.sreg s sc).toNat
     let q := s.coll to_
     s.runs n (.mdrainc g m sb sc rel) ∧ x.live ≠ 0#32 ∧ c ≤ 7 ∧ acc.flt.f = false ∧ acc.f64 = false ∧ to_ < 256 ∧ q.state = .started ∧
     q.owner = some x.g.node ∧ q.ty = 0 ∧ q.op ≤ 1 ∧ blockDrain q.block = true ∧ q.drain.length + 1024 ≤ q.count ∧
     (rel = true → s.guideWaits x.c x.p m.toNat = false)) :=
  by refine ⟨⟨by decide +kernel, okOr_pair (by decide +kernel)⟩, ?_, ?_, ?_, ?_, ?_⟩ <;> decide +kernel

theorem witness_TaskGraphResults :
    (let s : State := (ready.sregs [(0, 0x4000)]).words [(0x4000, 0)]
     let n : Issuer := me; let g : Guard := ⟨false, 7#3⟩; let sd : BitVec 8 := 0#8; let sa : BitVec 8 := 0#8; let k : Nat := 1
     let b : List Byte := s.bytes 0x4000 128; let ps : List (Nat × Nat) := [(0x4000, 128)]; let x := s.ctx n g; let f := s.freshenPieces x.c ps
     let addr := x.sreg64 s sa
     let free := k < 4096 ∧ f.pickFree 4096 (fun m => (f.node m).state == .free) = some k
     (s.runs n (.gnode g sd sa) ∧ x.live ≠ 0#32 ∧ addr.toNat % 128 = 0 ∧ descBad b = false ∧ free) ∧ x.reads s addr 128 b ps) ∧
    (let s : State := ({ ready with nodes := ready.nodes ++ [(1, { state := .built, owner := some 0 })] : State }).sregs [(1, 1)]
     let t : State := okOr s (s.addEdge 0 1); let u : State := ready; let n : Issuer := me; let g : Guard := ⟨false, 7#3⟩; let sa : BitVec 8 := 0#8
     let sb : BitVec 8 := 1#8; let k : Nat := 0; let b : List Byte := []; let ps : List (Nat × Nat) := []; let x := s.ctx n g
     let f := s.freshenPieces x.c ps
     let free := k < 4096 ∧ f.pickFree 4096 (fun m => (f.node m).state == .free) = some k
     let queue := (f.launch x.g.node).queue; let when_ := sliceNat b 16 8
     let d : Node := { state := .built, desc := b, owner := some x.g.node, queue := queue, root := (f.queueCtx queue).root, prio := sliceNat b 1 1,
                       auto := (descFlags b).testBit 1, deadline := when_, born := f.nextOrder }
     let built := (let u := ({ f with nextOrder := f.nextOrder + 1 } : State).setNode k d
                   if when_ = 0 then u else if when_ ≤ u.dtime then u.post .deadlinePassed [k] else u.timer false when_ .deadlinePassed [k])
     let a := (x.sreg s sa).toNat; let e := (x.sreg s sb).toNat; let node := if a = 0xFFFFFFFF then x.g.node else a
     let known := fun (m : Nat) => m < 4096 ∧ (s.node m).state ≠ .free ∧ (s.node m).nameable m x.g.node = true
     (s.runs n (.gedge g sa sb) ∧ x.live ≠ 0#32 ∧ known a ∧ (s.node a).state ≠ .built ∧ e < 4096 ∧ (s.node e).state = .built ∧
     (s.node e).owner = some x.g.node) ∧ s.addEdge a e = .ok t) ∧
    (let s : State := (({ ready with nodes := ready.nodes ++ [(1, { state := .built, owner := some 0 })] : State }).sregs [(0, 1)]).noting [0xF8, 0, 1]
     let t : State := okOr s (s.submitNode 1); let u : State := ready; let n : Issuer := me; let g : Guard := ⟨false, 7#3⟩
     let sa : BitVec 8 := 0#8; let k : Nat := 0; let id : Nat := 0; let b : List Byte := []; let ps : List (Nat × Nat) := []; let o1 : Word := 1#32
     let x := s.ctx n g; let f := s.freshenPieces x.c ps; let queue := (f.launch x.g.node).queue; let when_ := sliceNat b 16 8
     let d : Node := { state := .built, desc := b, owner := some x.g.node, queue := queue, root := (f.queueCtx queue).root, prio := sliceNat b 1 1,
                       auto := (descFlags b).testBit 1, deadline := when_, born := f.nextOrder }
     let built := (let u := ({ f with nextOrder := f.nextOrder + 1 } : State).setNode k d
                   if when_ = 0 then u else if when_ ≤ u.dtime then u.post .deadlinePassed [k] else u.timer false when_ .deadlinePassed [k])
     let released := fun (ops : List Word) =>
       x.e.note = 0xF8 :: id :: ops.map BitVec.toNat ∧ s.relOpen id = false ∧ s.storesFree x.c x.p x.e.mask = true
     let a := (x.sreg s sa).toNat; let sub := o1.toNat; let node := if a = 0xFFFFFFFF then x.g.node else a
     (s.runs n (.gsub g sa) ∧ x.live ≠ 0#32 ∧ released [o1] ∧ sub < 4096 ∧ (s.node sub).state = .built ∧ (s.node sub).owner = some x.g.node ∧
     s.footPins (s.node sub).queue (s.node sub).desc = []) ∧ s.submitNode sub = .ok t) ∧
    (let s : State := (ready.sregs [(0, 0x4000)]).noting [0xF8, 0, 0x4000, 0]
     let n : Issuer := me; let g : Guard := ⟨false, 7#3⟩; let sd : BitVec 8 := 0#8; let sa : BitVec 8 := 0#8; let k : Nat := 1; let id : Nat := 0
     let b : List Byte := s.bytes 0x4000 128; let ps : List (Nat × Nat) := [(0x4000, 128)]; let o1 : Word := 0x4000#32; let o2 : Word := 0#32
     let x := s.ctx n g; let f := s.freshenPieces x.c ps
     let free := k < 4096 ∧ f.pickFree 4096 (fun m => (f.node m).state == .free) = some k
     let queue := (f.launch x.g.node).queue; let when_ := sliceNat b 16 8
     let d : Node := { state := .built, desc := b, owner := some x.g.node, queue := queue, root := (f.queueCtx queue).root, prio := sliceNat b 1 1,
                       auto := (descFlags b).testBit 1, deadline := when_, born := f.nextOrder }
     let built := (let u := ({ f with nextOrder := f.nextOrder + 1 } : State).setNode k d
                   if when_ = 0 then u else if when_ ≤ u.dtime then u.post .deadlinePassed [k] else u.timer false when_ .deadlinePassed [k])
     let released := fun (ops : List Word) =>
       x.e.note = 0xF8 :: id :: ops.map BitVec.toNat ∧ s.relOpen id = false ∧ s.storesFree x.c x.p x.e.mask = true
     let a := (x.sreg s sa).toNat; let at_ := pair64 o1 o2; let node := if a = 0xFFFFFFFF then x.g.node else a
     let t : State := okOr s (built.addEdge x.g.node k); let u : State := okOr t (t.submitNode k)
     (s.runs n (.launch g sd sa) ∧ x.live ≠ 0#32 ∧ released [o1, o2] ∧ at_.toNat % 128 = 0 ∧ descBad b = false ∧ descKind b = 0 ∧ free) ∧
     x.reads s at_ 128 b ps ∧ built.addEdge x.g.node k = .ok t ∧ t.submitNode k = .ok u) ∧
    (let s : State := ({ ready with nodes := ready.nodes ++ [(1, { state := .done, owner := some 0 })] : State }).sregs [(0, 1)]
     let n : Issuer := me; let g : Guard := ⟨false, 7#3⟩; let sd : BitVec 8 := 0#8; let sa : BitVec 8 := 0#8; let sb : BitVec 8 := 0#8
     let tr : Bool := false; let k : Nat := 0; let ps : List (Nat × Nat) := []; let x := s.ctx n g; let f := s.freshenPieces x.c ps
     let free := k < 4096 ∧ f.pickFree 4096 (fun m => (f.node m).state == .free) = some k
     let a := (x.sreg s sa).toNat; let e := (x.sreg s sb).toNat; let node := if a = 0xFFFFFFFF then x.g.node else a
     let known := fun (m : Nat) => m < 4096 ∧ (s.node m).state ≠ .free ∧ (s.node m).nameable m x.g.node = true
     s.runs n (.gwait g sd sa tr) ∧ x.live ≠ 0#32 ∧ x.e.note = [] ∧ known a ∧ (s.node a).state.ended = true) ∧
    (let s : State := ({ ready with nodes := ready.nodes ++ [(1, { state := .ready, owner := some 0 })] : State }).sregs [(0, 1)]
     let n : Issuer := me; let g : Guard := ⟨false, 7#3⟩; let sd : BitVec 8 := 0#8; let sa : BitVec 8 := 0#8; let sb : BitVec 8 := 0#8
     let k : Nat := 0; let ps : List (Nat × Nat) := []; let x := s.ctx n g; let f := s.freshenPieces x.c ps
     let free := k < 4096 ∧ f.pickFree 4096 (fun m => (f.node m).state == .free) = some k
     let a := (x.sreg s sa).toNat; let e := (x.sreg s sb).toNat; let node := if a = 0xFFFFFFFF then x.g.node else a
     let known := fun (m : Nat) => m < 4096 ∧ (s.node m).state ≠ .free ∧ (s.node m).nameable m x.g.node = true
     s.runs n (.gwait g sd sa true) ∧ x.live ≠ 0#32 ∧ x.e.note = [] ∧ known a ∧ s.dependsOn a x.g.node = false ∧ (s.node a).state.ended = false ∧
     s.runs n (.dline g sa sb) ∧ known node) ∧
    (let s : State := ready.withLaunch fun l => { l with det := true }
     let n : Issuer := me; let g : Guard := ⟨false, 7#3⟩; let sd : BitVec 8 := 0#8; let sa : BitVec 8 := 0#8; let sb : BitVec 8 := 0#8
     let x := s.ctx n g; let addr := x.sreg64 s sa; let e := (x.sreg s sb).toNat
     s.runs n (.dgst g sd) ∧ x.live ≠ 0#32 ∧ (s.launchOf x.c x.p).det = true ∧ x.e.note = [] ∧ s.openStores x.g.uid = [] ∧
     s.runs n (.dgchk g sa) ∧ (s.grp x.c x.p).digest = addr) :=
  by refine ⟨⟨by decide +kernel, readsB_reads (by decide +kernel)⟩, ⟨by decide +kernel, okOr_eq (by decide +kernel)⟩, ⟨by decide +kernel, okOr_eq (by decide +kernel)⟩, ⟨by decide +kernel, readsB_reads (by decide +kernel), okOr_eq (by decide +kernel), okOr_eq (by decide +kernel)⟩, ?_, ?_, ?_⟩ <;> decide +kernel

theorem witness_TrapAndReturnResults :
    (let s : State := ready; let n : Issuer := me; let g : Guard := ⟨false, 7#3⟩; let a : VS := ⟨false, 0#8⟩; let sa : BitVec 8 := 0#8
     let id : BitVec 16 := 0#16; let x := s.ctx n g; let here := x.live ≠ 0#32 ∧ x.g.frontier[n.ent]? = some x.e
     s.runs n (.trap g a) ∧ here ∧ s.runs n (.bkpt g id) ∧ x.g.handler = false ∧ s.runs n (.haltb g sa false) ∧ x.live ≠ 0#32 ∧
     s.runs n (.haltb g sa true)) ∧
    (let n : Issuer := me; let g : Guard := ⟨false, 7#3⟩
     let s : State := ready.withGrp fun g => { g with handler := true }
     let id : BitVec 16 := 0#16; let x := s.ctx n g
     let room := s.linesFull x.c 10 = false ∧ s.framePins x.c x.p = []
     s.runs n (.bkpt g id) ∧ x.live ≠ 0#32 ∧ x.g.handler = true ∧ s.runs n (.rte g false) ∧ x.g.preempted = false ∧
     s.storesPending x.g.uid = false ∧ room) ∧
    (let n : Issuer := me; let g : Guard := ⟨false, 7#3⟩
     let s : State := (ready.withLaunch fun l => { l with hbase := 0x20000#64 }).withGrp fun g => { g with handler := true, preempted := true }
     let a : VS := ⟨false, 0#8⟩; let yld : Bool := false; let f : List Byte := s.bytes 0x20000 1280; let x := s.ctx n g
     let room := s.linesFull x.c 10 = false ∧ s.framePins x.c x.p = []
     s.runs n (.rte g yld) ∧ x.live ≠ 0#32 ∧ x.g.handler = true ∧ x.g.preempted = true ∧ s.scoreboardEmpty x.c x.p = true ∧
     s.storesPending x.g.uid = false ∧ room ∧ (∀ a ∈ s.accesses, a.uid ≠ x.g.uid) ∧ s.readFrame x.c x.p = some f) :=
  by refine ⟨?_, ?_, ?_⟩ <;> decide +kernel

theorem witness_SpecialRegisterResults :
    (let n : Issuer := me; let g : Guard := ⟨false, 7#3⟩
     let s : State := ((ready.withGrp fun g => { g with handler := true }).withLaunch fun l => { l with hbase := 0x20000#64 }).sregs [(8, 0x8000)]
     let sd : BitVec 8 := 0#8; let sa : BitVec 8 := 8#8; let y : LiveSet := {}; let pa : Nat → Nat := fun i => 0x8000 + 128 * i; let x := s.ctx n g
     let addr := x.sreg64 s sa; let img := s.liveImage x.c x.p y
     let line := fun (i : Nat) => addr + BitVec.ofNat 64 (128 * i)
     let lines := (chunksOf 128 img.length img).zipIdx.map fun c => ({ x.baseAccess s with
       lane := 32, kind := .store, pa := pa c.2, n := c.1.length, data := c.1, addr := line c.2, afterRel := s.gatesOf x.c x.p x.e.mask } : Access)
     (s.runs n (.savelive g sd sa) ∧ x.live ≠ 0#32 ∧ x.g.handler = true ∧ addr.toNat % 128 = 0 ∧ s.loadsFree x.c x.p x.e.mask = true ∧
     s.storesPending x.g.uid = false ∧ x.livePending s y = false ∧ s.linesFull x.c (linesOf lines) = false) ∧ s.liveSet x.c x.p = .ok y ∧
     (∀ q ∈ (chunksOf 128 img.length img).zipIdx, s.holdsCode (pa q.2) q.1.length = false ∧
     s.translate x.c (s.launchOf x.c x.p).context { write := true, handler := x.g.handler } (line q.2) = .ok (pa q.2))) ∧
    (let s : State := ready; let n : Issuer := me; let g : Guard := ⟨true, 7#3⟩; let d : VS := ⟨false, 0#8⟩; let sd : BitVec 8 := 0#8
     let sa : BitVec 8 := 0#8; let num : BitVec 8 := 0#8; let id : BitVec 16 := 0#16; let clr : Bool := false; let x := s.ctx n g
     s.runs n (.savelive g sd sa) ∧ x.live = 0#32 ∧ s.runs n (.restlive g sa) ∧ s.runs n (.srd g d num) ∧ s.runs n (.swr g num sa) ∧
     s.runs n (.pmark g id) ∧ s.runs n (.rdbaro g sd sa clr)) ∧
    (let n : Issuer := me; let g : Guard := ⟨false, 7#3⟩
     let s : State := (ready.withGrp fun g => { g with handler := true }).sregs [(8, 0x8000)]
     let sa : BitVec 8 := 8#8; let h : List Byte := s.bytes 0x8000 64; let b : List Byte := s.bytes 0x8000 256
     let ps : List (Nat × Nat) := [(0x8000, 64)]; let qs : List (Nat × Nat) := [(0x8000, 256)]; let x := s.ctx n g; let addr := x.sreg64 s sa
     let z := LiveSet.of h 0 32 48 49; let f := s.freshenPieces x.c ps; let v := x.sreg s sa
     (s.runs n (.restlive g sa) ∧ x.live ≠ 0#32 ∧ x.g.handler = true ∧ addr.toNat % 128 = 0 ∧ (∀ r ∈ bitsUp 256 z.v, r < x.g.count) ∧
     x.livePending f z = false) ∧ x.reads s addr 64 h ps ∧ x.reads f addr z.length b qs) ∧
    (let s : State := ready; let n : Issuer := me; let g : Guard := ⟨false, 7#3⟩; let d : VS := ⟨false, 0#8⟩; let sd : BitVec 8 := 0#8
     let sa : BitVec 8 := 0#8; let num : BitVec 8 := 0#8; let id : BitVec 16 := 0#16; let clr : Bool := false; let base : Nat := 0
     let size : Nat := 0; let k : Nat := 0; let x := s.ctx n g; let core := s.core x.c
     let ring := s.setCore x.c { core with ring := some (base, size, k + 1) }
     s.runs n (.srd g d num) ∧ x.live ≠ 0#32 ∧ (num.toNat < 0x20 ∨ x.g.handler = true) ∧ (num = 0x18#8 → s.flagsPending x.g.uid = false) ∧
     s.runs n (.pmark g id) ∧ (core.ring = none ∨ core.ring = some (base, size, k) ∧ size ≤ k) ∧ s.runs n (.rdbaro g sd sa clr)) ∧
    (let n : Issuer := me; let g : Guard := ⟨false, 7#3⟩
     let s : State := ready.withGrp fun g => { g with handler := true }
     let sa : BitVec 8 := 0#8; let num : BitVec 8 := 0x1D#8; let x := s.ctx n g
     s.runs n (.swr g num sa) ∧ x.live ≠ 0#32 ∧ (num = 0x1A#8 ∨ num = 0x1C#8 ∨ num = 0x1D#8 → x.g.handler = true) ∧
     (num = 0x18#8 → s.flagsPending x.g.uid = false) ∧ 0x18 ≤ num.toNat ∧ num.toNat ≤ 0x1D) ∧
    (let n : Issuer := me; let g : Guard := ⟨false, 7#3⟩; let id : BitVec 16 := 0#16; let base : Nat := 0x8000; let size : Nat := 4
     let k : Nat := 3
     let s : State := ready.withCore fun k => { k with ring := some (0x8000, 4, 3) }
     let x := s.ctx n g; let core := s.core x.c
     let ring := s.setCore x.c { core with ring := some (base, size, k + 1) }
     s.runs n (.pmark g id) ∧ x.live ≠ 0#32 ∧ core.ring = some (base, size, k) ∧ k < size ∧ s.holdsCode (base + 32 * k) 32 = false ∧
     (windowOf (base + 32 * k) = some .device ∨ windowOf (base + 32 * k) = some .host) ∧ s.linesFull x.c 1 = false ∧
     s.pinnedLines x.c (base + 32 * k) 32 = []) :=
  by refine ⟨⟨by decide +kernel, okIs_eq (by decide +kernel), all_mapped (by decide +kernel)⟩, ?_, ⟨by decide +kernel, readsB_reads (by decide +kernel), readsB_reads (by decide +kernel)⟩, ?_, ?_, ?_⟩ <;> decide +kernel

theorem witness_GroupStepResults :
    (let s : State := (ready.setJreg 0 0 3 { armed := true, exp := 1#32, timing := true, ripe := true }).onEvent [0, 0, 3]
     let c : Nat := 0; let p : Nat := 0; let k : Nat := 3; let ev := fun (nums : List Nat) => s.subject.nums = nums; let g := s.grp c p
     let j := s.jreg c p k
     ev [c, p, k] ∧ j.armed = true ∧ j.timing = true ∧ j.ripe = true ∧ j.left = 0 ∧ g.handler = false ∧ g.trap = none) ∧
    (let s : State := ready.onEvent [0, 0]; let c : Nat := 0; let p : Nat := 0; let ev := fun (nums : List Nat) => s.subject.nums = nums
     ev [c, p]) ∧
    (let s : State := (ready.withGrp fun g => { g with frontier := [{ hdr := 0x10000#64, mask := 1#32 }, { hdr := 0x10000#64, mask := 2#32 }] }).onEvent [0, 0, 0]
     let c : Nat := 0; let p : Nat := 0; let k : Nat := 1; let hdr : Nat := 0; let ev := fun (nums : List Nat) => s.subject.nums = nums
     ev [c, p, hdr] ∧ s.rotateTo c p hdr = some k) ∧
    (let c : Nat := 0; let p : Nat := 0; let k : Nat := 0
     let s : State := (ready.withCore fun k => { k with fetched := [] }).onEvent [0, 0, 0x10000]
     let hdr : Nat := 0x10000; let h : Header := ⟨0#3,0#4,0#8,0#3,false,false,false,0#4⟩; let ev := fun (nums : List Nat) => s.subject.nums = nums
     let g := s.grp c p; let la := s.launch g.node; let at_ := BitVec.ofNat 64 hdr; let here := fun (e : Entry) => e.hdr == at_ && e.idx == 0
     let now := s.settleSlots c; let core := now.core c
     let keys := (fetchKeys la g.node at_ h.count.toNat).filter fun x => !core.fetched.contains x
     let free := freeKeys la (now.fetchInUse c) core.fetched
     let extra := core.fetched.length + core.held.length + keys.length - fetchSpace la
     let pieces := now.clausePieces c p at_ h
     (ev [c, p, hdr] ∧ firstIdx here g.frontier = some k ∧ extra ≤ free.length ∧ now.fetchedClause c p (g.frontier.getD k {}) h = false ∧
     now.linesFull c (linesIn pieces) = false ∧ now.pinnedBy c pieces = []) ∧ now.headerAt c p { hdr := at_ } = .ok h) ∧
    (let c : Nat := 0; let k : Nat := 0; let l : Nat × Nat × List Byte := (0, 0, [])
     let s : State := (ready.withCore fun k => { k with slots := [(0, { loading := [l] })] }).onEvent [0, 0]
     let rest : List (Nat × Nat × List Byte) := []; let ev := fun (nums : List Nat) => s.subject.nums = nums; let slots := (s.core c).slots
     ev [c, k] ∧ (aget {} slots k).loading = l :: rest) ∧
    (let k : Nat := 7; let r : Rel := { id := 7, scope := 6 }; let s : State := { ready with rels := [r] }.onEvent [7]
     let ev := fun (nums : List Nat) => s.subject.nums = nums
     ev [k] ∧ s.rels.find? (·.id == k) = some r ∧ s.relReady r = true) ∧
    (let c : Nat := 0; let p : Nat := 0; let t : Cause := { code := 1 }
     let s : State := (ready.withGrp fun g => { g with trap := some t }).onEvent [0, 0]
     let ev := fun (nums : List Nat) => s.subject.nums = nums; let g := s.grp c p; let now := s.settleSlots c; let core := now.core c
     ev [c, p] ∧ g.trap = some t ∧ t.code ≠ Code.RESUME ∧ (s.core c).frozen = false ∧ s.loadsPending c p = false) ∧
    (let c : Nat := 0; let p : Nat := 0; let t : Cause := { code := Code.RESUME }
     let s : State := (ready.withGrp fun g => { g with trap := some t }).onEvent [0, 0]
     let ev := fun (nums : List Nat) => s.subject.nums = nums; let g := s.grp c p; let now := s.settleSlots c; let core := now.core c
     ev [c, p] ∧ g.trap = some t ∧ t.code = Code.RESUME ∧ (s.core c).frozen = false ∧ s.loadsPending c p = false) ∧
    (let s : State := ready; let c : Nat := 0; let now := s.settleSlots c; let core := now.core c
     s.slotsHeld c = (s.core c).held) :=
  by refine ⟨?_, ?_, ?_, ⟨by decide +kernel, okIs_eq (by decide +kernel)⟩, ?_, ?_, ?_, ?_, ?_⟩ <;> decide +kernel

theorem witness_MemoryStepResults :
    (let id : Nat := 5
     let a : Access := { id := 5, kind := .load, pa := 0x4000, n := 4, data := leBytes 4 7 }
     let s : State := { ready with accesses := [a] }.onEvent [5]; let found := s.subject.nums = [id] ∧ s.access id = some a
     let local_ := a.done = false ∧ a.sent = false ∧ a.lost = false ∧ s.accessReady a = true ∧ windowOf a.pa = some .device ∧ s.refuses a = false
     found ∧ local_ ∧ a.kind = .load) ∧
    (let id : Nat := 5
     let a : Access := { id := 5, kind := .store, pa := 0x4000, n := 4, data := leBytes 4 7 }
     let s : State := { ready with accesses := [a] }.onEvent [5]; let found := s.subject.nums = [id] ∧ s.access id = some a
     let local_ := a.done = false ∧ a.sent = false ∧ a.lost = false ∧ s.accessReady a = true ∧ windowOf a.pa = some .device ∧ s.refuses a = false
     found ∧ local_ ∧ a.kind = .store) ∧
    (let id : Nat := 5; let line : Nat := 0
     let a : Access := { id := 5, kind := .atomic 0, pa := 0x4000, n := 4, data := leBytes 4 7, scope := 6 }
     let s : State := { ready with accesses := [a] }.onEvent [5]; let aop : Nat := 0; let found := s.subject.nums = [id] ∧ s.access id = some a
     let local_ := a.done = false ∧ a.sent = false ∧ a.lost = false ∧ s.accessReady a = true ∧ windowOf a.pa = some .device ∧ s.refuses a = false
     found ∧ local_ ∧ a.kind = .atomic aop ∧ 2 < a.scope ∧ (2 < a.scope ∨ (s.pinOf a.line).isSome = true)) ∧
    (let id : Nat := 5; let line : Nat := 0
     let a : Access := { id := 5, kind := .atomic 0, pa := 0x4000, n := 4, data := leBytes 4 7, scope := 2 }
     let s : State := { ready with accesses := [a] }.onEvent [5]; let aop : Nat := 0; let found := s.subject.nums = [id] ∧ s.access id = some a
     let local_ := a.done = false ∧ a.sent = false ∧ a.lost = false ∧ s.accessReady a = true ∧ windowOf a.pa = some .device ∧ s.refuses a = false
     let pinnable := s.pinOf a.line = none ∧ (s.pins.filter (·.core == a.core)).length < 64 ∧ aget 0 s.leases a.line ≤ s.dtime
     found ∧ local_ ∧ a.kind = .atomic aop ∧ a.scope ≤ 2 ∧ pinnable) ∧
    (let id : Nat := 5
     let a : Access := { id := 5, kind := .load, pa := 0x4000, n := 4, data := leBytes 4 7, done := true }
     let s : State := { ready with accesses := [a] }.onEvent [5]; let found := s.subject.nums = [id] ∧ s.access id = some a
     found ∧ a.kind = .load ∧ a.done = true ∧ a.keep = false ∧ a.win = none) ∧
    (let id : Nat := 5
     let a : Access := { id := 5, kind := .store, pa := 0x4000, n := 4, data := leBytes 4 7, done := true }
     let s : State := { ready with accesses := [a] }.onEvent [5]; let found := s.subject.nums = [id] ∧ s.access id = some a
     found ∧ a.kind = .store ∧ a.done = true ∧ a.gath = false) ∧
    (let line : Nat := 128; let q : Pin := ⟨128, 0, 0, 0, 16384, []⟩; let s : State := { ready with pins := [q] }.onEvent [128]
     s.subject.nums = [line] ∧ q ∈ s.pins ∧ q.line = line ∧ 16384 ≤ q.refused) ∧
    (let id : Nat := 5
     let a : Access := { id := 5, kind := .load, pa := 0x4000, n := 4, data := leBytes 4 7, sent := true }
     let s : State := { ready with accesses := [a] }.onEvent [5]; let found := s.subject.nums = [id] ∧ s.access id = some a
     found ∧ a.sent = true ∧ a.done = false ∧ a.lost = false ∧ a.kind = .load) :=
  by refine ⟨?_, ?_, ?_, ?_, ?_, ?_, ?_, ?_⟩ <;> decide +kernel

theorem witness_EngineStepResults :
    (let t : State := ready; let c : Nat := 0; let p : Nat := 0; let id : Nat := 0
     let h : Chain := { id := 9, uid := 1, rootV := true, root := 0x1000, desc := ready.bytes 0x4000 128 }
     let s : State := { ready with chains := [h] }.onEvent [0, 0]; let b : List (List (FV × FFlags)) := []
     let ev := fun (nums : List Nat) => s.subject.nums = nums; let d := chainDesc h.desc; let run := h.run (s.launch h.node).ftz s
     let ends := (let v := run.s.foldWct c h.grp h.uid h.id run.t
                  if (s.launch h.node).det then v.digestAsync h.toEng (bytesAt (d.za + BitVec.ofNat 64 (h.next * elemBytes d.zf)) (run.out.flatMap fun b => b)) else v)
     ev [c, p] ∧ (s.chains.find? fun h => h.core == c && h.part == p) = some h ∧ s.engineFrozen c 1 = false ∧ h.outcome = none ∧
     s.engineWaits h.toEng .chainCompletion [c, p] = none ∧ s.askPeers h.toEng 0 d.reads = none ∧ s.awaitsPeer h.id = false ∧ run.stop = none ∧
     ends.awaitsPeer h.id = false) ∧
    (let id : Nat := 9
     let o : AsyncOp := { id := 9, uid := 1, root := 0x1000, rootV := true, dst := { addr := 0x4000 }, src := { addr := 0x5000 }, rows := 1, width := 64 }
     let s : State := { ready with ops := [o] }.onEvent [9]; let ev := fun (nums : List Nat) => s.subject.nums = nums
     let calm := fun (e : Eng) => (s.launch e.node).abort = none ∧ (s.node e.node).missed = false
     let q := o.step o.toEng s
     ev [id] ∧ s.ops.find? (·.id == id) = some o ∧ s.engineFrozen o.core 3 = false ∧ o.outcome = none ∧ calm o.toEng ∧
     (s.ops.filter fun k => k.core == o.core && k.id < id).length < 64 ∧ s.engineWaits o.toEng .asyncCompletion [id] = none ∧
     o.ask o.toEng s = none ∧ q.stop = none) ∧
    (let id : Nat := 9
     let j : CardJob := { id := 9, uid := 1, root := 0x1000, rootV := true, op := { dst := { addr := 0x4000 }, src := { addr := 0x5000 }, rows := 1, width := 64 } }
     let s : State := { ready with cards := [j] }.onEvent [9]; let ev := fun (nums : List Nat) => s.subject.nums = nums
     let calm := fun (e : Eng) => (s.launch e.node).abort = none ∧ (s.node e.node).missed = false
     let y := j.op.step j.toEng s
     ev [id] ∧ s.cards.find? (·.id == id) = some j ∧ s.engineFrozen j.core 3 = false ∧ j.outcome = none ∧ j.stop = none ∧ s.lostAt id = none ∧
     s.dev ≠ .checkpoint ∧ j.copy = none ∧ calm j.toEng ∧ s.engineWaits j.toEng .cardCompletion [id] = none ∧ j.op.ask j.toEng s = none ∧
     y.stop = none) ∧
    (let s : State := ready.onEvent [0, 0]; let c : Nat := 0; let p : Nat := 0; let ev := fun (nums : List Nat) => s.subject.nums = nums
     ev [c, p]) ∧
    (let c : Nat := 0; let id : Nat := 9; let m : MJob := { id := 9, uid := 1 }; let s : State := { ready with mjobs := [m] }.onEvent [0, 9]
     let a : List (List (FV × FFlags)) := okOr [] (s.stepA m false)
     let b : List (List (FV × FFlags)) := okOr [] (s.stepB m false)
     let ev := fun (nums : List Nat) => s.subject.nums = nums
     let calm := fun (e : Eng) => (s.launch e.node).abort = none ∧ (s.node e.node).missed = false
     (ev [c, id] ∧ s.mjobs.find? (·.id == id) = some m ∧ s.engineFrozen c 4 = false ∧ m.held = false ∧ m.shared = false ∧ calm m.toEng ∧
     s.engineWaits m.toEng .kStep [c, id] = none ∧ (∀ k ∈ s.mjobs, k.uid = m.uid → k.m = m.m → m.id ≤ k.id) ∧ m.rows.all (!·) = false) ∧
     s.stepA m (s.launch m.node).ftz = .ok a ∧ s.stepB m (s.launch m.node).ftz = .ok b) ∧
    (let c : Nat := 0; let p : Nat := 0; let id : Nat := 0
     let m : MJob := { id := 9, uid := 1, held := true, heldFor := 4096 }
     let s : State := { ready with mjobs := [m] }.onEvent [0, 0]; let ev := fun (nums : List Nat) => s.subject.nums = nums
     ev [c, p] ∧ m ∈ s.mjobs ∧ m.core = c ∧ m.grp = p ∧ m.held = true ∧ 4096 ≤ m.heldFor) ∧
    (let c : Nat := 0; let id : Nat := 0
     let r : RJob := { id := 9, uid := 1, what := .tzero ⟨false, 7#3⟩ 0#8, started := true, left := 1 }
     let s : State := { ready with rjobs := [r] }.onEvent [0]; let ev := fun (nums : List Nat) => s.subject.nums = nums
     ev [c] ∧ s.rankHead c = some r ∧ s.engineFrozen c 5 = false ∧ r.started = true ∧ r.left ≠ 0 ∧ s.abandons r = none) ∧
    (let c : Nat := 0; let id : Nat := 0
     let r : RJob := { id := 9, uid := 1, what := .tzero ⟨false, 7#3⟩ 0#8, started := true }
     let s : State := { ready with rjobs := [r] }.onEvent [0]
     let t : State := (endOf s ((s.freshenFoot r.toEng).runRank r)).1
     let f : FFlags := (endOf s ((s.freshenFoot r.toEng).runRank r)).2.1
     let u : Nat := (endOf s ((s.freshenFoot r.toEng).runRank r)).2.2.1
     let w : List (Nat × Byte) := (endOf s ((s.freshenFoot r.toEng).runRank r)).2.2.2
     let ev := fun (nums : List Nat) => s.subject.nums = nums
     (ev [c] ∧ s.rankHead c = some r ∧ s.engineFrozen c 5 = false ∧ r.started = true ∧ r.left = 0 ∧ r.outcome = none ∧
     s.engineWaits r.toEng .burnisherCommit [c] = none ∧
     s.askPeers r.toEng 0 ((r.foot.filter fun f => !f.1).map fun f => (f.2.2.1, f.2.2.2, f.2.2.1, 1)) = none ∧ s.lostAt r.id = none ∧
     t.awaitsPeer r.id = false) ∧ (s.freshenFoot r.toEng).runRank r = .done t f u w) :=
  by refine ⟨?_, ?_, ?_, ?_, ⟨by decide +kernel, okOr_eq (by decide +kernel), okOr_eq (by decide +kernel)⟩, ?_, ?_, ⟨by decide +kernel, isDone_eq (by decide +kernel)⟩⟩ <;> decide +kernel

theorem witness_PacketStepResults :
    (let s : State := { ready with work := [(3, { state := .fired, sent := true })] }.onEvent [3]
     let t : State := ready; let e : Nat := 3; let src : Nat := 0; let id : Nat := 0; let q : Packet := {}
     let ev := fun (nums : List Nat) => s.subject.nums = nums; let w := s.workAt e
     let sent := s.packets.find? (fun q => q.id == id && q.dst == src && q.waiting && !q.held) = some q
     ev [e] ∧ w.state = .fired ∧ s.engineFrozen w.core 6 = false ∧ w.sent = true ∧ s.lostAt w.id = none ∧ s.awaitsPeer w.id = false ∧
     w.t ≤ s.dtime) ∧
    (let s : State := { ready with subject := { nums := [1, 2, 0x4000], bytes := [1#8] } }
     let src : Nat := 1; let tag : Nat := 2; let a : Nat := 0x4000; let n : Nat := 0; let ev := fun (nums : List Nat) => s.subject.nums = nums
     let bs := s.subject.bytes
     let serves := fun (n : Nat) => inDevice a n = true ∧ s.sourceBehind src = false ∧ s.pinnedIn [(a, n)] = false
     ev [src, tag, a] ∧ serves bs.length) ∧
    (let s : State := ready.onEvent [1, 2, 0x80000003, 4]; let src : Nat := 1; let tag : Nat := 2; let a : Nat := 0x80000003; let n : Nat := 4
     let t : State := (s.applySignal a n).getD s; let ev := fun (nums : List Nat) => s.subject.nums = nums
     ev [src, tag, a, n] ∧ s.sourceDone src ≤ s.dtime ∧ s.sourceBehind src = false ∧ s.applySignal a n = some t) ∧
    (let s : State := { ready with subject := { nums := [1, 2, 0x4000], bytes := leBytes 4 7 } }
     let src : Nat := 1; let tag : Nat := 2; let a : Nat := 0x4000; let n : Nat := 0; let ev := fun (nums : List Nat) => s.subject.nums = nums
     let bs := s.subject.bytes
     let serves := fun (n : Nat) => inDevice a n = true ∧ s.sourceBehind src = false ∧ s.pinnedIn [(a, n)] = false
     ev [src, tag, a] ∧ serves bs.length) ∧
    (let s : State := ready.linked.onEvent [1, 2, 0x4000, 16]; let src : Nat := 1; let tag : Nat := 2; let a : Nat := 0x4000; let n : Nat := 16
     let t : State := (s.sendPacket { kind := .getData, dst := 1, tag := 2, addr := a, bytes := s.bytes a n }).getD s
     let ev := fun (nums : List Nat) => s.subject.nums = nums
     let serves := fun (n : Nat) => inDevice a n = true ∧ s.sourceBehind src = false ∧ s.pinnedIn [(a, n)] = false
     ev [src, tag, a, n] ∧ serves n ∧ s.sendPacket { kind := .getData, dst := src, tag := tag, addr := a, bytes := s.bytes a n } = some t) ∧
    (let e : Nat := 3; let src : Nat := 1; let a : Nat := 0; let id : Nat := 7
     let q : Packet := { id := 7, kind := .put, dst := 1, waiting := true, owner := 8 }
     let s : State := { ready with work := [(3, { state := .fired, id := 8 })], packets := [q] }.onEvent [1, 7]
     let ev := fun (nums : List Nat) => s.subject.nums = nums; let bs := s.subject.bytes; let put := s.peerWrite a bs
     let sent := s.packets.find? (fun q => q.id == id && q.dst == src && q.waiting && !q.held) = some q
     ev [src, id] ∧ s.subject.flag = false ∧ sent ∧ q.kind = .put ∧ (s.donePacket id).workOf q.owner = some e) ∧
    (let e : Nat := 3; let src : Nat := 1; let id : Nat := 7
     let q : Packet := { id := 7, kind := .getReq, dst := 1, waiting := true, owner := 8, nums := [0, 4] }
     let s : State := { ready with work := [(3, { state := .fired, kind := .get, id := 8, root := 0x1000, rootV := true, block := [0x4000#32] })], packets := [q], subject := { nums := [1, 7], bytes := leBytes 4 9 } }
     let ps : List (Nat × Nat) := [(0x4000, 4)]; let ev := fun (nums : List Nat) => s.subject.nums = nums; let w := s.workAt e
     let bs := s.subject.bytes
     let asked := s.packets.find? (fun q => q.id == id && q.dst == src && q.kind == .getReq && q.waiting && !q.held) = some q
     let data := slice bs 0 (q.nums.getD 1 0)
     (ev [src, id] ∧ asked ∧ s.workOf q.owner = some e ∧ s.pinnedIn ps = false ∧ s.sequencerHeld w.uid w.id true ps = false) ∧
     s.engPieces w.core w.ctx true w.handler (w.local_ + BitVec.ofNat 64 (q.nums.headD 0)) data.length = .ok ps) ∧
    (let src : Nat := 0; let a : Nat := 0; let id : Nat := 7; let q : Packet := { id := 7, waiting := true }
     let s : State := { ready with packets := [q], dtime := 50000 }.onEvent [7]
     let ev := fun (nums : List Nat) => s.subject.nums = nums
     let sent := s.packets.find? (fun q => q.id == id && q.dst == src && q.waiting && !q.held) = some q
     let held := s.packets.filter fun q => q.held && q.dst == a
     ev [id] ∧ s.packets.find? (·.id == id) = some q ∧ q.waiting = true ∧ q.held = false ∧ q.sent + 50000 ≤ s.dtime) ∧
    (let s : State := ready.onEvent [3]; let port : Nat := 3; let ev := fun (nums : List Nat) => s.subject.nums = nums
     ev [port]) ∧
    (let s : State := ready.linked.onEvent [1]; let a : Nat := 1; let port : Nat := 0; let q : Packet := {}
     let ev := fun (nums : List Nat) => s.subject.nums = nums
     let down : State := { s with linksDown := if s.linksDown.contains port then s.linksDown else s.linksDown ++ [port] }
     let gone := down.packets.filter fun q => (q.waiting && !q.held && q.port == port) || (q.held && (down.portTo q.dst).isNone)
     let held := s.packets.filter fun q => q.held && q.dst == a
     ev [a] ∧ s.portTo a = some port ∧ (∀ q ∈ s.packets, q.dst = a → q.gone = false) ∧
     (∀ q ∈ s.packets, q.dst = a → q.held = false → q.waiting = true → q.port = port)) ∧
    (let s : State := ready.linked.onEvent [0x10008, 1]; let a : Nat := 1; let port : Nat := 0; let ofs : Nat := 0x10008
     let ev := fun (nums : List Nat) => s.subject.nums = nums
     ev [ofs, a] ∧ s.portTo a = some port) :=
  by refine ⟨?_, ?_, ?_, ?_, ?_, ?_, ⟨by decide +kernel, okIs_eq (by decide +kernel)⟩, ?_, ?_, ?_, ?_⟩ <;> decide +kernel

theorem witness_CollectiveStepResults :
    (let team : Nat := 0; let rank : Nat := 0; let num : Nat := 1; let op : Nat := 4; let ty : Nat := 0; let cnt : Nat := 0; let clk : Nat := 0
     let r : MatchRec := { number := 1 }
     let s : State := { ready with recs := [r] }.onEvent [0, 0, 1, 4, 0, 0, 0]
     let ev := fun (nums : List Nat) => s.subject.nums = nums
     ev [team, rank, num, op, ty, cnt, clk] ∧ s.memberBehind team rank = false ∧ s.recOf team num = some r ∧ r.state ≠ .cancelled) ∧
    (let s : State := ready.onEvent [0, 0, 1, 4, 0, 0, 0]; let team : Nat := 0; let rank : Nat := 0; let num : Nat := 1; let op : Nat := 4
     let ty : Nat := 0; let cnt : Nat := 0; let clk : Nat := 0; let ev := fun (nums : List Nat) => s.subject.nums = nums
     ev [team, rank, num, op, ty, cnt, clk] ∧ s.memberBehind team rank = false ∧ s.recOf team num = none ∧ s.recs.length < 1024) ∧
    (let s : State := { ready with colls := [(2, { state := .posted, number := 1 })] }.onEvent [0, 1, 256]
     let slot : Nat := 2; let team : Nat := 0; let num : Nat := 1; let tick : Nat := 256; let ev := fun (nums : List Nat) => s.subject.nums = nums
     ev [team, num, tick] ∧ s.slotFor team num = some slot) ∧
    (let s : State := { ready with colls := [(2, { state := .posted, number := 1 })] }.onEvent [0, 1]
     let slot : Nat := 2; let team : Nat := 0; let num : Nat := 1; let ev := fun (nums : List Nat) => s.subject.nums = nums
     ev [team, num] ∧ s.slotFor team num = some slot) ∧
    (let team : Nat := 0; let rank : Nat := 0; let num : Nat := 1; let r : MatchRec := { number := 1 }
     let s : State := { ready with recs := [r] }.onEvent [0, 0, 1]
     let ev := fun (nums : List Nat) => s.subject.nums = nums
     ev [team, rank, num] ∧ (∀ e ∈ s.agenda, e.what = .postMessage → e.sub.nums.take 3 ≠ [team, rank, num]) ∧ s.memberBehind team rank = false ∧
     s.recOf team num = some r ∧ r.state = .collecting) ∧
    (let s : State := { ready with colls := [(2, { state := .posted, number := 1, block := [0#32, 0#32, 0#32, 0#32, 0#32, 0#32, 5#32] })], dtime := 5 }.onEvent [2]
     let slot : Nat := 2; let ev := fun (nums : List Nat) => s.subject.nums = nums; let k := s.coll slot
     ev [slot] ∧ k.state = .posted ∧ k.tmo ≠ 0 ∧ k.posted + k.tmo ≤ s.dtime) ∧
    (let s : State := { ready with colls := [(2, { state := .ticketed, ticket := 256 })] }.onEvent [2]
     let slot : Nat := 2; let team : Nat := 0; let rank : Nat := 0; let clk : Nat := 0; let ev := fun (nums : List Nat) => s.subject.nums = nums
     let k := s.coll slot; let size := s.teamSize k.team; let next := s.teamFid k.team ((k.rank + 1) % size); let port := (s.portTo next).getD 31
     ev [slot] ∧ k.state = .ticketed ∧ s.dev ≠ .checkpoint ∧ (∀ e ∈ s.colls, e.2.state = .ticketed → k.ticket ≤ e.2.ticket) ∧
     (∀ e ∈ s.colls, e.2.state = .posted ∨ e.2.state = .cancelSent → k.ticket < (e.2.clk + 1) * 256) ∧ s.unstaged next = false ∧
     s.engineFrozen k.core 6 = false ∧ (port = 31 ∨ s.stagingRoom port = true)) ∧
    (let s : State := { ready with colls := [(2, { state := .started, ticket := 256, block := [0#32, 128#32, 0#32, 0#32, 0#32, 0#32, 5#32] })] }.onEvent [256, 0, 0, 1]
     let slot : Nat := 2; let team : Nat := 0; let tick : Nat := 256; let c : Nat := 0; let first : Nat := 0; let count : Nat := 1
     let ev := fun (nums : List Nat) => s.subject.nums = nums; let k := s.coll slot; let size := s.teamSize k.team
     ev [tick, c, first, count] ∧ s.slotOfTicket tick = some slot ∧ k.folds = true ∧ c < k.nchunks ∧ (k.chunk c).sent = false ∧ first < size) ∧
    (let s : State := ready.onEvent [256, 3, 0]; let rank : Nat := 0; let tick : Nat := 256; let n : Nat := 3
     let ev := fun (nums : List Nat) => s.subject.nums = nums
     ev [tick, n, rank]) ∧
    (let s : State := { { ready with colls := [(2, { state := .started, ticket := 256, block := [0#32, 128#32, 0#32, 0#32, 0#32, 0#32, 5#32] })] } with dtime := 5 }.onEvent [2]
     let slot : Nat := 2; let team : Nat := 0; let rank : Nat := 0; let op : Nat := 0; let ev := fun (nums : List Nat) => s.subject.nums = nums
     let k := s.coll slot; let size := s.teamSize k.team; let before := (k.rank + size - 1) % size
     let next := s.teamFid k.team ((k.rank + 1) % size); let port := (s.portTo next).getD 31
     let started := (let k := { k with state := .started, start := s.dtime, port := port }
                     let u := (s.setColl slot k).grant k before 64
                     let u := if k.op = 1 && k.rank + 1 != size && before + 1 != size then u.grant k (size - 1) 64 else u
                     if k.tmo = 0 then u
                     else (u.timer false (u.dtime + k.tmo) .collectiveTimeout [slot]).timer false (u.dtime + 2 * k.tmo)
                       .collectiveResultTimeout [slot])
     ev [slot] ∧ k.state = .started ∧ k.lateAt 1 s.dtime = true) ∧
    (let s : State := { { ready with colls := [(2, { state := .started, ticket := 256, block := [0#32, 128#32, 0#32, 0#32, 0#32, 0#32, 5#32] })] } with dtime := 10 }.onEvent [2]
     let slot : Nat := 2; let team : Nat := 0; let rank : Nat := 0; let op : Nat := 0; let ev := fun (nums : List Nat) => s.subject.nums = nums
     let k := s.coll slot; let size := s.teamSize k.team; let before := (k.rank + size - 1) % size
     let next := s.teamFid k.team ((k.rank + 1) % size); let port := (s.portTo next).getD 31
     let started := (let k := { k with state := .started, start := s.dtime, port := port }
                     let u := (s.setColl slot k).grant k before 64
                     let u := if k.op = 1 && k.rank + 1 != size && before + 1 != size then u.grant k (size - 1) 64 else u
                     if k.tmo = 0 then u
                     else (u.timer false (u.dtime + k.tmo) .collectiveTimeout [slot]).timer false (u.dtime + 2 * k.tmo)
                       .collectiveResultTimeout [slot])
     ev [slot] ∧ k.state = .started ∧ k.lateAt 2 s.dtime = true ∧ s.engineFrozen k.core 6 = false) ∧
    (let s : State := { ready with colls := [(2, { state := .started, ticket := 256, block := [0x400#32, 0#32, 0#32, 0#32, 0#32, 0#32, 5#32], chunks := [(0, { sent := true, written := true })] })] }.onEvent [2]
     let slot : Nat := 2; let team : Nat := 0; let rank : Nat := 0; let op : Nat := 0; let ev := fun (nums : List Nat) => s.subject.nums = nums
     let k := s.coll slot; let size := s.teamSize k.team; let before := (k.rank + size - 1) % size
     let next := s.teamFid k.team ((k.rank + 1) % size); let port := (s.portTo next).getD 31
     let started := (let k := { k with state := .started, start := s.dtime, port := port }
                     let u := (s.setColl slot k).grant k before 64
                     let u := if k.op = 1 && k.rank + 1 != size && before + 1 != size then u.grant k (size - 1) 64 else u
                     if k.tmo = 0 then u
                     else (u.timer false (u.dtime + k.tmo) .collectiveTimeout [slot]).timer false (u.dtime + 2 * k.tmo)
                       .collectiveResultTimeout [slot])
     ev [slot] ∧ k.state = .started ∧ k.out = [] ∧ k.inq = [] ∧ (k.keys size).all (k.settledKey size) = true ∧ s.engineFrozen k.core 6 = false ∧
     s.lostAt k.id = none ∧ s.awaitsPeer k.id = false ∧ k.pass ≤ s.dtime ∧ k.code = 0) :=
  by refine ⟨?_, ?_, ?_, ?_, ?_, ?_, ?_, ?_, ?_, ?_, ?_, ?_⟩ <;> decide +kernel

theorem witness_TaskStepResults :
    (let s : State := ({ ready with launches := [], cores := [], blocks := [], groups := [], nodes := [(1, { state := .ready, desc := List.replicate 8 0#8 ++ leBytes 8 0x4000 ++ List.replicate 112 0#8 })] }.commanded []).words [(0x4000, 0x10000), (0x4018, 1), (0x401C, 0x0101), (0x4044, 0x010020)] |>.onEvent [1]
     let n : Nat := 1; let l : Launch := okOr {} (s.launchFor 1); let e : Nat × Coll := (0, {})
     let ev := fun (nums : List Nat) => s.subject.nums = nums; let d := s.node n
     let ready := s.dispatchable n = true ∧ s.bodyPins d.queue d.desc = [] ∧ ∀ e ∈ s.nodes, e.1 ≠ n → readyBefore e.2 d = true → s.dispatchable e.1 = false
     (ev [n] ∧ ready ∧ descKind d.desc = 0) ∧ s.launchFor n = .ok l) ∧
    (let s : State := { ready with cores := [], blocks := [], groups := [] }.onEvent [0, 0]
     let n : Nat := 0; let c : Nat := 0; let u : Nat := 0; let ev := fun (nums : List Nat) => s.subject.nums = nums; let la := s.launch n
     ev [n, c] ∧ s.mayPlace n = true ∧ s.placeable n la c = true ∧ s.savedUnit n la c = [] ∧ s.nextUnit n la c = some u) ∧
    (let s : State := { ready with blocks := [], groups := [], launches := [(0, { ready.launch 0 with nextBlk := 1 })] }.onEvent [0]
     let n : Nat := 0; let e : Nat × Coll := (0, {}); let ev := fun (nums : List Nat) => s.subject.nums = nums; let d := s.node n
     let la := s.launch n
     let allOver := (∀ e ∈ s.blocks, e.2.live = true → e.2.node ≠ n) ∧ la.saved = [] ∧ la.blocks ≤ la.nextBlk
     ev [n] ∧ d.state = .running ∧ descKind d.desc = 0 ∧ allOver ∧ (s.endOfLaunch n).launchQuiet n = true) ∧
    (let s : State := { ready with nodes := [(1, { state := .running, desc := [1#8] })] }.onEvent [1]
     let n : Nat := 1; let c : Nat := 0; let u : Nat := 0; let ev := fun (nums : List Nat) => s.subject.nums = nums; let d := s.node n
     let la := s.launch n; let j := c / max 1 la.cblk; let k := if la.det then j else u
     ev [n] ∧ d.state = .running ∧ descKind d.desc = 1 ∧ (∀ k ∈ s.cards, k.copy ≠ some n) ∧ d.code = 0 ∧ d.missed = false) ∧
    (let s : State := { ready with nodes := [(1, { state := .running, desc := [2#8] })] }.onEvent [1]
     let n : Nat := 1; let ev := fun (nums : List Nat) => s.subject.nums = nums; let d := s.node n; let dropped := s.dropBurn n
     ev [n] ∧ d.state = .running ∧ descKind d.desc = 2 ∧ (∀ b ∈ dropped.burns, b.node ≠ n) ∧ (dropped.node n).wct ≤ dropped.dtime ∧
     (∀ r ∈ dropped.rjobs, r.burn ≠ some n) ∧ (dropped.node n).code = 0) ∧
    (let n : Nat := 1
     let e : Nat × Coll := (2, { state := .done, node := some 1 })
     let s : State := { { ready with nodes := [(1, { state := .running, desc := [3#8] })] } with colls := [e] }.onEvent [1]
     let ev := fun (nums : List Nat) => s.subject.nums = nums; let d := s.node n
     ev [n] ∧ d.state = .running ∧ descKind d.desc = 3 ∧ s.colls.find? (fun e => e.2.node == some n) = some e ∧ e.2.state = .done ∧
     d.missed = false) ∧
    (let s : State := { { ready with nodes := [(1, { state := .ready, desc := [0#8], deadline := 5 })] } with dtime := 5 }.onEvent [1]
     let n : Nat := 1; let e : Nat × Coll := (0, {}); let ev := fun (nums : List Nat) => s.subject.nums = nums; let d := s.node n
     let ready := s.dispatchable n = true ∧ s.bodyPins d.queue d.desc = [] ∧ ∀ e ∈ s.nodes, e.1 ≠ n → readyBefore e.2 d = true → s.dispatchable e.1 = false
     ev [n] ∧ s.deadlinePassed n = true ∧ d.missed = false ∧ (d.state = .built ∨ d.state = .waiting ∨ d.state = .ready)) ∧
    (let s : State := { { ready with nodes := [(1, { state := .running, desc := [0#8], deadline := 5 })] } with dtime := 5 }.onEvent [1]
     let n : Nat := 1; let e : Nat × Coll := (0, {}); let ev := fun (nums : List Nat) => s.subject.nums = nums; let d := s.node n
     ev [n] ∧ s.deadlinePassed n = true ∧ d.missed = false ∧ d.state = .running ∧ (∀ e ∈ s.colls, e.2.node ≠ some n)) ∧
    (let s : State := (ready.withGrp fun g => { g with liveMask := 0#32, frontier := [] }).onEvent [0, 0]
     let c : Nat := 0; let p : Nat := 0; let ev := fun (nums : List Nat) => s.subject.nums = nums; let g := s.grp c p; let parted := s.endTwin c p
     ev [c, p] ∧ g.live = true ∧ g.liveMask = 0#32 ∧
     (g.places = none ∨ (parted.launch g.node).preempt = false ∨ (parted.launch g.node).abort ≠ none) ∧ (s.core c).frozen = false ∧
     (parted.core c).frozen = false ∧ parted.groupDone c p = true) :=
  by refine ⟨⟨by decide +kernel, okOr_eq (by decide +kernel)⟩, ?_, ?_, ?_, ?_, ?_, ?_, ?_, ?_⟩ <;> decide +kernel

theorem witness_HostCommandResults :
    (let s : State := (ready.commanded [(0, 1), (2, 0x4000)]).onEvent [0]
     let t : State := ((s.takeCommand 0 (fun _ => true)).getD ({}, s)).2
     let q : Nat := 0
     let k : Command := ((s.takeCommand 0 (fun _ => true)).getD ({}, s)).1
     let b : List Byte := t.bytes 0x4000 128; let ev := fun (nums : List Nat) => s.subject.nums = nums
     let takes := fun (is : Nat → Bool) => s.takeCommand q is = some (k, t)
     let a := BitVec.ofNat 64 (k.operand 0)
     let u : State := (okOr (0, t) (t.buildNode b none k.queue (bitsOf (t.ctlReg (qBase k.queue + 8)) 5 4))).2
     let n : Nat := (okOr (0, t) (t.buildNode b none k.queue (bitsOf (t.ctlReg (qBase k.queue + 8)) 5 4))).1
     let v : State := okOr u (u.submitNode n)
     (ev [q] ∧ s.submitPins q = [] ∧ takes submitCode ∧ k.code = 1 ∧ k.only 1 = true ∧ a.toNat % 128 = 0 ∧ descBad b = false) ∧
     t.cpRead k.queue a 128 = .ok b ∧ t.buildNode b none k.queue (bitsOf (t.ctlReg (qBase k.queue + 8)) 5 4) = .ok (n, u) ∧
     u.submitNode n = .ok v) ∧
    (let s : State := ({ ready with nodes := [(1, { state := .done })] }.commanded [(0, 2), (2, 1)]).onEvent [0]
     let t : State := ((s.takeCommand 0 (fun _ => true)).getD ({}, s)).2
     let q : Nat := 0; let node : Nat := 1
     let k : Command := ((s.takeCommand 0 (fun _ => true)).getD ({}, s)).1
     let ev := fun (nums : List Nat) => s.subject.nums = nums
     let takes := fun (is : Nat → Bool) => s.takeCommand q is = some (k, t)
     ev [q] ∧ takes (· == 2) ∧ k.only 1 = true ∧ k.operand 0 = node ∧ node < 4096 ∧ (t.node node).state.ended = true) ∧
    (let s : State := (ready.commanded [(0, 3), (4, 1)]).onEvent [0]
     let t : State := ((s.takeCommand 0 (fun _ => true)).getD ({}, s)).2
     let q : Nat := 0
     let k : Command := ((s.takeCommand 0 (fun _ => true)).getD ({}, s)).1
     let ev := fun (nums : List Nat) => s.subject.nums = nums
     let takes := fun (is : Nat → Bool) => s.takeCommand q is = some (k, t)
     ev [q] ∧ takes (· == 3) ∧ k.only 2 = true ∧ k.operand 0 < 2 ^ 57 ∧ k.operand 1 ≤ 2 ^ 45) ∧
    (let s : State := (ready.commanded [(0, 4)]).onEvent [0]
     let t : State := ((s.takeCommand 0 (fun _ => true)).getD ({}, s)).2
     let q : Nat := 0; let node : Nat := 0
     let k : Command := ((s.takeCommand 0 (fun _ => true)).getD ({}, s)).1
     let ev := fun (nums : List Nat) => s.subject.nums = nums
     let takes := fun (is : Nat → Bool) => s.takeCommand q is = some (k, t)
     ev [q] ∧ takes (· == 4) ∧ k.only 3 = true ∧ k.operand 0 = node ∧ node < 4096 ∧ k.operand 2 < 2 ^ 32 ∧ (t.launch node).running = true ∧
     (t.node node).state = .running ∧ (t.launch node).preempt = false) ∧
    (let q : Nat := 0
     let s : State := ((ready.withCore fun k => { k with frozen := true }).commanded [(0, 5)]).onEvent [0]
     let t : State := ((s.takeCommand 0 (fun _ => true)).getD ({}, s)).2
     let k : Command := ((s.takeCommand 0 (fun _ => true)).getD ({}, s)).1
     let ev := fun (nums : List Nat) => s.subject.nums = nums
     let takes := fun (is : Nat → Bool) => s.takeCommand q is = some (k, t)
     let c := k.operand 0; let cls := k.operand 1
     ev [q] ∧ takes (· == 5) ∧ k.only 2 = true ∧ c < 384 ∧ engineClass cls = true ∧
     (if cls = 0 then (t.core c).frozen = true else ∃ f ∈ t.frozenEng, f.1 = c ∧ f.2.1 = cls)) ∧
    (let s : State := (ready.commanded [(0, 6)]).onEvent [0, 0]
     let t : State := ((s.takeCommand 0 (fun _ => true)).getD ({}, s)).2
     let q : Nat := 0
     let k : Command := ((s.takeCommand 0 (fun _ => true)).getD ({}, s)).1
     let ev := fun (nums : List Nat) => s.subject.nums = nums
     let takes := fun (is : Nat → Bool) => s.takeCommand q is = some (k, t)
     ev [q, 0] ∧ takes (· == 6) ∧ k.only 1 = true ∧ k.operand 0 < 2 ^ 51 ∧ (∀ r ∈ t.cmds, r.queue ≠ k.queue) ∧
     t.holdsCode (hostAddr (k.operand 0)) 4096 = false) ∧
    (let s : State := (ready.linked.commanded [(0, 7), (2, 1), (4, 0xFF)]).onEvent [0]
     let t : State := ((s.takeCommand 0 (fun _ => true)).getD ({}, s)).2
     let q : Nat := 0
     let k : Command := ((s.takeCommand 0 (fun _ => true)).getD ({}, s)).1
     let ev := fun (nums : List Nat) => s.subject.nums = nums
     let takes := fun (is : Nat → Bool) => s.takeCommand q is = some (k, t)
     ev [q] ∧ takes (· == 7) ∧ t.tierOk k = true) ∧
    (let s : State := (ready.linked.commanded [(0, 9), (2, 1), (4, 0xFF)]).onEvent [0]
     let t : State := ((s.takeCommand 0 (fun _ => true)).getD ({}, s)).2
     let q : Nat := 0
     let k : Command := ((s.takeCommand 0 (fun _ => true)).getD ({}, s)).1
     let ev := fun (nums : List Nat) => s.subject.nums = nums
     let takes := fun (is : Nat → Bool) => s.takeCommand q is = some (k, t)
     ev [q] ∧ takes (· == 9) ∧ t.tierOk k = true) ∧
    (let s : State := (ready.commanded [(0, 8), (6, 16)]).onEvent [0]
     let t : State := ((s.takeCommand 0 (fun _ => true)).getD ({}, s)).2
     let q : Nat := 0
     let k : Command := ((s.takeCommand 0 (fun _ => true)).getD ({}, s)).1
     let ev := fun (nums : List Nat) => s.subject.nums = nums
     let takes := fun (is : Nat → Bool) => s.takeCommand q is = some (k, t)
     let c := k.operand 0
     ev [q] ∧ takes (· == 8) ∧ k.only 3 = true ∧ c < 384 ∧ k.operand 1 < 2 ^ 52) ∧
    (let s : State := { ready with check := some ({}, false), dev := .checkpoint, groups := [] }
     let k : Command := {}; let ev := fun (nums : List Nat) => s.subject.nums = nums
     ev [] ∧ s.check = some (k, false) ∧ s.dev = .checkpoint ∧ s.atRest = true) :=
  by refine ⟨⟨by decide +kernel, okIs_eq (by decide +kernel), okOr_pair (by decide +kernel), okOr_eq (by decide +kernel)⟩, ?_, ?_, ?_, ?_, ?_, ?_, ?_, ?_, ?_⟩ <;> decide +kernel

theorem witness_HostStepResults :
    (let s : State := ready.onEvent [63, 7]; let a : Nat := 63; let v : Nat := 7; let ev := fun (nums : List Nat) => s.subject.nums = nums
     ev [a, v] ∧ a < 64) ∧
    (let s : State := ready.onEvent [15, 7]; let a : Nat := 15; let v : Nat := 7; let ev := fun (nums : List Nat) => s.subject.nums = nums
     ev [a, v] ∧ a < 16) ∧
    (let s : State := ready.onEvent [15, 2, 7]; let a : Nat := 15; let b : Nat := 2; let v : Nat := 7
     let ev := fun (nums : List Nat) => s.subject.nums = nums
     ev [a, b, v] ∧ a < 16 ∧ b < 3) ∧
    (let s : State := ready.onEvent [7, 7]; let a : Nat := 7; let v : Nat := 7; let ev := fun (nums : List Nat) => s.subject.nums = nums
     ev [a, v] ∧ a < 8) ∧
    (let s : State := ready.onEvent [255, 7]; let a : Nat := 255; let v : Nat := 7; let ev := fun (nums : List Nat) => s.subject.nums = nums
     ev [a, v] ∧ a < 256) ∧
    (let s : State := ready.onEvent [7]; let v : Nat := 7; let ev := fun (nums : List Nat) => s.subject.nums = nums
     ev [v]) ∧
    (let s : State := ready.onEvent [63, 56, 7]; let a : Nat := 63; let b : Nat := 56; let v : Nat := 7
     let ev := fun (nums : List Nat) => s.subject.nums = nums
     ev [a, b, v] ∧ a < 64 ∧ b < 64 ∧ b % 8 = 0) ∧
    (let s : State := ready.onEvent [4294967295, 8, 7]; let a : Nat := 4294967295; let b : Nat := 8; let v : Nat := 7
     let ev := fun (nums : List Nat) => s.subject.nums = nums
     ev [a, b, v] ∧ a < 2 ^ 32) ∧
    (let s : State := { ready with subject := { nums := [devTop - 1], bytes := [0#8] } }
     let a : Nat := devTop - 1; let ev := fun (nums : List Nat) => s.subject.nums = nums; let bs := s.subject.bytes
     let unpinned := a + bs.length ≤ devTop ∧ ∀ q ∈ s.pins, overlaps (128 * q.line) 128 a bs.length = false
     ev [a] ∧ unpinned ∧ s.subject.flag = false) ∧
    (let s : State := { ready with subject := { nums := [devTop - 1], flag := true, bytes := [7#8] } }
     let a : Nat := devTop - 1; let ev := fun (nums : List Nat) => s.subject.nums = nums; let bs := s.subject.bytes
     let unpinned := a + bs.length ≤ devTop ∧ ∀ q ∈ s.pins, overlaps (128 * q.line) 128 a bs.length = false
     ev [a] ∧ unpinned ∧ s.subject.flag = true ∧ s.holdsCode a bs.length = false) ∧
    (let s : State := State.reset
     s.dev = .reset) ∧
    (let s : State := { State.reset with dev := .bringup, subject := { nums := [0, 0, 0, 0] } }
     let a : Nat := 0; let b : Nat := 0; let v : Nat := 0; let w : Nat := 0; let ev := fun (nums : List Nat) => s.subject.nums = nums
     ev [a, b, v, w] ∧ s.dev = .bringup) :=
  by refine ⟨?_, ?_, ?_, ?_, ?_, ?_, ?_, ?_, ?_, ?_, ?_, ?_⟩ <;> decide +kernel

theorem witness_IntegerArithmeticMeaning :
    (let s : State := ready; let n : Issuer := me; let g : Guard := ⟨false, 7#3⟩; let d : VS := ⟨false, 0#8⟩; let a : VS := ⟨false, 0#8⟩
     let b : VS := ⟨false, 0#8⟩; let c : VS := ⟨false, 0#8⟩; let rd : BitVec 8 := 0#8; let ra : BitVec 8 := 0#8; let lit : Word := 0#32
     let sc : Bool := false; let sat : Bool := false; let u : Bool := false
     s.runs n (.iadd g d a b sat u) ∧ s.runs n (.iaddL g sc rd ra lit sat u) ∧ s.runs n (.isub g d a b sat u) ∧
     s.runs n (.isubL g sc rd ra lit sat u) ∧ s.runs n (.imul g d a b) ∧ s.runs n (.imulL g sc rd ra lit) ∧ s.runs n (.imulh g d a b u) ∧
     s.runs n (.imad g d a b c) ∧ s.runs n (.imin g d a b u) ∧ s.runs n (.iminL g sc rd ra lit u) ∧ s.runs n (.imax g d a b u) ∧
     s.runs n (.imaxL g sc rd ra lit u) ∧ s.runs n (.iabs g d a sat) ∧ s.runs n (.iaddmin g d a b c u) ∧ s.runs n (.iadd64 g d a b) ∧
     s.runs n (.iadd64L g sc rd ra lit) ∧ s.runs n (.isub64 g d a b) ∧ s.runs n (.imad64 g d a b c u)) :=
  by decide +kernel

theorem witness_ShiftAndFieldMeaning :
    (let s : State := ready; let n : Issuer := me; let g : Guard := ⟨false, 7#3⟩; let d : VS := ⟨false, 0#8⟩; let a : VS := ⟨false, 0#8⟩
     let b : VS := ⟨false, 0#8⟩; let c : VS := ⟨false, 0#8⟩; let rd : BitVec 8 := 0#8; let ra : BitVec 8 := 0#8; let lit : Word := 0#32
     let sc : Bool := false; let u : Bool := false
     let sar := fun (v : Word) (k : Nat) => if k < 32 then BitVec.ofInt 32 (v.toInt.fdiv (2 ^ k)) else if v.getLsbD 31 then 0xFFFFFFFF#32 else 0#32
     s.runs n (.shl g d a b) ∧ s.runs n (.shlL g sc rd ra lit) ∧ s.runs n (.shr g d a b) ∧ s.runs n (.shrL g sc rd ra lit) ∧
     s.runs n (.sar g d a b) ∧ s.runs n (.sarL g sc rd ra lit) ∧ s.runs n (.shl64 g d a b) ∧ s.runs n (.shr64 g d a b) ∧
     s.runs n (.shl64L g sc rd ra lit) ∧ s.runs n (.shr64L g sc rd ra lit) ∧ s.runs n (.bfe g d a b c u) ∧ s.runs n (.bfi g d a b c) ∧
     s.runs n (.popc g d a) ∧ s.runs n (.clz g d a) ∧ s.runs n (.brev g d a)) :=
  by decide +kernel

/-! ### Witnesses of the statements on decoding, steps, frames, exceptions and reset -/

theorem witness_DecodeInvertsEncode : encode example97 = some 0x2570A07040920000#64 ∧ wellFormed example97 = true := by decide +kernel

theorem witness_EncodeInvertsDecode : decode (bytesOfWord 0x2570A07040920000#64) = .ok (example97, []) := okIs_eq (by decide +kernel)

theorem witness_HeaderRoundTrip :
    (let h : Header := ⟨1#3, 15#4, 3#8, 0#3, false, false, true, 15#4⟩; h.barw = true ∨ h.barid = 0#4) ∧
    decodeHeader 0xC3E0000000000000#64 = some ⟨1#3, 15#4, 0#8, 0#3, false, false, false, 0#4⟩ := by decide +kernel

theorem witness_StepRunsTheDecodedInstruction_1 :
    let s := about
    let r := s.nextMove.2
    let u : State := { r with freeCount := r.freeCount + 1 }
    let k := u.attempt 0 0 1
    s.nextMove = (some (.issue 0 0 1), r) ∧ k = .run example97 (countedBy k) (pickedState k) ∧
      exec example97 (pickedState k) = .next (nextOr s (exec example97 (pickedState k))) :=
  ⟨by decide +kernel, runsAs_eq (by decide +kernel), isNext_eq (by decide +kernel)⟩

theorem witness_StepRunsTheDecodedInstruction_2 :
    let s := about.setBytes 0x10000 (leBytes 8 0)
    let r := s.nextMove.2
    let u : State := { r with freeCount := r.freeCount + 1 }
    s.nextMove = (some (.issue 0 0 1), r) ∧ u.attempt 0 0 1 = .idle (pickedState (u.attempt 0 0 1)) :=
  ⟨by decide +kernel, isIdle_eq (by decide +kernel)⟩

theorem witness_StepRunsTheDecodedInstruction_3 :
    let e : Entry := { hdr := 0x10000#64, mask := 0xFFFFFFFF#32 }
    let h : Header := ⟨1#3, 0#4, 0#8, 0#3, false, false, false, 0#4⟩
    let w := 0x2570A07040920000#64
    ((about.grp 0 0).frontier[0]? = some e ∧ e.idx ≤ h.count.toNat ∧ (classOf (opcodeOf w)).code = h.cls.toNat ∧
      (example97.isTransfer = true → e.idx = h.count.toNat) ∧ e.underWay = false ∧ about.comparator 0 0 e = none) ∧
    about.headerAt 0 0 e = .ok h ∧ about.fetchWord 0 0 (e.hdr + BitVec.ofNat 64 (8 * (e.idx + 1))) = .ok w ∧ decodeWord w = .ok example97 :=
  ⟨by decide +kernel, okIs_eq (by decide +kernel), okIs_eq (by decide +kernel), okIs_eq (by decide +kernel)⟩

theorem witness_StepRunsTheDecodedInstruction_5 :
    let h : Header := ⟨1#3, 0#4, 0#8, 0#3, false, false, false, 0#4⟩
    let e : Entry := { hdr := 0x10000#64, mask := 0xFFFFFFFF#32, note := [0xA8, 1, 0, 0], issued := some (h, .boarr always 0#8 0#8 ⟨true, 0#8⟩ false) }
    let s := about.withGrp fun g => { g with frontier := [e] }
    (s.grp 0 0).frontier[0]? = some e ∧ e.underWay = true ∧ e.issued = some (h, .boarr always 0#8 0#8 ⟨true, 0#8⟩ false) := by decide +kernel

theorem witness_StepRunsTheDecodedInstruction_4 :
    let ev : Event := { what := .powerWithhold, sub := {} }
    let s : State := { State.reset with agenda := [ev] }
    s.nextMove = (some (.event ev), s.nextMove.2) ∧ ({ s.nextMove.2 with freeCount := 1 } : State).makes ev.what = true := by decide +kernel

theorem witness_EveryInstructionAnswersNext : ready.issuer ≠ none ∧ Instr.powerWithhold.isStep = true := by decide +kernel

theorem witness_RegisterIndexTrap :
    let i : Instr := .iadd always ⟨false, 0#8⟩ ⟨false, 32#8⟩ ⟨true, 0#8⟩ false false
    let s := ready.withGrp fun g => { g with baseRegs := 32 }
    let e : Entry := { hdr := 0x10000#64, mask := 0xFFFFFFFF#32 }
    let f64 := ready.withGrp fun g => { g with tiles := [(0, { img := 0x2000000000000000#64 })] }
    let counting := ready.sregs [(4, 256)]
    let wide := ready.setHandle 0 0 { owner := some 0, desc := List.replicate 17 0#8 ++ [3#8] }
    let h := wide.handle 0 0
    (s.issuer = some me ∧ i.isStep = false ∧ s.oddPair 0 0 i = false ∧
      (∃ r ∈ vregs i ++ s.vregsAt 0 0 i, (s.grp 0 0).baseRegs + 32 * (s.grp 0 0).ext ≤ r) ∧ (s.grp 0 0).frontier[0]? = some e) ∧
    (f64.oddPair 0 0 (.tscl always 0#8 0#8 1#8) = true ∧ f64.issuer = some me ∧ (f64.grp 0 0).frontier[0]? = some e ∧ e.underWay = false) ∧
    ((wide.sr 0 0 0).toNat < 64 ∧ h.owner = some (wide.grp 0 0).node ∧ (h.desc[16]?).getD 0#8 = 0#8 ∧ (h.desc[17]?).getD 0#8 = 3#8) ∧
    1 ≤ (counting.sr 0 0 4).toNat ∧ (counting.sr 0 0 4).toNat ≤ 256 := by decide +kernel

theorem witness_RegisterFrame : regDests example97 = some (vsDest ⟨false, 10#8⟩ false) ∧ ready.runs me example97 := by decide +kernel

theorem witness_ComparisonMeaning :
    let v : VS := ⟨false, 0#8⟩
    (ready.runs me (.icmp always 0#8 v v 9#4) ∧ ready.runs me (.icmp64 always 0#8 v v 9#4)) ∧
    (ready.runs me (.icmpL always false 0#8 0#8 0#32 7#3) ∧ ready.runs me (.icmp64L always false 0#8 0#8 0#32 7#3)) ∧
    10 ≤ (10#4).toNat := by decide +kernel

theorem witness_VoteAndMatchMeaning :
    ready.runs me (.vote always 0#8 0#8 2#2) ∧ ready.runs me (.ballot always 0#8 0#8) ∧ ready.runs me (.matchLanes always 0#8 0#8 false) ∧
    ready.runs me (.matchLanes always 0#8 0#8 true) := by decide +kernel

theorem witness_RegisterReadBack :
    (let l := 31; let m := 254; let r := 255; let q := 6; l < 32 ∧ m < 256 ∧ r < 256 ∧ q < 8 ∧ m ≠ r ∧ q ≠ 7) ∧
    (let m := 7; let r := 126; let q := 6; m < 8 ∧ m ≠ q ∧ m < 128 ∧ m ≠ r ∧ r < 127 ∧ r < 128) ∧
    (let r := 120; ((ready.withGrp fun g => { g with handler := true }).grp 0 0).handler = true ∧ 120 ≤ r ∧ r < 128) ∧
    (let r := 127; (ready.grp 0 0).handler = false ∧ r < 128) := by decide +kernel

theorem witness_MemoryReadBack :
    (let pa := 8; let bs : List Byte := [1#8, 2#8]; (∃ a ∈ [7, 10], a < pa ∨ pa + bs.length ≤ a) ∧
      (∃ k ∈ [7, 10], poolKey 0 k < poolKey 0 pa ∨ poolKey 0 pa + bs.length ≤ poolKey 0 k)) ∧ ready.mapsWf := by decide +kernel

theorem witness_AccessIssueFrame :
    let t := fun (i : Instr) => nextOr ready (exec i ready)
    ∀ i ∈ [Instr.ld always 4#8 0#8 0#8 0#2 4#4 0#2 0#14, .st always 4#8 0#8 0#8 0#2 4#4 0#2 0#14, .ldk always 4#8 0#8 4#4 0#14,
        .atom always 4#8 0#8 0#8 0#8 0#2 0#4 6#3 false 0#10, .pref always 0#8 0#8 0#2 0#2 0#14],
      isNext (exec i ready) = true ∧ ((t i).grp me.core me.grp).handler = (ready.grp me.core me.grp).handler := by decide +kernel

theorem witness_HomeRequestFrame :
    let at_ := fun (k : AccKind) => ({ id := 5, kind := k, pa := 0x4000, n := 4, data := leBytes 4 7 } : Access)
    let s := fun (k : AccKind) => { ready with accesses := [at_ k] }.onEvent [5]
    (∀ k ∈ [AccKind.load, .store, .atomic 0], (s k).subject.nums = [5] ∧ (s k).access 5 = some (at_ k) ∧
      windowOf (at_ k).pa ≠ some .control ∧ isNext (exec .homeRequest (s k)) = true) ∧
    ∀ k ∈ [0x3FFF, 0x4004], k < 0x4000 ∨ 0x4000 + 4 ≤ k := by decide +kernel

theorem witness_SliceAccessFrame :
    let s := ready
    let x := s.ctx me always
    let b := (s.scrSlice x.c x.g.slot).1
    let t := fun (i : Instr) => nextOr s (exec i s)
    s.issuer = some me ∧
    (∀ i ∈ [Instr.lds always 4#8 0#8 0#2 4#4 8#14, .sts always 4#8 0#8 0#2 4#4 8#14, .atoms always 4#8 0#8 0#8 0#8 0#2 0#4 6#3 false 8#10],
      isNext (exec i s) = true ∧ ((t i).grp me.core me.grp).handler = (s.grp me.core me.grp).handler) ∧
    ∀ k ∈ [b + 7, b + 12], ∀ l ∈ lanesOf x.live, poolKey 0 k < poolKey x.c (b + (x.poolAddr s 0#2 0#8 8#14 l).toNat) ∨
      poolKey x.c (b + (x.poolAddr s 0#2 0#8 8#14 l).toNat) + 4 ≤ poolKey 0 k := by decide +kernel

theorem witness_TransferFrame :
    let v : VS := ⟨true, 0#8⟩
    (∀ i ∈ [Instr.nop always, .bra always true 0#32, .brx always v, .ret always v, .call always true v 0#32, .callx always v v,
        .loop always true v 0#32, .iter always true true 0#3 v 0#32, .exit always], ready.runs me i) ∧
    (∀ k, (ready.jreg me.core me.grp k).armed = false) ∧ (∀ q, (ready.grp me.core q).regrp = none) ∧
    (ready.blockOf me.core me.grp).regroups = [] :=
  ⟨by decide +kernel, fun k => aget_of_all (P := fun j : JReg => j.armed = false) rfl k (by decide +kernel),
   fun q => aget_of_all (P := fun g : Group => g.regrp = none) rfl _ (by decide +kernel), by decide +kernel⟩

/-- The group's one page, of 1 GiB, with flags and an address of its own. -/
def mapped1G (pte : Nat) : State := ready.words [(0x3000, pte % 2 ^ 32), (0x3004, pte / 2 ^ 32)]

theorem witness_AddressMapAndTranslation :
    (let x : Context := { root := 0x1000, v := true }
     let leaf := fun (pte : Nat) => okOr { pte := 0#64, bits := 0, span := 0 } ((mapped1G pte).leaf 0 x 0)
     let pa := fun (pte : Nat) => pteAddr (leaf pte).pte / 2 ^ (leaf pte).bits * 2 ^ (leaf pte).bits
     (∀ pte ∈ [0x33, 0x23, 0x2000000000033, 0x7000000000033, 0x1010000000033, 0x8000000000033], okB ((mapped1G pte).leaf 0 x 0) = true) ∧
     ¬ (leaf 0x23).pte.getLsbD 4 = true ∧ (leaf 0x33).pte.getLsbD 4 = true ∧ (leaf 0x33).pte.getLsbD 5 = true ∧ (leaf 0x33).pte.getLsbD 6 = false ∧
     windowOf (pa 0x2000000000033) = none ∧ windowOf (pa 0x7000000000033) = some .control ∧ windowOf (pa 0x1010000000033) = some .remote ∧
     windowOf (pa 0x8000000000033) = some .host ∧ windowOf (pa 0x33) = some .device ∧ ({ root := 0 } : Context).v = false) ∧
    (let x : Context := { root := 0x1000, v := true }
     let s := fun (pte : Nat) => mapped1G pte
     let e := fun (pte : Nat) => (s pte).dword (0x3000 + 8 * (0 / 2 ^ (12 + 9 * 2) % 512))
     (∀ t ∈ (s 0).tlb, t.core = 0 → t.root = x.root → 0 / 2 ^ t.bits ≠ t.page) ∧ okB ((s 0).walk 0 5 x.root) = false ∧ (e 0).getLsbD 0 = false ∧
     (e 0x301).getLsbD 0 = true ∧ (e 0x301).extractLsb' 8 4 ≠ 0#4 ∧ (e 0x1001).getLsbD 0 = true ∧ (e 0x1001).getLsbD 1 = false ∧
     pteBad (e 0x1001) 3 = false) ∧
    (let s := ready.withGrp fun g => { g with reserved := some (0x4000, 2048) }
     let m : Mode := { handler := true }
     (m.handler = true ∧ m.fetch = false ∧ (s.grp 0 0).reserved = some (0x4000, 2048) ∧ 0x4000 ≤ 0x47FF ∧ 0x47FF < 0x4000 + 2048) ∧
     ({} : Mode).handler = false) ∧
    (0x1010000000000 ≤ 0x10100B2D05DFFFF ∧ 0x1FFB2D05E0000 % 2 ^ 40 ≥ 0xB2D05E0000) := by decide +kernel

/-- The group with a handler at 0x30000, whose areas begin at 0x20000. -/
def handled : State := ready.withLaunch fun l => { l with tvec := 0x30000#64, hbase := 0x20000#64 }

theorem witness_ExceptionEntry :
    let t : Cause := { code := Code.TRAP, detail := 7#64, tpc := 0x10008#64 }
    let e : Entry := { hdr := 0x10000#64, mask := 0xFFFFFFFF#32 }
    let g := handled.grp 0 0
    let l := handled.launchOf 0 0
    (g.handler = false ∧ g.trap = none ∧ handled.loadsPending 0 0 = false ∧ handled.holdsCode 0x20000 1280 = false ∧ handled.pinnedLines 0 0x20000 1280 = [] ∧ l.tvec ≠ 0#64 ∧ t.code < 128 ∧ t.fe < 32 ∧ windowOf 0x20000 = some .device ∧
      t.fe < g.frontier.length ∧ g.frontier[t.fe]? = some e ∧ e.idx < 16 ∧ handled.dtime < 2 ^ 64 ∧ g.frontier.length ≤ 31 ∧
      ¬ (t.code = Code.PREEMPT ∨ t.code = Code.RESUME)) ∧
    handled.translateRange 0 l.context { write := true, handler := true } (BitVec.ofNat 64 ((l.hbase.toNat + 4096 * (64 * 0 + 0)) % 2 ^ 57)) 1280 =
      .ok [(0x20000, 1280)] := ⟨by decide +kernel, okIs_eq (by decide +kernel)⟩

theorem witness_ExceptionsThatAbort :
    let fails := fun (s : State) => s.translateRange 0 (s.launchOf 0 0).context { write := true, handler := true } ((s.launchOf 0 0).area 0 0) 1280
    let readOnly := (handled.words [(0x3000, 0x23)])
    let loading : State := { handled with accesses := [{ id := 5, uid := 1, dest := .scalar 0 }] }
    let control := (handled.words [(0x3004, 0x70000)])
    let first : Cause := { code := 1 }
    let later : Cause := { code := 2, tpc := 0x10008#64 }
    let taking := handled.withGrp fun g => { g with trap := some first }
    let second : Cause := { code := 1, tpc := 0x10008#64, fe := 1, lanes := 2#32, at_ := handled.cycle }
    let earlier : Cause := { code := 1, tpc := 0x20008#64 }
    let two := handled.withGrp fun g => { g with
      trap := some second, frontier := [{ hdr := 0x20000#64, mask := 1#32 }, { hdr := 0x10000#64, mask := 2#32 }] }
    ((handled.withGrp fun g => { g with handler := true }).grp 0 0).handler = true ∧
    ((ready.grp 0 0).handler = false ∧ (ready.grp 0 0).trap = none ∧ ready.loadsPending 0 0 = false ∧ (ready.launchOf 0 0).vector 1 = 0#64) ∧
    ((readOnly.grp 0 0).handler = false ∧ (readOnly.grp 0 0).trap = none ∧ readOnly.loadsPending 0 0 = false ∧ (readOnly.launchOf 0 0).vector 1 ≠ 0#64 ∧
      okB (fails readOnly) = false) ∧
    ((control.grp 0 0).handler = false ∧ (control.grp 0 0).trap = none ∧ control.loadsPending 0 0 = false ∧ (control.launchOf 0 0).vector 1 ≠ 0#64 ∧
      okB (fails control) = true ∧ ∃ q ∈ okOr [] (fails control), windowOf q.1 ≠ some .device ∧ windowOf q.1 ≠ some .host) ∧
    ((loading.grp 0 0).handler = false ∧ (loading.grp 0 0).trap = none ∧ loading.loadsPending 0 0 = true) ∧
    ((taking.grp 0 0).handler = false ∧ (taking.grp 0 0).trap = some first ∧ first.yields later taking.cycle (taking.grp 0 0).frontier = false ∧
      (taking.grp 0 0).nextFault = none) ∧
    ((two.grp 0 0).handler = false ∧ (two.grp 0 0).trap = some second ∧ second.tpc ≠ 0#64 ∧ earlier.tpc ≠ 0#64 ∧ second.at_ = two.cycle ∧
      earlier.fe < second.place (two.grp 0 0).frontier) := by decide +kernel

theorem witness_PrivilegeTraps :
    let e : Entry := { hdr := 0x10000#64, mask := 0xFFFFFFFF#32 }
    (∀ i ∈ [Instr.rte always true, .savelive always 0#8 0#8, .restlive always 0#8, .srd always ⟨false, 0#8⟩ 0x20#8, .srd always ⟨true, 0#8⟩ 0x24#8,
        .swr always 0x1A#8 0#8, .swr always 0x1D#8 0#8], ready.runs me i) ∧
    (ready.grp 0 0).handler = false ∧ (ready.grp 0 0).frontier[0]? = some e ∧ (ready.ctx me always).live ≠ 0#32 := by decide +kernel

theorem witness_MisalignedAccessTraps :
    let e : Entry := { hdr := 0x10000#64, mask := 0xFFFFFFFF#32 }
    let s := ready.sregs [(0, 0x4001)]
    let x := s.ctx me always
    (∀ i ∈ [Instr.ld always 4#8 0#8 0#8 0#2 2#4 0#2 0#14, .st always 4#8 0#8 0#8 0#2 6#4 0#2 0#14, .ldk always 4#8 0#8 2#4 0#14], s.runs me i) ∧
    (s.grp 0 0).frontier[0]? = some e ∧ (s.grp 0 0).trap = none ∧ (x.addr s 0#2 0#8 0#8 0#14 0).toNat % widthBytes 2#4 ≠ 0 ∧
    (x.addr s 0#2 0#8 0#8 0#14 0).toNat % widthBytes 6#4 ≠ 0 ∧ x.live ≠ 0#32 ∧ (lanesOf (x.live &&& ~~~(s.grp 0 0).emask)).head? = some 0 := by
  decide +kernel

theorem witness_IllegalInstructionTraps :
    let e : Entry := { hdr := 0x10000#64, mask := 0xFFFFFFFF#32 }
    let at_ := fun (a : Nat) => ready.withGrp fun g => { g with frontier := [{ e with hdr := BitVec.ofNat 64 a }] }
    let word := fun (s : State) (a : Nat) (w : DWord) => okIs w (s.fetchWord 0 0 (BitVec.ofNat 64 a)) = true
    let bad := ready.words [(0x1000C, 0xFF800000)]
    let other := (ready.words [(0x10004, 0xC2000000)]).words [(0x1000C, 0x02700000)]
    (((at_ 0x10004).grp 0 0).frontier[0]? = some { e with hdr := 0x10004#64 } ∧ (0x10004#64).toNat % 8 ≠ 0 ∧ e.underWay = false) ∧
    (((at_ 0x10008).grp 0 0).frontier[0]? = some { e with hdr := 0x10008#64 } ∧ word (at_ 0x10008) 0x10008 0#64 ∧ isHeader 0#64 = false) ∧
    (word (ready.words [(0x10000, 1)]) 0x10000 0xC000000000000001#64 ∧ isHeader 0xC000000000000001#64 = true ∧
      decodeHeader 0xC000000000000001#64 = none) ∧
    (word bad 0x10000 0xC000000000000000#64 ∧ isHeader 0xC000000000000000#64 = true ∧ (decodeHeader 0xC000000000000000#64).isSome = true ∧
      bad.comparator 0 0 e = none ∧ word bad 0x10008 0xFF80000000000000#64 ∧ okB (decodeWord 0xFF80000000000000#64) = false) ∧
    (word other 0x10000 0xC200000000000000#64 ∧ word other 0x10008 0x0270000000000000#64 ∧ okB (decodeWord 0x0270000000000000#64) = true ∧
      (classOf (opcodeOf 0x0270000000000000#64)).code ≠ 1) := by decide +kernel

theorem witness_ResetStateAndTime :
    let ns : State := { State.reset with schedule := [.ns] }
    let cy : State := { State.reset with schedule := [.cycle] }
    ns.nextMove = (some .ns, ns.nextMove.2) ∧ cy.nextMove = (some .cycle, cy.nextMove.2) ∧ 6 ≠ 7 := by decide +kernel

theorem witness_MapsStayCanonical : about.mapsWf ∧ step about = .next (nextOr about (step about)) :=
  ⟨by decide +kernel, isNext_eq (by decide +kernel)⟩

/-- An image of an unbound accumulator, all zeros, and one of a bound accumulator. -/
def noImage : State := ready.sregs [(0, 0x20000)]
def anImage : State := noImage.words [(0x28024, 0x10000)]

/-- The pieces of an image of 33,408 bytes at the address that register pair 0 holds. -/
def imagePieces (s : State) : List (Nat × Nat) :=
  okOr [] (s.translateRange 0 (s.launchOf 0 0).context { handler := (s.grp 0 0).handler } ((s.ctx me always).sreg64 s 0#8) 33408)

theorem aget_of_below {d : α} {lo : Nat} : ∀ {m : List (Nat × α)} {k : Nat}, (∀ e ∈ m, e.1 < lo) → lo ≤ k → aget d m k = d
  | [], _, _, _ => rfl
  | (j, v) :: rest, k, h, hk => by
    have hj : j < lo := h (j, v) (List.mem_cons_self ..)
    rw [aget, if_neg (by omega)]
    exact aget_of_below (fun e he => h e (List.mem_cons_of_mem _ he)) hk

/-- Memory above all that is listed reads as zeros. -/
theorem readPieces_above {s : State} {lo : Nat} : ∀ {ps : List (Nat × Nat)}, (∀ e ∈ s.mem, e.1 < lo) → s.undef = [] →
    (∀ q ∈ ps, lo ≤ q.1 ∧ windowOf q.1 = some .device) → s.readPieces ps = ps.flatMap fun q => List.replicate q.2 0#8
  | [], _, _, _ => rfl
  | q :: ps, hm, hu, hp => by
    have hq := hp q (List.mem_cons_self ..)
    have hb : s.readAt q.1 q.2 = List.replicate q.2 0#8 := by
      simp only [State.readAt, hq.2, State.bytes, State.byte, hu, List.find?_nil]
      refine List.eq_replicate_iff.mpr ⟨by simp, ?_⟩
      intro b h
      obtain ⟨k, _, rfl⟩ := List.mem_map.mp h
      exact aget_of_below hm (by omega)
    have hr := readPieces_above hm hu fun r h => hp r (List.mem_cons_of_mem _ h)
    rw [State.readPieces] at hr ⊢
    rw [List.flatMap_cons, List.flatMap_cons, hb, hr]

theorem witness_restoredImage :
    let s := noImage
    let x := s.ctx me always
    let b := s.readPieces (imagePieces s)
    let f := s.freshenPieces x.c (imagePieces s)
    (s.runs me (.mrstr always 0#8 0#8) ∧ x.live ≠ 0#32 ∧ (x.sreg64 s 0#8).toNat % 128 = 0 ∧ s.guideWaits x.c x.p 0 = false ∧
      s.loadsFree x.c x.p x.e.mask = true ∧ s.linesFull x.c (linesIn (imagePieces s)) = false ∧
      (∀ q ∈ imagePieces s, s.ownPending x.g.uid q.1 q.2 = false ∧ s.pinnedLines x.c q.1 q.2 = []) ∧
      f.engineFrozen x.c 4 = false ∧ f.freeBanks x.c ≠ 0) ∧
    s.translateRange x.c (s.launchOf x.c x.p).context { handler := x.g.handler } (x.sreg64 s 0#8) 33408 = .ok (imagePieces s) ∧
    imageBad b = false ∧ sliceNat ((b.drop 32768).take 128) 16 4 = 0 :=
  ⟨by decide +kernel, okOr_eq (by decide +kernel), by
    rw [readPieces_above (lo := 0x20000) (by decide +kernel) (by decide +kernel) (by decide +kernel)]
    decide +kernel⟩

theorem witness_restoredRecord :
    let b := anImage.readPieces (imagePieces anImage)
    imageBad b = false ∧ sliceNat ((b.drop 32768).take 128) 38 1 % 2 = 1 ∧ sliceNat ((b.drop 32768).take 128) 16 4 = 0 := by decide +kernel


end Sys2Proof.Tests
end

section
/-!
PROOFS. Encoding and decoding (R3, R50 to R58): the lemmas of the constructors put together, and the bytes of a word read back.
-/
namespace Sys2Proof

namespace Laws.Encoding

/-- Every instruction, by the lemma of its constructor. -/
theorem statement_of : ∀ i : Instr, Statement i
  | .nop g => nop g
  | .bra g hint ofs => bra g hint ofs
  | .brx g a => brx g a
  | .call g hint a ofs => call g hint a ofs
  | .callx g d a => callx g d a
  | .ret g a => ret g a
  | .exit g => exit g
  | .loop g hint a ofs => loop g hint a ofs
  | .iter g hint f64 st a ofs => iter g hint f64 st a ofs
  | .jarm g j sa sb ns => jarm g j sa sb ns
  | .jarmL g j mask c => jarmL g j mask c
  | .jwait g pd j => jwait g pd j
  | .jdrop g j => jdrop g j
  | .jqry g sd j sel => jqry g sd j sel
  | .regrp g sa pb => regrp g sa pb
  | .ungrp g sa => ungrp g sa
  | .yield g => yield g
  | .sleep g sa ns => sleep g sa ns
  | .sleepL g n ns => sleepL g n ns
  | .iadd g d a b sat u => iadd g d a b sat u
  | .iaddL g sc d a lit sat u => iaddL g sc d a lit sat u
  | .isub g d a b sat u => isub g d a b sat u
  | .isubL g sc d a lit sat u => isubL g sc d a lit sat u
  | .imul g d a b => imul g d a b
  | .imulL g sc d a lit => imulL g sc d a lit
  | .imulh g d a b u => imulh g d a b u
  | .imad g d a b c => imad g d a b c
  | .iadd64 g d a b => iadd64 g d a b
  | .iadd64L g sc d a lit => iadd64L g sc d a lit
  | .isub64 g d a b => isub64 g d a b
  | .imad64 g d a b c u => imad64 g d a b c u
  | .icmp g p a b cc => icmp g p a b cc
  | .icmpL g sc p a lit cc => icmpL g sc p a lit cc
  | .icmp64 g p a b cc => icmp64 g p a b cc
  | .icmp64L g sc p a lit cc => icmp64L g sc p a lit cc
  | .imin g d a b u => imin g d a b u
  | .iminL g sc d a lit u => iminL g sc d a lit u
  | .imax g d a b u => imax g d a b u
  | .imaxL g sc d a lit u => imaxL g sc d a lit u
  | .iabs g d a sat => iabs g d a sat
  | .iaddmin g d a b c u => iaddmin g d a b c u
  | .and g d a b => and g d a b
  | .andL g sc d a lit => andL g sc d a lit
  | .or g d a b => or g d a b
  | .orL g sc d a lit => orL g sc d a lit
  | .xor g d a b => xor g d a b
  | .xorL g sc d a lit => xorL g sc d a lit
  | .andn g d a b => andn g d a b
  | .andnL g sc d a lit => andnL g sc d a lit
  | .not g d a => not g d a
  | .shl g d a b => shl g d a b
  | .shlL g sc d a lit => shlL g sc d a lit
  | .shr g d a b => shr g d a b
  | .shrL g sc d a lit => shrL g sc d a lit
  | .sar g d a b => sar g d a b
  | .sarL g sc d a lit => sarL g sc d a lit
  | .shl64 g d a b => shl64 g d a b
  | .shl64L g sc d a lit => shl64L g sc d a lit
  | .shr64 g d a b => shr64 g d a b
  | .shr64L g sc d a lit => shr64L g sc d a lit
  | .bfe g d a b c u => bfe g d a b c u
  | .bfi g d a b c => bfi g d a b c
  | .popc g d a => popc g d a
  | .clz g d a => clz g d a
  | .brev g d a => brev g d a
  | .sel g d a b pc => sel g d a b pc
  | .mov g d a b64 => mov g d a b64
  | .movL g sc d lit => movL g sc d lit
  | .plop g pd pa pb pc lut => plop g pd pa pb pc lut
  | .qswp g d a k b64 f c => qswp g d a k b64 f c
  | .qbcst g d a k b64 f c => qbcst g d a k b64 f c
  | .shfl g d a b w x b64 f c => shfl g d a b w x b64 f c
  | .shflL g d a n x w => shflL g d a n x w
  | .lshf g d a b w dn b64 f c => lshf g d a b w dn b64 f c
  | .lshfL g d a n dn w => lshfL g d a n dn w
  | .vote g pd pa v => vote g pd pa v
  | .ballot g sd pa => ballot g sd pa
  | .matchLanes g d a b64 => matchLanes g d a b64
  | .lcomp g sd pa id => lcomp g sd pa id
  | .lpfx g d a op excl f32 => lpfx g d a op excl f32
  | .segadd g d a pb f32 => segadd g d a pb f32
  | .rdlane g sd a sb b64 f c => rdlane g sd a sb b64 f c
  | .rdlaneL g sd a n => rdlaneL g sd a n
  | .fadd g d a b ty rm na nb => fadd g d a b ty rm na nb
  | .faddL g sc d a lit rm => faddL g sc d a lit rm
  | .fmul g d a b ty rm na nb => fmul g d a b ty rm na nb
  | .fmulL g sc d a lit rm => fmulL g sc d a lit rm
  | .ffma g d a b c ty rm na nb nc => ffma g d a b c ty rm na nb nc
  | .fmin g d a b ty => fmin g d a b ty
  | .fminL g sc d a lit => fminL g sc d a lit
  | .fmax g d a b ty => fmax g d a b ty
  | .fmaxL g sc d a lit => fmaxL g sc d a lit
  | .fcmp g p a b ty cc => fcmp g p a b ty cc
  | .fcmpL g sc p a lit cc => fcmpL g sc p a lit cc
  | .fclass g d a ty => fclass g d a ty
  | .frnd g d a ty rm => frnd g d a ty rm
  | .fscale g d a b ty rm => fscale g d a b ty rm
  | .fdot2 g d a b c ty rm na nb nc => fdot2 g d a b c ty rm na nb nc
  | .srcp g d a => srcp g d a
  | .srsq g d a => srsq g d a
  | .ssqrt g d a => ssqrt g d a
  | .sexp2 g d a => sexp2 g d a
  | .slog2 g d a => slog2 g d a
  | .ssin g d a => ssin g d a
  | .scos g d a => scos g d a
  | .stanh g d a => stanh g d a
  | .cvf g d a df sf rm sat sp dp => cvf g d a df sf rm sat sp dp
  | .cvn g d a q df sf rm sat dp => cvn g d a q df sf rm sat dp
  | .cvi g d a df sf rm sp dp => cvi g d a df sf rm sp dp
  | .cvsh g d a b dp => cvsh g d a b dp
  | .dcsh g d a b sp => dcsh g d a b sp
  | .qclr g nn => qclr g nn
  | .qmov g x y dir => qmov g x y dir
  | .vchain g sd sa => vchain g sd sa
  | .hring g sa k ofs => hring g sa k ofs
  | .hfrom g d a k f64 => hfrom g d a k f64
  | .htof g d a k => htof g d a k
  | .hadd g d a b k => hadd g d a b k
  | .hsub g d a b k => hsub g d a b k
  | .hmul g d a b k => hmul g d a b k
  | .hdiv g d a b k => hdiv g d a b k
  | .hneg g d a k => hneg g d a k
  | .hrcp g d a k => hrcp g d a k
  | .hsq g d a k => hsq g d a k
  | .huni g d a b => huni g d a b
  | .hcap g d a b => hcap g d a b
  | .hinFlt g p a b k f64 => hinFlt g p a b k f64
  | .hinSub g p a b => hinSub g p a b
  | .harc g d a => harc g d a
  | .hexp g d a => hexp g d a
  | .hcnt g d a runs => hcnt g d a runs
  | .ld g data base idx form width nl1 ofs => ld g data base idx form width nl1 ofs
  | .st g data base idx form width nl1 ofs => st g data base idx form width nl1 ofs
  | .lds g data base form width ofs => lds g data base form width ofs
  | .sts g data base form width ofs => sts g data base form width ofs
  | .ldp g data base form ofs => ldp g data base form ofs
  | .stp g data base form ofs => stp g data base form ofs
  | .ldk g data base width ofs => ldk g data base width ofs
  | .atom g dst base opd cmp form aop scope w64 ofs => atom g dst base opd cmp form aop scope w64 ofs
  | .atoms g dst base opd cmp form aop scope w64 ofs => atoms g dst base opd cmp form aop scope w64 ofs
  | .pref g base idx form llc ofs => pref g base idx form llc ofs
  | .xlat g d a => xlat g d a
  | .xacq g sd sa tr => xacq g sd sa tr
  | .xrel g sa => xrel g sa
  | .fence g scope => fence g scope
  | .rel g scope => rel g scope
  | .acq g scope => acq g scope
  | .bar g a n sync cnt => bar g a n sync cnt
  | .boinit g sa b inv => boinit g sa b inv
  | .boarr g sd sa b tx => boarr g sd sa b tx
  | .bowait g sa sb => bowait g sa sb
  | .botry g sd sa sb => botry g sd sa sb
  | .fwait g sd sa sb sc cc slice => fwait g sd sa sb sc cc slice
  | .dtime g sd ord => dtime g sd ord
  | .wct g sd => wct g sd
  | .acopy g sd sa sb sc sp => acopy g sd sa sb sc sp
  | .acopyt g sd sa sb sc sp => acopyt g sd sa sb sc sp
  | .asto g sd sa vb sc => asto g sd sa vb sc
  | .kick g sa sb => kick g sa sb
  | .kstat g sd clr => kstat g sd clr
  | .ghnd g sd sa => ghnd g sd sa
  | .ghndFree g sa => ghndFree g sa
  | .gath g d sa vb c nf bs => gath g d sa vb c nf bs
  | .scat g sa vb vc nf => scat g sa vb vc nf
  | .gcmr g sd code => gcmr g sd code
  | .gcmw g sa => gcmw g sa
  | .mbq g vq sa => mbq g vq sa
  | .mloop g m sa sb sc ta tb msk => mloop g m sa sb sc ta tb msk
  | .mma g m va ta tb => mma g m va ta tb
  | .mzero g m f64 => mzero g m f64
  | .mdrain g d m sb bf16 rel => mdrain g d m sb bf16 rel
  | .mdrainS g sd m sb bf16 rel => mdrainS g sd m sb bf16 rel
  | .mdrainc g m sb sc rel => mdrainc g m sb sc rel
  | .mguide g d m sb sc bf16 rel => mguide g d m sb sc bf16 rel
  | .mtwin g => mtwin g
  | .msketch g sd t sb sc => msketch g sd t sb sc
  | .mmask g sa sb => mmask g sa sb
  | .mstat g sd m clr => mstat g sd m clr
  | .msave g sa m rel => msave g sa m rel
  | .mrstr g m sa => mrstr g m sa
  | .tdesc g t sa b rcd => tdesc g t sa b rcd
  | .tdescRd g sd t => tdescRd g sd t
  | .tld g t sa sb => tld g t sa sb
  | .tldHeap g sa => tldHeap g sa
  | .tldf g t sa sb => tldf g t sa sb
  | .tstD g sa t sc => tstD g sa t sc
  | .tstF g sa t => tstF g sa t
  | .tstHeap g sa => tstHeap g sa
  | .tzero g t => tzero g t
  | .tadd g t ta tb => tadd g t ta tb
  | .tscl g t ta sb => tscl g t ta sb
  | .tmul g t ta tb => tmul g t ta tb
  | .tmulv g d ta vb => tmulv g d ta vb
  | .trnd g t ta b st abs => trnd g t ta b st abs
  | .trank g sd ta clr => trank g sd ta clr
  | .ttod g t ta => ttod g t ta
  | .ttol g t ta => ttol g t ta
  | .tpotrf g t ta => tpotrf g t ta
  | .ttrsm g t ta tb rgt tr up un => ttrsm g t ta tb rgt tr up un
  | .tupd g t ta tb => tupd g t ta tb
  | .thalc g t => thalc g t
  | .thfre g t => thfre g t
  | .qpost g sd sa => qpost g sd sa
  | .qtick g sd sa tr => qtick g sd sa tr
  | .put g sd sa => put g sd sa
  | .puts g sd sa => puts g sd sa
  | .putr g sd sa => putr g sd sa
  | .get g sd sa => get g sd sa
  | .qarm g sa sb sc => qarm g sa sb sc
  | .tcnt g sd sa b op => tcnt g sd sa b op
  | .qring g sd sa => qring g sd sa
  | .qcomp g sd sa nw fre => qcomp g sd sa nw fre
  | .qcancel g sd sa => qcancel g sd sa
  | .qstat g sd sa sel rst => qstat g sd sa sel rst
  | .gnode g sd sa => gnode g sd sa
  | .gedge g sa sb => gedge g sa sb
  | .gsub g sa => gsub g sa
  | .gwait g sd sa tr => gwait g sd sa tr
  | .launch g sd sa => launch g sd sa
  | .dline g sa sb => dline g sa sb
  | .dgst g sd => dgst g sd
  | .dgchk g sa => dgchk g sa
  | .trap g a => trap g a
  | .rte g yld => rte g yld
  | .savelive g sd sa => savelive g sd sa
  | .restlive g sa => restlive g sa
  | .srd g d n => srd g d n
  | .swr g n sa => swr g n sa
  | .bkpt g id => bkpt g id
  | .pmark g id => pmark g id
  | .haltb g sa abt => haltb g sa abt
  | .rdbaro g sd sa clr => rdbaro g sd sa clr
  | .joinTimeout => joinTimeout
  | .sleepExpiry => sleepExpiry
  | .fairnessRotation => fairnessRotation
  | .clauseFetch => clauseFetch
  | .chainCompletion => chainCompletion
  | .ringSlotCommit => ringSlotCommit
  | .releaseCompletion => releaseCompletion
  | .fwaitReread => fwaitReread
  | .homeRequest => homeRequest
  | .loadDataWritten => loadDataWritten
  | .storeAcknowledgement => storeAcknowledgement
  | .takingAPin => takingAPin
  | .retry => retry
  | .pinTimeout => pinTimeout
  | .asyncCompletion => asyncCompletion
  | .cardCompletion => cardCompletion
  | .gathSettled => gathSettled
  | .kStep => kStep
  | .twinHoldTimeout => twinHoldTimeout
  | .burnisherPhaseBoundary => burnisherPhaseBoundary
  | .burnisherCommit => burnisherCommit
  | .entryCompletion => entryCompletion
  | .putPacket => putPacket
  | .putWithSignal => putWithSignal
  | .writeWithReduce => writeWithReduce
  | .getRequest => getRequest
  | .acknowledgement => acknowledgement
  | .getData => getData
  | .remoteDeviceAccess => remoteDeviceAccess
  | .packetTimeout => packetTimeout
  | .linkDown => linkDown
  | .routeSwitch => routeSwitch
  | .postMessage => postMessage
  | .ticketMessage => ticketMessage
  | .mismatchMessage => mismatchMessage
  | .cancelMessage => cancelMessage
  | .cancelledMessage => cancelledMessage
  | .postTimeout => postTimeout
  | .collectiveStart => collectiveStart
  | .foldChunk => foldChunk
  | .resultChunk => resultChunk
  | .credit => credit
  | .collectiveTimeout => collectiveTimeout
  | .collectiveResultTimeout => collectiveResultTimeout
  | .collectiveEnd => collectiveEnd
  | .nodeDispatch => nodeDispatch
  | .blockPlacement => blockPlacement
  | .nodeCompletion => nodeCompletion
  | .deadlinePassed => deadlinePassed
  | .groupEnd => groupEnd
  | .trapEntry => trapEntry
  | .submit => submit
  | .wait => wait
  | .inval => inval
  | .preempt => preempt
  | .release => release
  | .resync => resync
  | .checkpoint => checkpoint
  | .restore => restore
  | .trace => trace
  | .checkpointStreamComplete => checkpointStreamComplete
  | .qTailWrite => qTailWrite
  | .lplaceWrite => lplaceWrite
  | .fwinWrite => fwinWrite
  | .stageWrite => stageWrite
  | .prouteWrite => prouteWrite
  | .teamCfgWrite => teamCfgWrite
  | .devFidWrite => devFidWrite
  | .queueContextWrite => queueContextWrite
  | .controlRegisterWrite => controlRegisterWrite
  | .cxlMemAccess => cxlMemAccess
  | .powerOnReset => powerOnReset
  | .firmwareVerify => firmwareVerify
  | .version => version
  | .capabilities => capabilities
  | .algorithmNegotiation => algorithmNegotiation
  | .digests => digests
  | .certificates => certificates
  | .challenge => challenge
  | .measurements => measurements
  | .powerWithhold => powerWithhold
  | .thermalTrip => thermalTrip
  | .linkUp => linkUp
  | .flitResend => flitResend
  | .packetForwarding => packetForwarding

end Laws.Encoding

theorem wordOfBytes_bytesOfWord (w : DWord) :
    wordOfBytes (w.extractLsb' 0 8) (w.extractLsb' 8 8) (w.extractLsb' 16 8) (w.extractLsb' 24 8)
      (w.extractLsb' 32 8) (w.extractLsb' 40 8) (w.extractLsb' 48 8) (w.extractLsb' 56 8) = w := by
  unfold wordOfBytes
  iterate 7 rw [BitVec.extractLsb'_append_extractLsb'_eq_extractLsb' (by omega)]
  simp

/-- What a word decodes to is read from its bytes, and what follows them is left. -/
theorem decode_bytesOfWord {w : DWord} {i : Instr} (h : decodeWord w = .ok i) (rest : List Byte) :
    decode (bytesOfWord w ++ rest) = .ok (i, rest) := by
  simp only [bytesOfWord, List.cons_append, List.nil_append, decode, wordOfBytes_bytesOfWord, h]

/-- Settles O35, constructor by constructor. -/
theorem decodeInvertsEncode : Obligations.DecodeInvertsEncode := by
  unfold Obligations.DecodeInvertsEncode
  intro i w rest he hw
  exact decode_bytesOfWord (Laws.Encoding.statement_of i w he hw) rest

end Sys2Proof
end

section
/-!
PROOFS. Registers: what each file of registers reads after a write (R3, R29, R50, R354).
-/
namespace Sys2Proof.Machine

@[simp] theorem vkey_inj (c : Nat) (pl : Place) (m r : Nat) : vkey c pl m = vkey c pl r ↔ m = r := by unfold vkey; omega
@[simp] theorem qkey_inj (c : Nat) (pl : Place) (m r : Nat) : qkey c pl m = qkey c pl r ↔ m = r := by unfold qkey; omega
@[simp] theorem pkey_inj (c p m r : Nat) : pkey c p m = pkey c p r ↔ m = r := by unfold pkey; omega
@[simp] theorem skey_inj (c p m r : Nat) : skey c p m = skey c p r ↔ m = r := by unfold skey; omega

theorem State.v_setV (s : State) (c p l m r : Nat) (w : Word) :
    (s.setV c p l r w).v c p l m = if m = r then w else s.v c p l m := by
  show aget 0#32 (aset 0#32 s.vreg _ w) (vkey c ((s.grp c p).placeOf p l) m) = _
  simp only [aget_aset, vkey_inj, State.v]

theorem State.q_setQ (s : State) (c p l m r : Nat) (w : Word) :
    (s.setQ c p l r w).q c p l m = if m = r then w else s.q c p l m := by
  show aget 0#32 (aset 0#32 s.qreg _ w) (qkey c ((s.grp c p).placeOf p l) m) = _
  simp only [aget_aset, qkey_inj, State.q]

@[simp] theorem State.p_seven (s : State) (c p : Nat) : s.p c p 7 = 0xFFFFFFFF#32 := rfl

@[simp] theorem State.setP_seven (s : State) (c p : Nat) (w : Word) : s.setP c p 7 w = s := rfl

theorem State.p_setP (s : State) (c p m : Nat) {r : Nat} (w : Word) (hr : r ≠ 7) :
    (s.setP c p r w).p c p m = if m = r then w else s.p c p m := by
  by_cases hm : m = 7
  · simp [State.p, hm, Ne.symm hr]
  · simp [State.p, State.setP, hm, hr, aget_aset]

theorem State.sraw_setSraw (s : State) (c p m r : Nat) (w : Word) :
    (s.setSraw c p r w).sraw c p m = if m = r then w else s.sraw c p m := by
  show aget 0#32 (aset 0#32 s.sreg _ w) (skey c p m) = _
  simp only [aget_aset, skey_inj, State.sraw]

/-- In handler mode the upper scalar registers name the shadow registers (R354): a write to one changes its group alone. -/
theorem State.setSr_shadow {s : State} {c p r : Nat} (w : Word) (h : (s.grp c p).handler = true) (hr : 120 ≤ r) :
    s.setSr c p r w = s.setGrp c p { s.grp c p with shadow := aset 0#32 (s.grp c p).shadow (r - 120) w } := by
  simp [State.setSr, h, hr]

theorem State.setSr_plain {s : State} {c p r : Nat} (w : Word) (h : ¬ ((s.grp c p).handler = true ∧ 120 ≤ r)) :
    s.setSr c p r w = s.setSraw c p r w := by
  simp only [State.setSr, Bool.and_eq_true, decide_eq_true_eq, if_neg h]

theorem State.sr_shadow {s : State} {c p m : Nat} (h : (s.grp c p).handler = true) (hm : 120 ≤ m) :
    s.sr c p m = aget 0#32 (s.grp c p).shadow (m - 120) := by
  simp [State.sr, h, hm]

theorem State.sr_plain {s : State} {c p m : Nat} (h : ¬ ((s.grp c p).handler = true ∧ 120 ≤ m)) : s.sr c p m = s.sraw c p m := by
  simp only [State.sr, Bool.and_eq_true, decide_eq_true_eq, if_neg h]

theorem State.sr_setSr (s : State) (c p m r : Nat) (w : Word) :
    (s.setSr c p r w).sr c p m = if m = r then w else s.sr c p m := by
  by_cases hr : (s.grp c p).handler = true ∧ 120 ≤ r
  · obtain ⟨hh, hr⟩ := hr
    rw [State.setSr_shadow w hh hr]
    by_cases hm : 120 ≤ m
    · have hk : m - 120 = r - 120 ↔ m = r := by omega
      rw [State.sr_shadow (by simpa using hh) hm, State.sr_shadow hh hm, State.grp_setGrp_self, aget_aset]
      simp only [hk]
    · rw [State.sr_plain (fun k => hm k.2), State.sr_plain (fun k => hm k.2), if_neg (by omega)]
      rfl
  · rw [State.setSr_plain w hr]
    by_cases hm : (s.grp c p).handler = true ∧ 120 ≤ m
    · rw [State.sr_shadow (by exact hm.1) hm.2, State.sr_shadow hm.1 hm.2, if_neg (by rintro rfl; exact hr hm)]
      rfl
    · rw [State.sr_plain hm, State.sr_plain (by exact hm), State.sraw_setSraw]

/-- The halves of a 64-bit value, put together again, are that value (R3). -/
theorem pair64_halves (x : DWord) : pair64 (lo32 x) (hi32 x) = x := by
  unfold pair64 lo32 hi32
  rw [BitVec.extractLsb'_append_extractLsb'_eq_extractLsb' (by omega)]
  simp

theorem State.v64_setV64 (s : State) (c p l r : Nat) (x : DWord) : (s.setV64 c p l r x).v64 c p l r = x := by
  simp [State.setV64, State.v64, State.v_setV, pair64_halves]

theorem State.sr64_setSr64 (s : State) (c p r : Nat) (x : DWord) : (s.setSr64 c p r x).sr64 c p r = x := by
  simp [State.setSr64, State.sr64, State.sr_setSr, pair64_halves]

/-- Settles O46, file by file. -/
theorem registerReadBack : Obligations.RegisterReadBack := by
  unfold Obligations.RegisterReadBack
  intro s c p l m r q w x _ _ _ _
  refine ⟨?_, ?_, s.v64_setV64 c p l r x, ?_, ?_, s.p_seven c p, s.setP_seven c p w, ?_, ?_, ?_, fun _ => s.sr64_setSr64 c p r x, ?_, ?_⟩
  · simp [State.v_setV]
  · intro hm; simp [State.v_setV, hm]
  · simp [State.q_setQ]
  · intro _ hm; simp [State.q_setQ, hm]
  · intro hq; simp [State.p_setP _ _ _ _ _ hq]
  · intro _ hm
    by_cases hq : q = 7
    · rw [hq, s.setP_seven]
    · simp [State.p_setP _ _ _ _ _ hq, hm]
  · intro _
    exact ⟨by simp [State.sr_setSr], fun _ hm => by simp [State.sr_setSr, hm]⟩
  · intro hh hr _
    rw [State.setSr_shadow w hh hr]
    rfl
  · intro hh _
    rw [State.setSr_plain w (by simp [hh]), State.sraw_setSraw, if_pos rfl]

end Sys2Proof.Machine
end

section
/-!
PROOFS. Memory and the pools: what is read after a write (R3, R9, R13), and the canonical form after reset.
-/
namespace Sys2Proof.Machine

theorem leDWord_leBytes (x : DWord) : leDWord (leBytes 8 x.toNat) = x := by
  unfold leDWord
  rw [leNat_leBytes]
  have := x.isLt
  exact BitVec.eq_of_toNat_eq (by simp; omega)

theorem State.dword_setBytes (s : State) (pa : Nat) (x : DWord) : (s.setBytes pa (leBytes 8 x.toNat)).dword pa = x := by
  have h := s.bytes_setBytes pa (leBytes 8 x.toNat)
  rw [leBytes_length] at h
  rw [State.dword, h, leDWord_leBytes]

/-- Settles O47 by the laws of memory and of the pools. -/
theorem memoryReadBack : Obligations.MemoryReadBack := by
  unfold Obligations.MemoryReadBack
  intro s pa a c o k bs x
  exact ⟨s.bytes_setBytes pa bs, s.byte_setBytes_ne bs, s.dword_setBytes pa x, s.poolBytes_setPoolBytes c o bs,
    s.poolByte_setPoolBytes_ne bs, fun h => ⟨State.setBytes_mapsWf pa bs h, State.setPoolBytes_mapsWf c o bs h⟩⟩

/-- Settles O59: nothing is listed after reset. -/
theorem resetMapsCanonical : Obligations.ResetMapsCanonical := by
  unfold Obligations.ResetMapsCanonical
  exact ⟨awf_nil _, awf_nil _, awf_nil _, awf_nil _, awf_nil _, awf_nil _⟩

end Sys2Proof.Machine
end

section
/-!
PROOFS. The maps stay canonical (R3, R9): every function that leads from one state to the next keeps them so.

The six maps are written in few places only: by `aset`, `aclear` and `filter`, which keep a map canonical, and everything else
is a record update of other fields or goes through those writers. So there is one lemma for each function of the model that
answers a state, named after the function and put together from the lemmas of the functions it calls; they stand in the
model's own order.
-/
namespace Sys2Proof.Machine

/-- A state whose maps of memory, pools and registers are canonical. -/
structure State.Canon (s : State) : Prop where
  wf : s.mapsWf

/-! #### Results that carry states

The model's functions answer states in pairs, options and records of their own; each of these carries canonical states when
every state in it is canonical. -/

/-- What an option holds, if anything, has the property. -/
inductive OptionEach {α : Type} (P : α → Prop) : Option α → Prop
  | none : OptionEach P .none
  | some {a : α} (h : P a) : OptionEach P (.some a)

/-- What a computation answers, if it does not fail, has the property. -/
inductive ExceptEach {ε α : Type} (P : α → Prop) : Except ε α → Prop
  | error {e : ε} : ExceptEach P (.error e)
  | ok {a : α} (h : P a) : ExceptEach P (.ok a)

/-- The state of a pair that begins with it. -/
inductive FstCanon {α : Type} : State × α → Prop
  | mk {s : State} {a : α} (h : s.Canon) : FstCanon (s, a)

/-- The state of a pair that ends with it. -/
inductive SndCanon {α : Type} : α × State → Prop
  | mk {s : State} {a : α} (h : s.Canon) : SndCanon (a, s)

/-- The state an instruction's body leaves. -/
inductive Res.Canon : Res → Prop
  | ok {s : State} (h : s.Canon) : Res.Canon (.ok s)
  | done {s : State} (h : s.Canon) : Res.Canon (.done s)
  | fault {s : State} {c d} (h : s.Canon) : Res.Canon (.fault c d s)
  | trap {s : State} {c d} (h : s.Canon) : Res.Canon (.trap c d s)
  | wait {s : State} {w} (h : s.Canon) : Res.Canon (.wait s w)

/-- The state of a step's outcome, where it has one. -/
inductive StepCanon : Host.Outcome State Fault Refusal → Prop
  | next {s : State} (h : s.Canon) : StepCanon (.next s)
  | fault {f} : StepCanon (.fault f)
  | refused {r} : StepCanon (.refused r)

/-- The state that an attempt to issue comes to. -/
inductive Pick.Canon : Pick → Prop
  | idle {s : State} (h : s.Canon) : Pick.Canon (.idle s)
  | run {s : State} {i b} (h : s.Canon) : Pick.Canon (.run i b s)

/-- The state after a collective's write. -/
inductive Wrote.Canon : Wrote → Prop
  | ok {s : State} {t} (h : s.Canon) : Wrote.Canon (.ok s t)
  | retry {ps} : Wrote.Canon (.retry ps)
  | fault {c} : Wrote.Canon (.fault c)
  | violate {a} : Wrote.Canon (.violate a)

/-- The state a rank-tile instruction ends in. -/
inductive RankEnd.Canon : RankEnd → Prop
  | done {s : State} {f t w} (h : s.Canon) : RankEnd.Canon (.done s f t w)
  | record {c a} : RankEnd.Canon (.record c a)
  | violate {a} : RankEnd.Canon (.violate a)

/-- The state in a chain's run. -/
inductive ChainRun.Canon : ChainRun → Prop
  | mk {s : State} {f t d o st} (h : s.Canon) : ChainRun.Canon ⟨s, f, t, d, o, st⟩

/-- The state in a copy's run. -/
inductive CopyRun.Canon : CopyRun → Prop
  | mk {s : State} {o t p st} (h : s.Canon) : CopyRun.Canon ⟨s, o, t, p, st⟩

/-! #### Conditionals and folds -/

theorem keeps_ite {α : Type} {P : α → Prop} {c : Prop} [Decidable c] {a b : α} (ha : P a) (hb : P b) :
    P (if c then a else b) := by
  split
  · exact ha
  · exact hb

theorem keeps_foldl {α β : Type} {P : β → Prop} {f : β → α → β} {b : β} {l : List α} (h : P b)
    (hf : ∀ {b a}, P b → P (f b a)) : P (l.foldl f b) :=
  List.foldlRecOn l f h fun _ hb _ _ => hf hb

section
variable {c : Prop} [Decidable c]

theorem State.Canon.ite {a b : State} (ha : a.Canon) (hb : b.Canon) :
    (if c then a else b).Canon := keeps_ite ha hb

theorem Res.Canon.ite {a b : Res} (ha : a.Canon) (hb : b.Canon) :
    (if c then a else b).Canon := keeps_ite ha hb

theorem StepCanon.ite {a b : Host.Outcome State Fault Refusal} (ha : StepCanon a) (hb : StepCanon b) :
    StepCanon (if c then a else b) := keeps_ite ha hb

theorem Pick.Canon.ite {a b : Pick} (ha : a.Canon) (hb : b.Canon) :
    (if c then a else b).Canon := keeps_ite ha hb

theorem Wrote.Canon.ite {a b : Wrote} (ha : a.Canon) (hb : b.Canon) :
    (if c then a else b).Canon := keeps_ite ha hb

theorem RankEnd.Canon.ite {a b : RankEnd} (ha : a.Canon) (hb : b.Canon) :
    (if c then a else b).Canon := keeps_ite ha hb

theorem ChainRun.Canon.ite {a b : ChainRun} (ha : a.Canon) (hb : b.Canon) :
    (if c then a else b).Canon := keeps_ite ha hb

theorem CopyRun.Canon.ite {a b : CopyRun} (ha : a.Canon) (hb : b.Canon) :
    (if c then a else b).Canon := keeps_ite ha hb

theorem OptionEach.ite {α : Type} {P : α → Prop} {a b : Option α} (ha : OptionEach P a) (hb : OptionEach P b) :
    OptionEach P (if c then a else b) := keeps_ite ha hb

theorem ExceptEach.ite {ε α : Type} {P : α → Prop} {a b : Except ε α} (ha : ExceptEach P a) (hb : ExceptEach P b) :
    ExceptEach P (if c then a else b) := keeps_ite ha hb

theorem FstCanon.ite {α : Type} {a b : State × α} (ha : FstCanon a) (hb : FstCanon b) :
    FstCanon (if c then a else b) := keeps_ite ha hb

theorem SndCanon.ite {α : Type} {a b : α × State} (ha : SndCanon a) (hb : SndCanon b) :
    SndCanon (if c then a else b) := keeps_ite ha hb

end

section
variable {α : Type} {l : List α}

theorem State.Canon.foldl {f : State → α → State} {b : State} (h : b.Canon)
    (hf : ∀ {b a}, b.Canon → (f b a).Canon) : (l.foldl f b).Canon := keeps_foldl h hf

theorem ChainRun.Canon.foldl {f : ChainRun → α → ChainRun} {b : ChainRun} (h : b.Canon)
    (hf : ∀ {b a}, b.Canon → (f b a).Canon) : (l.foldl f b).Canon := keeps_foldl h hf

theorem CopyRun.Canon.foldl {f : CopyRun → α → CopyRun} {b : CopyRun} (h : b.Canon)
    (hf : ∀ {b a}, b.Canon → (f b a).Canon) : (l.foldl f b).Canon := keeps_foldl h hf

theorem FstCanon.foldl {β : Type} {f : State × β → α → State × β} {b : State × β} (h : FstCanon b)
    (hf : ∀ {b a}, FstCanon b → FstCanon (f b a)) : FstCanon (l.foldl f b) := keeps_foldl h hf

end

section
variable {s : State}

/-! #### From a carrier to the state in it -/

theorem FstCanon.get {α : Type} {p : State × α} {a : α} (h : FstCanon p) (e : p = (s, a)) : s.Canon := by
  subst e; cases h; assumption

theorem FstCanon.of {α : Type} {a : α} (h : FstCanon (s, a)) : s.Canon := h.get rfl

theorem SndCanon.get {α : Type} {p : α × State} {a : α} (h : SndCanon p) (e : p = (a, s)) : s.Canon := by
  subst e; cases h; assumption

theorem SndCanon.of {α : Type} {a : α} (h : SndCanon (a, s)) : s.Canon := h.get rfl

theorem OptionEach.get {α : Type} {P : α → Prop} {o : Option α} {a : α} (h : OptionEach P o) (e : o = .some a) :
    P a := by
  subst e; cases h; assumption

theorem ExceptEach.get {ε α : Type} {P : α → Prop} {o : Except ε α} {a : α} (h : ExceptEach P o) (e : o = .ok a) :
    P a := by
  subst e; cases h; assumption

theorem State.Canon.fst {α : Type} {p : State × α} (h : FstCanon p) : p.1.Canon := h.get rfl

theorem State.Canon.snd {α : Type} {p : α × State} (h : SndCanon p) : p.2.Canon := h.get rfl

theorem State.Canon.ofChain {r : ChainRun} (h : r.Canon) : r.s.Canon := by cases h; assumption

theorem State.Canon.ofCopy {r : CopyRun} (h : r.Canon) : r.s.Canon := by cases h; assumption

theorem State.Canon.ofWait {r : Res} {w : Nat} (h : r.Canon) (e : r = .wait s w) : s.Canon := by
  subst e; cases h; assumption

theorem State.Canon.ofDone {r : RankEnd} {f : FFlags} {t : Nat} {w : List (Nat × Byte)} (h : r.Canon)
    (e : r = .done s f t w) : s.Canon := by
  subst e; cases h; assumption

theorem State.Canon.ofIdle {r : Pick} (h : r.Canon) (e : r = .idle s) : s.Canon := by
  subst e; cases h; assumption

theorem State.Canon.ofRun {r : Pick} {i : Instr} {b : Bool} (h : r.Canon) (e : r = .run i b s) : s.Canon := by
  subst e; cases h; assumption

theorem State.Canon.ofWrote {r : Wrote} {t : Nat} (h : r.Canon) (e : r = .ok s t) : s.Canon := by
  subst e; cases h; assumption

/-! #### Options -/

theorem State.Canon.getD {o : Option State} (h : OptionEach State.Canon o) (hs : s.Canon) : (o.getD s).Canon := by
  cases h <;> assumption

theorem CopyRun.Canon.getD {o : Option CopyRun} {r : CopyRun} (h : OptionEach CopyRun.Canon o) (hr : r.Canon) :
    (o.getD r).Canon := by
  cases h <;> assumption

theorem OptionEach.map {α β : Type} {P : β → Prop} {f : α → β} {o : Option α} (hf : ∀ a, P (f a)) :
    OptionEach P (o.map f) := by
  cases o with
  | none => exact .none
  | some a => exact .some (hf a)

theorem OptionEach.findSome {α β : Type} {P : β → Prop} {f : α → Option β} {l : List α}
    (hf : ∀ a, OptionEach P (f a)) : OptionEach P (l.findSome? f) := by
  induction l with
  | nil => exact .none
  | cons a l ih =>
    rw [List.findSome?_cons]
    split
    · rename_i b e; exact .some ((hf a).get e)
    · exact ih

/-! #### Records -/

/-- A record update that leaves the six maps alone, whatever it puts into the other fields. -/
theorem State.Canon.upd
    {dtime cycle undef undefs tags cores groups blocks launches nodes work ctrs credits seqs srcDone qperr colls
     ticketClock lastTicket postCount recs packets unsent linksDown ctl teamMem accesses rels leases l1 stipple pins
     tlb ops cards chains mjobs rjobs burns cmds engLost frozenEng dev therm fwver withhold mailbox ended cxlReply
     check forwarded resent timers nextId nextOrder freeCount picks agenda schedule turn issuer subject} (h : s.Canon) :
    ({ dtime, cycle, mem := s.mem, undef, undefs, pool := s.pool, tags, vreg := s.vreg, sreg := s.sreg,
       pred := s.pred, qreg := s.qreg, cores, groups, blocks, launches, nodes, work, ctrs, credits, seqs, srcDone,
       qperr, colls, ticketClock, lastTicket, postCount, recs, packets, unsent, linksDown, ctl, teamMem, accesses,
       rels, leases, l1, stipple, pins, tlb, ops, cards, chains, mjobs, rjobs, burns, cmds, engLost, frozenEng, dev,
       therm, fwver, withhold, mailbox, ended, cxlReply, check, forwarded, resent, timers, nextId, nextOrder,
       freeCount, picks, agenda, schedule, turn, issuer, subject } : State).Canon :=
  ⟨h.wf⟩

theorem State.Canon.filterVreg {f : Nat × Word → Bool} (h : s.Canon) :
    ({ s with vreg := s.vreg.filter f } : State).Canon := by
  obtain ⟨hm, hp, hv, hr⟩ := h
  exact ⟨hm, hp, awf_filter f hv, hr⟩

theorem State.Canon.asetVreg {k : Nat} {v : Word} (h : s.Canon) :
    ({ s with vreg := aset 0#32 s.vreg k v } : State).Canon := by
  obtain ⟨hm, hp, hv, hr⟩ := h
  exact ⟨hm, hp, awf_aset k v hv, hr⟩

theorem State.Canon.filterMem {f : Nat × Byte → Bool} (h : s.Canon) :
    ({ s with mem := s.mem.filter f } : State).Canon := by
  obtain ⟨hm, hr⟩ := h
  exact ⟨awf_filter f hm, hr⟩

end

section
variable {s : State} {x : Ctx}

/-! #### The state itself -/

theorem State.Canon.reset : State.reset.Canon := ⟨resetMapsCanonical⟩

/-! #### The operations on registers, memory, groups and their frontiers -/

theorem State.Canon.setCore {c k} (h : s.Canon) : (s.setCore c k).Canon := .upd h

theorem State.Canon.setGrp {c p g} (h : s.Canon) : (s.setGrp c p g).Canon := .upd h

theorem State.Canon.setBlk {c slot b} (h : s.Canon) : (s.setBlk c slot b).Canon := .upd h

theorem State.Canon.setLaunch {n l} (h : s.Canon) : (s.setLaunch n l).Canon := .upd h

theorem State.Canon.setNode {n d} (h : s.Canon) : (s.setNode n d).Canon := .upd h

theorem State.Canon.post {i nums} (h : s.Canon) : (s.post i nums).Canon := .ite h (.upd h)

theorem State.Canon.timer {byCycle due i nums} (h : s.Canon) : (s.timer byCycle due i nums).Canon := .upd h

theorem State.Canon.setV {c p l n x} (h : s.Canon) : (s.setV c p l n x).Canon := ⟨State.setV_mapsWf c p l n x h.wf⟩

theorem State.Canon.setQ {c p l n x} (h : s.Canon) : (s.setQ c p l n x).Canon := ⟨State.setQ_mapsWf c p l n x h.wf⟩

theorem State.Canon.setP {c p n x} (h : s.Canon) : (s.setP c p n x).Canon := ⟨State.setP_mapsWf c p n x h.wf⟩

theorem State.Canon.setSraw {c p n x} (h : s.Canon) : (s.setSraw c p n x).Canon := ⟨State.setSraw_mapsWf c p n x h.wf⟩

theorem State.Canon.setSr {c p n x} (h : s.Canon) : (s.setSr c p n x).Canon := .ite (.setGrp h) (.setSraw h)

theorem State.Canon.setSr64 {c p n x} (h : s.Canon) : (s.setSr64 c p n x).Canon := .setSr (.setSr h)

theorem State.Canon.setByte {pa b} (h : s.Canon) : (s.setByte pa b).Canon := ⟨State.setByte_mapsWf pa b h.wf⟩

theorem State.Canon.setBytes {pa a} (h : s.Canon) : (s.setBytes pa a).Canon := ⟨State.setBytes_mapsWf pa _ h.wf⟩

theorem State.Canon.setPoolByte {c a b} (h : s.Canon) : (s.setPoolByte c a b).Canon :=
  ⟨State.setPoolByte_mapsWf c a b h.wf⟩

theorem State.Canon.setPoolBytes {c a a'} (h : s.Canon) : (s.setPoolBytes c a a').Canon :=
  ⟨State.setPoolBytes_mapsWf c _ _ h.wf⟩

theorem State.Canon.patchL1 {c pa bs} (h : s.Canon) : (s.patchL1 c pa bs).Canon := .upd h

theorem FstCanon.storeNow {c pa bs} (h : s.Canon) : FstCanon (s.storeNow c pa bs) := .mk (.patchL1 (.setBytes h))

theorem State.Canon.freshenCopy {c line} (h : s.Canon) : (s.freshenCopy c line).Canon := .upd h

theorem State.Canon.freshenPieces {c ps} (h : s.Canon) : (s.freshenPieces c ps).Canon :=
  .foldl h fun hs => .foldl hs .freshenCopy

theorem State.Canon.raiseWct {c p t} (h : s.Canon) : (s.raiseWct c p t).Canon := .setGrp h

theorem State.Canon.advance {n} (h : s.Canon) : (s.advance n).Canon := by
  unfold Machine.State.advance
  dsimp only
  split
  · exact h
  · exact .setGrp h

theorem State.Canon.faultAt {c p a} (h : s.Canon) : (s.faultAt c p a).Canon := .setGrp h

theorem State.Canon.abortLaunch {node code} (h : s.Canon) : (s.abortLaunch node code).Canon :=
  .foldl (.post (.foldl (.upd (.setLaunch h)) .post)) fun hs => .post (.setGrp hs)

theorem State.Canon.freezeCore {c addr} (h : s.Canon) : (s.freezeCore c addr).Canon := .setCore h

theorem State.Canon.refuseLines {ls a} (h : s.Canon) : (s.refuseLines ls a).Canon := .upd h

theorem State.Canon.retryStep {ls what nums} (h : s.Canon) : (s.retryStep ls what nums).Canon :=
  .timer (.refuseLines h)

theorem State.Canon.enterTrap {c p t} (h : s.Canon) : (s.enterTrap c p t).Canon := by
  unfold Machine.State.enterTrap
  refine .ite (.abortLaunch h) ?_
  split
  · exact .abortLaunch h
  · exact .ite (.abortLaunch h) (.ite (.freezeCore h) (.ite (.retryStep h)
        (.setGrp (.fst (.foldl (.mk h) fun hs => .mk (.fst (.storeNow (.fst hs))))))))

theorem State.Canon.takeException {c p t} (h : s.Canon) : (s.takeException c p t).Canon := by
  unfold Machine.State.takeException
  refine .ite (.abortLaunch h) (.ite ?_ (.ite (.post (.setGrp h)) (.enterTrap (.setGrp h))))
  split
  · exact .setGrp h
  · exact h

theorem State.Canon.raise {n code detail} (h : s.Canon) : (s.raise n code detail).Canon := by
  unfold Machine.State.raise
  dsimp only
  split
  · exact h
  · exact .takeException (.setGrp h)

theorem State.Canon.serveRequests {c p} (h : s.Canon) : (s.serveRequests c p).Canon := by
  unfold Machine.State.serveRequests
  dsimp only
  split
  · exact h
  · exact .ite h (.takeException (.setGrp h))

theorem State.Canon.request {c p code detail} (h : s.Canon) : (s.request c p code detail).Canon :=
  .serveRequests (.setGrp h)

theorem State.Canon.leaveTrap {c p pc} (h : s.Canon) : (s.leaveTrap c p pc).Canon := by
  unfold Machine.State.leaveTrap
  split
  · exact .abortLaunch h
  · exact .ite (.abortLaunch h) (.foldl (.setGrp h) fun hs => .ite (.post hs) hs)

theorem State.Canon.settle {a : Res} {n} (h : a.Canon) : (a.settle n).Canon := by
  cases h with
  | ok h => exact .advance h
  | done h => exact h
  | fault h => exact .raise h
  | trap h =>
    dsimp only [Res.settle]; split
    · exact h
    · exact .takeException (.advance h)
  | wait h =>
    dsimp only [Res.settle]; split
    · exact .upd h
    · exact .setGrp (.upd h)

theorem StepCanon.issue {body : Ctx → State → Res} {i gd} (hbody : ∀ {a b}, b.Canon → (body a b).Canon) (h : s.Canon) :
    StepCanon (issue i gd body s) := by
  unfold Machine.issue
  split
  · exact .fault
  · split
    · exact .next (.raise h)
    · exact .next (.settle (hbody h))

theorem Res.Canon.once {body : Ctx → State → Res} {x} (hbody : ∀ {a b}, b.Canon → (body a b).Canon) (h : s.Canon) :
    (once body x s).Canon :=
  .ite (.ok h) (hbody h)

theorem State.Canon.orFlags {c p f} (h : s.Canon) : (s.orFlags c p f).Canon := .ite h (.setGrp h)

theorem State.Canon.orEngineFlags {c p f} (h : s.Canon) : (s.orEngineFlags c p f).Canon := .ite h (.setGrp h)

/-! #### Transfers, rejoin and regroup -/

theorem State.Canon.setCtl {ofs v} (h : s.Canon) : (s.setCtl ofs v).Canon := .upd h

theorem State.Canon.undefine {r} (h : s.Canon) : (s.undefine r).Canon := ⟨State.undefine_mapsWf r h.wf⟩

theorem State.Canon.writeLplace {n v} (h : s.Canon) : (s.writeLplace n v).Canon :=
  .ite h (.ite (.setCtl h) (.undefine (.undefine (.setCtl h))))

theorem State.Canon.writeFwin {n k v} (h : s.Canon) : (s.writeFwin n k v).Canon := .ite h (.setCtl h)

theorem State.Canon.pokeColls (h : s.Canon) : s.pokeColls.Canon := by
  unfold Machine.State.pokeColls
  dsimp only
  split
  · exact h
  · exact .post h

theorem State.Canon.writeStage {d v} (h : s.Canon) : (s.writeStage d v).Canon := .ite h (.pokeColls (.setCtl h))

theorem State.Canon.writeFid {v} (h : s.Canon) : (s.writeFid v).Canon := .ite h (.setCtl h)

theorem State.Canon.writeTeam {n v} (h : s.Canon) : (s.writeTeam n v).Canon := .ite h (.setCtl h)

theorem State.Canon.writeTeamList {ofs bs} (h : s.Canon) : (s.writeTeamList ofs bs).Canon := .ite h (.upd h)

theorem State.Canon.writeQueue {q k v} (h : s.Canon) : (s.writeQueue q k v).Canon :=
  .ite h (.ite (.setCtl h) (.ite (.setCtl h) (.ite (.setCtl h) h)))

theorem State.Canon.writeProute {n v} (h : s.Canon) : (s.writeProute n v).Canon :=
  .ite (.pokeColls (.setCtl h)) (.post (.upd (.pokeColls (.setCtl h))))

theorem State.Canon.writeDbg {ofs v} (h : s.Canon) : (s.writeDbg ofs v).Canon := .setCtl h

theorem State.Canon.writeSlot {ofs v} (h : s.Canon) : (s.writeSlot ofs v).Canon :=
  .ite (.writeFid h) (.ite (.writeLplace h) (.ite (.writeFwin h) (.ite (.writeStage h)
      (.ite (.writeProute h) (.ite (.writeTeam h) (.ite (.writeQueue h) (.ite (.writeDbg h) h)))))))

theorem State.Canon.pollQueues (h : s.Canon) : s.pollQueues.Canon := by
  unfold Machine.State.pollQueues
  split
  · exact h
  · exact .post h

theorem State.Canon.ctlWrite {ofs bs} (h : s.Canon) : (s.ctlWrite ofs bs).Canon :=
  .ite h (.ite (.ite (.writeTeamList h) h) (.ite (.pollQueues (.writeSlot h)) h))

/-! #### Operands and results -/

theorem State.Canon.putLanes {c p ls n f} (h : s.Canon) : (s.putLanes c p ls n f).Canon := .foldl h .setV

theorem State.Canon.put {d f} (h : s.Canon) : (x.put d f s).Canon := .ite (.ite h (.setSr h)) (.putLanes h)

theorem State.Canon.put64 {d f} (h : s.Canon) : (x.put64 d f s).Canon :=
  .ite (.ite h (.setSr64 h)) (.putLanes (.putLanes h))

theorem State.Canon.putS {d v} (h : s.Canon) : (x.putS d v s).Canon := .setSr h

theorem State.Canon.putS64 {d v} (h : s.Canon) : (x.putS64 d v s).Canon := .setSr64 h

theorem State.Canon.putP {pd f} (h : s.Canon) : (x.putP pd f s).Canon := .setP h

theorem Res.Canon.alu1 {d a f x} (h : s.Canon) : (alu1 d a f x s).Canon := .ok (.put h)

theorem Res.Canon.alu2 {d a b f x} (h : s.Canon) : (alu2 d a b f x s).Canon := .ok (.put h)

theorem Res.Canon.aluL {d a lit f x} (h : s.Canon) : (aluL d a lit f x s).Canon := .ok (.put h)

theorem Res.Canon.alu3 {d a b c f x} (h : s.Canon) : (alu3 d a b c f x s).Canon := .ok (.put h)

/-! #### Memory order, lines and accesses -/

theorem OptionEach.sendPacket {q} (h : s.Canon) : OptionEach State.Canon (s.sendPacket q) := by
  unfold Machine.State.sendPacket
  split
  · exact .none
  · exact .some (.ite (.timer (.upd h)) (.upd h))

theorem State.Canon.donePacket {id} (h : s.Canon) : (s.donePacket id).Canon := by
  unfold Machine.State.donePacket
  split
  · exact h
  · exact .ite (.post (.upd h)) (.upd h)

theorem State.Canon.loseRequest {q} (h : s.Canon) : (s.loseRequest q).Canon := .upd h

theorem State.Canon.requestPeer {c q} (h : s.Canon) : (s.requestPeer c q).Canon :=
  .ite (.upd h) (.getD (.sendPacket h) (.loseRequest h))

theorem SndCanon.startRelease {c p scope} (h : s.Canon) : SndCanon (s.startRelease c p scope) := .mk (.post (.upd h))

theorem State.Canon.foldWct {c p uid id t} (h : s.Canon) : (s.foldWct c p uid id t).Canon := by
  unfold Machine.State.foldWct
  refine .ite (.raiseWct (.upd h)) ?_
  split
  · exact .upd h
  · exact .setLaunch (.upd h)

theorem State.Canon.unpin {line} (h : s.Canon) : (s.unpin line).Canon := .upd h

theorem State.Canon.unpinBlock {c slot} (h : s.Canon) : (s.unpinBlock c slot).Canon := .foldl h .unpin

theorem State.Canon.completeRelease {id} (h : s.Canon) : (s.completeRelease id).Canon := by
  unfold Machine.State.completeRelease
  split
  · exact h
  · exact .ite (.post h) (.ite (.upd h) (.unpinBlock (.upd h)))

theorem State.Canon.acquire {c p lanes scope} (h : s.Canon) : (s.acquire c p lanes scope).Canon := by
  unfold Machine.State.acquire
  dsimp only
  split
  · exact h
  · exact .setGrp h

theorem State.Canon.ctxAcquire {scope} (h : s.Canon) : (x.acquire scope s).Canon := .acquire h

theorem State.Canon.hold {hd} (h : s.Canon) : (x.hold hd s).Canon := .setGrp h

theorem State.Canon.remember {note} (h : s.Canon) : (x.remember note s).Canon := .setGrp h

theorem Res.Canon.refused {lines} (h : s.Canon) : (x.refused lines s).Canon := .wait (.hold (.refuseLines h))

theorem Res.Canon.fenceBody {scope x} (h : s.Canon) : (fenceBody scope x s).Canon :=
  .once (fun hs => .ok (.hold (.post (.upd hs)))) h

theorem Res.Canon.relBody {scope x} (h : s.Canon) : (relBody scope x s).Canon :=
  .once (fun hs => .ok (.setGrp (.post (.upd hs)))) h

theorem State.Canon.endHoldsOf {c p past} (h : s.Canon) : (s.endHoldsOf c p past).Canon :=
  .ite h (.foldl (.setGrp h) .acquire)

theorem State.Canon.endHolds {c slot past} (h : s.Canon) : (s.endHolds c slot past).Canon :=
  .ite (.foldl h .endHoldsOf) (.setBlk (.foldl h .endHoldsOf))

theorem State.Canon.barCheck {c slot n} (h : s.Canon) : (s.barCheck c slot n).Canon := .ite (.endHolds (.setBlk h)) h

theorem Res.Canon.barLand {n cnt sync x} (h : s.Canon) : (barLand n cnt sync x s).Canon :=
  .ite (.wait h) (.ite (.fault h) (.ok (.ite (.barCheck (.setGrp (.setBlk h)))
      (.ite (.ctxAcquire (.barCheck (.setGrp (.setBlk h)))) (.hold (.barCheck (.setGrp (.setBlk h))))))))

theorem Res.Canon.barBody {a n sync cnt x} (h : s.Canon) : (barBody a n sync cnt x s).Canon := by
  unfold Machine.barBody
  refine .once (fun hs => .ite (.ok hs) ?_) h
  split
  · exact .ite (.wait hs) (.barLand hs)
  · exact .ite (.fault hs) (.wait (.remember (.post (.upd hs))))

theorem State.Canon.wakeWaits (h : s.Canon) : s.wakeWaits.Canon := .foldl h fun hs => .ite (.post hs) hs

theorem State.Canon.setBarObj {c a o} (h : s.Canon) : (s.setBarObj c a o).Canon :=
  .ite (.foldl (.wakeWaits (.setPoolBytes h)) fun hs => .ite (.endHolds hs) hs) (.wakeWaits (.setPoolBytes h))

theorem Res.Canon.scrRaise {code ofs} (h : s.Canon) : (x.scrRaise code ofs s).Canon := .fault (.faultAt h)

theorem Res.Canon.withObject {body : Nat → Ctx → State → Res} {ofs needTag x}
    (hbody : ∀ {a b c'}, c'.Canon → (body a b c').Canon) (h : s.Canon) : (withObject ofs needTag body x s).Canon := by
  unfold Machine.withObject
  split
  · split
    · exact .scrRaise h
    · exact .ite (.wait h) (.ite (.scrRaise h) (hbody h))

theorem Res.Canon.boinitBody {sa b inv x} (h : s.Canon) : (boinitBody sa b inv x s).Canon :=
  .once (fun hs => .ite (.wait hs) (.withObject (fun ht => .ite (.scrRaise ht)
      (.ite (.ok (.upd ht)) (.ok (.wakeWaits (.setPoolBytes (.ite ht (.upd ht))))))) hs)) h

theorem Res.Canon.boarrBody {sd sa b tx x} (h : s.Canon) : (boarrBody sd sa b tx x s).Canon := by
  unfold Machine.boarrBody
  refine .once (fun hs => ?_) h
  split
  · exact .wait (.remember (.post (.upd hs)))
  · refine .ite (.wait hs) (.withObject (fun ht => ?_) hs)
    extract_lets k
    clear_value k
    split
    · exact .scrRaise ht
    · exact .ok (.putS (.setBarObj ht))

theorem Res.Canon.bowaitBody {sa sb x} (h : s.Canon) : (bowaitBody sa sb x s).Canon :=
  .once (fun hs => .ite (.wait hs) (.withObject (fun ht => .ite (.ok (.ctxAcquire ht)) (.ok (.hold ht))) hs)) h

theorem Res.Canon.botryBody {sd sa sb x} (h : s.Canon) : (botryBody sd sa sb x s).Canon :=
  .once (fun hs => .ite (.wait hs) (.withObject (fun ht => .ite (.ok (.putS (.ctxAcquire ht))) (.ok (.putS ht))) hs)) h

theorem Res.Canon.memRaise {code addr} (h : s.Canon) : (x.memRaise code addr s).Canon :=
  .ite (.fault h) (.fault (.faultAt h))

theorem Res.Canon.fwaitTest {sd cc inSlice deadline a b x} (h : s.Canon) : (fwaitTest sd cc inSlice deadline a b x s).Canon :=
  .ite (.ok (.putS (.ctxAcquire (.ite h (.freshenCopy h))))) (.ite (.ok (.putS (.ite h (.freshenCopy h))))
      (.wait (.timer (.remember (.ite h (.freshenCopy h))))))

theorem Res.Canon.fwaitBody {sd sa sb sc cc inSlice x} (h : s.Canon) : (fwaitBody sd sa sb sc cc inSlice x s).Canon := by
  unfold Machine.fwaitBody
  refine .once (fun hs => ?_) h
  extract_lets first
  clear_value first
  split
  · exact .memRaise hs
  · refine .ite (.wait hs) (.ite (.wait (.remember hs)) ?_)
    split
    · exact .fwaitTest hs
    · exact .refused (.remember hs)

theorem Res.Canon.afterOpen {body : DWord → Ctx → State → Res} {ids now x}
    (hbody : ∀ {a b c'}, c'.Canon → (body a b c').Canon) (h : s.Canon) : (afterOpen ids now body x s).Canon := by
  unfold Machine.afterOpen
  split
  · exact .ite (.wait h) (hbody h)
  · exact .ite (hbody h) (.wait (.remember h))

theorem Res.Canon.dtimeBody {sd ord x} (h : s.Canon) : (dtimeBody sd ord x s).Canon :=
  .once (fun hs => .ite (.afterOpen (fun ht => .ok (.putS64 ht)) hs) (.ok (.putS64 hs))) h

theorem Res.Canon.wctBody {sd x} (h : s.Canon) : (wctBody sd x s).Canon :=
  .once (fun hs => .afterOpen (fun ht => .ok (.putS64 ht)) hs) h

/-! #### What the engines share -/

theorem State.Canon.freezeEngine {c cls addr} (h : s.Canon) : (s.freezeEngine c cls addr).Canon := .ite h (.upd h)

theorem State.Canon.engFresh {c x handler addr n} (h : s.Canon) : (s.engFresh c x handler addr n).Canon := by
  unfold Machine.State.engFresh
  split
  · exact h
  · exact .freshenPieces h

theorem State.Canon.freshenFoot {en} (h : s.Canon) : (s.freshenFoot en).Canon := .freshenPieces h

theorem FstCanon.engStore {c owner ofs pa bs} (h : s.Canon) : FstCanon (s.engStore c owner ofs pa bs) :=
  .ite (.mk (.foldl h .requestPeer)) (.storeNow h)

theorem FstCanon.storePieces {c owner ofs ps bs n} (h : s.Canon) : FstCanon (s.storePieces c owner ofs ps bs n) := by
  induction ps generalizing s ofs bs n with
  | nil => exact .mk h
  | cons q ps ih => exact ih (.fst (.engStore h))

theorem ExceptEach.engWrite {c owner ofs x handler addr bs} (h : s.Canon) :
    ExceptEach FstCanon (s.engWrite c owner ofs x handler addr bs) := by
  unfold Machine.State.engWrite
  split
  · exact .error
  · exact .ok (.storePieces h)

theorem State.Canon.wakeEngine {id} (h : s.Canon) : (s.wakeEngine id).Canon := by
  unfold Machine.State.wakeEngine
  extract_lets s1 s2 s3 s4
  have h1 : s1.Canon := .ite (.post h) h
  have h2 : s2.Canon := .ite (.post h1) h1
  have h3 : s3.Canon := by
    unfold s3; split
    · exact .post h2
    · exact h2
  have h4 : s4.Canon := by
    unfold s4; split
    · exact .post h3
    · exact h3
  split
  · exact .post h4
  · exact h4

theorem State.Canon.wakeOwner {id} (h : s.Canon) : (s.wakeOwner id).Canon := by
  unfold Machine.State.wakeOwner
  extract_lets s1 s2 s3
  have h1 : s1.Canon := by
    unfold s1; split
    · exact .foldWct h
    · exact h
  have h3 : s3.Canon := by
    unfold s3; split
    · exact .post (.wakeEngine h1)
    · exact .wakeEngine h1
  split
  · exact .post h3
  · exact h3

theorem State.Canon.sendUnsent (h : s.Canon) : s.sendUnsent.Canon :=
  .foldl (.upd h) fun hs => .ite (.requestPeer hs) (.wakeOwner (.requestPeer hs))

theorem State.Canon.updEng {id f} (h : s.Canon) : (s.updEng id f).Canon := .upd h

theorem OptionEach.askPeers {en key rs} (h : s.Canon) : OptionEach State.Canon (s.askPeers en key rs) := by
  unfold Machine.State.askPeers
  refine .ite (.ite (.some h) .none) ?_
  split
  · exact .none
  · exact .ite (.some h) (.some (.ite (.foldl (.updEng h) .requestPeer) (.wakeEngine (.foldl (.updEng h) .requestPeer))))

theorem OptionEach.engineWaits {en what nums} (h : s.Canon) : OptionEach State.Canon (s.engineWaits en what nums) := by
  unfold Machine.State.engineWaits
  refine .ite (.some (.post h)) ?_
  split
  · exact .none
  · exact .some (.retryStep h)

theorem State.Canon.countAsync (h : s.Canon) : (x.countAsync s).Canon := .setGrp h

theorem State.Canon.openToken {sd} (h : s.Canon) : (x.openToken sd s).Canon := .setGrp h

theorem State.Canon.writeToken {en reg v} (h : s.Canon) : (s.writeToken en reg v).Canon :=
  .ite h (.ite (.setGrp (.setGrp h)) (.setSraw (.setGrp h)))

theorem Res.Canon.withDesc {body : List Byte → Ctx → State → Res} {addr n}
    (hbody : ∀ {a b c'}, c'.Canon → (body a b c').Canon) (h : s.Canon) : (x.withDesc addr n body s).Canon := by
  unfold Machine.Ctx.withDesc
  refine .ite (.wait h) ?_
  split
  · exact .memRaise h
  · refine .ite (.wait h) ?_
    split
    · exact hbody (.freshenPieces h)
    · exact .refused h

/-! #### Control space and special registers -/

theorem State.Canon.split {parts} (h : s.Canon) : (x.split parts s).Canon := .setGrp h

theorem State.Canon.branch {hint target taken} (h : s.Canon) : (x.branch hint target taken s).Canon := .split h

theorem State.Canon.scatter {dest} (h : s.Canon) : (x.scatter dest s).Canon := .split h

theorem Res.Canon.loopBody {hint a ofs x} (h : s.Canon) : (loopBody hint a ofs x s).Canon := .done (.branch (.put h))

theorem State.Canon.setJreg {c p k j} (h : s.Canon) : (s.setJreg c p k j).Canon := .setGrp h

theorem State.Canon.releaseJ {c p k flag} (h : s.Canon) : (s.releaseJ c p k flag).Canon := .foldl (.setGrp h) .setP

theorem State.Canon.checkJ {c p k} (h : s.Canon) : (s.checkJ c p k).Canon :=
  .ite h (.ite (.releaseJ h) (.ite (.setJreg h) h))

theorem State.Canon.dropJ {c p k m} (h : s.Canon) : (s.dropJ c p k m).Canon := .ite (.checkJ (.setJreg h)) h

theorem Res.Canon.jarmBody {j mask tmo ns x} (h : s.Canon) : (jarmBody j mask tmo ns x s).Canon :=
  .ite (.fault h) (.ok (.setJreg h))

theorem Res.Canon.jwaitBody {pd j x} (h : s.Canon) : (jwaitBody pd j x s).Canon :=
  .ite (.ok (.setP h)) (.done (.checkJ (.setJreg (.setGrp (.setP h)))))

theorem State.Canon.joinTimeout {c p k} (h : s.Canon) : (s.joinTimeout c p k).Canon := .ite (.releaseJ h) h

theorem State.Canon.setSlots {c p xs} (h : s.Canon) : (s.setSlots c p xs).Canon := .foldl (.setGrp h) .setP

theorem State.Canon.dealPart {c pred ps} (h : s.Canon) : (s.dealPart c pred ps).Canon :=
  .fst (.foldl (.mk h) fun hs => .mk (.setSlots (.fst hs)))

theorem State.Canon.followLanes {old : State} {c ps} (h : s.Canon) : (s.followLanes old c ps).Canon :=
  .foldl h .setGrp

theorem State.Canon.regrpFault {c p code} (h : s.Canon) : (s.regrpFault c p code).Canon := by
  unfold Machine.State.regrpFault
  dsimp only
  split
  · exact h
  · exact .takeException (.setGrp h)

theorem State.Canon.oweRegrp {c slot here code} (h : s.Canon) : (s.oweRegrp c slot here code).Canon :=
  .ite h (.setBlk h)

theorem SndCanon.takeOwed {c p} (h : s.Canon) : SndCanon (s.takeOwed c p) := by
  unfold Machine.State.takeOwed
  dsimp only
  split
  · exact .mk h
  · exact .mk (.setBlk h)

theorem State.Canon.regrpCheck {c p} (h : s.Canon) : (s.regrpCheck c p).Canon := by
  unfold Machine.State.regrpCheck
  dsimp only
  split
  · exact h
  · refine .ite h ?_
    refine .ite (.foldl (.oweRegrp h) .regrpFault) (.ite (.foldl (.oweRegrp h) .regrpFault) ?_)
    refine .ite (.foldl (.oweRegrp h) .regrpFault) (.ite h (.setBlk (.followLanes (.foldl ?_ fun hs => ?_))))
    · refine .foldl (.foldl h .setGrp) fun hs => ?_
      split
      · exact hs
      · exact .dealPart hs
    · split
      · exact hs
      · exact .setGrp hs

theorem Res.Canon.regrpBody {sa pb x} (h : s.Canon) : (regrpBody sa pb x s).Canon := by
  unfold Machine.regrpBody
  refine .ite (.fault h) (.ite (.wait h) ?_)
  dsimp only
  split
  · rename_i e; exact .done (.regrpCheck ((SndCanon.takeOwed (.setGrp h)).get e))
  · rename_i e; exact .done (.regrpFault ((SndCanon.takeOwed (.setGrp h)).get e))

theorem State.Canon.ungrpCheck {c slot mask} (h : s.Canon) : (s.ungrpCheck c slot mask).Canon :=
  .ite h (.setBlk (.followLanes (.foldl h fun hs => .ite (.post (.setGrp (.setSlots hs))) (.setGrp (.setSlots hs)))))

theorem Res.Canon.ungrpBody {sa x} (h : s.Canon) : (ungrpBody sa x s).Canon :=
  .ite (.fault h) (.done (.ungrpCheck (.setGrp h)))

theorem State.Canon.afterExit {c p m} (h : s.Canon) : (s.afterExit c p m).Canon := by
  unfold Machine.State.afterExit
  exact .ite (.post (.foldl (.foldl (.foldl h .dropJ) .regrpCheck) .ungrpCheck))
      (.foldl (.foldl (.foldl h .dropJ) .regrpCheck) .ungrpCheck)

theorem Res.Canon.exitBody {x} (h : s.Canon) : (exitBody x s).Canon :=
  .done (.ite (.split (.setGrp h)) (.afterExit (.split (.setGrp h))))

theorem Res.Canon.sleepBody {n ns x} (h : s.Canon) : (sleepBody n ns x s).Canon :=
  .once (fun hs => .ite (.ok hs) (.ite (.ok (.timer (.hold hs))) (.ok (.hold hs)))) h

/-! #### Float instructions -/

theorem State.Canon.putF {d f} (h : s.Canon) : (x.putF d f s).Canon := .orFlags (.put h)

theorem State.Canon.putF64 {d f} (h : s.Canon) : (x.putF64 d f s).Canon := .orFlags (.put64 h)

theorem State.Canon.putFloat {ty d srcs op} (h : s.Canon) : (x.putFloat ty d srcs op s).Canon := by
  unfold Machine.Ctx.putFloat
  split
  · exact .putF64 h
  · exact .putF h
  · exact .putF h

theorem Res.Canon.floatBody {ty d srcs op x} (h : s.Canon) : (floatBody ty d srcs op x s).Canon := .ok (.putFloat h)

theorem Res.Canon.floatLit {d a lit op x} (h : s.Canon) : (floatLit d a lit op x s).Canon := .ok (.putF h)

theorem State.Canon.putPF {pd f} (h : s.Canon) : (x.putPF pd f s).Canon := .orFlags (.putP h)

theorem Res.Canon.fcmpBody {pd a b ty cc x} (h : s.Canon) : (fcmpBody pd a b ty cc x s).Canon := .ok (.putPF h)

theorem Res.Canon.sfuBody {f d a x} (h : s.Canon) : (sfuBody f d a x s).Canon := .ok (.putF h)

theorem Res.Canon.iterBody {hint f64 st a ofs x} (h : s.Canon) : (iterBody hint f64 st a ofs x s).Canon :=
  .done (.branch (.ite (.setNode (.orFlags (.setP (.put h)))) (.orFlags (.setP (.put h)))))

/-! #### Faults of accesses and the handler -/

theorem State.Canon.digestLane {c p l addr bs kind} (h : s.Canon) : (s.digestLane c p l addr bs kind).Canon :=
  .ite h (.setGrp (.setGrp h))

theorem State.Canon.digestAsync {en w} (h : s.Canon) : (s.digestAsync en w).Canon :=
  .ite h (.ite (.setGrp h) (.setLaunch h))

theorem State.Canon.setAccess {a} (h : s.Canon) : (s.setAccess a).Canon := .upd h

theorem State.Canon.dropAccess {id} (h : s.Canon) : (s.dropAccess id).Canon := .upd h

theorem State.Canon.grantLease {c line} (h : s.Canon) : (s.grantLease c line).Canon := by
  unfold Machine.State.grantLease
  split
  · exact h
  · exact .ite (.freshenCopy h) (.freshenCopy (.upd h))

theorem State.Canon.grantStipple {c line} (h : s.Canon) : (s.grantStipple c line).Canon := by
  unfold Machine.State.grantStipple
  split
  · exact h
  · exact .freshenCopy (.upd h)

theorem State.Canon.syncStipple {c line bs} (h : s.Canon) : (s.syncStipple c line bs).Canon := .upd h

theorem State.Canon.fetchLine {c pa} (h : s.Canon) : (s.fetchLine c pa).Canon := .ite h (.ite h (.grantLease h))

theorem State.Canon.takeLine {a} (h : s.Canon) : (s.takeLine a).Canon :=
  .ite h (.ite (.grantStipple h) (.ite (.freshenCopy h) (.grantLease h)))

theorem SndCanon.readScale {a} (h : s.Canon) : SndCanon (s.readScale a) := by
  unfold Machine.State.readScale
  split
  · dsimp only
    split
    · exact .mk (.syncStipple h)
    · exact .mk (.takeLine h)
  · exact .mk h

theorem State.Canon.performHome {a} (h : s.Canon) : (s.performHome a).Canon := by
  unfold Machine.State.performHome
  split
  · exact .post (.setAccess (.snd (.readScale (.takeLine h))))
  · exact .wakeWaits (.post (.setAccess (.ite (.ctlWrite h) (.setBytes h))))
  · exact .wakeWaits (.post (.setAccess (.ite (.ctlWrite h) (.setBytes h))))

theorem State.Canon.dropPacketOf {tag} (h : s.Canon) : (s.dropPacketOf tag).Canon := by
  unfold Machine.State.dropPacketOf
  split
  · exact h
  · exact .donePacket h

theorem State.Canon.loseAccess {id} (h : s.Canon) : (s.loseAccess id).Canon := by
  unfold Machine.State.loseAccess
  split
  · exact h
  · refine .ite (.post (.setAccess (.dropPacketOf h))) ?_
    split <;> exact .post (.setAccess (.dropPacketOf h))

theorem State.Canon.sendAccess {a} (h : s.Canon) : (s.sendAccess a).Canon := by
  unfold Machine.State.sendAccess
  extract_lets kind
  split
  · exact .loseAccess h
  · rename_i e; exact .setAccess ((OptionEach.sendPacket h).get e)

theorem State.Canon.retryLater {a} (h : s.Canon) : (s.retryLater a).Canon := .retryStep (.setAccess h)

theorem State.Canon.homeRequest {id} (h : s.Canon) : (s.homeRequest id).Canon := by
  unfold Machine.State.homeRequest
  split
  · exact h
  · refine .ite h (.ite (.post h) ?_)
    split
    · exact .sendAccess h
    · exact .ite (.retryLater h) (.performHome h)
    · exact .performHome h

theorem State.Canon.takePin {id} (h : s.Canon) : (s.takePin id).Canon := by
  unfold Machine.State.takePin
  split
  · exact h
  · exact .ite h (.ite (.post h) (.ite (.homeRequest h) (.ite (.retryLater h)
        (.ite (.performHome h) (.ite (.performHome h) (.ite (.post h) (.performHome (.upd h))))))))

theorem StepCanon.execRetry (h : s.Canon) : StepCanon (execRetry s) := by
  unfold Machine.execRetry
  refine .next ?_
  split
  · split
    · exact .ite (.takePin h) (.homeRequest h)
    · exact .homeRequest h
  · exact h

theorem State.Canon.putDest {c p handler d ws} (h : s.Canon) : (s.putDest c p handler d ws).Canon :=
  .foldl h fun {s k} hs => by
    cases d with
    | none => exact hs
    | vec => exact .asetVreg hs
    | scalar => exact .ite (.setSr hs) (.setSraw hs)

theorem State.Canon.deliver {a} (h : s.Canon) : (s.deliver a).Canon := by
  unfold Machine.State.deliver
  refine .dropAccess ?_
  split
  · exact .orFlags (.putDest h)
  · exact .putDest h

theorem State.Canon.loadData {id} (h : s.Canon) : (s.loadData id).Canon := by
  unfold Machine.State.loadData
  split
  · exact h
  · refine .ite h (.ite (.ite h (.deliver h)) (.ite h ?_))
    split
    · extract_lets r t
      have hr : r.2.Canon := .snd (.readScale h)
      have ht : t.Canon := by
        unfold t; split
        · exact .ite hr (.syncStipple hr)
        · exact hr
      exact .ite (.setAccess ht) (.deliver (.setAccess ht))
    · exact .post h

theorem State.Canon.storeAck {id} (h : s.Canon) : (s.storeAck id).Canon := by
  unfold Machine.State.storeAck
  split
  · exact h
  · refine .ite h (.dropAccess ?_)
    split
    · exact .putDest (.foldWct (.ite h (.ite (.upd h) (.freshenCopy h))))
    · exact .foldWct (.ite h (.ite (.upd h) (.freshenCopy h)))

theorem State.Canon.remoteAccess {id bs} (h : s.Canon) : (s.remoteAccess id bs).Canon := by
  unfold Machine.State.remoteAccess
  split
  · exact h
  · refine .ite h ?_
    split
    · exact .post (.dropPacketOf (.setAccess h))
    · exact .ite (.setAccess h) h

theorem State.Canon.remoteAnswer {id} (h : s.Canon) : (s.remoteAnswer id).Canon := by
  unfold Machine.State.remoteAnswer
  split
  · exact h
  · exact .ite h (.post (.dropPacketOf (.setAccess h)))

theorem State.Canon.addAccesses {as} (h : s.Canon) : (s.addAccesses as).Canon := .foldl h fun hs => .post (.upd hs)

/-! #### Attempts to issue, and time -/

theorem State.Canon.settleSlots {c} (h : s.Canon) : (s.settleSlots c).Canon := .ite h (.setCore h)

theorem State.Canon.settleBanks {c p} (h : s.Canon) : (s.settleBanks c p).Canon := .ite h (.setGrp h)

theorem State.Canon.settleAll (h : s.Canon) : s.settleAll.Canon := .foldl (.foldl h .settleSlots) .settleBanks

theorem State.Canon.takeSlot {c key} (h : s.Canon) : (s.takeSlot c key).Canon := .setCore h

theorem State.Canon.useKeys {c keys} (h : s.Canon) : (s.useKeys c keys).Canon := .setCore h

theorem State.Canon.enterKeys {c l gone keys} (h : s.Canon) : (s.enterKeys c l gone keys).Canon := .setCore h

theorem State.Canon.clauseFetch {c p hdr} (h : s.Canon) : (s.clauseFetch c p hdr).Canon := by
  unfold Machine.State.clauseFetch
  extract_lets s1
  have h1 : s1.Canon := .settleSlots h
  clear_value s1
  split
  · exact h1
  · split
    · exact h1
    · refine .ite h1 ?_
      split
      · exact .retryStep h1
      · refine .ite (.setGrp (.setLaunch ?_)) (.setLaunch ?_)
        all_goals exact .foldl (.enterKeys h1) fun hs => .foldl hs .fetchLine

theorem State.Canon.beginWaits {c p k} (h : s.Canon) : (s.beginWaits c p k).Canon := by
  unfold Machine.State.beginWaits
  dsimp only
  split
  · exact h
  · refine .ite h ?_
    split
    · exact h
    · exact .ite h (.setGrp (.ite (.acquire (.snd (.ite (.mk (.snd (.startRelease h))) (.mk h))))
          (.snd (.ite (.mk (.snd (.startRelease h))) (.mk h)))))

theorem State.Canon.rotateFair {c p cls} (h : s.Canon) : (s.rotateFair c p cls).Canon := by
  unfold Machine.State.rotateFair
  split
  · exact .ite h (.setGrp h)
  · exact .setGrp h

theorem Res.Canon.yieldBody {x} (h : s.Canon) : (yieldBody x s).Canon := .once (fun hs => .ok (.setGrp hs)) h

theorem State.Canon.endQuanta {c p cls} (h : s.Canon) : (s.endQuanta c p cls).Canon := .setGrp h

theorem State.Canon.countIssue {cls counted} (h : s.Canon) : (s.countIssue cls counted).Canon := by
  unfold Machine.State.countIssue
  split
  · exact h
  · exact .setGrp h

theorem State.Canon.headerFault {c p k code en} (h : s.Canon) : (s.headerFault c p k code en).Canon :=
  .takeException (.ite h (.faultAt h))

theorem Pick.Canon.comeToIssue {c p k cls} (h : s.Canon) : (s.comeToIssue c p k cls).Canon := by
  unfold Machine.State.comeToIssue
  dsimp only
  split
  · exact .idle h
  · split
    · exact .idle (.headerFault h)
    · split
      · exact .idle (.takeException (.setGrp h))
      · split
        · exact .idle (.raise (.ite h (.faultAt h)))
        · exact .run (.upd (.ite (.takeSlot (.setGrp h)) (.ite (.setGrp h) (.useKeys (.setGrp h)))))

theorem Pick.Canon.attempt {c p cls} (h : s.Canon) : (s.attempt c p cls).Canon := by
  unfold Machine.State.attempt
  extract_lets s1 g s2 s3 s4
  have h1 : s1.Canon := .settleAll h
  clear_value s1
  refine .ite (.idle h1) (.ite ?_ ?_)
  · split
    · exact .comeToIssue h1
    · exact .idle h1
  · split
    · exact .idle (.headerFault h1)
    · split
      · exact .idle (.joinTimeout h1)
      · have h3 : s3.Canon := .endQuanta (.foldl h1 .beginWaits)
        have h4 : s4.Canon := .ite (.rotateFair h3) h3
        refine .ite (.idle (.rotateFair h3)) ?_
        split
        · exact .comeToIssue h4
        · split
          · exact .idle (.post h4)
          · exact .idle h4

theorem StepCanon.afterIssue {a : Host.Outcome State Fault Refusal} {cls counted} (h : StepCanon a) :
    StepCanon (afterIssue cls counted a) := by
  cases h with
  | next h => exact .next (.countIssue h)
  | fault => exact .fault
  | refused => exact .refused

theorem State.Canon.fireTimers (h : s.Canon) : s.fireTimers.Canon := .upd h

theorem State.Canon.postExpiries {key g} (h : s.Canon) : (s.postExpiries key g).Canon :=
  .ite (.post (.foldl h fun hs => .ite (.post hs) hs)) (.foldl h fun hs => .ite (.post hs) hs)

theorem State.Canon.tickNs (h : s.Canon) : s.tickNs.Canon := .fireTimers (.foldl (.upd h) .postExpiries)

theorem State.Canon.baroPart {c part} (h : s.Canon) : (s.baroPart c part).Canon := .setCore h

theorem State.Canon.tickCycle (h : s.Canon) : s.tickCycle.Canon :=
  .fireTimers (.sendUnsent (.foldl (.foldl (.foldl (.upd (.foldl h fun hs => .foldl hs .baroPart)) .postExpiries) fun hs =>
      .ite (.post hs) hs) fun hs => .ite (.post hs) hs))

theorem SndCanon.nextMove (h : s.Canon) : SndCanon s.nextMove := by
  unfold Machine.State.nextMove
  split
  · exact .mk (.upd h)
  · extract_lets t s1 event issue
    have h1 : s1.Canon := .upd h
    have hevent : SndCanon event := by
      unfold event; split <;> exact .mk h1
    have hissue : SndCanon issue := by
      unfold issue; split
      · exact .mk h1
      · split <;> exact .mk h1
    split
    iterate 5 · exact .mk h1
    iterate 3 · exact hevent
    · exact hissue

theorem State.Canon.takeEvent {en} (h : s.Canon) : (s.takeEvent en).Canon := .upd (.settleAll h)

theorem State.Canon.fillTlb {core root va} (h : s.Canon) : (s.fillTlb core root va).Canon := .ite (.upd h) (.upd h)

theorem State.Canon.evictLine {core line} (h : s.Canon) : (s.evictLine core line).Canon :=
  .upd (.ite (.foldl h .setByte) (.setCore (.foldl h .setByte)))

/-! #### Memory instructions -/

theorem State.Canon.digestAccess {x l a} (h : s.Canon) : (s.digestAccess x l a).Canon := by
  unfold Machine.State.digestAccess
  refine .ite h ?_
  split
  · exact h
  · exact .digestLane h
  · exact .digestLane h

theorem State.Canon.allDone (h : s.Canon) : (x.allDone s).Canon := .ite h (.setGrp h)

theorem Res.Canon.elements {f} (h : s.Canon) : (x.elements f s).Canon := by
  unfold Machine.Ctx.elements
  refine .ite (.ok h) (.ite (.fault h) (.ite (.wait h) ?_))
  split
  · exact .ok (.allDone (.addAccesses (.foldl h .digestAccess)))
  · exact .memRaise (.setGrp (.addAccesses (.foldl h .digestAccess)))
  · exact .done (.freezeCore (.setGrp (.addAccesses (.foldl h .digestAccess))))

theorem Res.Canon.ldBody {data base idx form w nl1 ofs x} (h : s.Canon) : (ldBody data base idx form w nl1 ofs x s).Canon :=
  .elements h

theorem Res.Canon.stBody {data base idx form w nl1 ofs x} (h : s.Canon) : (stBody data base idx form w nl1 ofs x s).Canon :=
  .elements h

theorem Res.Canon.ldkBody {data base w ofs x} (h : s.Canon) : (ldkBody data base w ofs x s).Canon := by
  unfold Machine.ldkBody
  refine .once (fun hs => ?_) h
  split
  · dsimp only
    split
    · exact .wait hs
    · exact .memRaise hs
    · exact .done (.freezeCore hs)
  · dsimp only
    split
    · exact .ok (.addAccesses hs)
    · exact .memRaise hs
    · exact .done (.freezeCore hs)

theorem Res.Canon.prefBody {base idx form llc ofs x} (h : s.Canon) : (prefBody base idx form llc ofs x s).Canon :=
  .ite (.wait h) (.ite (.ok h) (.ok (.foldl h .fetchLine)))

theorem State.Canon.setVs {c p l reg ws} (h : s.Canon) : (s.setVs c p l reg ws).Canon := .foldl h .setV

theorem Res.Canon.ldsBody {data base form w ofs x} (h : s.Canon) : (ldsBody data base form w ofs x s).Canon := by
  unfold Machine.ldsBody
  split
  · dsimp only
    split
    · exact .scrRaise h
    · exact .wait h
  · dsimp only
    split
    · exact .scrRaise h
    · exact .ite (.wait h) (.ok (.foldl h .setVs))

theorem Res.Canon.stsBody {data base form w ofs x} (h : s.Canon) : (stsBody data base form w ofs x s).Canon := by
  unfold Machine.stsBody
  split
  · dsimp only
    split
    · exact .scrRaise h
    · exact .wait h
  · dsimp only
    split
    · exact .scrRaise h
    · exact .ite (.wait h) (.ok (.wakeWaits (.foldl h .setPoolBytes)))

theorem Res.Canon.atomsBody {dst base opd cmp form aop w64 ofs x} (h : s.Canon) :
    (atomsBody dst base opd cmp form aop w64 ofs x s).Canon := by
  unfold Machine.atomsBody
  extract_lets n at_
  split
  · exact .scrRaise h
  · exact .ite (.wait h) (.ite (.wait h) (.ok (.wakeWaits (.foldl h fun hs => .setVs (.setPoolBytes hs)))))

theorem Res.Canon.atomBody {dst base opd cmp form aop scope w64 ofs x} (h : s.Canon) :
    (atomBody dst base opd cmp form aop scope w64 ofs x s).Canon :=
  .elements h

theorem State.Canon.setPrivWord {c p a l1 v} (h : s.Canon) : (s.setPrivWord c p a l1 v).Canon :=
  .ite (.setCore h) (.raiseWct (.wakeWaits (.setBytes h)))

theorem Res.Canon.stackLim {body : State → Res} {idx} (h : s.Canon) (hbody : ∀ {a}, a.Canon → (body a).Canon) :
    (x.stackLim idx s body).Canon := by
  unfold Machine.Ctx.stackLim
  split
  · exact .fault (.setGrp h)
  · exact hbody h

theorem Res.Canon.ldpBody {data base form ofs x} (h : s.Canon) : (ldpBody data base form ofs x s).Canon := by
  unfold Machine.ldpBody
  exact .stackLim h (fun hs => .ite (.wait hs) (.ite (.wait hs) (.ite (.refused hs) (.ok (.allDone (.foldl hs .setV))))))

theorem Res.Canon.stpBody {data base form ofs x} (h : s.Canon) : (stpBody data base form ofs x s).Canon := by
  unfold Machine.stpBody
  refine .stackLim h (fun hs => .ite (.wait hs) (.ite (.wait hs) (.ite (.refused hs) ?_)))
  dsimp only
  split
  · exact .ok (.allDone (.foldl hs .setPrivWord))
  · exact .done (.freezeCore (.setGrp (.foldl hs .setPrivWord)))

theorem State.Canon.dropXwait {c seq} (h : s.Canon) : (s.dropXwait c seq).Canon := .setCore h

theorem State.Canon.grant {sd n} (h : s.Canon) : (x.grant sd n s).Canon := .putS (.setGrp (.filterVreg h))

theorem State.Canon.advanceEntry {c p k} (h : s.Canon) : (s.advanceEntry c p k).Canon := by
  unfold Machine.State.advanceEntry
  split
  · exact h
  · split
    · exact .advance h
    · exact h

theorem State.Canon.grantXacqs {c n} (h : s.Canon) : (s.grantXacqs c n).Canon := by
  induction n generalizing s with
  | zero => exact h
  | succ n ih =>
    unfold Machine.State.grantXacqs
    split
    · exact h
    · split
      · exact h
      · exact .ite h (ih (.advanceEntry (.grant (.dropXwait h))))

theorem State.Canon.xacqDeadlock {c} (h : s.Canon) : (s.xacqDeadlock c).Canon := by
  unfold Machine.State.xacqDeadlock
  refine .ite h ?_
  dsimp only
  split
  · exact h
  · split
    · exact h
    · exact .raise (.dropXwait h)

theorem State.Canon.afterFree {c} (h : s.Canon) : (s.afterFree c).Canon := .xacqDeadlock (.grantXacqs h)

theorem Res.Canon.xacqBody {sd sa tr x} (h : s.Canon) : (xacqBody sd sa tr x s).Canon := by
  unfold Machine.xacqBody
  refine .once (fun hs => .ite (.fault hs) ?_) h
  split
  · exact .ite (.ok (.grant (.dropXwait hs))) (.wait hs)
  · exact .ite (.ok (.grant hs)) (.ite (.ok (.putS hs)) (.wait (.xacqDeadlock (.remember (.setCore (.upd hs))))))

theorem Res.Canon.xrelBody {sa x} (h : s.Canon) : (xrelBody sa x s).Canon :=
  .once (fun hs => .ite (.fault hs) (.ite (.wait hs) (.done (.afterFree (.advance (.setGrp hs)))))) h

/-! #### Asynchronous work: copies, cards, gathers and scatters -/

theorem CopyRun.Canon.copyStore {en scr a ofs bs} (h : s.Canon) : (s.copyStore en scr a ofs bs).Canon := by
  unfold Machine.State.copyStore
  refine .ite (.mk (.ite h (.wakeWaits (.setPoolBytes h)))) ?_
  split
  · exact .mk h
  · rename_i e; exact .mk (.wakeWaits (((ExceptEach.engWrite h).get e).of))

theorem CopyRun.Canon.run {o : AsyncOp} {en} (h : s.Canon) : (o.run en s).Canon := by
  unfold Machine.AsyncOp.run
  split
  · dsimp only
    split
    · exact .mk h
    · exact .copyStore h
  · dsimp only
    split
    · exact .mk h
    · exact .copyStore (.engFresh h)

theorem OptionEach.ask {o : AsyncOp} {en} (h : s.Canon) : OptionEach State.Canon (o.ask en s) :=
  .ite .none (.askPeers h)

theorem OptionEach.lostRun {o : AsyncOp} {en} (h : s.Canon) : OptionEach CopyRun.Canon (o.lostRun en s) :=
  .ite (.some (.mk h)) .none

theorem CopyRun.Canon.runWords {o : AsyncOp} {en} (h : s.Canon) : (o.runWords en s).Canon :=
  .foldl (.mk h) fun hs => .ite hs (.mk (.ofCopy (.copyStore (.ofCopy hs))))

theorem CopyRun.Canon.step {o : AsyncOp} {en} (h : s.Canon) : (o.step en s).Canon :=
  .getD (.lostRun h) (.ite (.run h) (.runWords h))

theorem State.Canon.setOp {o} (h : s.Canon) : (s.setOp o).Canon := .upd h

theorem State.Canon.endOp {o v} (h : s.Canon) : (s.endOp o v).Canon := .writeToken (.upd (.digestAsync (.foldWct h)))

theorem State.Canon.settleOp {o v} (h : s.Canon) : (s.settleOp o v).Canon := .ite (.setOp h) (.endOp h)

theorem State.Canon.asyncCompletion {id} (h : s.Canon) : (s.asyncCompletion id).Canon := by
  unfold Machine.State.asyncCompletion
  split
  · exact h
  · refine .ite h ?_
    split
    · exact .ite h (.endOp h)
    · refine .ite (.settleOp h) (.ite (.settleOp h) (.ite (.post h) ?_))
      split
      · rename_i e; exact (OptionEach.engineWaits h).get e
      · split
        · rename_i e; exact (OptionEach.ask h).get e
        · dsimp only
          split
          · exact .freezeEngine (.setOp (.ofCopy (.step h)))
          · exact .settleOp (.ofCopy (.step h))
          · exact .ite (.settleOp (.ofCopy (.step h))) (.post (.setOp (.ofCopy (.step h))))

theorem Res.Canon.startOp {sd o} (h : s.Canon) : (x.startOp sd o s).Canon :=
  .ok (.post (.ite (.openToken (.upd h)) (.countAsync (.openToken (.upd h)))))

theorem Res.Canon.strided {sd sa sb sp rows width dstr sstr} (h : s.Canon) :
    (x.strided sd sa sb sp rows width dstr sstr s).Canon :=
  .ite (.fault h) (.ite (.wait h) (.startOp h))

theorem Res.Canon.acopytBody {sd sa sb sc sp x} (h : s.Canon) : (acopytBody sd sa sb sc sp x s).Canon :=
  .once (fun hs => .ite (.fault hs) (.strided hs)) h

theorem Res.Canon.astoBody {sd sa vb sc x} (h : s.Canon) : (astoBody sd sa vb sc x s).Canon :=
  .once (fun hs => .ite (.fault hs) (.ite (.fault hs) (.ite (.wait hs) (.startOp hs)))) h

theorem State.Canon.queueCards {base cards} (h : s.Canon) : (x.queueCards base cards s).Canon :=
  .foldl h fun hs => .post (.ite (.upd hs) (.countAsync (.upd hs)))

theorem Res.Canon.cardFault {n} (h : s.Canon) : (x.cardFault n s).Canon := .fault (.setGrp h)

theorem Res.Canon.kickBody {sa sb x} (h : s.Canon) : (kickBody sa sb x s).Canon := by
  unfold Machine.kickBody
  refine .once (fun hs => .ite (.cardFault hs) (.ite (.wait hs) (.ite (.wait hs) ?_))) h
  extract_lets cards
  split
  · exact .cardFault hs
  · exact .ite (.wait hs) (.ok (.queueCards hs))

theorem Res.Canon.kstatBody {sd clr x} (h : s.Canon) : (kstatBody sd clr x s).Canon :=
  .once (fun hs => .ok (.ite (.setBlk (.putS hs)) (.putS hs))) h

theorem State.Canon.setCard {j} (h : s.Canon) : (s.setCard j).Canon := .upd h

theorem FstCanon.countCard {j bytes arrivals} (h : s.Canon) : FstCanon (s.countCard j bytes arrivals) := by
  unfold Machine.State.countCard
  split
  · exact .mk h
  · refine .ite (.mk h) ?_
    split
    · exact .mk h
    · exact .mk (.setBarObj h)

theorem FstCanon.countDue {j} (h : s.Canon) : FstCanon (s.countDue j) := .ite (.mk h) (.mk (.fst (.countCard h)))

theorem State.Canon.recordCard {j code} (h : s.Canon) : (s.recordCard j code).Canon := by
  unfold Machine.State.recordCard
  split
  · exact .setNode h
  · exact .ite (.foldl h fun hs => .ite (.upd hs) hs) (.setLaunch (.foldl h fun hs => .ite (.upd hs) hs))

theorem State.Canon.endCard {j} (h : s.Canon) : (s.endCard j).Canon := by
  unfold Machine.State.endCard
  extract_lets lost code
  clear_value code
  split
  rename_i t code' e
  have ht : t.Canon := by
    split at e
    · cases e; exact h
    · split at e
      · cases e; exact .fst (.countCard h)
      · cases e; exact h
  extract_lets u v w
  have hu : u.Canon := by
    unfold u; split
    · exact .recordCard ht
    · exact ht
  have hw : w.Canon := .upd (.digestAsync (.foldWct hu))
  split
  · exact .post hw
  · exact hw

theorem State.Canon.settleCard {j} (h : s.Canon) : (s.settleCard j).Canon :=
  .ite (.endCard (.fst (.countDue h))) (.ite (.setCard (.fst (.countDue h))) (.post (.setCard (.fst (.countDue h)))))

theorem State.Canon.cardCompletion {id} (h : s.Canon) : (s.cardCompletion id).Canon := by
  unfold Machine.State.cardCompletion
  split
  · exact h
  · refine .ite h (.ite (.settleCard h) (.ite (.settleCard h) ?_))
    extract_lets cut code r o t j' q
    clear_value code
    refine .ite h ?_
    split
    · exact .settleCard h
    · split
      · rename_i e; exact (OptionEach.engineWaits h).get e
      · split
        · rename_i e; exact (OptionEach.ask h).get e
        · have hr : r.s.Canon := .ofCopy (.step h)
          split
          · exact .freezeEngine (.setCard hr)
          · exact .settleCard hr
          · exact .ite (.settleCard hr) (.post (.setCard (.fst (.countDue hr))))

theorem State.Canon.setHandle {c n hd} (h : s.Canon) : (s.setHandle c n hd).Canon := .setCore h

theorem Res.Canon.ghndBody {sd sa x} (h : s.Canon) : (ghndBody sd sa x s).Canon := by
  unfold Machine.ghndBody
  refine .once (fun hs => ?_) h
  split
  · split
    · exact .wait (.remember hs)
    · refine .ite (.wait hs) (.ite (.fault (.dropAccess hs)) ?_)
      split
      · exact .fault (.dropAccess hs)
      · exact .ok (.putS (.setHandle (.dropAccess hs)))
  · refine .ite (.fault hs) ?_
    split
    · exact .memRaise hs
    · exact .ite (.wait hs) (.wait (.remember (.addAccesses hs)))

theorem Res.Canon.ghndFreeBody {sa x} (h : s.Canon) : (ghndFreeBody sa x s).Canon :=
  .once (fun hs => .ite (.fault hs) (.ok (.setHandle hs))) h

theorem Res.Canon.endGath {nf done k} (h : s.Canon) : (x.endGath nf done k s).Canon :=
  .ite (.ok (.setGrp h)) (.ite (.ok (.setGrp h)) (.memRaise (.setGrp h)))

theorem State.Canon.settleStore {a} (h : s.Canon) : (s.settleStore a).Canon :=
  .dropAccess (.foldWct (.ite (.freshenCopy h) h))

theorem Res.Canon.settleGath {nf k lost as} (h : s.Canon) : (x.settleGath nf k lost as s).Canon :=
  .endGath (.foldl h fun hs => .ite (.dropAccess hs) (.ite (.deliver hs) (.settleStore (.digestAccess hs))))

theorem Res.Canon.gathPriv {nf} (h : s.Canon) : (x.gathPriv nf s).Canon := .ite (.ok (.setGrp h)) (.fault h)

theorem Res.Canon.startGath {nf load es} (h : s.Canon) : (x.startGath nf load es s).Canon := by
  unfold Machine.Ctx.startGath
  refine .ite (.gathPriv h) (.ite (.wait h) ?_)
  split
  · exact .done (.freezeCore (.setGrp (.addAccesses (.foldl h .digestAccess))))
  · exact .ite (.wait (.remember (.addAccesses h))) (.endGath (.addAccesses (.foldl h .digestAccess)))

theorem Res.Canon.deltaGath {nf vd d is ids} (h : s.Canon) : (x.deltaGath nf vd d is ids s).Canon :=
  .ite (.gathPriv (.foldl h .dropAccess)) (.ite (.ite (.wait (.remember h)) (.wait (.remember (.addAccesses h))))
      (.ite (.wait h) (.endGath (.foldl (.foldl h .dropAccess) .setV))))

theorem Res.Canon.resumeGath {nf vd} (h : s.Canon) : (x.resumeGath nf vd s).Canon :=
  .ite (.deltaGath h) (.ite (.wait h) (.settleGath h))

theorem Res.Canon.withHandle {body : Desc → Ctx → State → Res} {sa scat reg x}
    (hbody : ∀ {a b c'}, c'.Canon → (body a b c').Canon) (h : s.Canon) : (withHandle sa scat reg body x s).Canon :=
  .ite (.fault h) (.ite (.wait h) (hbody h))

theorem Res.Canon.gathBody {d sa vb c nf bs x} (h : s.Canon) : (gathBody d sa vb c nf bs x s).Canon := by
  unfold Machine.gathBody
  split
  · exact .resumeGath h
  · exact .withHandle (fun hs => .ite (.ok hs) (.ite (.deltaGath hs) (.startGath hs))) h

theorem Res.Canon.scatBody {sa vb vc nf x} (h : s.Canon) : (scatBody sa vb vc nf x s).Canon := by
  unfold Machine.scatBody
  split
  · exact .resumeGath h
  · exact .withHandle (fun hs => .ite (.ok hs) (.startGath hs)) h

/-! #### Conversions -/

theorem State.Canon.putField {d code pos f} (h : s.Canon) : (x.putField d code pos f s).Canon :=
  .ite (.putF64 h) (.putF h)

theorem State.Canon.putQ {n f} (h : s.Canon) : (x.putQ n f s).Canon := .foldl h .setQ

theorem Res.Canon.cvnBody {d a q df sf rm sat dp x} (h : s.Canon) : (cvnBody d a q df sf rm sat dp x s).Canon :=
  .ok (.putQ (.putField h))

/-! #### Chains and rings -/

theorem ChainRun.Canon.chainStep {r : ChainRun} {hd x ftz j} (h : r.Canon) : (chainStep hd x ftz r j).Canon := by
  unfold Machine.chainStep
  refine .ite h (.ite (.mk (.ofChain h)) ?_)
  dsimp only
  split
  · exact .mk (.ofChain h)
  · split
    · exact .mk (.ofChain h)
    · split
      · exact .mk (.ofChain h)
      · have hr := State.Canon.ofChain h
        rename_i e; exact .mk ((ExceptEach.engWrite (.ite (.engFresh hr) (.engFresh (.engFresh hr)))).get e).of

theorem ChainRun.Canon.run {hd : Chain} {ftz} (h : s.Canon) : (hd.run ftz s).Canon := .foldl (.mk h) .chainStep

theorem State.Canon.endChain {hd v} (h : s.Canon) : (s.endChain hd v).Canon :=
  .writeToken (.upd (.ite (.orEngineFlags h) h))

theorem State.Canon.chainCompletion {c part} (h : s.Canon) : (s.chainCompletion c part).Canon := by
  unfold Machine.State.chainCompletion
  split
  · exact h
  · refine .ite h ?_
    split
    · exact .ite h (.endChain h)
    · rename_i e; exact (OptionEach.engineWaits h).get e
    · split
      · rename_i e; exact (OptionEach.askPeers h).get e
      · refine .ite h ?_
        extract_lets l d r t o u
        have ht : t.Canon := .foldWct (.ofChain (.run h))
        have hu : u.Canon := .ite (.digestAsync ht) ht
        clear_value u
        split
        · exact .freezeEngine (.upd hu)
        · exact .ite (.upd hu) (.endChain hu)
        · exact .ite (.endChain hu) (.upd hu)

theorem Res.Canon.vchainBody {sd sa x} (h : s.Canon) : (vchainBody sd sa x s).Canon :=
  .once (fun hs => .ite (.wait hs) (.ite (.fault hs) (.withDesc (fun ht => .ite (.fault ht)
      (.ite (.ok (.putS ht)) (.ite (.fault ht) (.ok (.post (.countAsync (.openToken (.upd ht)))))))) hs))) h

/-! #### The matrix engine -/

theorem State.Canon.setAcc {c p m a} (h : s.Canon) : (s.setAcc c p m a).Canon := .setGrp h

theorem OptionEach.bindAcc {c p m f64} (h : s.Canon) : OptionEach State.Canon (s.bindAcc c p m f64) :=
  .ite (.some h) (.ite .none (.some (.setAcc h)))

theorem Res.Canon.loopFault {a} (h : s.Canon) : (x.loopFault a s).Canon := .fault (.faultAt h)

theorem State.Canon.unbindPair {c p} (h : s.Canon) : (s.unbindPair c p).Canon :=
  .foldl (.upd (.foldl h .setGrp)) .post

theorem Res.Canon.mzeroBody {m f64 x} (h : s.Canon) : (mzeroBody m f64 x s).Canon := by
  unfold Machine.mzeroBody
  refine .once (fun hs => .ite (.wait hs) ?_) h
  split
  · exact .fault hs
  · rename_i e; exact .ok (.setAcc ((OptionEach.bindAcc hs).get e))

theorem Res.Canon.mbqBody {vq sa x} (h : s.Canon) : (mbqBody vq sa x s).Canon :=
  .once (fun hs => .ite (.fault hs) (.ok (.setGrp hs))) h

theorem State.Canon.failMma {c code ps} (h : s.Canon) : (s.failMma c code ps).Canon := by
  unfold Machine.State.failMma
  refine .foldl h fun hs => ?_
  split
  · exact .raise hs
  · exact hs

theorem State.Canon.failLoops {c qs} (h : s.Canon) : (s.failLoops c qs).Canon := by
  unfold Machine.State.failLoops
  refine .foldl h fun hs => ?_
  split
  · exact .raise (.faultAt hs)
  · exact hs

theorem State.Canon.issueMma {c ps} (h : s.Canon) : (s.issueMma c ps).Canon := by
  unfold Machine.State.issueMma
  refine .foldl h fun hs => ?_
  split
  · exact hs
  · exact .post (.upd (.setGrp (.getD (.bindAcc hs) hs)))

theorem Res.Canon.joinMma {r mask} (h : s.Canon) : (x.joinMma r mask s).Canon :=
  .ite (.fault h) (.ite (.wait h) (.ite (.done (.failLoops h)) (.ite (.done (.failMma h))
      (.ite (.done (.failMma h)) (.ite (.wait h) (.ite (.done (.failMma h))
          (.ok (.foldl (.issueMma h) fun hs => .ite hs (.advanceEntry hs)))))))))

theorem State.Canon.waitForPartners {note} (h : s.Canon) : (x.waitForPartners note s).Canon := by
  unfold Machine.Ctx.waitForPartners
  dsimp only
  split
  · exact .remember h
  · exact .setGrp (.remember h)

theorem Res.Canon.mmaBody {m va ta tb x} (h : s.Canon) : (mmaBody m va ta tb x s).Canon := by
  unfold Machine.mmaBody
  refine .once (fun {x s} hs => ?_) h
  split
  · exact .fault hs
  · refine .ite (.loopFault hs) ?_
    split
    · split
      · rename_i e; exact .wait (.waitForPartners (.ofWait (.joinMma hs) e))
      · exact .joinMma hs
    · refine .ite (.wait hs) ?_
      dsimp only
      split
      · rename_i e; exact .wait (.waitForPartners (.ofWait (.joinMma (.remember hs)) e))
      · exact .joinMma (.remember hs)

theorem State.Canon.startLoop {j} (h : s.Canon) : (s.startLoop j).Canon := by
  unfold Machine.State.startLoop
  refine .ite (.post (.upd h)) ?_
  dsimp only
  split
  · exact .upd (.setGrp h)
  · exact .ite (.post (.upd (.setGrp h))) (.unbindPair (.upd (.setGrp h)))

theorem Res.Canon.mloopBody {m sa sb sc ta tb msk x} (h : s.Canon) : (mloopBody m sa sb sc ta tb msk x s).Canon := by
  unfold Machine.mloopBody
  refine .once (fun hs => .ite (.fault hs) (.ite (.loopFault hs) (.ite (.fault hs) (.ite (.wait hs) ?_)))) h
  split
  · exact .fault hs
  · rename_i e; exact .ok (.startLoop (.setAcc ((OptionEach.bindAcc hs).get e)))

theorem Res.Canon.mmaskBody {sa sb x} (h : s.Canon) : (mmaskBody sa sb x s).Canon := by
  unfold Machine.mmaskBody
  refine .once (fun hs => .ite (.fault hs) ?_) h
  split
  · exact .scrRaise hs
  · exact .ite (.wait hs) (.ite (.wait hs) (.ok (.setGrp hs)))

theorem State.Canon.dropJob {id} (h : s.Canon) : (s.dropJob id).Canon := .upd h

theorem State.Canon.setJob {j} (h : s.Canon) : (s.setJob j).Canon := .upd h

theorem State.Canon.stopLoop {j code addr} (h : s.Canon) : (s.stopLoop j code addr).Canon := by
  unfold Machine.State.stopLoop
  refine .dropJob ?_
  split
  · exact .setJob (.setAcc h)
  · exact .setAcc h

theorem State.Canon.applyStep {j ftz a b f} (h : s.Canon) : (s.applyStep j ftz a b f).Canon :=
  .ite (.dropJob (.orEngineFlags (.setAcc (.ite (.freshenFoot h) h))))
      (.post (.setJob (.orEngineFlags (.setAcc (.ite (.freshenFoot h) h)))))

theorem State.Canon.stepWith {j ftz b} (h : s.Canon) : (s.stepWith j ftz b).Canon := by
  unfold Machine.State.stepWith
  refine .ite (.applyStep h) ?_
  split
  · exact .stopLoop h
  · exact .freezeEngine h
  · exact .applyStep h

theorem State.Canon.kStep {c id} (h : s.Canon) : (s.kStep c id).Canon := by
  unfold Machine.State.kStep
  split
  · exact h
  · extract_lets other both l
    refine .ite h (.ite (.foldl h .dropJob) (.ite (.foldl h .stopLoop) ?_))
    split
    · rename_i e; exact (OptionEach.findSome fun _ => .engineWaits h).get e
    · refine .ite (.post h) ?_
      split
      · exact .foldl h .stopLoop
      · exact .freezeEngine h
      · exact .foldl h .stepWith

theorem State.Canon.twinTimeout {c p} (h : s.Canon) : (s.twinTimeout c p).Canon := .ite (.unbindPair h) h

theorem Res.Canon.drainOut {fin : State → State} {seq to_ rows} (hfin : ∀ {a}, a.Canon → (fin a).Canon) (h : s.Canon) :
    (x.drainOut seq to_ rows fin s).Canon := by
  unfold Machine.Ctx.drainOut
  split
  · exact .ok (hfin (.foldl h .setVs))
  · split
    · split
      · dsimp only
        split
        · exact .scrRaise h
        · exact .ite (.scrRaise h) (.wait h)
      · dsimp only
        split
        · exact .scrRaise h
        · exact .ite (.scrRaise h) (.ite (.wait h) (.ok (hfin (.wakeWaits (.setPoolBytes h)))))

theorem State.Canon.release {rel m} (h : s.Canon) : (x.release rel m s).Canon := .ite (.setAcc h) h

theorem Res.Canon.mdrainBody {to_ m sb bf16 rel x} (h : s.Canon) : (mdrainBody to_ m sb bf16 rel x s).Canon :=
  .once (fun hs => .ite (.fault hs) (.ite (.loopFault hs) (.ite (.fault hs)
      (.ite (.wait hs) (.drainOut (fun ht => .orFlags (.release ht)) hs))))) h

theorem Res.Canon.guide {d r bf16 rel} (h : s.Canon) : (x.guide d r bf16 rel s).Canon := by
  unfold Machine.Ctx.guide
  split
  · exact .fault h
  · exact .ite (.loopFault h) (.ite (.fault h) (.drainOut (fun hs => .orEngineFlags (.release hs)) h))

theorem Res.Canon.mguideBody {d m sb sc bf16 rel x} (h : s.Canon) : (mguideBody d m sb sc bf16 rel x s).Canon := by
  unfold Machine.mguideBody
  refine .once (fun hs => ?_) h
  split
  · exact .ite (.wait hs) (.guide hs)
  · exact .ite (.fault hs) (.ite (.fault hs) (.ite (.fault hs) (.wait (.remember (.upd (.unbindPair hs))))))

theorem Res.Canon.mtwinBody {x} (h : s.Canon) : (mtwinBody x s).Canon := by
  unfold Machine.mtwinBody
  refine .once (fun hs => .ite (.fault hs) ?_) h
  split
  · exact .fault hs
  · split
    · exact .wait (.waitForPartners hs)
    · exact .ok (.advanceEntry (.foldl (.unbindPair hs) .setGrp))

theorem Res.Canon.mstatBody {sd m clr x} (h : s.Canon) : (mstatBody sd m clr x s).Canon :=
  .once (fun hs => .ok (.ite (.setAcc (.putS hs)) (.putS hs))) h

theorem State.Canon.suspend {j} (h : s.Canon) : (s.suspend j).Canon := by
  unfold Machine.State.suspend
  split
  · exact h
  · refine .dropJob ?_
    split
    · exact .setJob h
    · exact h

theorem State.Canon.releaseLater {rel m first n} (h : s.Canon) : (x.releaseLater rel m first n s).Canon :=
  .ite (.setGrp h) h

theorem Res.Canon.msaveBody {sa m rel x} (h : s.Canon) : (msaveBody sa m rel x s).Canon := by
  unfold Machine.msaveBody
  refine .once (fun hs => .ite (.memRaise hs) (.ite (.wait hs) (.ite (.wait hs) ?_))) h
  dsimp only
  split
  · exact .memRaise hs
  · exact .done (.freezeCore hs)
  · exact .ite (.wait hs) (.ok (.releaseLater (.addAccesses (.suspend hs))))

theorem Res.Canon.mrstrBody {m sa x} (h : s.Canon) : (mrstrBody m sa x s).Canon := by
  unfold Machine.mrstrBody
  refine .once (fun hs => ?_) h
  refine .ite (.memRaise hs) (.ite (.wait hs) (.withDesc (fun ht => .ite (.fault ht) (.ite (.wait ht) ?_)) hs))
  split
  · exact .fault ht
  · rename_i e
    have hu := (OptionEach.bindAcc ht).get e
    exact .ite (.ok (.setGrp (.setAcc hu))) (.ok (.startLoop (.unbindPair (.setGrp (.setAcc hu)))))

/-! #### Work entries and packets -/

theorem State.Canon.setWork {en w} (h : s.Canon) : (s.setWork en w).Canon := .upd h

theorem State.Canon.failWork {en code} (h : s.Canon) : (s.failWork en code).Canon := .setWork h

theorem State.Canon.loseWork {en} (h : s.Canon) : (s.loseWork en).Canon := .failWork (.upd h)

theorem State.Canon.sendAll {en qs} (h : s.Canon) : (s.sendAll en qs).Canon := by
  unfold Machine.State.sendAll
  refine .foldl h fun hs => .ite hs ?_
  split
  · exact .loseWork hs
  · rename_i e; exact (OptionEach.sendPacket hs).get e

theorem State.Canon.tryWork {en} (h : s.Canon) : (s.tryWork en).Canon := by
  unfold Machine.State.tryWork
  refine .ite h (.ite (.timer h) ?_)
  split
  · exact .ite (.retryStep h) (.sendAll (.setWork h))
  · dsimp only
    split
    · exact .failWork h
    · exact .freezeEngine h
    · exact .ite (.retryStep h) (.sendAll (.setWork h))

theorem State.Canon.fire {en} (h : s.Canon) : (s.fire en).Canon :=
  .ite (.failWork (.upd (.setWork h))) (.tryWork (.upd (.setWork h)))

theorem State.Canon.setCtr {n v} (h : s.Canon) : (s.setCtr n v).Canon := .foldl (.upd h) .fire

theorem State.Canon.addCtr {n k} (h : s.Canon) : (s.addCtr n k).Canon := .setCtr h

theorem State.Canon.countUp {n} (h : s.Canon) : (s.countUp n).Canon := .ite h (.addCtr h)

theorem State.Canon.entryCompletion {en} (h : s.Canon) : (s.entryCompletion en).Canon :=
  .ite h (.ite (.tryWork h) (.ite (.loseWork h) (.ite h (.ite (.timer h) (.countUp (.setWork (.foldWct h)))))))

theorem Res.Canon.buildWork {k sd sa x} (h : s.Canon) : (buildWork k sd sa x s).Canon := by
  unfold Machine.buildWork
  refine .once (fun hs => .ite (.fault hs) ?_) h
  split
  · exact .fault hs
  · exact .ok (.putS (.setWork (.upd hs)))

theorem Res.Canon.afterRelease {body : Ctx → State → Res} {scope ops x} (hbody : ∀ {a b}, b.Canon → (body a b).Canon)
    (h : s.Canon) : (afterRelease scope ops body x s).Canon := by
  unfold Machine.afterRelease
  split
  · exact .wait (.remember (.post (.upd h)))
  · exact .ite (.wait h) (hbody h)

theorem Res.Canon.qarmBody {sa sb sc x} (h : s.Canon) : (qarmBody sa sb sc x s).Canon :=
  .once (fun hs => .ite (.fault hs) (.ite (.fault hs) (.afterRelease (fun ht => .ok
      (.ite (.fire (.setWork ht)) (.setWork ht))) hs))) h

theorem Res.Canon.tcntBody {sd sa b op x} (h : s.Canon) : (tcntBody sd sa b op x s).Canon :=
  .once (fun hs => .ite (.fault hs) (.ite (.ite (.wait hs) (.ok (.putS (.ctxAcquire hs))))
      (.afterRelease (fun ht => .ite (.ok (.putS (.setCtr ht))) (.ok (.putS (.setCtr ht)))) hs))) h

theorem Res.Canon.qstatBody {sd sa sel rst x} (h : s.Canon) : (qstatBody sd sa sel rst x s).Canon := by
  unfold Machine.qstatBody
  refine .once (fun hs => .ite (.fault hs) ?_) h
  split
  · exact .ok (.putS hs)
  · exact .ok (.putS hs)
  · exact .ok (.putS (.ite (.upd hs) hs))
  · split
    · exact .ok (.putS hs)
    · exact .ok (.putS (.setWork hs))

theorem State.Canon.putOff {byCycle due what} (h : s.Canon) : (s.putOff byCycle due what).Canon := .upd h

theorem State.Canon.putOffPinned {ps what} (h : s.Canon) : (s.putOffPinned ps what).Canon := .putOff (.refuseLines h)

theorem State.Canon.forSource {body : State → State} {src rs what} (h : s.Canon) (hbody : ∀ {a}, a.Canon → (body a).Canon) :
    (s.forSource src rs what body).Canon :=
  .ite (.putOff h) (.ite (.putOffPinned h) (hbody h))

theorem State.Canon.answer {src tag refused t} (h : s.Canon) : (s.answer src tag refused t).Canon :=
  .getD (.sendPacket (.ite h (.upd h))) (.ite h (.upd h))

theorem FstCanon.peerWrite {a bs} (h : s.Canon) : FstCanon (s.peerWrite a bs) := .mk (.wakeWaits (.setBytes h))

theorem OptionEach.applySignal {target size} (h : s.Canon) : OptionEach State.Canon (s.applySignal target size) :=
  .ite (.some (.addCtr h)) (.ite .none (.map fun _ => .wakeWaits (.setBarObj h)))

theorem StepCanon.execPutWithSignal (h : s.Canon) : StepCanon (execPutWithSignal s) := by
  unfold Machine.execPutWithSignal
  refine .next (.ite (.putOff h) (.forSource h (fun hs => ?_)))
  split
  · exact .answer hs
  · rename_i e; exact .answer ((OptionEach.applySignal hs).get e)

theorem State.Canon.acknowledge {src id refused} (h : s.Canon) : (s.acknowledge src id refused).Canon := by
  unfold Machine.State.acknowledge
  split
  · exact h
  · split
    · exact .ite h (.wakeEngine (.donePacket h))
    · exact .ite (.remoteAnswer h) (.wakeOwner (.donePacket h))
    · exact .remoteAnswer h
    · extract_lets s1
      have h1 : s1.Canon := .donePacket h
      split
      · exact h1
      · exact .ite (.failWork h1) (.post h1)

theorem State.Canon.getData {src id bs} (h : s.Canon) : (s.getData src id bs).Canon := by
  unfold Machine.State.getData
  split
  · exact h
  · split
    · exact .donePacket h
    · dsimp only
      split
      · exact .failWork (.donePacket h)
      · exact .freezeEngine (.donePacket h)
      · exact .ite (.putOffPinned h) (.post (.setWork (.wakeWaits (.donePacket (.fst (.storePieces h))))))

theorem State.Canon.losePacket {q} (h : s.Canon) : (s.losePacket q).Canon := by
  unfold Machine.State.losePacket
  split
  · exact .ite (.loseAccess h) (.wakeEngine (.upd (.donePacket h)))
  · exact .loseAccess h
  · exact .ite (.loseAccess h) (.wakeOwner (.upd (.donePacket h)))
  iterate 4
    · dsimp only
      split
      · exact .donePacket h
      · exact .loseWork (.donePacket h)
  · exact .donePacket h

theorem StepCanon.execPacketTimeout (h : s.Canon) : StepCanon (execPacketTimeout s) := by
  unfold Machine.execPacketTimeout
  refine .next ?_
  split
  · exact h
  · exact .ite (.losePacket h) h

theorem State.Canon.linkDown {port} (h : s.Canon) : (s.linkDown port).Canon :=
  .pokeColls (.foldl (.upd h) .losePacket)

theorem State.Canon.routeSwitch {f} (h : s.Canon) : (s.routeSwitch f).Canon := by
  unfold Machine.State.routeSwitch
  dsimp only
  split
  · exact .foldl (.foldl h .losePacket) .losePacket
  · exact .ite (.foldl h .losePacket) (.foldl (.upd (.foldl h .losePacket)) fun hs => .ite (.timer hs) hs)

theorem StepCanon.execPacketForwarding (h : s.Canon) : StepCanon (execPacketForwarding s) := by
  unfold Machine.execPacketForwarding
  refine .next ?_
  split
  · exact h
  · exact .upd h

/-! #### Collectives -/

theorem State.Canon.setColl {slot k} (h : s.Canon) : (s.setColl slot k).Canon := .upd h

theorem State.Canon.message {f kind what nums} (h : s.Canon) : (s.message f kind what nums).Canon :=
  .ite (.post h) (.getD (.sendPacket h) h)

theorem State.Canon.endSlot {slot st code} (h : s.Canon) : (s.endSlot slot st code).Canon := by
  unfold Machine.State.endSlot
  refine .pokeColls ?_
  split
  · split
    · exact .countUp (.foldWct (.setColl h))
    · exact .post (.countUp (.foldWct (.setColl h)))
  · refine .post ?_
    split
    · exact .countUp (.foldWct (.setColl h))
    · exact .post (.countUp (.foldWct (.setColl h)))

theorem ExceptEach.postSlot {b mk} (h : s.Canon) : ExceptEach SndCanon (s.postSlot b mk) := by
  unfold Machine.State.postSlot
  split
  · exact .error
  · split
    · exact .error
    · exact .ok (.mk (.ite (.message (.setColl (.upd h))) (.timer (.message (.setColl (.upd h))))))

theorem State.Canon.cancelSlot {slot} (h : s.Canon) : (s.cancelSlot slot).Canon := .ite h (.message (.setColl h))

theorem StepCanon.execTicketMessage (h : s.Canon) : StepCanon (execTicketMessage s) := by
  unfold Machine.execTicketMessage
  refine .next ?_
  split
  · exact h
  · exact .pokeColls (.setColl (.upd h))

theorem StepCanon.execMismatchMessage (h : s.Canon) : StepCanon (execMismatchMessage s) := by
  unfold Machine.execMismatchMessage
  refine .next ?_
  split
  · exact h
  · exact .endSlot h

theorem StepCanon.execCancelledMessage (h : s.Canon) : StepCanon (execCancelledMessage s) := by
  unfold Machine.execCancelledMessage
  refine .next ?_
  split
  · exact h
  · exact .endSlot h

theorem State.Canon.setRec {r} (h : s.Canon) : (s.setRec r).Canon := .upd h

theorem State.Canon.dropRec {r} (h : s.Canon) : (s.dropRec r).Canon := .upd h

theorem State.Canon.matched {r} (h : s.Canon) : (s.matched r).Canon :=
  .ite (.foldl (.upd (.dropRec h)) .message) (.foldl (.dropRec h) .message)

theorem State.Canon.answerCancelled {r rank} (h : s.Canon) : (s.answerCancelled r rank).Canon :=
  .ite (.dropRec (.message h)) (.setRec (.message h))

theorem State.Canon.queueMessage {what} (h : s.Canon) : (s.queueMessage what).Canon := .upd h

theorem State.Canon.postMessage {team rank num rest} (h : s.Canon) : (s.postMessage team rank num rest).Canon := by
  unfold Machine.State.postMessage
  refine .ite (.queueMessage h) ?_
  split
  · exact .ite (.answerCancelled h) (.ite (.matched h) (.setRec h))
  · exact .ite (.queueMessage h) (.setRec h)

theorem StepCanon.execCancelMessage (h : s.Canon) : StepCanon (execCancelMessage s) := by
  unfold Machine.execCancelMessage
  refine .next (.ite (.upd h) (.ite (.queueMessage h) ?_))
  split
  · exact h
  · refine .ite h (.foldl (.setRec h) fun hs => ?_)
    split
    · exact hs
    · exact .answerCancelled hs

theorem State.Canon.flushOut {slot a} (h : s.Canon) : (s.flushOut slot a).Canon := by
  induction a generalizing s with
  | nil => exact h
  | cons o a ih =>
    unfold Machine.State.flushOut
    extract_lets k at_
    split
    · exact ih (.ite h (.setColl h))
    · exact ih (.getD (.sendPacket (.upd h)) (.upd h))

theorem State.Canon.flushColl {slot} (h : s.Canon) : (s.flushColl slot).Canon :=
  .ite (.post (.ite h (.flushOut (.setColl h)))) (.ite h (.flushOut (.setColl h)))

theorem State.Canon.stateGrant {k rank n} (h : s.Canon) : (s.grant k rank n).Canon := .message h

theorem Wrote.Canon.writeResult {k o} (h : s.Canon) : (s.writeResult k o).Canon := by
  unfold Machine.State.writeResult
  extract_lets n q first ws bs
  split
  · exact .fault
  · exact .violate
  · exact .ite .retry (.ok (.wakeWaits (.fst (.storePieces h))))

theorem State.Canon.takeResults {slot n} (h : s.Canon) : (s.takeResults slot n).Canon := by
  induction n generalizing s with
  | zero => exact h
  | succ n ih =>
    unfold Machine.State.takeResults
    extract_lets k m
    split
    · exact h
    · extract_lets key c move skip
      have hmove : ∀ {s k}, s.Canon → (move s k).Canon := fun h => ih (.setColl h)
      refine .ite (hmove h) (.ite (hmove h) ?_)
      split
      · exact .retryStep h
      · exact .freezeEngine h
      · exact hmove h
      · rename_i e; exact hmove (.ofWrote (.writeResult h) e)

theorem State.Canon.emitFold {slot c first count partl ws} (h : s.Canon) : (s.emitFold slot c first count partl ws).Canon :=
  .ite (.setColl h) (.takeResults (.setColl h))

theorem State.Canon.tryFold {slot c} (h : s.Canon) : (s.tryFold slot c).Canon := by
  unfold Machine.State.tryFold
  refine .ite h ?_
  split
  · exact h
  · exact .retryStep h
  · exact .freezeEngine h
  · split <;> exact .emitFold (.setColl h)
  · split <;> exact .emitFold h

theorem State.Canon.ownChunk {slot c} (h : s.Canon) : (s.ownChunk slot c).Canon := by
  unfold Machine.State.ownChunk
  refine .ite h ?_
  split
  · exact h
  · exact .retryStep h
  · exact .freezeEngine h
  · exact .setColl h
  · exact .setColl h

theorem State.Canon.progress {slot} (h : s.Canon) : (s.progress slot).Canon :=
  .ite h (.flushColl (.takeResults (.setColl (.ite (.foldl h .tryFold) (.ite (.foldl h .ownChunk) h)))))

theorem State.Canon.startColl {slot} (h : s.Canon) : (s.startColl slot).Canon :=
  .ite (.progress h) (.ite h (.ite h (.ite (.endSlot h) (.ite h (.pokeColls
      (.progress (.ite (.ite (.stateGrant (.stateGrant (.setColl h))) (.stateGrant (.setColl h)))
          (.timer (.timer (.ite (.stateGrant (.stateGrant (.setColl h))) (.stateGrant (.setColl h))))))))))))

theorem StepCanon.execFoldChunk (h : s.Canon) : StepCanon (execFoldChunk s) := by
  unfold Machine.execFoldChunk
  refine .next ?_
  split
  · exact h
  · exact .ite (.stateGrant h) (.ite (.setColl (.stateGrant h)) (.progress (.setColl (.stateGrant h))))

theorem StepCanon.execResultChunk (h : s.Canon) : StepCanon (execResultChunk s) := by
  unfold Machine.execResultChunk
  refine .next ?_
  split
  · exact h
  · exact .ite (.stateGrant h) (.progress (.setColl (.stateGrant h)))

theorem StepCanon.execCredit (h : s.Canon) : StepCanon (execCredit s) := by
  unfold Machine.execCredit
  refine .next ?_
  split
  · exact .upd h
  · exact .flushColl (.upd h)

theorem State.Canon.giveUp {slot} (h : s.Canon) : (s.giveUp slot).Canon := .ite h (.flushColl (.setColl h))

theorem State.Canon.endColl {slot} (h : s.Canon) : (s.endColl slot).Canon :=
  .ite h (.ite h (.ite (.timer h) (.ite (.endSlot (.upd h)) (.ite (.endSlot (.upd h)) (.endSlot (.upd h))))))

theorem Res.Canon.qpostBody {sd sa x} (h : s.Canon) : (qpostBody sd sa x s).Canon := by
  unfold Machine.qpostBody
  refine .once (fun hs => ?_) h
  dsimp only
  split
  · exact .fault hs
  · refine .afterRelease (fun ht => ?_) hs
    split
    · exact .fault ht
    · rename_i e; exact .ok (.putS ((ExceptEach.postSlot ht).get e).of)

theorem Res.Canon.withSlot {body : Nat → Ctx → State → Res} {sa x} (hbody : ∀ {a b c'}, c'.Canon → (body a b c').Canon)
    (h : s.Canon) : (withSlot sa body x s).Canon :=
  .once (fun hs => .ite (.fault hs) (hbody hs)) h

theorem Res.Canon.mdraincBody {m sb sc rel x} (h : s.Canon) : (mdraincBody m sb sc rel x s).Canon :=
  .once (fun hs => .ite (.fault hs) (.ite (.loopFault hs) (.ite (.fault hs)
      (.ite (.fault hs) (.ite (.wait hs) (.ok (.progress (.release (.setColl hs))))))))) h

/-! #### Traps and debugging -/

theorem Res.Canon.withRing {body : List Byte → Ctx → State → Res} {k x} (hbody : ∀ {a b c'}, c'.Canon → (body a b c').Canon)
    (h : s.Canon) : (withRing k body x s).Canon :=
  .ite (.wait h) (.ite (.fault h) (hbody h))

theorem Res.Canon.hringStart {addr k x} (h : s.Canon) : (hringStart addr k x s).Canon := by
  unfold Machine.hringStart
  split
  · dsimp only
    split
    · exact .memRaise h
    · exact .wait h
  · dsimp only
    split
    · exact .memRaise h
    · exact .wait (.remember (.addAccesses h))

theorem Res.Canon.hringBody {sa k ofs x} (h : s.Canon) : (hringBody sa k ofs x s).Canon := by
  unfold Machine.hringBody
  refine .once (fun hs => ?_) h
  split
  · exact .ite (.wait hs) (.ite (.fault hs) (.hringStart hs))
  · exact .ite (.wait hs) (.ite (.fault (.upd hs)) (.ok (.timer (.setCore (.upd hs)))))

theorem State.Canon.commitRing {c k} (h : s.Canon) : (s.commitRing c k).Canon := by
  unfold Machine.State.commitRing
  dsimp only
  split
  · exact h
  · exact .setCore h

theorem Res.Canon.hatch1 {d a k f x} (h : s.Canon) : (hatch1 d a k f x s).Canon :=
  .withRing (fun hs => .ok (.put hs)) h

theorem Res.Canon.hatch2 {d a b k f x} (h : s.Canon) : (hatch2 d a b k f x s).Canon :=
  .withRing (fun hs => .ok (.put hs)) h

/-! #### The burnisher and the rank tiles -/

theorem State.Canon.setBurn {b} (h : s.Canon) : (s.setBurn b).Canon := .upd h

theorem State.Canon.setJobTile {j t x} (h : s.Canon) : (s.setJobTile j t x).Canon := by
  unfold Machine.State.setJobTile
  split
  · exact .setGrp h
  · split
    · exact h
    · exact .setBurn h

theorem State.Canon.setHeapBytes {j o bs} (h : s.Canon) : (s.setHeapBytes j o bs).Canon := by
  unfold Machine.State.setHeapBytes
  split
  · exact .setPoolBytes h
  · split
    · exact h
    · exact .setBurn h

theorem State.Canon.setJobMap {j m} (h : s.Canon) : (s.setJobMap j m).Canon := by
  unfold Machine.State.setJobMap
  split
  · exact .setBlk h
  · split
    · exact h
    · exact .setBurn h

theorem State.Canon.setHeapFlt {j f} (h : s.Canon) : (s.setHeapFlt j f).Canon := by
  unfold Machine.State.setHeapFlt
  split
  · exact .setBlk h
  · split
    · exact h
    · exact .setBurn h

theorem OptionEach.commitTile {j t info d v} (h : s.Canon) : OptionEach State.Canon (s.commitTile j t info d v) := by
  unfold Machine.State.commitTile
  extract_lets put
  have hput : ∀ {s d}, s.Canon → (put s d).Canon := .setJobTile
  split
  · exact .some (hput h)
  · extract_lets d n write
    have hwrite : ∀ {s d}, s.Canon → (write s d).Canon := by
      intro s d h
      unfold write; split
      · exact .setHeapBytes (.setHeapBytes h)
      · exact .setHeapBytes h
      · exact h
    refine .ite (.some (hput (hwrite h))) ?_
    split
    · exact .none
    · exact .some (.setJobMap (hput (hwrite (.setJobMap h))))

theorem State.Canon.recordRank {j code addr} (h : s.Canon) : (s.recordRank j code addr).Canon := by
  unfold Machine.State.recordRank
  split
  · exact .setJobTile h
  · exact .setHeapFlt h
  · exact h

theorem RankEnd.Canon.stop {a} : (RankEnd.stop a).Canon := by
  unfold Machine.RankEnd.stop
  split
  · exact .record
  · exact .violate

theorem RankEnd.Canon.computed {j t srcs burnt f} (h : s.Canon) : (s.computed j t srcs burnt f).Canon := by
  unfold Machine.State.computed
  refine .ite .record ?_
  dsimp only
  split
  · exact .record
  · split
    · exact .record
    · rename_i e; exact .done ((OptionEach.commitTile h).get e)

theorem ExceptEach.rankWrite {j rs bs n} (h : s.Canon) : ExceptEach FstCanon (s.rankWrite j rs bs n) := by
  induction rs generalizing s bs n with
  | nil => exact .ok (.mk h)
  | cons r rs ih =>
    unfold Machine.State.rankWrite
    refine .ite .error ?_
    split
    · exact .error
    · rename_i e; exact ih ((ExceptEach.engWrite h).get e).of

theorem RankEnd.Canon.tileLoad {j t rs f} (h : s.Canon) : (s.tileLoad j t rs f).Canon := by
  unfold Machine.State.tileLoad
  refine .ite .record ?_
  split
  · exact .stop
  · exact .computed h

theorem RankEnd.Canon.tileStore {j rs bs} (h : s.Canon) : (s.tileStore j rs bs).Canon := by
  unfold Machine.State.tileStore
  split
  · exact .stop
  · rename_i e; exact .done (.wakeWaits (((ExceptEach.rankWrite h).get e).of))

theorem State.Canon.restoreHeap {j bs} (h : s.Canon) : (s.restoreHeap j bs).Canon := .setJobMap (.setHeapBytes h)

theorem State.Canon.rankScalars {j ws} (h : s.Canon) : (s.rankScalars j ws).Canon := .ite h (.putDest h)

theorem State.Canon.rankVector {j w ys} (h : s.Canon) : (s.rankVector j w ys).Canon :=
  .ite h (.foldl h fun hs => .ite (.setV (.setV hs)) (.setV hs))

theorem RankEnd.Canon.runRank {j} (h : s.Canon) : (s.runRank j).Canon := by
  unfold Machine.State.runRank
  extract_lets word desc val fin
  have hfin : ∀ {t}, t.Canon → (fin t).Canon := .done
  split
  · exact hfin (.setJobTile h)
  · exact hfin (.rankScalars h)
  · exact hfin (.ite (.setJobTile (.rankScalars h)) (.rankScalars h))
  · exact hfin (.setJobTile h)
  · dsimp only; split
    · exact .record
    · exact hfin (.setJobTile (.setJobMap h))
  · exact .ite .record (hfin (.setJobTile (.setJobMap h)))
  · exact .tileLoad h
  · exact .tileLoad h
  · refine .ite .record ?_
    dsimp only; split
    · rename_i e; exact .done (.ofDone (.tileStore h) e)
    · exact .tileStore h
  · refine .ite .record ?_
    split
    · exact .tileStore h
    · exact hfin h
  · split
    · exact .stop
    · exact hfin (.restoreHeap h)
  · exact .tileStore h
  iterate 4 · exact .computed h
  · exact .ite .record (.done (.rankVector h))
  iterate 5 · exact .computed h
  · exact hfin h

theorem OptionEach.burnWaits {b fetch rs what nums} (h : s.Canon) :
    OptionEach State.Canon (s.burnWaits b fetch rs what nums) := by
  unfold Machine.State.burnWaits
  refine .ite (.some (.post h)) ?_
  split
  · exact .none
  · exact .some (.retryStep h)

theorem State.Canon.endBurn {b} (h : s.Canon) : (s.endBurn b).Canon := by
  unfold Machine.State.endBurn
  extract_lets l j imgs first heap code drop
  have hdrop : ∀ {t c n}, t.Canon → (drop t c n).Canon := fun ht => .post (.setNode (.setBurn ht))
  split
  · rename_i e; exact .setBurn ((OptionEach.burnWaits h).get e)
  · split
    · rename_i e; exact hdrop (.wakeWaits ((ExceptEach.rankWrite h).get e).of)
    · exact hdrop h
    · exact .freezeEngine h

theorem State.Canon.dropBurn {n} (h : s.Canon) : (s.dropBurn n).Canon := by
  unfold Machine.State.dropBurn
  split
  · exact h
  · split
    · exact h
    · exact .ite h (.setNode (.upd h))

theorem State.Canon.burnNext {m n} (h : s.Canon) : (s.burnNext m n).Canon := by
  induction n generalizing s with
  | zero => exact h
  | succ n ih =>
    unfold Machine.State.burnNext
    split
    · exact h
    · refine .ite h (.ite (.endBurn h) ?_)
      split
      · rename_i e; exact (OptionEach.burnWaits h).get e
      · split
        · exact .endBurn h
        · exact .endBurn h
        · extract_lets t
          have hs : t.Canon := .setBurn h
          refine .ite (ih hs) (.ite (.endBurn hs) (.ite (.endBurn hs) ?_))
          split
          iterate 3 · exact .endBurn hs
          · exact .post (.upd hs)

theorem ExceptEach.startBurn {n c img} (h : s.Canon) : ExceptEach State.Canon (s.startBurn n c img) := by
  unfold Machine.State.startBurn
  refine .ite .error (.ite .error ?_)
  dsimp only
  split
  · rename_i e; exact .ok ((OptionEach.burnWaits h).get e)
  · split
    · exact .error
    · exact .ok (.freezeEngine (.setNode (.upd h)))
    · exact .ite .error (.ok (.burnNext (.restoreHeap (.setBurn (.setNode (.upd h))))))

theorem State.Canon.setRjob {j} (h : s.Canon) : (s.setRjob j).Canon := .upd h

theorem State.Canon.leaveRank {j} (h : s.Canon) : (s.leaveRank j).Canon := by
  unfold Machine.State.leaveRank
  refine .ite ?_ ?_
  · refine .post ?_
    split
    · exact .upd h
    · exact .burnNext (.upd h)
  · split
    · exact .upd h
    · exact .burnNext (.upd h)

theorem OptionEach.abandons {j} (h : s.Canon) : OptionEach State.Canon (s.abandons j) :=
  .ite (.some (.leaveRank h)) (.ite (.some (.leaveRank (.recordRank h))) .none)

theorem State.Canon.rankGoesOn {j} (h : s.Canon) : (s.rankGoesOn j).Canon := .ite (.post h) (.post h)

theorem State.Canon.startRank {c} (h : s.Canon) : (s.startRank c).Canon := by
  unfold Machine.State.startRank
  split
  · exact h
  · refine .ite h ?_
    split
    · rename_i e; exact (OptionEach.abandons h).get e
    · split
      · rename_i e; exact (OptionEach.engineWaits h).get e
      · exact .rankGoesOn (.setRjob h)

theorem State.Canon.rankBoundary {c} (h : s.Canon) : (s.rankBoundary c).Canon := by
  unfold Machine.State.rankBoundary
  split
  · exact h
  · refine .ite h (.ite (.startRank h) (.ite h ?_))
    split
    · rename_i e; exact (OptionEach.abandons h).get e
    · exact .rankGoesOn (.setRjob h)

theorem StepCanon.execBurnisherPhaseBoundary (h : s.Canon) : StepCanon (execBurnisherPhaseBoundary s) := by
  unfold Machine.execBurnisherPhaseBoundary
  refine .next ?_
  split
  · exact .burnNext h
  · exact .rankBoundary h

theorem State.Canon.settleRank {j} (h : s.Canon) : (s.settleRank j).Canon := by
  unfold Machine.State.settleRank
  refine .leaveRank (.digestAsync (.foldWct ?_))
  split
  · refine .setNode ?_
    split
    · exact .recordRank h
    · exact .ite h (.orEngineFlags h)
  · split
    · exact .recordRank h
    · exact .ite h (.orEngineFlags h)

theorem State.Canon.rankCommit {c} (h : s.Canon) : (s.rankCommit c).Canon := by
  unfold Machine.State.rankCommit
  split
  · exact h
  · refine .ite h (.ite (.ite h (.startRank (.settleRank h))) ?_)
    split
    · rename_i e; exact (OptionEach.engineWaits h).get e
    · split
      · rename_i e; exact (OptionEach.askPeers h).get e
      · split
        · exact .startRank (.leaveRank (.recordRank h))
        · split
          · exact .freezeEngine h
          · exact .startRank (.leaveRank (.recordRank h))
          · rename_i e
            have hs := State.Canon.ofDone (.runRank (.freshenFoot h)) e
            exact .ite (.setRjob hs) (.startRank (.settleRank hs))

theorem Res.Canon.rankBody {i x} (h : s.Canon) : (rankBody i x s).Canon := by
  unfold Machine.rankBody
  refine .once (fun hs => ?_) h
  split
  · exact .fault hs
  · exact .memRaise hs
  · exact .memRaise (.setBlk hs)
  · exact .ite (.wait hs) (.ok (.post (.ite (.countAsync (.upd hs)) (.upd hs))))

theorem Res.Canon.msketchBody {sd t sb sc x} (h : s.Canon) : (msketchBody sd t sb sc x s).Canon := by
  unfold Machine.msketchBody
  refine .once (fun hs => ?_) h
  refine .ite (.wait (.ite (.remember hs) hs)) (.ite (.fault hs) (.ite (.memRaise hs) (.ite (.memRaise hs) ?_)))
  split
  · exact .scrRaise hs
  · split
    · exact .scrRaise hs
    · exact .ite (.scrRaise hs) (.ite (.wait hs) (.ok (.orEngineFlags (.wakeWaits (.setPoolBytes hs)))))

/-! #### The task graph -/

theorem State.Canon.completeCmd {k status code} (h : s.Canon) : (s.completeCmd k status code).Canon := by
  unfold Machine.State.completeCmd
  refine .ite ?_ ?_
  · split
    · exact .ite (.post (.upd h)) (.upd h)
    · exact .upd h
  · refine .wakeWaits (.setBytes ?_)
    split
    · exact .ite (.post (.upd h)) (.upd h)
    · exact .upd h

theorem State.Canon.freeNode {n} (h : s.Canon) : (s.freeNode n).Canon := .setNode h

theorem State.Canon.putStatus {c p d n} (h : s.Canon) : (s.putStatus c p d n).Canon := .setSr (.setSr (.setSr h))

theorem State.Canon.wakeGwaits {m n} (h : s.Canon) : (s.wakeGwaits m n).Canon := by
  induction n generalizing s with
  | zero => exact h
  | succ n ih =>
    unfold Machine.State.wakeGwaits
    split
    · exact h
    · exact ih (.advanceEntry (.putStatus (.setGrp (.acquire h))))

theorem State.Canon.serveNode {n} (h : s.Canon) : (s.serveNode n).Canon :=
  .ite (.freeNode (.foldl (.wakeGwaits h) .completeCmd)) (.foldl (.wakeGwaits h) .completeCmd)

theorem State.Canon.endNodes {n a} (h : s.Canon) : (s.endNodes n a).Canon := by
  induction n generalizing s a with
  | zero => unfold State.endNodes; exact h
  | succ n ih =>
    cases a with
    | nil => exact h
    | cons e a => exact .ite (ih h) (ih (.serveNode (.upd (.setNode h))))

theorem State.Canon.endNode {n st code} (h : s.Canon) : (s.endNode n st code).Canon := .endNodes h

theorem ExceptEach.buildNode {b owner queue prio} (h : s.Canon) : ExceptEach SndCanon (s.buildNode b owner queue prio) := by
  unfold Machine.State.buildNode
  split
  · exact .error
  · exact .ok (.mk (.ite (.setNode (.upd h)) (.ite (.post (.setNode (.upd h))) (.timer (.setNode (.upd h))))))

theorem ExceptEach.submitNode {n} (h : s.Canon) : ExceptEach State.Canon (s.submitNode n) :=
  .ite .error (.ok (.ite (.endNode (.setNode (.upd h))) (.setNode (.upd h))))

theorem ExceptEach.addEdge {a b} (h : s.Canon) : ExceptEach State.Canon (s.addEdge a b) :=
  .ite (.ok (.setNode h)) (.ite (.ok (.setNode h)) (.ite (.ok h) (.ite .error (.ok (.setNode h)))))

/-! #### Placement of blocks and ends of nodes -/

theorem State.Canon.pokeTasks (h : s.Canon) : s.pokeTasks.Canon := by
  unfold Machine.State.pokeTasks
  refine .foldl ?_ fun hs => ?_
  · split
    · exact h
    · exact .post h
  · refine .ite hs ?_
    split
    · exact hs
    · exact .post hs

theorem State.Canon.clearRegs {c p} (h : s.Canon) : (s.clearRegs c p).Canon := by
  obtain ⟨hm, hp, hv, hs, hr, hq⟩ := h
  exact ⟨hm, hp, awf_aclear _ _ hv, awf_aclear _ _ hs, awf_aclear _ _ hr, awf_aclear _ _ hq⟩

theorem State.Canon.placeGroup {n c slot blk bgrp role} (h : s.Canon) : (s.placeGroup n c slot blk bgrp role).Canon :=
  .setBlk (.setGrp (.setGrp (.setLaunch (.upd (.clearRegs h)))))

theorem State.Canon.pairTwins {n c slot} (h : s.Canon) : (s.pairTwins n c slot).Canon :=
  .foldl h fun hs => .ite hs (.setGrp hs)

theorem State.Canon.openCore {n c} (h : s.Canon) : (s.openCore n c).Canon := .ite h (.setCore h)

theorem State.Canon.dropPieces {c ps} (h : s.Canon) : (s.dropPieces c ps).Canon := .ite h (.upd h)

theorem State.Canon.dropRegions {n c} (h : s.Canon) : (s.dropRegions n c).Canon := .ite h (.dropPieces (.setLaunch h))

theorem State.Canon.placeBlock {n c blk} (h : s.Canon) : (s.placeBlock n c blk).Canon :=
  .pairTwins (.upd (.foldl (.setBlk (.dropRegions (.openCore h))) .placeGroup))

theorem State.Canon.resumeGroup {c p} (h : s.Canon) : (s.resumeGroup c p).Canon := by
  unfold Machine.State.resumeGroup
  refine .ite (.abortLaunch h) ?_
  split
  · exact .ite (.freezeCore h) (.ite (.retryStep (.setGrp h)) (.setGrp
        (.fst (.foldl (.mk h) fun hs => .mk (.fst (.storeNow (.fst hs)))))))
  · exact .abortLaunch h

theorem State.Canon.dropCopies {c} (h : s.Canon) : (s.dropCopies c).Canon := .upd h

theorem State.Canon.placeSaved {n c b} (h : s.Canon) : (s.placeSaved n c b).Canon :=
  .foldl (.pairTwins (.upd (.foldl (.fst (.foldl (.mk (.upd (.foldl (.setBlk (.dropCopies (.dropRegions (.openCore h))))
      .setPoolByte))) fun hs => .mk (.setGrp (.clearRegs (.fst hs))))) fun hs => .setBlk (.setGrp hs)))) fun hs => .ite hs
          (.resumeGroup hs)

theorem State.Canon.blockPlacement {n c} (h : s.Canon) : (s.blockPlacement n c).Canon := by
  unfold Machine.State.blockPlacement
  refine .ite h ?_
  split
  · exact .pokeTasks (.foldl (.setLaunch h) .placeSaved)
  · split
    · exact h
    · exact .pokeTasks (.foldl (.setLaunch h) .placeBlock)

theorem State.Canon.cleanWindow {c g back} (h : s.Canon) : (s.cleanWindow c g back).Canon :=
  .setCore (.ite (.foldl h .setByte) h)

theorem State.Canon.removeGroup {c p back} (h : s.Canon) : (s.removeGroup c p back).Canon :=
  .setGrp (.setCore (.cleanWindow h))

theorem State.Canon.preemptCheck {n} (h : s.Canon) : (s.preemptCheck n).Canon :=
  .ite h (.foldl (.setLaunch h) .completeCmd)

theorem State.Canon.leaveSlot {c slot} (h : s.Canon) : (s.leaveSlot c slot).Canon :=
  .ite h (.pokeTasks (.post (.preemptCheck (.ite (.setCore (.setBlk (.upd
      (.ite (.unpinBlock h) (.ite (.foldl (.unpinBlock h) .cleanWindow)
          (.setLaunch (.foldl (.unpinBlock h) .cleanWindow))))))) (.setBlk
              (.upd (.ite (.unpinBlock h) (.ite (.foldl (.unpinBlock h) .cleanWindow)
                  (.setLaunch (.foldl (.unpinBlock h) .cleanWindow))))))))))

theorem State.Canon.yieldGroup {c p frame} (h : s.Canon) : (s.yieldGroup c p frame).Canon := by
  unfold Machine.State.yieldGroup
  split
  · exact .ite (.freezeCore h) (.leaveSlot (.afterFree (.setBlk (.removeGroup
        (.setLaunch (.unpinBlock (.fst (.foldl (.mk h) fun hs => .mk (.fst (.storeNow (.fst hs)))))))))))
  · dsimp only
    split
    · exact .abortLaunch h
    · exact .ite (.freezeCore h) (.leaveSlot (.afterFree (.setBlk (.removeGroup
          (.setLaunch (.unpinBlock (.fst (.foldl (.mk h) fun hs => .mk (.fst (.storeNow (.fst hs)))))))))))

theorem State.Canon.endTwin {c p} (h : s.Canon) : (s.endTwin c p).Canon := .ite h (.unbindPair (.foldl h .suspend))

theorem State.Canon.groupEnd {c p} (h : s.Canon) : (s.groupEnd c p).Canon := by
  unfold Machine.State.groupEnd
  refine .ite (.ite (.endTwin h) h) ?_
  refine .ite (.yieldGroup (.ite (.endTwin h) h)) (.ite (.post (.ite (.endTwin h) h)) (.leaveSlot (.foldl ?_ fun hs => ?_)))
  · refine .foldl ?_ fun hs => ?_
    · refine .afterFree (.removeGroup (.setLaunch ?_))
      split
      · exact .ite (.endTwin h) h
      · exact .setGrp (.ite (.endTwin h) h)
    · exact .barCheck hs
  · exact .regrpCheck hs

theorem State.Canon.reserveSlot {c p n whole} (h : s.Canon) : (s.reserveSlot c p n whole).Canon := by
  unfold Machine.State.reserveSlot
  dsimp only
  split
  · exact h
  · exact .setGrp h

theorem State.Canon.preemptLaunch {n buffer} (h : s.Canon) : (s.preemptLaunch n buffer).Canon := by
  unfold Machine.State.preemptLaunch
  refine .preemptCheck (.foldl (.ite (.setLaunch (.setLaunch h)) (.setLaunch h)) fun hs => .ite ?_ ?_)
  · refine .post ?_
    split
    · exact .setGrp hs
    · exact .reserveSlot hs
  · refine .request ?_
    split
    · exact .setGrp hs
    · exact .reserveSlot hs

theorem State.Canon.endOfLaunch {n} (h : s.Canon) : (s.endOfLaunch n).Canon := .foldl (.upd h) .cancelSlot

theorem State.Canon.dropLaunch {n} (h : s.Canon) : (s.dropLaunch n).Canon := .upd h

theorem State.Canon.finishKernel {n} (h : s.Canon) : (s.finishKernel n).Canon := by
  unfold Machine.State.finishKernel
  dsimp only
  split
  · exact .pokeTasks (.endNode (.upd (.dropLaunch (.setNode h))))
  · exact .ite (.pokeTasks (.endNode (.upd (.dropLaunch (.setNode h)))))
        (.ite (.pokeTasks (.endNode (.upd (.dropLaunch (.setNode h)))))
            (.ite (.pokeTasks (.endNode (.upd (.dropLaunch (.setNode h))))) (.pokeTasks (.setLaunch h))))

theorem State.Canon.nodeCompletion {n} (h : s.Canon) : (s.nodeCompletion n).Canon := by
  unfold Machine.State.nodeCompletion
  refine .ite h ?_
  split
  · exact .ite h (.ite (.finishKernel (.endOfLaunch h)) (.post (.endOfLaunch h)))
  · exact .ite h (.pokeTasks (.ite (.endNode h) (.ite (.endNode h) (.endNode h))))
  · exact .ite (.dropBurn h) (.ite (.post (.dropBurn h)) (.pokeTasks (.ite (.endNode (.dropBurn h))
        (.ite (.endNode (.dropBurn h)) (.endNode (.dropBurn h))))))
  · split
    · exact h
    · refine .ite h (.pokeTasks (.ite (.endNode (.setColl h)) ?_))
      split
      · exact .endNode (.setColl h)
      · exact .endNode (.setColl h)
      · exact .endNode (.setColl h)

theorem State.Canon.startCopy {n b} (h : s.Canon) : (s.startCopy n b).Canon := by
  unfold Machine.State.startCopy
  refine .ite (.endNode h) ?_
  split
  · exact h
  · exact .post (.setNode (.upd (.dropPieces h)))

theorem State.Canon.startKernel {n l} (h : s.Canon) : (s.startKernel n l).Canon := .setLaunch (.setNode h)

theorem State.Canon.nodeDispatch {n} (h : s.Canon) : (s.nodeDispatch n).Canon := by
  unfold Machine.State.nodeDispatch
  refine .ite h (.ite (.retryStep h) (.pokeTasks ?_))
  split
  · split
    · exact .endNode h
    · exact .startKernel h
  · split
    · exact .endNode h
    · exact .startCopy h
  · split
    · exact .endNode h
    · exact h
    · split
      · exact .endNode h
      · rename_i e; exact (ExceptEach.startBurn (.dropPieces h)).get e
  · split
    · exact .endNode h
    · dsimp only
      split
      · exact .endNode h
      · rename_i e; exact .setNode (((ExceptEach.postSlot h).get e).of)

theorem State.Canon.passDeadline {n} (h : s.Canon) : (s.passDeadline n).Canon := by
  unfold Machine.State.passDeadline
  refine .ite h ?_
  split
  · exact .pokeTasks (.endNode h)
  · exact .pokeTasks (.endNode h)
  · exact .pokeTasks (.endNode h)
  · refine .pokeTasks (.post ?_)
    split
    · exact .setNode h
    · exact .cancelSlot (.setNode h)
  · exact h

/-! #### Task instructions -/

theorem Res.Canon.withNodeDesc {body : List Byte → Ctx → State → Res} {addr x}
    (hbody : ∀ {a b c'}, c'.Canon → (body a b c').Canon) (h : s.Canon) : (withNodeDesc addr body x s).Canon :=
  .ite (.fault h) (.withDesc (fun hs => .ite (.fault hs) (hbody hs)) h)

theorem Res.Canon.gnodeBody {sd sa x} (h : s.Canon) : (gnodeBody sd sa x s).Canon := by
  unfold Machine.gnodeBody
  refine .once (fun hs => .withNodeDesc (fun ht => ?_) hs) h
  split
  · exact .fault ht
  · rename_i e; exact .ok (.putS (((ExceptEach.buildNode ht).get e).of))

theorem Res.Canon.gedgeBody {sa sb x} (h : s.Canon) : (gedgeBody sa sb x s).Canon := by
  unfold Machine.gedgeBody
  refine .once (fun hs => .ite (.fault hs) ?_) h
  split
  · exact .fault hs
  · rename_i e; exact .ok ((ExceptEach.addEdge hs).get e)

theorem Res.Canon.gsubBody {sa x} (h : s.Canon) : (gsubBody sa x s).Canon := by
  unfold Machine.gsubBody
  refine .once (fun hs => .afterRelease (fun ht => .ite (.fault ht) ?_) hs) h
  split
  · split
    · exact .fault ht
    · rename_i e; exact .ok (.pokeTasks ((ExceptEach.submitNode ht).get e))
  · exact .refused ht

theorem Res.Canon.gwaitBody {sd sa tr x} (h : s.Canon) : (gwaitBody sd sa tr x s).Canon :=
  .once (fun hs => .ite (.fault hs) (.ite (.fault hs) (.ite (.ok (.ite (.ctxAcquire (.putStatus (.remember hs)))
      (.freeNode (.ctxAcquire (.putStatus (.remember hs)))))) (.ite (.ok (.putStatus hs)) (.wait (.remember hs)))))) h

theorem Res.Canon.launchBody {sd sa x} (h : s.Canon) : (launchBody sd sa x s).Canon := by
  unfold Machine.launchBody
  refine .once (fun hs => .afterRelease (fun ht => .withNodeDesc (fun hu => .ite (.fault hu) ?_) ht) hs) h
  split
  · exact .fault hu
  · rename_i e
    have hv := ((ExceptEach.buildNode hu).get e).of
    split
    · exact .fault hu
    · rename_i e
      have hw := (ExceptEach.addEdge hv).get e
      split
      · exact .fault hu
      · rename_i e; exact .ok (.putS (.pokeTasks ((ExceptEach.submitNode hw).get e)))

theorem State.Canon.setDeadline {n t} (h : s.Canon) : (s.setDeadline n t).Canon :=
  .ite (.setNode h) (.ite (.post (.setNode h)) (.timer (.setNode h)))

theorem Res.Canon.dlineBody {sa sb x} (h : s.Canon) : (dlineBody sa sb x s).Canon :=
  .once (fun hs => .ite (.fault hs) (.ite (.ok hs) (.ok (.setDeadline hs)))) h

theorem Res.Canon.dgstBody {sd x} (h : s.Canon) : (dgstBody sd x s).Canon :=
  .once (fun hs => .ite (.fault hs) (.afterOpen (fun ht => .ok (.putS64 ht)) hs)) h

theorem Res.Canon.dgchkBody {sa x} (h : s.Canon) : (dgchkBody sa x s).Canon :=
  .once (fun hs => .ite (.fault hs) (.afterOpen (fun ht => .ite (.ok ht) (.fault ht)) hs)) h

/-! #### Special instructions -/

theorem State.Canon.trapEntry {c p} (h : s.Canon) : (s.trapEntry c p).Canon := by
  unfold Machine.State.trapEntry
  split
  · dsimp only
    split
    · exact h
    · exact .post h
  · dsimp only
    split
    · exact h
    · exact .ite (.resumeGroup h) (.enterTrap h)

theorem Res.Canon.trapBody {a x} (h : s.Canon) : (trapBody a x s).Canon := .once .trap h

theorem Res.Canon.bkptBody {id x} (h : s.Canon) : (bkptBody id x s).Canon :=
  .once (fun hs => .ite (.ok hs) (.trap hs)) h

theorem Res.Canon.haltbBody {sa abt x} (h : s.Canon) : (haltbBody sa abt x s).Canon :=
  .once (fun hs => .ite (.done (.abortLaunch hs)) (.done (.foldl (.setBlk (.advance hs)) .request))) h

theorem State.Canon.afterReturn {c p} (h : s.Canon) : (s.afterReturn c p).Canon :=
  .foldl (.foldl h .regrpCheck) .ungrpCheck

theorem Res.Canon.rteBody {yld x} (h : s.Canon) : (rteBody yld x s).Canon := by
  unfold Machine.rteBody
  refine .once (fun hs => .ite (.fault hs) (.ite (.wait hs) (.ite (.wait hs) (.ite (.refused hs) ?_)))) h
  refine .ite (.ite (.done (.abortLaunch hs)) (.done (.serveRequests (.afterReturn (.leaveTrap hs))))) (.ite (.wait hs) ?_)
  split
  · exact .done (.abortLaunch hs)
  · exact .done (.yieldGroup hs)

theorem Res.Canon.saveliveBody {sd sa x} (h : s.Canon) : (saveliveBody sd sa x s).Canon := by
  unfold Machine.saveliveBody
  refine .once (fun hs => .ite (.fault hs) (.ite (.memRaise hs) (.ite (.wait hs) (.ite (.wait hs) ?_)))) h
  split
  · exact .memRaise hs
  · exact .refused hs
  · refine .ite (.wait hs) ?_
    dsimp only
    split
    · exact .memRaise hs
    · exact .done (.freezeCore hs)
    · exact .ite (.wait hs) (.ok (.putS (.addAccesses hs)))

theorem State.Canon.restoreEach {put : State → Nat → List Byte → State} {n ks b}
    (hput : ∀ {a b c'}, a.Canon → (put a b c').Canon) (h : s.Canon) : (restoreEach put n ks b s).Canon :=
  .foldl h hput

theorem State.Canon.restoreLive {c p y b} (h : s.Canon) : (s.restoreLive c p y b).Canon :=
  .foldl (.restoreEach .setSraw (.restoreEach (fun hs => .foldl hs .setQ) (.restoreEach (fun hs => .foldl hs .setV) h))) .setP

theorem Res.Canon.restliveBody {sa x} (h : s.Canon) : (restliveBody sa x s).Canon :=
  .once (fun hs => .ite (.fault hs) (.ite (.memRaise hs) (.withDesc (fun ht => .ite (.fault ht)
      (.ite (.wait ht) (.withDesc (fun hu => .ok (.restoreLive hu)) ht))) hs))) h

theorem Res.Canon.srdBody {d n x} (h : s.Canon) : (srdBody d n x s).Canon :=
  .once (fun hs => .ite (.fault hs) (.ite (.wait hs) (.ok (.put hs)))) h

theorem Res.Canon.swrBody {n sa x} (h : s.Canon) : (swrBody n sa x s).Canon :=
  .once (fun hs => .ite (.fault hs) (.ite (.wait hs) (.ok (.setGrp hs)))) h

theorem Res.Canon.pmarkBody {id x} (h : s.Canon) : (pmarkBody id x s).Canon := by
  unfold Machine.pmarkBody
  refine .once (fun hs => ?_) h
  split
  · dsimp only
    split
    · exact .ok hs
    · exact .ite (.ok hs) (.ite (.done (.freezeCore hs)) (.wait hs))
  · dsimp only
    split
    · exact .ok hs
    · refine .ite (.ok hs) (.ite (.done (.freezeCore hs)) (.ite (.refused hs) ?_))
      split
      · exact .ok (.setBytes (.setCore hs))
      · exact .ok (.setBytes (.setCore hs))
      · exact .ok (.setCore hs)

theorem Res.Canon.rdbaroBody {sd sa clr x} (h : s.Canon) : (rdbaroBody sd sa clr x s).Canon :=
  .once (fun hs => .ok (.putS64 (.ite (.setCore hs) hs))) h

/-! #### Host commands and device events -/

theorem OptionEach.takeCommand {q is} (h : s.Canon) : OptionEach SndCanon (s.takeCommand q is) :=
  .ite .none (.some (.mk (.setCtl h)))

theorem State.Canon.refuse {k code} (h : s.Canon) : (s.refuse k code).Canon := .completeCmd h

theorem State.Canon.keepCmd {k} (h : s.Canon) : (s.keepCmd k).Canon := .upd h

theorem StepCanon.command {effect : Command → State → State} {is} (h : s.Canon)
    (heffect : ∀ {a b}, b.Canon → (effect a b).Canon) : StepCanon (s.command is effect) := by
  unfold Machine.State.command
  refine .next ?_
  split
  · exact h
  · rename_i e; exact .pollQueues (heffect (((OptionEach.takeCommand h).get e).of))

theorem State.Canon.submitCmd {k} (h : s.Canon) : (s.submitCmd k).Canon := by
  unfold Machine.State.submitCmd
  refine .ite (.refuse h) (.ite (.refuse h) ?_)
  split
  · exact .refuse h
  · refine .ite (.refuse h) ?_
    split
    · exact .refuse h
    · rename_i e
      have hs := ((ExceptEach.buildNode h).get e).of
      split
      · exact .refuse h
      · rename_i e; exact .pokeTasks (.completeCmd ((ExceptEach.submitNode hs).get e))

theorem StepCanon.execSubmit (h : s.Canon) : StepCanon (execSubmit s) := by
  unfold Machine.execSubmit
  split
  · exact .command h .submitCmd
  · exact .next (.retryStep h)

theorem State.Canon.waitCmd {k} (h : s.Canon) : (s.waitCmd k).Canon :=
  .ite (.refuse h) (.ite (.refuse h) (.ite (.freeNode (.completeCmd h)) (.keepCmd h)))

theorem State.Canon.invalCmd {k} (h : s.Canon) : (s.invalCmd k).Canon := .ite (.refuse h) (.completeCmd (.upd h))

theorem State.Canon.preemptCmd {k} (h : s.Canon) : (s.preemptCmd k).Canon :=
  .ite (.refuse h) (.ite (.completeCmd h) (.ite (.keepCmd h) (.preemptLaunch (.keepCmd h))))

theorem State.Canon.resumeEngines {c} (h : s.Canon) : (s.resumeEngines c).Canon :=
  .foldl (.pokeColls (.foldl (.foldl (.foldl (.foldl (.ite (.post (.post
      (.foldl (.foldl (.foldl (.foldl h .post) .post) .post) .post))) (.foldl (.foldl (.foldl (.foldl h .post) .post) .post)
          .post)) .post) .post) .post) .post)) .serveRequests

theorem State.Canon.releaseCmd {k} (h : s.Canon) : (s.releaseCmd k).Canon :=
  .ite (.refuse h) (.ite (.completeCmd h) (.pokeTasks (.completeCmd (.resumeEngines (.ite (.setCore h) (.upd h))))))

theorem State.Canon.traceCmd {k} (h : s.Canon) : (s.traceCmd k).Canon := .ite (.refuse h) (.completeCmd (.setCore h))

theorem State.Canon.resyncNow {k} (h : s.Canon) : (s.resyncNow k).Canon :=
  .completeCmd (.ite h (.wakeWaits (.setBytes h)))

theorem State.Canon.resyncCmd {k} (h : s.Canon) : (s.resyncCmd k).Canon :=
  .ite (.refuse h) (.ite (.keepCmd h) (.resyncNow h))

theorem StepCanon.execResync (h : s.Canon) : StepCanon (execResync s) := by
  unfold Machine.execResync
  split
  · exact .command h .resyncCmd
  · exact .next (.ite (.pollQueues (.resyncNow h)) h)
  · exact .next h

theorem State.Canon.quiesce {k back} (h : s.Canon) : (s.quiesce k back).Canon :=
  .foldl (.foldl (.upd h) fun hs => .timer (.timer hs)) .preemptLaunch

theorem State.Canon.checkpointCmd {k} (h : s.Canon) : (s.checkpointCmd k).Canon :=
  .ite (.quiesce (.keepCmd h)) (.refuse h)

theorem State.Canon.restoreCmd {k} (h : s.Canon) : (s.restoreCmd k).Canon := .ite (.quiesce (.keepCmd h)) (.refuse h)

theorem State.Canon.loadImage {image} (h : s.Canon) : (s.loadImage image).Canon :=
  .foldl (.upd (.filterMem h)) .setByte

theorem State.Canon.readyAgain (h : s.Canon) : s.readyAgain.Canon :=
  .pollQueues (.pokeTasks (.pokeColls (.foldl (.foldl (.upd h) fun hs => .ite hs (.burnNext hs)) .post)))

theorem State.Canon.streamComplete {image} (h : s.Canon) : (s.streamComplete image).Canon := by
  unfold Machine.State.streamComplete
  split
  · exact .ite (.post h) (.ite (.upd h) (.ite (.post (.readyAgain (.upd (.loadImage h))))
        (.completeCmd (.readyAgain (.upd h)))))
  · split
    · exact h
    · exact .ite (.post h) (.foldl h .completeCmd)
  · exact h

theorem State.Canon.cxlAccess {wr addr bs} (h : s.Canon) : (s.cxlAccess wr addr bs).Canon :=
  .ite h (.ite (.upd h) (.ite (.upd h) (.ite h (.wakeWaits (.setBytes h)))))

theorem State.Canon.powerOn (h : s.Canon) : s.powerOn.Canon := by
  obtain ⟨hm, _⟩ := h
  obtain ⟨_, hr⟩ := State.Canon.reset.wf
  exact .undefine ⟨awf_filter _ hm, hr⟩

theorem State.Canon.verify {f} (h : s.Canon) : (s.verify f).Canon := by
  unfold Machine.State.verify
  split
  · exact .upd h
  · exact .ite (.pollQueues (.pokeTasks (.upd h))) (.upd h)
  · exact h

theorem State.Canon.answerSpdm {kind} (h : s.Canon) : (s.answerSpdm kind).Canon := .upd h

theorem State.Canon.trip (h : s.Canon) : s.trip.Canon := .foldl (.upd h) .setCore

/-! #### Integer instructions -/

theorem Res.Canon.alu2p {d a b f x} (h : s.Canon) : (alu2p d a b f x s).Canon := .ok (.put64 h)

theorem Res.Canon.aluPW {d a b f x} (h : s.Canon) : (aluPW d a b f x s).Canon := .ok (.put64 h)

theorem Res.Canon.aluPL {d a lit f x} (h : s.Canon) : (aluPL d a lit f x s).Canon := .ok (.put64 h)

theorem Res.Canon.test2 {p a b f x} (h : s.Canon) : (test2 p a b f x s).Canon := .ok (.putP h)

theorem Res.Canon.testL {p a lit f x} (h : s.Canon) : (testL p a lit f x s).Canon := .ok (.putP h)

theorem Res.Canon.test2p {p a b f x} (h : s.Canon) : (test2p p a b f x s).Canon := .ok (.putP h)

theorem Res.Canon.testPL {p a lit f x} (h : s.Canon) : (testPL p a lit f x s).Canon := .ok (.putP h)

/-! #### Lane instructions -/

theorem State.Canon.setXlane {m} (h : s.Canon) : (x.setXlane m s).Canon := .setGrp h

theorem Res.Canon.exchange {d a b64 f c quad src x} (h : s.Canon) : (exchange d a b64 f c quad src x s).Canon :=
  .ok (.setXlane (.ite (.put64 h) (.put h)))

theorem Res.Canon.rdlaneBody {sd a n b64 f c x} (h : s.Canon) : (rdlaneBody sd a n b64 f c x s).Canon :=
  .once (fun hs => .ok (.setXlane (.ite (.putS64 hs) (.putS hs)))) h

theorem Res.Canon.foldBody {d a k head excl x} (h : s.Canon) : (foldBody d a k head excl x s).Canon :=
  .ok (.orFlags (.setXlane (.put h)))

theorem State.Canon.renumber {slots} (h : s.Canon) : (x.renumber slots s).Canon :=
  .setGrp (.followLanes (.setSlots h))

theorem Res.Canon.lcompBody {sd pa id x} (h : s.Canon) : (lcompBody sd pa id x s).Canon :=
  .ite (.fault h) (.ite (.wait h) (.ok (.setXlane (.putS (.renumber h)))))

/-! #### The instructions and events together -/

/-- Every instruction and every event, by the lemma of its body or of what it does. -/
theorem StepCanon.exec {i} (h : s.Canon) : StepCanon (exec i s) := by
  unfold Machine.exec
  cases i with
  | nop => exact .issue .ok h
  | bra => exact .issue (fun hs => .done (.branch hs)) h
  | brx => exact .issue (fun hs => .done (.scatter hs)) h
  | call => exact .issue (fun hs => .done (.branch (.put64 hs))) h
  | callx => exact .issue (fun hs => .done (.scatter (.put64 hs))) h
  | ret => exact .issue (fun hs => .done (.scatter hs)) h
  | exit => exact .issue .exitBody h
  | loop => exact .issue .loopBody h
  | iter => exact .issue .iterBody h
  | jarm => exact .issue (fun hs => .once .jarmBody hs) h
  | jarmL => exact .issue (fun hs => .once .jarmBody hs) h
  | jwait => exact .issue .jwaitBody h
  | jdrop => exact .issue (fun hs => .done (.dropJ (.advance hs))) h
  | jqry => exact .issue (fun hs => .once (fun ht => .ok (.putS ht)) hs) h
  | regrp => exact .issue .regrpBody h
  | ungrp => exact .issue .ungrpBody h
  | yield => exact .issue .yieldBody h
  | sleep => exact .issue .sleepBody h
  | sleepL => exact .issue .sleepBody h
  | iadd => exact .issue .alu2 h
  | iaddL => exact .issue .aluL h
  | isub => exact .issue .alu2 h
  | isubL => exact .issue .aluL h
  | imul => exact .issue .alu2 h
  | imulL => exact .issue .aluL h
  | imulh => exact .issue .alu2 h
  | imad => exact .issue .alu3 h
  | iadd64 => exact .issue .alu2p h
  | iadd64L => exact .issue .aluPL h
  | isub64 => exact .issue .alu2p h
  | imad64 => exact .issue (fun hs => .ok (.put64 hs)) h
  | icmp => exact .issue .test2 h
  | icmpL => exact .issue .testL h
  | icmp64 => exact .issue .test2p h
  | icmp64L => exact .issue .testPL h
  | imin => exact .issue .alu2 h
  | iminL => exact .issue .aluL h
  | imax => exact .issue .alu2 h
  | imaxL => exact .issue .aluL h
  | iabs => exact .issue .alu1 h
  | iaddmin => exact .issue .alu3 h
  | and => exact .issue .alu2 h
  | andL => exact .issue .aluL h
  | or => exact .issue .alu2 h
  | orL => exact .issue .aluL h
  | xor => exact .issue .alu2 h
  | xorL => exact .issue .aluL h
  | andn => exact .issue .alu2 h
  | andnL => exact .issue .aluL h
  | not => exact .issue .alu1 h
  | shl => exact .issue .alu2 h
  | shlL => exact .issue .aluL h
  | shr => exact .issue .alu2 h
  | shrL => exact .issue .aluL h
  | sar => exact .issue .alu2 h
  | sarL => exact .issue .aluL h
  | shl64 => exact .issue .aluPW h
  | shl64L => exact .issue .aluPL h
  | shr64 => exact .issue .aluPW h
  | shr64L => exact .issue .aluPL h
  | bfe => exact .issue .alu3 h
  | bfi => exact .issue .alu3 h
  | popc => exact .issue .alu1 h
  | clz => exact .issue .alu1 h
  | brev => exact .issue .alu1 h
  | sel => exact .issue (fun hs => .ok (.put hs)) h
  | mov => exact .issue (fun hs => .ok (.ite (.put64 hs) (.put hs))) h
  | movL => exact .issue (fun hs => .ok (.put hs)) h
  | plop => exact .issue (fun hs => .ok (.putP hs)) h
  | qswp => exact .issue .exchange h
  | qbcst => exact .issue .exchange h
  | shfl => exact .issue .exchange h
  | shflL => exact .issue .exchange h
  | lshf => exact .issue .exchange h
  | lshfL => exact .issue .exchange h
  | vote => exact .issue (fun hs => .ok (.setXlane (.putP hs))) h
  | ballot => exact .issue (fun hs => .once (fun ht => .ok (.setXlane (.putS ht))) hs) h
  | matchLanes => exact .issue (fun hs => .ok (.setXlane (.put hs))) h
  | lcomp => exact .issue .lcompBody h
  | lpfx => exact .issue .foldBody h
  | segadd => exact .issue .foldBody h
  | rdlane => exact .issue .rdlaneBody h
  | rdlaneL => exact .issue .rdlaneBody h
  | fadd => exact .issue .floatBody h
  | faddL => exact .issue .floatLit h
  | fmul => exact .issue .floatBody h
  | fmulL => exact .issue .floatLit h
  | ffma => exact .issue .floatBody h
  | fmin => exact .issue .floatBody h
  | fminL => exact .issue .floatLit h
  | fmax => exact .issue .floatBody h
  | fmaxL => exact .issue .floatLit h
  | fcmp => exact .issue .fcmpBody h
  | fcmpL => exact .issue (fun hs => .ok (.putPF hs)) h
  | fclass => exact .issue (fun hs => .ok (.put hs)) h
  | frnd => exact .issue .floatBody h
  | fscale => exact .issue (fun hs => .ite (.ok (.putF64 hs)) (.ok (.putF hs))) h
  | fdot2 => exact .issue (fun hs => .ok (.putF hs)) h
  | srcp => exact .issue .sfuBody h
  | srsq => exact .issue .sfuBody h
  | ssqrt => exact .issue .sfuBody h
  | sexp2 => exact .issue .sfuBody h
  | slog2 => exact .issue .sfuBody h
  | ssin => exact .issue .sfuBody h
  | scos => exact .issue .sfuBody h
  | stanh => exact .issue .sfuBody h
  | cvf => exact .issue (fun hs => .ok (.putField hs)) h
  | cvn => exact .issue .cvnBody h
  | cvi => exact .issue (fun hs => .ok (.putField hs)) h
  | cvsh => exact .issue (fun hs => .ok (.putF hs)) h
  | dcsh => exact .issue (fun hs => .ok (.putF hs)) h
  | qclr => exact .issue (fun hs => .ok (.foldl hs .putQ)) h
  | qmov => exact .issue (fun hs => .ok (.ite (.put hs) (.putQ hs))) h
  | vchain => exact .issue .vchainBody h
  | hring => exact .issue .hringBody h
  | hfrom => exact .issue (fun hs => .withRing (fun ht => .ok (.putF ht)) hs) h
  | htof => exact .issue (fun hs => .withRing (fun ht => .ok (.put64 ht)) hs) h
  | hadd => exact .issue .hatch2 h
  | hsub => exact .issue .hatch2 h
  | hmul => exact .issue .hatch2 h
  | hdiv => exact .issue .hatch2 h
  | hneg => exact .issue .hatch1 h
  | hrcp => exact .issue .hatch1 h
  | hsq => exact .issue .hatch1 h
  | huni => exact .issue .alu2 h
  | hcap => exact .issue .alu2 h
  | hinFlt => exact .issue (fun hs => .withRing (fun ht => .ok (.putPF ht)) hs) h
  | hinSub => exact .issue (fun hs => .ok (.putP hs)) h
  | harc => exact .issue .alu1 h
  | hexp => exact .issue (fun hs => .ok (.putF hs)) h
  | hcnt => exact .issue .alu1 h
  | ld => exact .issue .ldBody h
  | st => exact .issue .stBody h
  | lds => exact .issue .ldsBody h
  | sts => exact .issue .stsBody h
  | ldp => exact .issue .ldpBody h
  | stp => exact .issue .stpBody h
  | ldk => exact .issue .ldkBody h
  | atom => exact .issue .atomBody h
  | atoms => exact .issue .atomsBody h
  | pref => exact .issue .prefBody h
  | xlat => exact .issue (fun hs => .ok (.put64 hs)) h
  | xacq => exact .issue .xacqBody h
  | xrel => exact .issue .xrelBody h
  | fence => exact .issue .fenceBody h
  | rel => exact .issue .relBody h
  | acq => exact .issue (fun hs => .once (fun ht => .ok (.ctxAcquire ht)) hs) h
  | bar => exact .issue .barBody h
  | boinit => exact .issue .boinitBody h
  | boarr => exact .issue .boarrBody h
  | bowait => exact .issue .bowaitBody h
  | botry => exact .issue .botryBody h
  | fwait => exact .issue .fwaitBody h
  | dtime => exact .issue .dtimeBody h
  | wct => exact .issue .wctBody h
  | acopy => exact .issue (fun hs => .once .strided hs) h
  | acopyt => exact .issue .acopytBody h
  | asto => exact .issue .astoBody h
  | kick => exact .issue .kickBody h
  | kstat => exact .issue .kstatBody h
  | ghnd => exact .issue .ghndBody h
  | ghndFree => exact .issue .ghndFreeBody h
  | gath => exact .issue .gathBody h
  | scat => exact .issue .scatBody h
  | gcmr => exact .issue (fun hs => .once (fun ht => .ok (.putS ht)) hs) h
  | gcmw => exact .issue (fun hs => .once (fun ht => .ok (.setGrp ht)) hs) h
  | mbq => exact .issue .mbqBody h
  | mloop => exact .issue .mloopBody h
  | mma => exact .issue .mmaBody h
  | mzero => exact .issue .mzeroBody h
  | mdrain => exact .issue .mdrainBody h
  | mdrainS => exact .issue .mdrainBody h
  | mdrainc => exact .issue .mdraincBody h
  | mguide => exact .issue .mguideBody h
  | mtwin => exact .issue .mtwinBody h
  | msketch => exact .issue .msketchBody h
  | mmask => exact .issue .mmaskBody h
  | mstat => exact .issue .mstatBody h
  | msave => exact .issue .msaveBody h
  | mrstr => exact .issue .mrstrBody h
  | tdesc => exact .issue .rankBody h
  | tdescRd => exact .issue .rankBody h
  | tld => exact .issue .rankBody h
  | tldHeap => exact .issue .rankBody h
  | tldf => exact .issue .rankBody h
  | tstD => exact .issue .rankBody h
  | tstF => exact .issue .rankBody h
  | tstHeap => exact .issue .rankBody h
  | tzero => exact .issue .rankBody h
  | tadd => exact .issue .rankBody h
  | tscl => exact .issue .rankBody h
  | tmul => exact .issue .rankBody h
  | tmulv => exact .issue .rankBody h
  | trnd => exact .issue .rankBody h
  | trank => exact .issue .rankBody h
  | ttod => exact .issue .rankBody h
  | ttol => exact .issue .rankBody h
  | tpotrf => exact .issue .rankBody h
  | ttrsm => exact .issue .rankBody h
  | tupd => exact .issue .rankBody h
  | thalc => exact .issue .rankBody h
  | thfre => exact .issue .rankBody h
  | qpost => exact .issue .qpostBody h
  | qtick => exact .issue (fun hs => .withSlot (fun ht => .ite (.ok (.putS64 ht)) (.ite (.ok (.putS64 ht)) (.wait ht))) hs) h
  | put => exact .issue .buildWork h
  | puts => exact .issue .buildWork h
  | putr => exact .issue .buildWork h
  | get => exact .issue .buildWork h
  | qarm => exact .issue .qarmBody h
  | tcnt => exact .issue .tcntBody h
  | qring => exact .issue (fun hs => .once (fun ht => .ok (.putS ht)) hs) h
  | qcomp => exact .issue (fun hs => .withSlot (fun ht => .ite (.ok (.foldl (.ctxAcquire (.ite (.setColl ht) ht)) .setSr))
      (.ite (.ok (.foldl ht .setSr)) (.wait ht))) hs) h
  | qcancel => exact .issue (fun hs => .withSlot (fun ht => .ite (.ok (.putS (.cancelSlot ht))) (.ok (.putS ht))) hs) h
  | qstat => exact .issue .qstatBody h
  | gnode => exact .issue .gnodeBody h
  | gedge => exact .issue .gedgeBody h
  | gsub => exact .issue .gsubBody h
  | gwait => exact .issue .gwaitBody h
  | launch => exact .issue .launchBody h
  | dline => exact .issue .dlineBody h
  | dgst => exact .issue .dgstBody h
  | dgchk => exact .issue .dgchkBody h
  | trap => exact .issue .trapBody h
  | rte => exact .issue .rteBody h
  | savelive => exact .issue .saveliveBody h
  | restlive => exact .issue .restliveBody h
  | srd => exact .issue .srdBody h
  | swr => exact .issue .swrBody h
  | bkpt => exact .issue .bkptBody h
  | pmark => exact .issue .pmarkBody h
  | haltb => exact .issue .haltbBody h
  | rdbaro => exact .issue .rdbaroBody h
  | joinTimeout => exact .next (.joinTimeout h)
  | sleepExpiry => exact .next (.setGrp h)
  | fairnessRotation => exact .next (.rotateFair h)
  | clauseFetch => exact .next (.clauseFetch h)
  | chainCompletion => exact .next (.chainCompletion h)
  | ringSlotCommit => exact .next (.commitRing h)
  | releaseCompletion => exact .next (.completeRelease h)
  | fwaitReread => exact .next (.setGrp h)
  | homeRequest => exact .next (.homeRequest h)
  | loadDataWritten => exact .next (.loadData h)
  | storeAcknowledgement => exact .next (.storeAck h)
  | takingAPin => exact .next (.takePin h)
  | retry => exact .execRetry h
  | pinTimeout => exact .next (.ite (.unpin h) h)
  | asyncCompletion => exact .next (.asyncCompletion h)
  | cardCompletion => exact .next (.cardCompletion h)
  | gathSettled => exact .next (.setGrp h)
  | kStep => exact .next (.kStep h)
  | twinHoldTimeout => exact .next (.twinTimeout h)
  | burnisherPhaseBoundary => exact .execBurnisherPhaseBoundary h
  | burnisherCommit => exact .next (.rankCommit h)
  | entryCompletion => exact .next (.entryCompletion h)
  | putPacket => exact .next (.ite (.answer h) (.forSource h (fun hs => .answer (.fst (.peerWrite hs)))))
  | putWithSignal => exact .execPutWithSignal h
  | writeWithReduce => exact .next (.ite (.answer h) (.forSource h (fun hs => .answer (.fst (.peerWrite hs)))))
  | getRequest => exact .next (.ite (.answer h) (.forSource h (fun hs => .getD (.sendPacket hs) hs)))
  | acknowledgement => exact .next (.acknowledge h)
  | getData => exact .next (.getData h)
  | remoteDeviceAccess => exact .next (.remoteAccess h)
  | packetTimeout => exact .execPacketTimeout h
  | linkDown => exact .next (.linkDown h)
  | routeSwitch => exact .next (.routeSwitch h)
  | postMessage => exact .next (.postMessage h)
  | ticketMessage => exact .execTicketMessage h
  | mismatchMessage => exact .execMismatchMessage h
  | cancelMessage => exact .execCancelMessage h
  | cancelledMessage => exact .execCancelledMessage h
  | postTimeout => exact .next (.ite (.cancelSlot h) h)
  | collectiveStart => exact .next (.startColl h)
  | foldChunk => exact .execFoldChunk h
  | resultChunk => exact .execResultChunk h
  | credit => exact .execCredit h
  | collectiveTimeout => exact .next (.ite (.progress (.setColl h)) h)
  | collectiveResultTimeout => exact .next (.giveUp h)
  | collectiveEnd => exact .next (.endColl h)
  | nodeDispatch => exact .next (.nodeDispatch h)
  | blockPlacement => exact .next (.blockPlacement h)
  | nodeCompletion => exact .next (.nodeCompletion h)
  | deadlinePassed => exact .next (.passDeadline h)
  | groupEnd => exact .next (.groupEnd h)
  | trapEntry => exact .next (.trapEntry h)
  | submit => exact .execSubmit h
  | wait => exact .command h .waitCmd
  | inval => exact .command h .invalCmd
  | preempt => exact .command h .preemptCmd
  | release => exact .command h .releaseCmd
  | resync => exact .execResync h
  | checkpoint => exact .command h .checkpointCmd
  | restore => exact .command h .restoreCmd
  | trace => exact .command h .traceCmd
  | checkpointStreamComplete => exact .next (.streamComplete h)
  | qTailWrite => exact .next (.ite (.ctlWrite h) h)
  | lplaceWrite => exact .next (.ite (.ctlWrite h) h)
  | fwinWrite => exact .next (.ite (.ctlWrite h) h)
  | stageWrite => exact .next (.ite (.ctlWrite h) h)
  | prouteWrite => exact .next (.ite (.ctlWrite h) h)
  | teamCfgWrite => exact .next (.ite (.ctlWrite h) h)
  | devFidWrite => exact .next (.ctlWrite h)
  | queueContextWrite => exact .next (.ite (.ctlWrite h) h)
  | controlRegisterWrite => exact .next (.ite (.ctlWrite h) h)
  | cxlMemAccess => exact .next (.cxlAccess h)
  | powerOnReset => exact .next (.powerOn h)
  | firmwareVerify => exact .next (.verify h)
  | version => exact .next (.answerSpdm h)
  | capabilities => exact .next (.answerSpdm h)
  | algorithmNegotiation => exact .next (.answerSpdm h)
  | digests => exact .next (.answerSpdm h)
  | certificates => exact .next (.answerSpdm h)
  | challenge => exact .next (.answerSpdm h)
  | measurements => exact .next (.answerSpdm h)
  | powerWithhold => exact .next (.upd h)
  | thermalTrip => exact .next (.trip h)
  | linkUp => exact .next (.pokeColls (.upd h))
  | flitResend => exact .next (.upd h)
  | packetForwarding => exact .execPacketForwarding h

/-! #### A step -/

theorem StepCanon.step (h : s.Canon) : StepCanon (step s) := by
  unfold Machine.step
  extract_lets next src t
  have ht : t.Canon := .upd (.snd (.nextMove h))
  clear_value t src next
  split
  · exact .next ht
  · split
    · rename_i e; exact .next (.ofIdle (.attempt ht) e)
    · rename_i e; exact .afterIssue (.exec (.ofRun (.attempt ht) e))
  · exact .ite (.exec (.takeEvent ht)) (.next (.takeEvent ht))
  · exact .next (.tickNs ht)
  · exact .next (.tickCycle ht)
  · exact .next (.evictLine ht)
  · exact .next (.fillTlb ht)

end

/-- Settles O60: a step is an issue, an event or a tick, and each of them keeps the maps canonical. -/
theorem mapsStayCanonical : Obligations.MapsStayCanonical := by
  unfold Obligations.MapsStayCanonical
  intro s t h e
  have hstep : StepCanon (step s) := .step ⟨h⟩
  rw [e] at hstep
  cases hstep with
  | next ht => exact ht.wf

end Sys2Proof.Machine
end

section
/-!
PROOFS. Every instruction answers a next state whenever an entry issues (R16, R51, R59): a step of the hardware answers one by itself, and every
other instruction is issued, which answers the state after its effect or the exception of its fields.
-/
namespace Sys2Proof.Machine

/-- SUBMIT answers a next state, whether or not a pin refuses what it reads. -/
theorem execSubmit_next (s : State) : ∃ t, execSubmit s = .next t := by
  unfold execSubmit
  split <;> exact ⟨_, rfl⟩

/-- RESYNC answers a next state, for a command that it takes and for one that waits. -/
theorem execResync_next (s : State) : ∃ t, execResync s = .next t := by
  unfold execResync
  split <;> exact ⟨_, rfl⟩

/-- What running an instruction comes to: a step of the hardware answers a next state, and every other instruction issues. -/
theorem exec_step_or_issue (i : Instr) (s : State) :
    (i.isStep = true ∧ ∃ t, exec i s = .next t) ∨ (i.isStep = false ∧ ∃ gd body, exec i s = issue i gd body s) := by
  unfold exec
  cases i with
  | nop | bra | brx | call | callx | ret | exit | loop | iter | jarm | jarmL | jwait | jdrop | jqry | regrp | ungrp | yield | sleep | sleepL
  | iadd | iaddL | isub | isubL | imul | imulL | imulh | imad | iadd64 | iadd64L | isub64 | imad64 | icmp | icmpL | icmp64 | icmp64L | imin
  | iminL | imax | imaxL | iabs | iaddmin | and | andL | or | orL | xor | xorL | andn | andnL | not | shl | shlL | shr | shrL | sar | sarL | shl64
  | shl64L | shr64 | shr64L | bfe | bfi | popc | clz | brev | sel | mov | movL | plop | qswp | qbcst | shfl | shflL | lshf | lshfL | vote | ballot
  | matchLanes | lcomp | lpfx | segadd | rdlane | rdlaneL | fadd | faddL | fmul | fmulL | ffma | fmin | fminL | fmax | fmaxL | fcmp | fcmpL
  | fclass | frnd | fscale | fdot2 | srcp | srsq | ssqrt | sexp2 | slog2 | ssin | scos | stanh | cvf | cvn | cvi | cvsh | dcsh | qclr | qmov
  | vchain | hring | hfrom | htof | hadd | hsub | hmul | hdiv | hneg | hrcp | hsq | huni | hcap | hinFlt | hinSub | harc | hexp | hcnt | ld | st
  | lds | sts | ldp | stp | ldk | atom | atoms | pref | xlat | xacq | xrel | fence | rel | acq | bar | boinit | boarr | bowait | botry | fwait
  | dtime | wct | acopy | acopyt | asto | kick | kstat | ghnd | ghndFree | gath | scat | gcmr | gcmw | mbq | mloop | mma | mzero | mdrain
  | mdrainS | mdrainc | mguide | mtwin | msketch | mmask | mstat | msave | mrstr | tdesc | tdescRd | tld | tldHeap | tldf | tstD | tstF | tstHeap
  | tzero | tadd | tscl | tmul | tmulv | trnd | trank | ttod | ttol | tpotrf | ttrsm | tupd | thalc | thfre | qpost | qtick | put | puts | putr
  | get | qarm | tcnt | qring | qcomp | qcancel | qstat | gnode | gedge | gsub | gwait | launch | dline | dgst | dgchk | trap | rte | savelive
  | restlive | srd | swr | bkpt | pmark | haltb | rdbaro =>
    exact .inr ⟨rfl, _, _, rfl⟩
  | joinTimeout | sleepExpiry | fairnessRotation | clauseFetch | chainCompletion | ringSlotCommit | releaseCompletion | fwaitReread | homeRequest
  | loadDataWritten | storeAcknowledgement | takingAPin | retry | pinTimeout | asyncCompletion | cardCompletion | gathSettled | kStep
  | twinHoldTimeout | burnisherPhaseBoundary | burnisherCommit | entryCompletion | putPacket | putWithSignal | writeWithReduce | getRequest
  | acknowledgement | getData | remoteDeviceAccess | packetTimeout | linkDown | routeSwitch | postMessage | ticketMessage | mismatchMessage
  | cancelMessage | cancelledMessage | postTimeout | collectiveStart | foldChunk | resultChunk | credit | collectiveTimeout
  | collectiveResultTimeout | collectiveEnd | nodeDispatch | blockPlacement | nodeCompletion | deadlinePassed | groupEnd | trapEntry | wait
  | inval | preempt | release | checkpoint | restore | trace | checkpointStreamComplete | qTailWrite | lplaceWrite | fwinWrite | stageWrite
  | prouteWrite | teamCfgWrite | devFidWrite | queueContextWrite | controlRegisterWrite | cxlMemAccess | powerOnReset | firmwareVerify | version
  | capabilities | algorithmNegotiation | digests | certificates | challenge | measurements | powerWithhold | thermalTrip | linkUp | flitResend
  | packetForwarding =>
    exact .inl ⟨rfl, _, rfl⟩
  | submit => exact .inl ⟨rfl, execSubmit_next s⟩
  | resync => exact .inl ⟨rfl, execResync_next s⟩

/-- Settles O39: a step of the hardware answers a next state by itself, every other instruction because its entry issues it. -/
theorem everyInstructionAnswersNext : Obligations.EveryInstructionAnswersNext := by
  unfold Obligations.EveryInstructionAnswersNext
  intro i s h
  rcases exec_step_or_issue i s with ⟨_, t, e⟩ | ⟨hi, gd, body, e⟩
  · exact ⟨t, e⟩
  · obtain ⟨n, hn⟩ := Option.ne_none_iff_exists'.1 (h.resolve_right (by simp [hi]))
    exact ⟨_, e.trans (issue_next hn)⟩

end Sys2Proof.Machine
end

section
/-!
PROOFS. Accesses of translated memory (R17, R181, R184 to R190): what an element comes to that nothing stops, and that an instruction makes the
accesses of all its lanes when nothing stops any of them.
-/
namespace Sys2Proof.Machine

/-! #### Element-wise accesses (R181) -/

/-- When no element stops, every lane makes its access. -/
theorem takeElems_ok {f : Nat → Except EngStop Access} {as : Nat → Access} {ls : List Nat} (h : ∀ l ∈ ls, f l = .ok (as l)) :
    takeElems f ls = (ls.map fun l => (l, as l), none) := by
  induction ls with
  | nil => rfl
  | cons l ls ih =>
    rw [List.forall_mem_cons] at h
    simp only [takeElems, h.1, ih h.2, List.map_cons]

theorem Ctx.allDone_live {x : Ctx} (h : x.live ≠ 0#32) (s : State) :
    x.allDone s = s.setGrp x.c x.p { s.grp x.c x.p with emask := (s.grp x.c x.p).emask &&& ~~~x.e.mask } := by
  simp [Ctx.allDone, h]

/-- An element-wise instruction none of whose elements stops makes them all, while the core has line requests left for them. -/
theorem Ctx.elements_ok {x : Ctx} {f : Nat → Except EngStop Access} {as : Nat → Access} {s : State} (hx : x.live ≠ 0#32)
    (h : ∀ l ∈ x.todo, f l = .ok (as l)) (hr : s.linesFull x.c (linesOf (x.todo.map as)) = false) :
    x.elements f s =
      .ok (x.allDone ((x.todo.foldl (fun t l => t.digestAccess x l (as l)) s).addAccesses (x.todo.map as))) := by
  have hm : (x.todo.map fun l => (l, as l)).map (·.2) = x.todo.map as := by simp
  simp [Ctx.elements, hx, takeElems_ok h, hm, hr, List.foldl_map]

/-- An element whose address is mapped, and which stores to no running code, reaches its physical address. -/
theorem Ctx.elemPhys_ok {x : Ctx} {write : Bool} {addr : DWord} {s : State} {m pa : Nat}
    (ht : s.translate x.c (s.launchOf x.c x.p).context { write := write, handler := x.g.handler } addr = .ok pa)
    (hc : write = true → s.holdsCode pa m = false) : x.elemPhys write addr s m = .ok pa := by
  have hn : ¬ (write && s.holdsCode pa m) = true := by simpa using hc
  simp only [Ctx.elemPhys, ht, if_neg hn]

/-- A load is of the bytes at its address, unless it is one through a format window. -/
theorem Ctx.loadElem_plain {x : Ctx} {addr : DWord} {w : BitVec 4} {nl1 : Bool} {lane : Nat} {dest : Dest} {s : State} {pa : Nat}
    (hw : w ≠ 7#4) (ha : addr.toNat % widthBytes w = 0) (ht : x.elemPhys false addr s = .ok pa) :
    x.loadElem addr w nl1 lane dest s = .ok { x.baseAccess s with
      lane := lane, pa := pa, n := widthBytes w, dest := dest, sext := signedWidth w, nl1 := nl1, addr := addr } := by
  simp [Ctx.loadElem, hw, ha, ht]

/-- A load through a format window is of the window's element (R184). -/
theorem Ctx.loadElem_window {x : Ctx} {addr : DWord} {nl1 : Bool} {lane : Nat} {dest : Dest} {s : State} {pa : Nat} {k : Fwin}
    (ht : x.elemPhys false addr s = .ok pa) (hk : s.windowAt pa = some k) (ha : pa % k.size = 0) :
    x.loadElem addr 7#4 nl1 lane dest s = .ok { x.baseAccess s with
      lane := lane, pa := pa, n := k.size, dest := dest, sext := false, nl1 := nl1, addr := addr,
      win := some (k.fmt, if k.scl then some (k.scale + 4 * ((pa - k.lo) / k.size / 128)) else none) } := by
  simp [Ctx.loadElem, ht, hk, ha, signedWidth]

/-- An aligned element that reaches its physical address makes the access there. -/
theorem Ctx.alignedElem_ok {x : Ctx} {write : Bool} {addr : DWord} {s : State} {n pa : Nat} (a : Nat → Access)
    (ha : addr.toNat % n = 0) (ht : x.elemPhys write addr s n = .ok pa) :
    (if addr.toNat % n != 0 then Except.error (EngStop.fault Code.MISALIGN addr)
      else match x.elemPhys write addr s n with
        | .error e => .error e
        | .ok pa => .ok (a pa)) = .ok (a pa) := by
  simp [ha, ht]

/-- A line enters L1 by a lease if it is of device memory, no pin takes it, and L1 does not hold it in force. -/
theorem State.fetchLine_eq (s : State) (c pa : Nat) : s.fetchLine c pa =
    if windowOf pa == some .device && (s.pinOf (lineOf pa)).isNone &&
        !(s.l1.any fun y => y.core == s.l1Of c (lineOf pa) && y.line == lineOf pa && s.dtime + 2 < y.expiry) then
      s.grantLease c (lineOf pa) else s := by
  unfold State.fetchLine bne
  cases windowOf pa == some .device with
  | false => rfl
  | true =>
    cases s.pinOf (lineOf pa) with
    | some q => rfl
    | none => cases s.l1.any fun y => y.core == s.l1Of c (lineOf pa) && y.line == lineOf pa && s.dtime + 2 < y.expiry <;> rfl

/-- The physical addresses that PREF names: those of the live lanes whose address is mapped. -/
def Ctx.prefLines (x : Ctx) (at_ : Nat → DWord) (s : State) : List Nat :=
  (lanesOf x.live).filterMap fun l => match x.elemPhys false (at_ l) s with
    | .error _ => none
    | .ok pa => some pa

/-- What PREF comes to while the core has line requests left: into L1, a fetch of each line it names. -/
theorem prefBody_ok {base idx : BitVec 8} {form : BitVec 2} {ofs : BitVec 14} {x : Ctx} {s : State} (llc : Bool)
    (h : s.linesFull x.c ((x.prefLines (fun l => x.addr s form base idx ofs l) s).map lineOf).eraseDups.length = false) :
    prefBody base idx form llc ofs x s = .ok (if llc || !s.loadsFree x.c x.p x.e.mask then s
      else (x.prefLines (fun l => x.addr s form base idx ofs l) s).foldl (fun t pa => t.fetchLine x.c pa) s) := by
  have e : prefBody base idx form llc ofs x s =
      if s.linesFull x.c ((x.prefLines (fun l => x.addr s form base idx ofs l) s).map lineOf).eraseDups.length then .wait s
      else if llc || !s.loadsFree x.c x.p x.e.mask then .ok s
      else .ok ((x.prefLines (fun l => x.addr s form base idx ofs l) s).foldl (fun t pa => t.fetchLine x.c pa) s) := rfl
  rw [e, h, apply_ite Res.ok]
  rfl

/-- Settles O10, instruction by instruction. -/
theorem memoryAccessResults : Obligations.MemoryAccessResults := by
  unfold Obligations.MemoryAccessResults
  intro s n g data base idx opd cmp form nl1 w aop scope w64 ofs ofa pa
  extract_lets x at_ ata na maps lines makes room
  have elems : ∀ {f : Nat → Except EngStop Access} {as : Nat → Access}, x.live ≠ 0#32 → (∀ l ∈ x.todo, f l = .ok (as l)) → room as →
      x.elements f s = .ok (makes as) := fun hx h hr => (Ctx.elements_ok hx h hr).trans (congrArg Res.ok (Ctx.allDone_live hx _))
  have phys : ∀ {write va m}, maps write va m → ∀ l ∈ x.todo, x.elemPhys write (va l) s m = .ok (pa l) :=
    fun h l hl => Ctx.elemPhys_ok (h l hl).1 (h l hl).2
  refine ⟨fun hr hx hw hm ha hl => ?_, fun k hr hx hm hk hl => ?_, fun hr hx hm ha hl => ?_, fun hr hx hm ha hl => ?_,
    fun hr hx hw ht ha hl => ?_, fun hr hl => ?_, fun hr hl => ?_⟩
  · exact issue_eff hr (elems hx (fun l hl => Ctx.loadElem_plain hw (ha l hl) (phys hm l hl)) hl)
  · exact issue_eff hr (elems hx (fun l hl => Ctx.loadElem_window (phys hm l hl) (hk l hl).1 (hk l hl).2) hl)
  · exact issue_eff hr (elems hx (fun l hl => Ctx.alignedElem_ok _ (ha l hl) (phys hm l hl)) hl)
  · exact issue_eff hr (elems hx (fun l hl => Ctx.alignedElem_ok _ (ha l hl) (phys hm l hl)) hl)
  · refine issue_eff hr ((once_live hx).trans ?_)
    have ht : x.elemPhys false (x.addr s 0#2 base 0#8 ofs 0) s = .ok (pa 0) := Ctx.elemPhys_ok ht nofun
    simp only [Ctx.loadElem_plain hw ha ht, hl, Bool.false_eq_true, if_false]
    rfl
  · exact issue_eff hr (prefBody_ok true hl)
  · refine (issue_eff hr (prefBody_ok false hl)).trans ?_
    simp only [State.fetchLine_eq]
    cases s.loadsFree x.c x.p x.e.mask <;> rfl

end Sys2Proof.Machine
end

section
/-!
PROOFS. Accesses of the scratchpad slice and of the lanes' own windows (R17, R176, R177, R187, R190): each body's effect once it is free to act.
-/
namespace Sys2Proof.Machine

/-! #### The scratchpad slice (R187, R190) -/

section
variable {x : Ctx} {s : State} {data base : BitVec 8} {form : BitVec 2} {w : BitVec 4} {ofs : BitVec 14}

/-- A load of the slice that is in range and free to act. -/
theorem ldsBody_ok (hf : x.sliceFault false (widthBytes w) (x.poolAddr s form base ofs) s = none) (hl : s.loadsFree x.c x.p x.e.mask = true)
    (hh : x.sliceHeld false (widthBytes w) (x.poolAddr s form base ofs) s = false) :
    ldsBody data base form w ofs x s = .ok ((lanesOf x.live).foldl (fun t l => t.setVs x.c x.p l data.toNat
      (loadWords (s.poolBytes x.c ((s.scrSlice x.c x.g.slot).1 + (x.poolAddr s form base ofs l).toNat) (widthBytes w)) (signedWidth w))) s) := by
  simp [ldsBody, hf, hl, hh]

/-- A store of the slice that is. -/
theorem stsBody_ok (hf : x.sliceFault true (widthBytes w) (x.poolAddr s form base ofs) s = none) (hl : s.storesFree x.c x.p x.e.mask = true)
    (hh : x.sliceHeld true (widthBytes w) (x.poolAddr s form base ofs) s = false) :
    stsBody data base form w ofs x s = .ok ((lanesOf x.live).foldl (fun t l =>
      t.setPoolBytes x.c ((s.scrSlice x.c x.g.slot).1 + (x.poolAddr s form base ofs l).toNat)
        (x.laneBytes s l (widthBytes w) data.toNat)) s).wakeWaits := by
  simp [stsBody, hf, hl, hh]

/-- An atomic of the slice that is: lanes act in ascending order. -/
theorem atomsBody_ok {opd cmp : BitVec 8} {aop : BitVec 4} {w64 : Bool} {ofs : BitVec 10}
    (hf : x.sliceFault true (if w64 then 8 else 4) (x.poolAddr s form base ofs) s = none) (hl : s.storesFree x.c x.p x.e.mask = true)
    (hh : x.sliceHeld true (if w64 then 8 else 4) (x.poolAddr s form base ofs) s = false) :
    atomsBody data base opd cmp form aop w64 ofs x s = .ok ((lanesOf x.live).foldl (fun t l =>
      let a := (s.scrSlice x.c x.g.slot).1 + (x.poolAddr s form base ofs l).toNat
      let old := t.poolBytes x.c a (if w64 then 8 else 4)
      let new := atomicNew aop.toNat (if w64 then 8 else 4) (leNat old) (leNat (x.opdBytes s w64 opd l)) (leNat (x.opdBytes s w64 cmp l))
      (t.setPoolBytes x.c a (leBytes (if w64 then 8 else 4) new)).setVs x.c x.p l data.toNat (loadWords old false)) s).wakeWaits := by
  simp [atomsBody, hf, hl, hh]

/-! #### The lanes' own windows (R176, R177, R194) -/

/-- Within the window's limit an access of it goes on to its effect. -/
theorem Ctx.stackLim_ok {idx : Nat → Nat} {body : State → Res} (h : ∀ l ∈ lanesOf x.live, idx l < (s.launchOf x.c x.p).priv) :
    x.stackLim idx s body = body s := by
  have hn : ((lanesOf x.live).find? fun l => (s.launchOf x.c x.p).priv ≤ idx l) = none := by simpa using h
  simp only [Ctx.stackLim, hn]

/-- A load of the window that finds lines and meets no pin. -/
theorem ldpBody_ok (hi : ∀ l ∈ lanesOf x.live, x.winIndex s form base ofs l < (s.launchOf x.c x.p).priv)
    (hl : s.loadsFree x.c x.p x.e.mask = true) (hf : s.linesFull x.c (x.privLines s (x.winIndex s form base ofs)) = false)
    (hp : x.privPinned s (x.winIndex s form base ofs) false = []) :
    ldpBody data base form ofs x s = .ok (x.allDone (x.todo.foldl (fun t l => t.setV x.c x.p l data.toNat
      (leWord ((List.range 4).map fun k => s.privByte x.c (s.privAddr x.c x.p l (x.winIndex s form base ofs l) + k)))) s)) := by
  simp [ldpBody, Ctx.stackLim_ok hi, hl, hf, hp]

/-- A store of the window that does, none of whose words is running code. -/
theorem stpBody_ok (hi : ∀ l ∈ lanesOf x.live, x.winIndex s form base ofs l < (s.launchOf x.c x.p).priv)
    (hl : s.storesFree x.c x.p x.e.mask = true) (hf : s.linesFull x.c (x.privLines s (x.winIndex s form base ofs)) = false)
    (hp : x.privPinned s (x.winIndex s form base ofs) true = [])
    (hc : ∀ l ∈ x.todo, s.holdsCode (s.privAddr x.c x.p l (x.winIndex s form base ofs l)) 4 = false) :
    stpBody data base form ofs x s = .ok (x.allDone (x.todo.foldl (fun t l =>
      t.setPrivWord x.c x.p (s.privAddr x.c x.p l (x.winIndex s form base ofs l)) ((s.launchOf x.c x.p).l1 != 0)
        (s.v x.c x.p l data.toNat)) s)) := by
  have hn : (x.todo.find? fun l => s.holdsCode (s.privAddr x.c x.p l (x.winIndex s form base ofs l)) 4) = none := by simpa using hc
  simp [stpBody, Ctx.stackLim_ok hi, hl, hf, hp, hn]

end

/-- Settles O11, instruction by instruction. -/
theorem poolAccessResults : Obligations.PoolAccessResults := by
  unfold Obligations.PoolAccessResults
  intro s n g data base opd cmp form w aop scope w64 ofs ofa
  extract_lets x b at_ ata idx na
  exact ⟨fun hr hf hl hh => issue_eff hr (ldsBody_ok hf hl hh), fun hr hf hl hh => issue_eff hr (stsBody_ok hf hl hh),
    fun hr hf hl hh => issue_eff hr (atomsBody_ok hf hl hh), fun hr hi hl hf hp => issue_eff hr (ldpBody_ok hi hl hf hp),
    fun hr hi hl hf hp hc => issue_eff hr (stpBody_ok hi hl hf hp hc)⟩

end Sys2Proof.Machine
end

section
/-!
PROOFS. The host's own steps (R13, R21, R22, R382 to R390): control space, CXL.mem, bring-up, the mailbox, power and temperature.
-/
namespace Sys2Proof.Machine

theorem State.arg_of_nums {s : State} {ns : List Nat} (h : s.subject.nums = ns) (k : Nat) : s.arg k = (ns[k]?).getD 0 := by
  rw [State.arg, h]

/-- A CXL.mem access inside device memory that no pin refuses: a read answers the bytes. -/
theorem State.cxlAccess_read {s : State} {a : Nat} {bs : List Byte} (h : a + bs.length ≤ devTop)
    (hp : ∀ q ∈ s.pins, overlaps (128 * q.line) 128 a bs.length = false) :
    s.cxlAccess false a bs = { s with cxlReply := s.bytes a bs.length } := by
  have hp : s.pins.any (fun q => overlaps (128 * q.line) 128 a bs.length) = false := by simpa using hp
  simp [State.cxlAccess, Nat.not_lt.2 h, hp]

/-- A CXL.mem write there stores the bytes, unless they are running code. -/
theorem State.cxlAccess_write {s : State} {a : Nat} {bs : List Byte} (h : a + bs.length ≤ devTop)
    (hp : ∀ q ∈ s.pins, overlaps (128 * q.line) 128 a bs.length = false) (hc : s.holdsCode a bs.length = false) :
    s.cxlAccess true a bs = (s.setBytes a bs).wakeWaits := by
  have hp : s.pins.any (fun q => overlaps (128 * q.line) 128 a bs.length) = false := by simpa using hp
  simp [State.cxlAccess, Nat.not_lt.2 h, hp, hc]

/-- From RESET the check of the firmware first enters BRINGUP. -/
theorem State.verify_reset {s : State} (f : Firmware) (h : s.dev = .reset) :
    s.verify f = { s with dev := .bringup, agenda := s.agenda ++ [{ what := .firmwareVerify, sub := s.subject }] } := by
  simp [State.verify, h]

/-- In BRINGUP it decides between READY and FAILED. -/
theorem State.verify_bringup {s : State} (f : Firmware) (h : s.dev = .bringup) :
    s.verify f = if f.verifies then ({ s with dev := .ready, fwver := Config.imageVersion f.image } : State).pokeTasks.pollQueues
      else { s with dev := .failed } := by
  simp [State.verify, h]

/-- Settles O33, step by step. -/
theorem hostStepResults : Obligations.HostStepResults := by
  unfold Obligations.HostStepResults
  intro s a b v w
  extract_lets ev bs write answer signed unpinned
  have arg : ∀ {ns : List Nat}, ev ns → ∀ k, s.arg k = (ns[k]?).getD 0 := State.arg_of_nums
  refine ⟨?qTail, ?lplace, ?fwin, ?stage, ?proute, ?teamCfg, ?devFid, ?queueContext, ?control, ?read, ?write, rfl, ?reset, ?bringup,
    rfl, rfl, rfl, rfl, rfl, rfl, rfl, ?withhold, rfl⟩
  case qTail => intro h ha; simp [exec, execQTailWrite, arg h, ha, write]
  case lplace => intro h ha; simp [exec, execLplaceWrite, arg h, ha, write]
  case fwin => intro h ha hb; simp [exec, execFwinWrite, arg h, ha, hb, write]
  case stage => intro h ha; simp [exec, execStageWrite, arg h, ha, write]
  case proute => intro h ha; simp [exec, execProuteWrite, arg h, ha, write]
  case teamCfg => intro h ha; simp [exec, execTeamCfgWrite, arg h, ha, write]
  case devFid => intro h; simp [exec, execDevFidWrite, arg h, write]
  case queueContext => intro h ha hb hb8; simp [exec, execQueueContextWrite, arg h, ha, hb, hb8, write]
  case control => intro h (ha : a < 4294967296); simp [exec, execControlRegisterWrite, arg h, ha, write]
  case read =>
    rintro h ⟨hu, hp⟩ hf
    simp [exec, execCxlMemAccess, arg h, hf, State.cxlAccess_read hu hp, bs]
  case write =>
    rintro h ⟨hu, hp⟩ hf hc
    simp [exec, execCxlMemAccess, arg h, hf, State.cxlAccess_write hu hp hc, bs]
  case reset => intro h; simp [exec, execFirmwareVerify, State.verify_reset _ h]
  case bringup =>
    intro h hd
    simp [exec, execFirmwareVerify, State.verify_bringup _ hd, State.firmware, Firmware.verifies, arg h, signed, bs]
  case withhold => cases h : s.subject.flag <;> simp [exec, execPowerWithhold, h, boolNat]

end Sys2Proof.Machine
end

section
/-!
PROOFS. The physical map and translation (R10, R179, R180, R354): the ranges of the map, one level of the walk, and the stages of a translation, each
by what it answers.
-/
namespace Sys2Proof.Machine

/-! #### The physical map -/

theorem windowOf_device {pa : Nat} (h : pa < 0xB2D05E0000) : windowOf pa = some .device := by
  simp only [windowOf, devTop, h, if_true]

theorem windowOf_peer {pa : Nat} (h : 0x1000000000000 ≤ pa) (h' : pa ≤ 0x1FFFFFFFFFFFF) :
    windowOf pa = if pa % 2 ^ 40 < 0xB2D05E0000 then some .remote else none := by
  have hd : ¬ pa < 0xB2D05E0000 := by omega
  simp only [windowOf, devTop, hd, h, h', if_false, decide_true, Bool.and_self, if_true]
  rfl

theorem windowOf_control {pa : Nat} (h : 0x7000000000000 ≤ pa) (h' : pa ≤ 0x70000FFFFFFFF) : windowOf pa = some .control := by
  have hd : ¬ pa < 0xB2D05E0000 := by omega
  have hp : ¬ pa ≤ 0x1FFFFFFFFFFFF := by omega
  simp [windowOf, devTop, hd, hp, h, h']

theorem windowOf_host {pa : Nat} (h : 0x8000000000000 ≤ pa) (h' : pa ≤ 0xFFFFFFFFFFFFF) : windowOf pa = some .host := by
  have hd : ¬ pa < 0xB2D05E0000 := by omega
  have hp : ¬ pa ≤ 0x1FFFFFFFFFFFF := by omega
  have hc : ¬ pa ≤ 0x70000FFFFFFFF := by omega
  simp [windowOf, devTop, hd, hp, hc, h, h']

/-- An address in none of the four ranges of R10 is a hole. -/
theorem windowOf_hole {pa : Nat} (hd : ¬ pa < 0xB2D05E0000) (hp : ¬ (0x1000000000000 ≤ pa ∧ pa ≤ 0x1FFFFFFFFFFFF))
    (hc : ¬ (0x7000000000000 ≤ pa ∧ pa ≤ 0x70000FFFFFFFF)) (hh : ¬ (0x8000000000000 ≤ pa ∧ pa ≤ 0xFFFFFFFFFFFFF)) :
    windowOf pa = none := by
  simp only [windowOf, devTop, Bool.and_eq_true, decide_eq_true_eq, hd, hp, hc, hh, if_false]

/-! #### The walk of the tables -/

/-- The rules that an entry with V breaks (R179), at the level above k others. -/
theorem pteBad_iff (e : DWord) (k : Nat) : pteBad e (k + 1) = true ↔
    e.extractLsb' 52 12 ≠ 0#12 ∨ e.extractLsb' 8 4 ≠ 0#4 ∨ e.extractLsb' 2 2 ≠ 0#2 ∨
      (e.getLsbD 7 = true ∧ ¬ (e.getLsbD 1 = true ∧ k = 0)) ∨ (e.getLsbD 1 = true ∧ (k = 4 ∨ k = 3)) ∨
      (¬ e.getLsbD 1 = true ∧ k = 0) ∨ (e.getLsbD 1 = true ∧ pteAddr e % 2 ^ (12 + 9 * k) ≠ 0) := by
  have level : ∀ n, (k + 1 == n + 1) = true ↔ k = n := fun n => beq_iff_eq.trans Nat.add_right_cancel_iff
  have neg : ∀ b : Bool, (!b) = true ↔ ¬ b = true := by decide
  simp only [pteBad, Nat.add_sub_cancel, Bool.or_eq_true, Bool.and_eq_true, neg, bne_iff_ne, ne_eq, level 0, level 3,
    level 4, or_assoc]

/-- The entry that the walk reads of a table at the level above k others. -/
def State.pteAt (s : State) (va k table : Nat) : DWord := s.dword (table + 8 * (va / 2 ^ (12 + 9 * k) % 512))

/-- One level of the walk. -/
theorem State.walk_succ (s : State) (va k table : Nat) : s.walk va (k + 1) table =
    if !(s.pteAt va k table).getLsbD 0 then .error Code.XLATE_MISS
    else if pteBad (s.pteAt va k table) (k + 1) then .error Code.XLATE_BAD
    else if (s.pteAt va k table).getLsbD 1 then
      if k = 0 then .ok (s.contLeaf table va) else .ok { pte := s.pteAt va k table, bits := 12 + 9 * k, span := 12 + 9 * k }
    else s.walk va k (pteAddr (s.pteAt va k table)) := rfl

section
variable {s : State} {va k table : Nat}

theorem State.walk_invalid (h : (s.pteAt va k table).getLsbD 0 = false) : s.walk va (k + 1) table = .error Code.XLATE_MISS := by
  simp only [State.walk_succ, h, Bool.not_false, if_true]

theorem State.walk_bad (h : (s.pteAt va k table).getLsbD 0 = true) (hb : pteBad (s.pteAt va k table) (k + 1) = true) :
    s.walk va (k + 1) table = .error Code.XLATE_BAD := by
  simp only [State.walk_succ, h, hb, Bool.not_true, Bool.false_eq_true, if_false, if_true]

theorem State.walk_next (h : (s.pteAt va k table).getLsbD 0 = true) (hb : ¬ pteBad (s.pteAt va k table) (k + 1) = true)
    (hl : ¬ (s.pteAt va k table).getLsbD 1 = true) : s.walk va (k + 1) table = s.walk va k (pteAddr (s.pteAt va k table)) := by
  simp only [State.walk_succ, h, hb, hl, Bool.not_true, Bool.false_eq_true, if_false]

end

/-! #### Leaves and what an access through them meets -/

theorem State.leaf_off {s : State} {core va : Nat} {x : Context} (h : x.v = false) : s.leaf core x va = .error Code.XLATE_MISS := by
  simp [State.leaf, h]

/-- Without an entry in the TLB the leaf is what the walk gives. -/
theorem State.leaf_walk {s : State} {core va : Nat} {x : Context} (h : x.v = true)
    (ht : ∀ e ∈ s.tlb, e.core = core → e.root = x.root → va / 2 ^ e.bits ≠ e.page) : s.leaf core x va = s.walk va 5 x.root := by
  have hf : (s.tlb.find? fun t => t.core == core && t.root == x.root && va / 2 ^ t.bits == t.page) = none := by
    simpa [List.find?_eq_none, and_imp] using ht
  simp [State.leaf, h, hf]

/-- An access of a handler to a save slot of its core, which lies in reserved memory and is no fetch (R389). -/
def State.inSlot (s : State) (core : Nat) (m : Mode) (va : Nat) : Prop :=
  m.handler = true ∧ m.fetch = false ∧ ∃ p < 64, ∃ r, ((s.grp core p).reserved = some r ∨ (s.grp core p).lastSlot = some r) ∧
    r.1 ≤ va ∧ va < r.1 + r.2

theorem State.inSlot_iff (s : State) (core : Nat) (m : Mode) (va : Nat) :
    s.inSlot core m va ↔ (m.handler && !m.fetch && s.reservedAt core va) = true := by
  simp only [State.inSlot, State.reservedAt, Bool.and_eq_true, Bool.not_eq_true', and_assoc, List.any_eq_true, List.mem_range,
    List.mem_append, Option.mem_toList, decide_eq_true_eq]

/-- Whether a leaf allows an access (R180): no write without W, no fetch without X, and no access outside a handler to a page of handlers. -/
def Leaf.allows (l : Leaf) (m : Mode) : Prop :=
  (m.write = true → l.pte.getLsbD 4 = true) ∧ (m.fetch = true → l.pte.getLsbD 5 = true) ∧ (m.handler = false → l.pte.getLsbD 6 = false)

theorem Leaf.not_allows_iff (l : Leaf) (m : Mode) :
    ((m.write && !l.pte.getLsbD 4) || (m.fetch && !l.pte.getLsbD 5) || (l.pte.getLsbD 6 && !m.handler)) = true ↔ ¬ l.allows m := by
  simp only [Leaf.allows, Classical.not_and_iff_not_or_not, Classical.not_imp, Bool.or_eq_true, Bool.and_eq_true, Bool.not_eq_true', Bool.not_eq_true,
    Bool.not_eq_false, or_assoc, and_comm (a := m.handler = false)]

/-- What an access meets at the physical address that its leaf gives it (R10, R354). -/
def State.meets (s : State) (m : Mode) (pa : Nat) : Except Nat Nat :=
  match windowOf pa with
  | none => .error Code.PHYS_HOLE
  | some .control => if m.handler then .ok pa else .error Code.PRIV
  | some .remote => if (s.portTo (pa / 2 ^ 40 % 256)).isSome then .ok pa else .error Code.FABRIC_LOST
  | some _ => .ok pa

section
variable {s : State} {core : Nat} {x : Context} {m : Mode} {addr : DWord} {l : Leaf}

/-- A handler reaches a save slot of its core at the slot's own address. -/
theorem State.translate_slot (h : s.inSlot core m (addr.toNat % 2 ^ 57)) : s.translate core x m addr = .ok (addr.toNat % 2 ^ 57) := by
  rw [State.inSlot_iff] at h
  simp only [State.translate, h, if_true]

theorem State.translate_error {code : Nat} (h : ¬ s.inSlot core m (addr.toNat % 2 ^ 57))
    (hl : s.leaf core x (addr.toNat % 2 ^ 57) = .error code) : s.translate core x m addr = .error code := by
  rw [State.inSlot_iff] at h
  simp only [State.translate, h, hl, Bool.false_eq_true, if_false]

theorem State.translate_denied (h : ¬ s.inSlot core m (addr.toNat % 2 ^ 57)) (hl : s.leaf core x (addr.toNat % 2 ^ 57) = .ok l)
    (ha : ¬ l.allows m) : s.translate core x m addr = .error Code.XLATE_PROT := by
  rw [State.inSlot_iff] at h
  simp only [State.translate, h, hl, Bool.false_eq_true, if_false, (l.not_allows_iff m).2 ha, if_true]

/-- Through a leaf that allows it, an access meets what stands at the physical address. -/
theorem State.translate_allowed (h : ¬ s.inSlot core m (addr.toNat % 2 ^ 57)) (hl : s.leaf core x (addr.toNat % 2 ^ 57) = .ok l)
    (ha : l.allows m) : s.translate core x m addr = s.meets m (l.phys (addr.toNat % 2 ^ 57)) := by
  have hd := mt (l.not_allows_iff m).1 fun hn => hn ha
  rw [State.inSlot_iff] at h
  simp only [State.translate, h, hl, hd, Bool.false_eq_true, if_false]
  rfl

end

/-- Settles O52: the ranges of the map, then the stages of a translation in their order. -/
theorem addressMapAndTranslation : Obligations.AddressMapAndTranslation := by
  unfold Obligations.AddressMapAndTranslation
  refine ⟨fun pa => ⟨fun h => windowOf_device (by omega), fun h h' hm => ?_, windowOf_control, windowOf_host, fun h h' hm => ?_,
    fun h h' => ?_, fun h h' => ?_, fun h h' => ?_, fun h => ?_⟩, ?_⟩
  · rw [windowOf_peer h h', if_pos hm]
  · rw [windowOf_peer h h', if_neg (by omega)]
  iterate 4 · exact windowOf_hole (by omega) (by omega) (by omega) (by omega)
  · intro s core x m addr l va pa allowed slot
    refine ⟨State.translate_slot, fun h hv => State.translate_error h (State.leaf_off hv),
      fun code h hv ht hw => State.translate_error h ((State.leaf_walk hv ht).trans hw),
      fun k table => ⟨State.walk_invalid, fun h hb => State.walk_bad h ((pteBad_iff _ k).2 hb),
        fun h hb hl => State.walk_next h (mt (pteBad_iff _ k).1 hb) hl⟩,
      State.translate_denied, fun h hl ha hw => ?_, fun h hl ha hw => ?_, fun h hl ha hw => ?_, fun h hl ha hw => ?_⟩
    all_goals refine (State.translate_allowed h hl ha).trans (show s.meets m pa = _ from ?_)
    · simp only [State.meets, hw]
    · simp only [State.meets, hw]
    · simp only [State.meets, hw]
    · rcases hw with hw | hw <;> simp only [State.meets, hw]

end Sys2Proof.Machine
end

section
/-!
PROOFS. The state after reset and the two clocks (R21, R22): a device time and a cycle are kept by everything that a tick does besides its count.
-/
namespace Sys2Proof.Machine

/-- A state at a device time and in a cycle of the arithmetic clock. -/
structure State.TimeIs (d n : Nat) (s : State) : Prop where
  dtime : s.dtime = d
  cycle : s.cycle = n

section
variable {s : State} {d n : Nat}

theorem State.TimeIs.ite {c : Prop} [Decidable c] {a b : State} (ha : a.TimeIs d n) (hb : b.TimeIs d n) :
    (if c then a else b).TimeIs d n := keeps_ite ha hb

theorem State.TimeIs.foldl {α : Type} {l : List α} {f : State → α → State} (h : s.TimeIs d n)
    (hf : ∀ {b a}, b.TimeIs d n → (f b a).TimeIs d n) : (l.foldl f s).TimeIs d n := keeps_foldl h hf

/-- An update of other fields than the time. -/
theorem State.TimeIs.upd {t : State} (h : s.TimeIs d n) (hd : t.dtime = s.dtime) (hc : t.cycle = s.cycle) : t.TimeIs d n :=
  ⟨hd.trans h.dtime, hc.trans h.cycle⟩

theorem State.TimeIs.post {i ns} (h : s.TimeIs d n) : (s.post i ns).TimeIs d n := h.upd (s.post_dtime i ns) (s.post_cycle i ns)

theorem State.TimeIs.sendPacket {q} (h : s.TimeIs d n) : OptionEach (State.TimeIs d n) (s.sendPacket q) := by
  unfold State.sendPacket
  split
  · exact .none
  · exact .some (.ite (h.upd rfl rfl) (h.upd rfl rfl))

theorem State.TimeIs.requestPeer {c q} (h : s.TimeIs d n) : (s.requestPeer c q).TimeIs d n := by
  unfold State.requestPeer
  extract_lets r
  refine .ite (h.upd rfl rfl) ?_
  have hr : OptionEach (State.TimeIs d n) (s.sendPacket r) := h.sendPacket
  cases e : s.sendPacket r with
  | none => exact h.upd rfl rfl
  | some t => exact hr.get e

theorem State.TimeIs.foldWct {c p uid id t} (h : s.TimeIs d n) : (s.foldWct c p uid id t).TimeIs d n := by
  unfold State.foldWct
  refine .ite (h.upd rfl rfl) ?_
  split <;> exact h.upd rfl rfl

theorem State.TimeIs.wakeEngine {id} (h : s.TimeIs d n) : (s.wakeEngine id).TimeIs d n := by
  unfold State.wakeEngine
  extract_lets s1 s2 s3 s4
  have h1 : s1.TimeIs d n := .ite h.post h
  have h2 : s2.TimeIs d n := .ite h1.post h1
  have h3 : s3.TimeIs d n := by
    unfold s3
    split
    · exact h2.post
    · exact h2
  have h4 : s4.TimeIs d n := by
    unfold s4
    split
    · exact h3.post
    · exact h3
  split
  · exact h4.post
  · exact h4

theorem State.TimeIs.wakeOwner {id} (h : s.TimeIs d n) : (s.wakeOwner id).TimeIs d n := by
  unfold State.wakeOwner
  extract_lets s1 s2 s3
  have h1 : s1.TimeIs d n := by
    unfold s1
    split
    · exact h.foldWct
    · exact h
  have h3 : s3.TimeIs d n := by
    unfold s3
    split
    · exact h1.wakeEngine.post
    · exact h1.wakeEngine
  split
  · exact h3.post
  · exact h3

theorem State.TimeIs.sendUnsent (h : s.TimeIs d n) : s.sendUnsent.TimeIs d n :=
  .foldl (h.upd rfl rfl) fun hs => .ite hs.requestPeer hs.requestPeer.wakeOwner

theorem State.TimeIs.postExpiries {key g} (h : s.TimeIs d n) : (s.postExpiries key g).TimeIs d n :=
  .ite (.post (.foldl h fun hs => .ite hs.post hs)) (.foldl h fun hs => .ite hs.post hs)

theorem State.TimeIs.tickNs (h : s.TimeIs d n) : s.tickNs.TimeIs (d + 1) n := by
  have ht : ({ s with
      dtime := s.dtime + 1
      groups := s.groups.map fun e => (e.1, { e.2 with jregs := tickJregs true e.2.handler e.2.jregs }) } : State).TimeIs (d + 1) n :=
    ⟨congrArg (· + 1) h.dtime, h.cycle⟩
  exact .upd (.foldl ht fun hs => hs.postExpiries) rfl rfl

theorem State.TimeIs.tickCycle (h : s.TimeIs d n) : s.tickCycle.TimeIs d (n + 1) := by
  unfold State.tickCycle
  extract_lets s1 s2 s3 s4 s5
  have h1 : s1.TimeIs d n := .foldl h fun hs => .foldl hs fun ht => ht.upd rfl rfl
  have h2 : s2.TimeIs d (n + 1) := ⟨h1.dtime, congrArg (· + 1) h1.cycle⟩
  have h3 : s3.TimeIs d (n + 1) := .foldl h2 fun hs => hs.postExpiries
  have h4 : s4.TimeIs d (n + 1) := .foldl h3 fun hs => .ite hs.post hs
  have h5 : s5.TimeIs d (n + 1) := .foldl h4 fun hs => .ite hs.post hs
  exact h5.sendUnsent.upd rfl rfl

/-- Choosing the next move takes no time. -/
theorem State.TimeIs.nextMove (h : s.TimeIs d n) : s.nextMove.2.TimeIs d n := by
  unfold State.nextMove
  split
  · exact h.upd rfl rfl
  · extract_lets t s1 event issue
    have h1 : s1.TimeIs d n := h.upd rfl rfl
    have hevent : event.2.TimeIs d n := by
      unfold event
      split <;> exact h1
    have hissue : issue.2.TimeIs d n := by
      unfold issue
      split
      · exact h1
      · split <;> exact h1
    split
    iterate 5 · exact h1
    iterate 3 · exact hevent
    · exact hissue

end

theorem step_ns {s r : State} (h : s.nextMove = (some .ns, r)) :
    step s = .next ({ r with freeCount := r.freeCount + 1 } : State).tickNs := by
  simp only [step, h]

theorem step_cycle {s r : State} (h : s.nextMove = (some .cycle, r)) :
    step s = .next ({ r with freeCount := r.freeCount + 1 } : State).tickCycle := by
  simp only [step, h]

/-- The state of a step's move, which the step then makes. -/
theorem State.TimeIs.ofMove {s r : State} {m : Option Move} (h : s.nextMove = (m, r)) :
    ({ r with freeCount := r.freeCount + 1 } : State).TimeIs s.dtime s.cycle := by
  have hr : r = s.nextMove.2 := by rw [h]
  subst hr
  exact (State.TimeIs.nextMove ⟨rfl, rfl⟩).upd rfl rfl

/-- Settles O58: after reset nothing is listed, and each clock's move advances that clock alone. -/
theorem resetStateAndTime : Obligations.ResetStateAndTime := by
  unfold Obligations.ResetStateAndTime
  refine ⟨fun c p l n k a => ?_, fun s r => ⟨fun h => ?_, fun h => ?_⟩⟩
  · exact ⟨rfl, rfl, rfl, rfl, rfl, rfl, rfl, rfl, rfl, rfl, rfl, rfl, rfl, rfl, rfl, fun h => if_neg h, rfl, rfl, rfl, rfl, rfl, rfl, rfl⟩
  · have ht := (State.TimeIs.ofMove h).tickNs
    exact ⟨_, step_ns h, ht.dtime, ht.cycle⟩
  · have ht := (State.TimeIs.ofMove h).tickCycle
    exact ⟨_, step_cycle h, ht.dtime, ht.cycle⟩

end Sys2Proof.Machine
end

section
/-!
PROOFS. The instructions that only compute on registers (R36, R50, R91, R121): each writes its destinations, flags and entry, and leaves the rest
of the device alone.
-/
namespace Sys2Proof.Machine

/-- A change of registers, entries and flags leaves memory and the pools alone. -/
theorem State.changesOnly_bytes {s t : State} {n : Issuer} {w : Dests} (h : s.changesOnly t n w) :
    (∀ a, t.byte a = s.byte a) ∧ (∀ c a, t.poolByte c a = s.poolByte c a) := by
  obtain ⟨ht, -⟩ := h
  rw [ht]
  exact ⟨fun _ => rfl, fun _ _ => rfl⟩

/-- A meaning that raises no fault and never waits, and whose effect is on the destinations w at most. -/
def WritesOnly (body : Ctx → State → Res) (w : Dests) : Prop :=
  ∀ (s : State) (n : Issuer) (gd : Guard), ∃ t, body (s.ctx n gd) s = .ok t ∧ s.changesOnly t n w

/-- An instruction with such a meaning answers the state after its effect, its entry moved on. -/
theorem WritesOnly.issue {i : Instr} {gd : Guard} {body : Ctx → State → Res} {w : Dests} {s : State} {n : Issuer} (h : WritesOnly body w)
    (hr : s.runs n i) : ∃ t, issue i gd body s = .next t ∧ s.changesOnly t n w := by
  obtain ⟨t, ht, hc⟩ := h s n gd
  exact ⟨t.advance n, issue_eff hr ht, State.changesOnly_trans hc State.changesOnly_advance⟩

/-! #### One result -/

theorem writesOnly_put (d : VS) (f : Ctx → State → Nat → Word) : WritesOnly (fun x s => .ok (x.put d (f x s) s)) (vsDest d false) :=
  fun _ _ _ => ⟨_, rfl, Ctx.changesOnly_put _ (vsDest_one d false)⟩

theorem writesOnly_put64 (d : VS) (f : Ctx → State → Nat → DWord) : WritesOnly (fun x s => .ok (x.put64 d (f x s) s)) (vsDest d true) :=
  fun _ _ _ => ⟨_, rfl, Ctx.changesOnly_put64 _ (vsDest_two d)⟩

theorem writesOnly_putP (p : BitVec 8) (f : Ctx → State → Nat → Bool) :
    WritesOnly (fun x s => .ok (x.putP p (f x s) s)) { p := [p.toNat] } :=
  fun _ _ _ => ⟨_, rfl, Ctx.changesOnly_putP _ (List.mem_singleton.2 rfl)⟩

/-! #### Results with flags (R121) -/

theorem writesOnly_putF (d : VS) (f : Ctx → State → Nat → FW) :
    WritesOnly (fun x s => .ok (x.putF d (f x s) s)) { vsDest d false with fl := true } :=
  fun _ _ _ => ⟨_, rfl, Ctx.changesOnly_putF _ (vsDest_one d false) rfl⟩

theorem writesOnly_putPF (p : BitVec 8) (f : Ctx → State → Nat → Bool × FFlags) :
    WritesOnly (fun x s => .ok (x.putPF p (f x s) s)) { p := [p.toNat], fl := true } :=
  fun _ _ _ => ⟨_, rfl, Ctx.changesOnly_putPF _ (List.mem_singleton.2 rfl) rfl⟩

theorem writesOnly_putField (d : VS) (code : BitVec 4) (pos : BitVec 2) (f : Ctx → State → Nat → Nat × FFlags) :
    WritesOnly (fun x s => .ok (x.putField d code pos (f x s) s)) { vsDest d (codeWidth code == 64) with fl := true } :=
  fun _ _ _ => ⟨_, rfl, Ctx.changesOnly_putField _ _ _ rfl rfl rfl⟩

theorem writesOnly_floatBody (ty : BitVec 2) (d : VS) (srcs : List (VS × Bool)) (op : Fmt → Bool → List FV → Nat × FFlags) :
    WritesOnly (floatBody ty d srcs op) { vsDest d (ty == 0#2) with fl := true } :=
  fun _ _ _ => ⟨_, rfl, Ctx.changesOnly_putFloat _ _ _ rfl rfl rfl⟩

/-- FSCALE: a pair for f64, a word for every other type. -/
theorem writesOnly_fscale (ty : BitVec 2) (d : VS) (f : Ctx → State → Nat → DWord × FFlags) (k : Ctx → State → Nat → FW) :
    WritesOnly (fun x s => if ty == 0#2 then .ok (x.putF64 d (f x s) s) else .ok (x.putF d (k x s) s))
      { vsDest d (ty == 0#2) with fl := true } := by
  intro s n gd
  cases hty : ty == 0#2 with
  | true => exact ⟨_, rfl, Ctx.changesOnly_putF64 _ (vsDest_two d) rfl⟩
  | false => exact ⟨_, rfl, Ctx.changesOnly_putF _ (vsDest_one d false) rfl⟩

/-! #### Words or pairs, as the instruction's 64-bit form says (R50) -/

theorem Ctx.changesOnly_putWide {s t : State} {n : Issuer} {gd : Guard} {w : Dests} {d : VS} {wide : Bool} (f : Nat → DWord) (k : Nat → Word)
    (hs : w.s = (vsDest d wide).s) (hv : w.v = (vsDest d wide).v) :
    t.changesOnly (if wide then (s.ctx n gd).put64 d f t else (s.ctx n gd).put d k t) n w := by
  cases wide with
  | true =>
    refine Ctx.changesOnly_put64 _ ?_
    rw [hs, hv]; exact vsDest_two d
  | false =>
    refine Ctx.changesOnly_put _ ?_
    rw [hs, hv]; exact vsDest_one d false

theorem writesOnly_putWide (d : VS) (wide : Bool) (f : Ctx → State → Nat → DWord) (k : Ctx → State → Nat → Word) :
    WritesOnly (fun x s => .ok (if wide then x.put64 d (f x s) s else x.put d (k x s) s)) (vsDest d wide) :=
  fun _ _ _ => ⟨_, rfl, Ctx.changesOnly_putWide _ _ rfl rfl⟩

/-! #### Lanes: a result, and the lanes missed in sr.xlane (R105) -/

theorem writesOnly_exchange (d a : BitVec 8) (b64 f : Bool) (c : VS) (quad : Bool) (src : Ctx → State → Source) :
    WritesOnly (exchange d a b64 f c quad src) { vsDest ⟨false, d⟩ b64 with xl := true } :=
  fun _ _ _ => ⟨_, rfl, State.changesOnly_trans (Ctx.changesOnly_putWide _ _ rfl rfl) (Ctx.changesOnly_setXlane _ rfl)⟩

/-- MATCH: one word, of the registers that its width names. -/
theorem writesOnly_matchLanes (d : BitVec 8) (b64 : Bool) (f : Ctx → State → Nat → Word) :
    WritesOnly (fun x s => .ok (x.setXlane 0#32 (x.put ⟨false, d⟩ (f x s) s))) { vsDest ⟨false, d⟩ b64 with xl := true } :=
  fun _ _ _ => ⟨_, rfl, State.changesOnly_trans (Ctx.changesOnly_put _ (vsDest_one ⟨false, d⟩ b64)) (Ctx.changesOnly_setXlane _ rfl)⟩

theorem writesOnly_vote (p : BitVec 8) (f : Ctx → State → Nat → Bool) :
    WritesOnly (fun x s => .ok (x.setXlane 0#32 (x.putP p (f x s) s))) { p := [p.toNat], xl := true } :=
  fun _ _ _ => ⟨_, rfl, State.changesOnly_trans (Ctx.changesOnly_putP _ (List.mem_singleton.2 rfl)) (Ctx.changesOnly_setXlane _ rfl)⟩

theorem writesOnly_foldBody (d a : BitVec 8) (k : Ctx → State → Fold) (head : Ctx → State → Word) (excl : Bool) :
    WritesOnly (fun x s => foldBody d a (k x) (head x) excl x s) { vsDest ⟨false, d⟩ false with fl := true, xl := true } :=
  fun _ _ _ => ⟨_, rfl, State.changesOnly_trans
    (State.changesOnly_trans (Ctx.changesOnly_put _ (vsDest_one ⟨false, d⟩ false)) (Ctx.changesOnly_setXlane _ rfl))
    (State.changesOnly_orFlags _ rfl)⟩

/-- Without a live lane nothing is written (R91). -/
theorem WritesOnly.once {body : Ctx → State → Res} {w : Dests} (h : WritesOnly body w) : WritesOnly (once body) w := by
  intro s n gd
  by_cases hl : (s.ctx n gd).live = 0#32
  · exact ⟨s, once_dead hl, s.changesOnly_refl n w⟩
  · rw [once_live hl]
    exact h s n gd

theorem writesOnly_ballot (sd : BitVec 8) (f : Ctx → State → Word) :
    WritesOnly (once fun x s => .ok (x.setXlane 0#32 (x.putS sd (f x s) s))) { vsDest ⟨true, sd⟩ false with xl := true } :=
  .once fun _ _ _ => ⟨_, rfl, State.changesOnly_trans (State.changesOnly_setSr _ (vsDest_one ⟨true, sd⟩ false)) (Ctx.changesOnly_setXlane _ rfl)⟩

theorem writesOnly_rdlaneBody (sd a : BitVec 8) (lane : Ctx → State → Nat) (b64 f : Bool) (c : VS) :
    WritesOnly (fun x s => rdlaneBody sd a (lane x s) b64 f c x s) { vsDest ⟨true, sd⟩ b64 with xl := true } := by
  intro s n gd
  refine WritesOnly.once (fun s n gd => ⟨_, rfl, State.changesOnly_trans ?_ (Ctx.changesOnly_setXlane _ rfl)⟩) s n gd
  cases b64 with
  | true => exact State.changesOnly_setSr64 _ (vsDest_two ⟨true, sd⟩).1 (vsDest_two ⟨true, sd⟩).2
  | false => exact State.changesOnly_setSr _ (vsDest_one ⟨true, sd⟩ false)

/-! #### Residue registers (R139, R140) -/

theorem writesOnly_cvnBody (d a q : BitVec 8) (df sf : BitVec 4) (rm : BitVec 2) (sat : Bool) (dp : BitVec 2) :
    WritesOnly (cvnBody d a q df sf rm sat dp) { vsDest ⟨false, d⟩ (codeWidth df == 64) with q := [q.toNat], fl := true } :=
  fun _ _ _ => ⟨_, rfl, State.changesOnly_trans (Ctx.changesOnly_putField _ _ _ rfl rfl rfl)
    (Ctx.changesOnly_putQ _ (List.mem_singleton.2 rfl))⟩

theorem writesOnly_qclr (ks : List Nat) : WritesOnly (fun x s => .ok (ks.foldl (fun t k => x.putQ k (fun _ => 0#32) t) s)) { q := ks } :=
  fun _ _ _ => ⟨_, rfl, State.changesOnly_foldl fun _ hk _ => Ctx.changesOnly_putQ _ hk⟩

theorem writesOnly_qmov (r : BitVec 8) (dir : Bool) (f k : Ctx → State → Nat → Word) :
    WritesOnly (fun x s => .ok (if dir then x.put ⟨false, r⟩ (f x s) s else x.putQ r.toNat (k x s) s))
      (if dir then { v := [r.toNat] } else { q := [r.toNat] }) := by
  intro s n gd
  cases dir with
  | true => exact ⟨_, rfl, Ctx.changesOnly_put (d := ⟨false, r⟩) _ (List.mem_singleton.2 rfl)⟩
  | false => exact ⟨_, rfl, Ctx.changesOnly_putQ _ (List.mem_singleton.2 rfl)⟩

/-! #### The instructions together -/

/-- Each instruction that only computes on registers, by the way in which it writes its results: every other has no destinations in hw. -/
theorem exec_changesOnly {i : Instr} {s : State} {n : Issuer} {w : Dests} (hw : regDests i = some w) (hr : s.runs n i) :
    ∃ t, exec i s = .next t ∧ s.changesOnly t n w := by
  unfold exec
  cases i with cases hw
  | iadd | iaddL | isub | isubL | imul | imulL | imulh | imad | imin | iminL | imax | imaxL | iabs | iaddmin | and | andL | or | orL | xor | xorL
  | andn | andnL | not | shl | shlL | shr | shrL | sar | sarL | bfe | bfi | popc | clz | brev | sel | movL | fclass | huni | hcap | harc | hcnt =>
    exact (writesOnly_put _ _).issue hr
  | iadd64 | iadd64L | isub64 | imad64 | shl64 | shl64L | shr64 | shr64L => exact (writesOnly_put64 _ _).issue hr
  | icmp | icmpL | icmp64 | icmp64L | plop | hinSub => exact (writesOnly_putP _ _).issue hr
  | mov => exact (writesOnly_putWide _ _ _ _).issue hr
  | qswp | qbcst | shfl | shflL | lshf | lshfL => exact (writesOnly_exchange _ _ _ _ _ _ _).issue hr
  | vote => exact (writesOnly_vote _ _).issue hr
  | ballot => exact (writesOnly_ballot _ _).issue hr
  | matchLanes => exact (writesOnly_matchLanes _ _ _).issue hr
  | lpfx | segadd => exact (writesOnly_foldBody _ _ _ _ _).issue hr
  | rdlane | rdlaneL => exact (writesOnly_rdlaneBody _ _ _ _ _ _).issue hr
  | fadd | fmul | ffma | fmin | fmax | frnd => exact (writesOnly_floatBody _ _ _ _).issue hr
  | faddL | fmulL | fminL | fmaxL | fdot2 | srcp | srsq | ssqrt | sexp2 | slog2 | ssin | scos | stanh | cvsh | dcsh | hexp =>
    exact (writesOnly_putF _ _).issue hr
  | fcmp | fcmpL => exact (writesOnly_putPF _ _).issue hr
  | fscale => exact (writesOnly_fscale _ _ _ _).issue hr
  | cvf | cvi => exact (writesOnly_putField _ _ _ _).issue hr
  | cvn => exact (writesOnly_cvnBody _ _ _ _ _ _ _ _).issue hr
  | qclr => exact (writesOnly_qclr _).issue hr
  | qmov => exact (writesOnly_qmov _ _ _ _).issue hr

/-- Settles O41: each instruction writes in one of few ways, and none of them reaches beyond its destinations. -/
theorem registerFrame : Obligations.RegisterFrame := by
  unfold Obligations.RegisterFrame
  intro i s n w hw hr
  obtain ⟨t, ht, hc⟩ := exec_changesOnly hw hr
  exact ⟨t, ht, hc, State.changesOnly_bytes hc⟩

end Sys2Proof.Machine
end

section
/-!
PROOFS. What decodes, and clause headers (R3, R38 to R40, R50 to R58): the word of what decodes stood in the bytes read, and the fields of a header
are read back from its word and make it.
-/
namespace Sys2Proof

/-- A word decodes only to a well-formed instruction whose own word it is. -/
theorem wellFormed_encode_of_decodeWord {w : DWord} {i : Instr} (h : decodeWord w = .ok i) : wellFormed i = true ∧ encode i = some w := by
  unfold decodeWord at h
  split at h
  · cases h
  · split at h
    · rename_i hi
      cases h
      simpa using hi
    · cases h

/-- The bytes of a word that was read from bytes are those bytes (R3). -/
theorem bytesOfWord_wordOfBytes (b0 b1 b2 b3 b4 b5 b6 b7 : Byte) :
    bytesOfWord (wordOfBytes b0 b1 b2 b3 b4 b5 b6 b7) = [b0, b1, b2, b3, b4, b5, b6, b7] := by
  simp only [bytesOfWord, wordOfBytes, List.cons.injEq, and_true]
  refine ⟨?_, ?_, ?_, ?_, ?_, ?_, ?_, ?_⟩ <;>
    (repeat rw [BitVec.extractLsb'_append_eq_of_le (by omega)]) <;>
    (try rw [BitVec.extractLsb'_append_eq_of_add_le (by omega)]) <;> simp

/-- What is decoded from bytes is decoded from the word that they begin with. -/
theorem exists_word_of_decode {bs rest : List Byte} {i : Instr} (h : decode bs = .ok (i, rest)) :
    ∃ w, decodeWord w = .ok i ∧ bs = bytesOfWord w ++ rest := by
  unfold decode at h
  split at h
  · split at h
    · rename_i hw
      cases h
      exact ⟨_, hw, by rw [bytesOfWord_wordOfBytes]; rfl⟩
    · cases h
  · cases h

/-- Settles O36: the bytes begin with a word that decodes, and it decodes only as its own instruction. -/
theorem encodeInvertsDecode : Obligations.EncodeInvertsDecode := by
  unfold Obligations.EncodeInvertsDecode
  intro bs rest i h
  obtain ⟨w, hw, hbs⟩ := exists_word_of_decode h
  obtain ⟨hwf, he⟩ := wellFormed_encode_of_decodeWord hw
  exact ⟨hwf, w, he, hbs⟩

/-! #### Clause headers (R38 to R40) -/

/-- The fields of a word that is read as a header (R38, R40), legal or not. -/
def headerFields (w : DWord) : Header :=
  ⟨w.extractLsb' 57 3, w.extractLsb' 53 4, w.extractLsb' 45 8, w.extractLsb' 42 3, w.getLsbD 41, w.getLsbD 40, w.getLsbD 39, w.extractLsb' 35 4⟩

/-- A word is a header of some fields when it has the marker, they are its fields, its reserved bits are zero, and so is BARID without BARW (R39). -/
theorem decodeHeader_eq_some_iff {w : DWord} {h : Header} :
    decodeHeader w = some h ↔
      isHeader w = true ∧ w.extractLsb' 0 35 = 0#35 ∧ headerFields w = h ∧ (h.barw = true ∨ h.barid = 0#4) := by
  have e : decodeHeader w =
      if isHeader w && w.extractLsb' 0 35 == 0#35 && ((headerFields w).barw || (headerFields w).barid == 0#4) then some (headerFields w)
      else none := rfl
  rw [e, Option.ite_none_right_eq_some]
  simp only [Bool.and_eq_true, Bool.or_eq_true, beq_iff_eq, Option.some.injEq]
  constructor
  · rintro ⟨⟨⟨hm, hz⟩, hb⟩, rfl⟩
    exact ⟨hm, hz, rfl, hb⟩
  · rintro ⟨hm, hz, rfl, hb⟩
    exact ⟨⟨⟨hm, hz⟩, hb⟩, rfl⟩

theorem isHeader_encodeHeader (h : Header) : isHeader (encodeHeader h) = true := by
  unfold isHeader encodeHeader
  iterate 9 rw [BitVec.extractLsb'_append_eq_of_le (by omega)]
  simp

theorem reserved_encodeHeader (h : Header) : (encodeHeader h).extractLsb' 0 35 = 0#35 :=
  BitVec.extractLsb'_append_eq_right

/-- The fields of a header are read back from its word. -/
theorem headerFields_encodeHeader (h : Header) : headerFields (encodeHeader h) = h := by
  obtain ⟨cls, count, prio, fscope, midle, tokw, barw, barid⟩ := h
  simp only [headerFields, encodeHeader, Header.mk.injEq]
  refine ⟨?_, ?_, ?_, ?_, ?_, ?_, ?_, ?_⟩ <;>
    (repeat rw [BitVec.extractLsb'_append_eq_of_le (by omega)]) <;>
    (try rw [BitVec.extractLsb'_append_eq_of_add_le (by omega)]) <;>
    (repeat rw [BitVec.getLsbD_append]) <;> simp

/-- One bit of a word, as a word of one bit. -/
theorem ofBool_getLsbD_eq_extractLsb' (w : DWord) (k : Nat) : BitVec.ofBool (w.getLsbD k) = w.extractLsb' k 1 := by
  ext i hi
  obtain rfl : i = 0 := by omega
  simp

/-- A word with a header's marker and zero reserved bits is the word of its fields: they stand side by side in it. -/
theorem encodeHeader_headerFields {w : DWord} (hm : isHeader w = true) (hz : w.extractLsb' 0 35 = 0#35) : encodeHeader (headerFields w) = w := by
  have hm : w.extractLsb' 60 4 = 0xC#4 := by simpa [isHeader] using hm
  unfold encodeHeader headerFields
  dsimp only
  rw [← hm, ← hz]
  simp only [ofBool_getLsbD_eq_extractLsb']
  iterate 9 rw [BitVec.extractLsb'_append_extractLsb'_eq_extractLsb' (by omega)]
  exact BitVec.extractLsb'_eq_self

/-- Settles O37: the fields of a header's word are its own, and a legal header is the word of its fields. -/
theorem headerRoundTrip : Obligations.HeaderRoundTrip := by
  unfold Obligations.HeaderRoundTrip
  refine ⟨fun h hb => ⟨isHeader_encodeHeader h, ?_⟩, fun w h hw => ?_⟩
  · exact decodeHeader_eq_some_iff.2 ⟨isHeader_encodeHeader h, reserved_encodeHeader h, headerFields_encodeHeader h, hb⟩
  · obtain ⟨hm, hz, rfl, hb⟩ := decodeHeader_eq_some_iff.1 hw
    exact ⟨encodeHeader_headerFields hm hz, hb⟩

/-- Settles O34: each word is the encoding of its instruction, which is well formed, and so it is read back as that one. -/
theorem decodedWordsOfEveryClass : Obligations.DecodedWordsOfEveryClass := by
  unfold Obligations.DecodedWordsOfEveryClass
  have reads : ∀ (i : Instr) (w : DWord), encode i = some w → wellFormed i = true → decode (bytesOfWord w) = .ok (i, []) :=
    fun i w he hw => decodeInvertsEncode i w [] he hw
  refine ⟨?_, ?_, ?_, ?_, ?_, ?_, ?_, ?_, ?_, ?_, ?_⟩ <;> exact reads _ _ (by decide) (by decide)

end Sys2Proof
end

section
/-!
PROOFS. What comes before an instruction's own effect (R39, R45, R46, R50, R51, R58, R59): the exceptions of a header, of a word and of the registers
that an instruction names.
-/
namespace Sys2Proof.Machine

/-- A fault at an instruction whose entry stands in the list: the entry forgets its attempt, and its group takes the exception there. -/
theorem State.raise_eq {s : State} {n : Issuer} {e : Entry} (code : Nat) (detail : DWord)
    (h : (s.grp n.core n.grp).frontier[n.ent]? = some e) :
    s.raise n code detail = (s.setGrp n.core n.grp { s.grp n.core n.grp with
      frontier := (s.grp n.core n.grp).frontier.set n.ent { e with note := [] } }).takeException n.core n.grp
        { code := code, detail := detail, tpc := wordAddr e.hdr e.idx, fe := n.ent } := by
  simp only [State.raise, h]

/-! #### The registers that an instruction names (R50, R51, R59) -/

/-- An instruction not under way whose fields fault has no effect of its own: its entry takes the exception of the fault. -/
theorem exec_fieldFault {i : Instr} {s : State} {n : Issuer} {code : Nat} (hn : s.issuer = some n) (hi : i.isStep = false)
    (hf : s.fieldFault n i = some code) : exec i s = .next (s.raise n code 0#64) := by
  rcases exec_step_or_issue i s with ⟨hs, -⟩ | ⟨-, gd, body, e⟩
  · rw [hi] at hs
    cases hs
  · rw [e, issue_next hn, hf]

section
variable {s : State} {n : Issuer} {e : Entry} {i : Instr}

/-- A pair that begins at an odd register is ILLEGAL_OP, whatever registers are named besides. -/
theorem State.fieldFault_odd (he : (s.grp n.core n.grp).frontier[n.ent]? = some e) (hu : e.underWay = false)
    (ho : s.oddPair n.core n.grp i = true) : s.fieldFault n i = some Code.ILLEGAL_OP := by
  simp [State.fieldFault, he, hu, ho]

/-- Without such a pair, a register at or above the group's count is REGIDX. -/
theorem State.fieldFault_high (he : (s.grp n.core n.grp).frontier[n.ent]? = some e) (hu : e.underWay = false)
    (ho : s.oddPair n.core n.grp i = false) (hr : ∃ r ∈ s.vregsOf n.core n.grp i, (s.grp n.core n.grp).count ≤ r) :
    s.fieldFault n i = some Code.REGIDX := by
  have hr : ((s.vregsOf n.core n.grp i).any fun r => (s.grp n.core n.grp).count ≤ r) = true := by simpa using hr
  simp only [State.fieldFault, he, hu, ho, hr, Option.any_some, Bool.false_eq_true, if_false, if_true]

end

/-- One byte of an image, as a number. -/
theorem sliceNat_one (bs : List Byte) (k : Nat) : sliceNat bs k 1 = ((bs[k]?).getD 0#8).toNat := by
  unfold sliceNat
  cases h : bs[k]? with
  | none => simp [List.drop_eq_nil_of_le (List.getElem?_eq_none_iff.1 h), leNat]
  | some b =>
    obtain ⟨hk, rfl⟩ := List.getElem?_eq_some_iff.1 h
    rw [List.drop_eq_getElem_cons hk]
    rfl

/-- A handle of the group's launch whose elements are 8 bytes (R239, R242). -/
theorem State.wideHandle_eq_true {s : State} {c p : Nat} {sa : BitVec 8} (hn : (s.sr c p sa.toNat).toNat < 64)
    (ho : (aget ({} : Handle) (s.core c).handles (s.sr c p sa.toNat).toNat).owner = some (s.grp c p).node)
    (hk : ((aget ({} : Handle) (s.core c).handles (s.sr c p sa.toNat).toNat).desc[16]?).getD 0#8 = 0#8)
    (he : ((aget ({} : Handle) (s.core c).handles (s.sr c p sa.toNat).toNat).desc[17]?).getD 0#8 = 3#8) : s.wideHandle c p sa = true := by
  simp [State.wideHandle, sliceNat_one, hn, ho, hk, he]

/-- Settles O40: the fault of an instruction's fields, and the registers that they name. -/
theorem registerIndexTrap : Obligations.RegisterIndexTrap := by
  unfold Obligations.RegisterIndexTrap
  refine ⟨fun i s n e hn hi he hu => ?_, fun g d a b => ⟨rfl, rfl, rfl⟩, fun s c p g d sa vb vc k nf bs => ?_,
    fun s c p g sd sa d a vb sc h1 h2 => ⟨?_, rfl⟩⟩
  · intro takes
    have faults : ∀ {code}, s.fieldFault n i = some code → takes code :=
      fun hf => (exec_fieldFault hn hi hf).trans (congrArg _ (State.raise_eq _ _ he))
    exact ⟨fun ho => faults (State.fieldFault_odd he hu ho), fun ho hr => faults (State.fieldFault_high he hu ho hr)⟩
  · intro h hn ho hk he
    have hw : s.wideHandle c p sa = true := State.wideHandle_eq_true hn ho hk he
    simp [State.vregsAt, State.oddPair, hw]
  · have hc : max 1 (min 257 (s.sr c p sc.toNat).toNat) = (s.sr c p sc.toNat).toNat := by omega
    simp only [State.vregsAt, hc]

/-! #### Headers and words (R39, R45, R46, R58) -/

section
variable {s : State} {c p k cls : Nat} {e : Entry} {h : Header} {w : DWord}

theorem Entry.running_eq_none (hu : e.underWay = false) : e.running = none := by
  simp [Entry.running, hu]

theorem State.headerAt_misaligned (hu : e.underWay = false) (ha : e.hdr.toNat % 8 ≠ 0) : s.headerAt c p e = .error Code.ILLEGAL_TARGET := by
  simp [State.headerAt, Entry.running_eq_none hu, ha]

/-- A word without a header's marker is no target (R46). -/
theorem State.headerAt_unmarked (hu : e.underWay = false) (ha : e.hdr.toNat % 8 = 0) (hf : s.fetchWord c p e.hdr = .ok w)
    (hm : isHeader w = false) : s.headerAt c p e = .error Code.ILLEGAL_TARGET := by
  simp [State.headerAt, Entry.running_eq_none hu, ha, hf, hm]

/-- A word with the marker that breaks R39 is an illegal header. -/
theorem State.headerAt_reserved (hu : e.underWay = false) (ha : e.hdr.toNat % 8 = 0) (hf : s.fetchWord c p e.hdr = .ok w)
    (hm : isHeader w = true) (hd : decodeHeader w = none) : s.headerAt c p e = .error Code.ILLEGAL_OP := by
  simp [State.headerAt, Entry.running_eq_none hu, ha, hf, hm, hd]

theorem State.headerAt_ok (hu : e.underWay = false) (ha : e.hdr.toNat % 8 = 0) (hf : s.fetchWord c p e.hdr = .ok w)
    (hd : decodeHeader w = some h) : s.headerAt c p e = .ok h := by
  have hm : isHeader w = true := (decodeHeader_eq_some_iff.1 hd).1
  simp [State.headerAt, Entry.running_eq_none hu, ha, hf, hm, hd]

/-- A word of the clause that does not decode is illegal (R58). -/
theorem State.instrAt_undecoded {err : DecodeError} (hu : e.underWay = false) (hi : e.idx ≤ h.count.toNat)
    (hf : s.fetchWord c p (wordAddr e.hdr e.idx) = .ok w) (hd : decodeWord w = .error err) :
    s.instrAt c p e h = .error Code.ILLEGAL_OP := by
  simp [State.instrAt, Entry.running_eq_none hu, Nat.not_lt.2 hi, hf, hd]

/-- So is an instruction of another class than its clause's, and a transfer before the clause's last word (R45). -/
theorem State.instrAt_misplaced {i : Instr} (hu : e.underWay = false) (hi : e.idx ≤ h.count.toNat)
    (hf : s.fetchWord c p (wordAddr e.hdr e.idx) = .ok w) (hd : decodeWord w = .ok i)
    (hb : (classOf (opcodeOf w)).code ≠ h.cls.toNat ∨ (i.isTransfer = true ∧ e.idx ≠ h.count.toNat)) :
    s.instrAt c p e h = .error Code.ILLEGAL_OP := by
  by_cases hc : (classOf (opcodeOf w)).code = h.cls.toNat
  · have ht := hb.resolve_left (not_not_intro hc)
    simp [State.instrAt, Entry.running_eq_none hu, Nat.not_lt.2 hi, hf, hd, hc, ht]
  · simp [State.instrAt, Entry.running_eq_none hu, Nat.not_lt.2 hi, hf, hd, hc]

/-- An entry at a position without a legal header issues nothing: its group takes the header's fault at the header (R39, R46). -/
theorem State.comeToIssue_headerFault {code : Nat} (he : (s.grp c p).frontier[k]? = some e) (hh : s.headerAt c p e = .error code)
    (hc : code = Code.ILLEGAL_TARGET ∨ code = Code.ILLEGAL_OP) :
    s.comeToIssue c p k cls = .idle (s.takeException c p
      { code := code, detail := if code == Code.ILLEGAL_TARGET then e.src else 0#64, tpc := e.hdr, fe := k }) := by
  have hc : (code == Code.ILLEGAL_TARGET || code == Code.ILLEGAL_OP) = true := by simpa using hc
  simp only [State.comeToIssue, he, hh, State.headerFault, hc, if_true]

/-- An entry at a word that is no legal instruction of its clause issues nothing: its group takes ILLEGAL_OP at the word (R45, R58). -/
theorem State.comeToIssue_wordFault (he : (s.grp c p).frontier[k]? = some e) (hu : e.underWay = false) (hh : s.headerAt c p e = .ok h)
    (hc : s.comparator c p e = none) (hi : s.instrAt c p e h = .error Code.ILLEGAL_OP) :
    s.comeToIssue c p k cls = .idle ((s.setGrp c p { s.grp c p with
      frontier := (s.grp c p).frontier.set k { e with note := [] } }).takeException c p
        { code := Code.ILLEGAL_OP, detail := 0#64, tpc := wordAddr e.hdr e.idx, fe := k }) := by
  simp only [State.comeToIssue, he, hh, hu, hc, hi, BEq.rfl, Bool.false_eq_true, if_false, if_true]
  exact congrArg Pick.idle (State.raise_eq (n := { core := c, grp := p, ent := k, count := h.count.toNat }) _ _ he)

end

/-- Settles O57: what the position gives, and then what the word gives. -/
theorem illegalInstructionTraps : Obligations.IllegalInstructionTraps := by
  unfold Obligations.IllegalInstructionTraps
  intro s c p k cls e h w v i err takes takesAt word here clause
  have wordTraps : here → clause → s.instrAt c p e h = .error Code.ILLEGAL_OP → takesAt Code.ILLEGAL_OP word :=
    fun ⟨he, hu⟩ ⟨ha, hf, _, hd, hc⟩ hi => State.comeToIssue_wordFault he hu (State.headerAt_ok hu ha hf hd) hc hi
  refine ⟨fun ⟨he, hu⟩ ha => ?_, fun ⟨he, hu⟩ ha hf hm => ?_, fun ⟨he, hu⟩ ha hf hm hd => ?_, fun hr hc hi hf hd => ?_,
    fun hr hc hi hf hd hb => ?_⟩
  · exact State.comeToIssue_headerFault he (State.headerAt_misaligned hu ha) (.inl rfl)
  · exact State.comeToIssue_headerFault he (State.headerAt_unmarked hu ha hf hm) (.inl rfl)
  · exact State.comeToIssue_headerFault he (State.headerAt_reserved hu ha hf hm hd) (.inr rfl)
  · exact wordTraps hr hc (State.instrAt_undecoded hr.2 hi hf hd)
  · exact wordTraps hr hc (State.instrAt_misplaced hr.2 hi hf hd hb)

end Sys2Proof.Machine
end

section
/-!
PROOFS. The steps of an access (R61, R201, R204 to R214): at its home, under a pin, with its data and its acknowledgement, and at a peer.
-/
namespace Sys2Proof.Machine

/-- An access of device memory that may be performed at its home now: nothing earlier holds it, and no pin refuses it. -/
def State.atHome (s : State) (a : Access) : Prop :=
  a.done = false ∧ a.sent = false ∧ a.lost = false ∧ s.accessReady a = true ∧ windowOf a.pa = some .device ∧ s.refuses a = false

theorem State.atHome.device {s : State} {a : Access} (h : s.atHome a) : windowOf a.pa = some .device := by
  obtain ⟨-, -, -, -, hw, -⟩ := h
  exact hw

/-- Whether an atomic may pin its line now: no pin stands on it, its core holds less than 64, and the line's leases have run out (R209). -/
def State.pinnable (s : State) (a : Access) : Prop :=
  s.pinOf a.line = none ∧ (s.pins.filter (·.core == a.core)).length < 64 ∧ aget 0 s.leases a.line ≤ s.dtime

/-- The line of an access pinned by its core, no copy of it left (R209). -/
def State.pinned (s : State) (a : Access) : State :=
  { s with
    pins := s.pins ++ [{ line := a.line, core := a.core, node := (s.grp a.core a.grp).node, slot := (s.grp a.core a.grp).slot }]
    l1 := s.l1.filter fun y => y.line != a.line
    stipple := s.stipple.filter fun y => y.line != a.line }

/-- An access is found by its own number. -/
theorem State.id_of_access {s : State} {id : Nat} {a : Access} (h : s.access id = some a) : a.id = id := by
  simpa using List.find?_some h

theorem State.access_self {s : State} {id : Nat} {a : Access} (h : s.access id = some a) : s.access a.id = some a := by
  rw [State.id_of_access h, h]

theorem State.readAt_device {s : State} {pa : Nat} (n : Nat) (h : windowOf pa = some .device) : s.readAt pa n = s.bytes pa n := by
  simp only [State.readAt, h]

/-! #### Performing at the home (R204 to R208) -/

section
variable {s : State} {a : Access}

/-- A line of device memory that is read reaches the caches, unless it is pinned. -/
theorem State.takeLine_device (hw : windowOf a.pa = some .device) :
    s.takeLine a = if (s.pinOf a.line).isSome then s else if a.stip then s.grantStipple a.core a.line
      else if a.nl1 then s.freshenCopy a.core a.line else s.grantLease a.core a.line := by
  simp [State.takeLine, hw]

theorem State.performHome_load (hk : a.kind = .load) :
    s.performHome a = (((s.takeLine a).readScale a).2.setAccess
      { a with done := true, value := s.readAt a.pa a.n, scale := ((s.takeLine a).readScale a).1 }).post .loadDataWritten [a.id] := by
  simp only [State.performHome, hk]

theorem State.performHome_store (hk : a.kind = .store) (hw : windowOf a.pa = some .device) :
    s.performHome a = (((s.setBytes a.pa a.data).setAccess
      { a with done := true, wct := (s.setBytes a.pa a.data).wctFor a.core a.line }).post .storeAcknowledgement [a.id]).wakeWaits := by
  simp [State.performHome, hk, hw]

/-- An atomic on the bytes that stand at its address gives them, and writes what its operation makes of them. -/
theorem State.performHome_atomic {aop : Nat} {old new : List Byte} (hk : a.kind = .atomic aop) (hw : windowOf a.pa = some .device)
    (ho : s.bytes a.pa a.n = old) (hn : leBytes a.n (atomicNew aop a.n (leNat old) (leNat a.data) (leNat a.cmp)) = new) :
    s.performHome a = (((s.setBytes a.pa new).setAccess
      { a with done := true, value := old, data := new, wct := (s.setBytes a.pa new).wctFor a.core a.line }).post
        .storeAcknowledgement [a.id]).wakeWaits := by
  subst ho hn
  simp [State.performHome, hk, hw, State.readAt_device]

/-! #### What leads to the home, and to a pin -/

variable {id : Nat}

theorem State.homeRequest_atHome (hf : s.access id = some a) (h : s.atHome a) : s.homeRequest id = s.performHome a := by
  obtain ⟨hd, hs, hl, hr, hw, hn⟩ := h
  simp [State.homeRequest, hf, hd, hs, hl, hr, hw, hn]

/-- On a line that its own core has pinned an atomic is performed without a further pin. -/
theorem State.takePin_held (hf : s.access id = some a) (h : s.atHome a) (hp : (s.pinOf a.line).isSome = true) :
    s.takePin id = s.performHome a := by
  obtain ⟨hd, -, -, hr, hw, hn⟩ := h
  simp [State.takePin, hf, hd, hr, hw, hn, hp]

theorem State.takePin_free (hf : s.access id = some a) (h : s.atHome a) (hp : s.pinnable a) :
    s.takePin id = (s.pinned a).performHome a := by
  obtain ⟨hd, -, -, hr, hw, hn⟩ := h
  obtain ⟨hnone, hroom, hlease⟩ := hp
  simp [State.takePin, hf, hd, hr, hw, hn, hnone, Nat.not_le.2 hroom, Nat.not_lt.2 hlease, State.pinned]

/-! #### The steps themselves -/

theorem State.arg_zero (h : s.subject.nums = [id]) : s.arg 0 = id := State.arg_of_nums h 0

/-- A found access that may be performed at its home now is performed there (R208). -/
theorem execHomeRequest_atHome (hf : s.subject.nums = [id] ∧ s.access id = some a) (h : s.atHome a) :
    execHomeRequest s = .next (s.performHome a) := by
  rw [execHomeRequest, State.arg_zero hf.1, State.homeRequest_atHome hf.2 h]

/-- A retried access is made again (R210): an atomic of block scope or narrower by way of a pin, any other at the home. -/
theorem execRetry_wide (hf : s.subject.nums = [id] ∧ s.access id = some a) (hk : ∀ aop, a.kind = .atomic aop → 2 < a.scope) (h : s.atHome a) :
    execRetry s = .next (s.performHome a) := by
  have ha := State.homeRequest_atHome (State.access_self hf.2) h
  rw [execRetry, State.arg_zero hf.1, hf.2]
  cases e : a.kind with
  | load | store => simp only [e, ha]
  | atomic aop => simp only [e, ha, Nat.not_le.2 (hk aop e), if_false]

theorem execRetry_narrow {aop : Nat} (hf : s.subject.nums = [id] ∧ s.access id = some a) (hk : a.kind = .atomic aop) (hs : a.scope ≤ 2) :
    execRetry s = .next (s.takePin a.id) := by
  simp only [execRetry, State.arg_zero hf.1, hf.2, hk, hs, if_true]

theorem execTakingAPin_free (hf : s.subject.nums = [id] ∧ s.access id = some a) (h : s.atHome a) (hp : s.pinnable a) :
    execTakingAPin s = .next ((s.pinned a).performHome a) := by
  rw [execTakingAPin, State.arg_zero hf.1, State.takePin_free hf.2 h hp]

/-- The data of a load that has been performed reach its registers (R61). -/
theorem execLoadDataWritten_done (hf : s.subject.nums = [id] ∧ s.access id = some a) (hk : a.kind = .load) (hd : a.done = true)
    (hp : a.keep = false) (hw : a.win = none) :
    execLoadDataWritten s = .next ((s.putDest a.core a.grp false a.dest (loadWords a.value a.sext)).dropAccess a.id) := by
  simp [execLoadDataWritten, State.arg_zero hf.1, State.loadData, hf.2, hk, hd, hp, State.deliver, hw]

/-- A store that has been performed is acknowledged (R201): the copy in the issuing L1 takes the line's new bytes, or goes for .nl1, and the
write-completion time rises. -/
theorem execStoreAcknowledgement_store (hf : s.subject.nums = [id] ∧ s.access id = some a) (hk : a.kind = .store) (hd : a.done = true)
    (hg : a.gath = false) : execStoreAcknowledgement s =
      .next (let u := if windowOf a.pa != some .device then s
               else if a.nl1 then { s with
                 l1 := s.l1.filter fun y => !(y.core == s.l1Of a.core a.line && y.line == a.line)
                 stipple := s.stipple.filter fun y => !(s.l1Of y.core y.line == s.l1Of a.core a.line && y.line == a.line) }
               else s.freshenCopy a.core a.line
             (u.foldWct a.core a.grp a.uid a.id a.wct).dropAccess a.id) := by
  have hs : (AccKind.store == .load || !a.done || a.gath) = false := by simp [hd, hg]
  simp only [execStoreAcknowledgement, State.arg_zero hf.1, State.storeAck, hf.2, hs, hk, Bool.false_eq_true, if_false]

/-- The line of a pin that has refused for 16,384 cycles is unpinned (R211). -/
theorem execPinTimeout_due {line : Nat} {q : Pin} (hn : s.subject.nums = [line]) (hq : q ∈ s.pins) (hl : q.line = line)
    (hr : 16384 ≤ q.refused) : execPinTimeout s = .next (s.unpin line) := by
  have hdue : s.pins.any (fun q => q.line == line && 16384 ≤ q.refused) = true := List.any_eq_true.2 ⟨q, hq, by simp [hl, hr]⟩
  rw [execPinTimeout, State.arg_zero hn, if_pos hdue]

/-- A peer's answer fills a load that has been sent (R214). -/
theorem execRemoteDeviceAccess_load (hf : s.subject.nums = [id] ∧ s.access id = some a) (hs : a.sent = true) (hd : a.done = false)
    (hl : a.lost = false) (hk : a.kind = .load) :
    execRemoteDeviceAccess s = .next (((s.setAccess { a with done := true, value := slice s.subject.bytes 0 a.n }).dropPacketOf id).post
      .loadDataWritten [id]) := by
  simp [execRemoteDeviceAccess, State.arg_zero hf.1, State.remoteAccess, hf.2, hs, hd, hl, hk]

end

/-- Settles O27, step by step. -/
theorem memoryStepResults : Obligations.MemoryStepResults := by
  unfold Obligations.MemoryStepResults
  intro s id line a aop q found local_ old new t w loaded stored swapped pinnable pinned
  have hload : s.atHome a → a.kind = .load → s.performHome a = loaded := fun h hk => by
    rw [State.performHome_load hk, State.takeLine_device h.device]
  have hstore : s.atHome a → a.kind = .store → s.performHome a = stored := fun h hk => State.performHome_store hk h.device
  have hatomic : s.atHome a → a.kind = .atomic aop → s.performHome a = swapped s := fun h hk =>
    State.performHome_atomic hk h.device (State.readAt_device a.n h.device).symm rfl
  have hpinned : s.atHome a → a.kind = .atomic aop → (s.pinned a).performHome a = pinned := fun h hk =>
    State.performHome_atomic hk h.device (State.readAt_device a.n h.device).symm rfl
  refine ⟨fun hf h hk => ?_, fun hf h hk => ?_, fun hf h hk _ => ?_, fun hf h hk => ?_, fun hf h hk => ?_, fun hf h hk hs => ?_,
    fun hf h hk hs hp => ?_, fun hf hk hd hp hw => execLoadDataWritten_done hf hk hd hp hw,
    fun hf hk hd hg => execStoreAcknowledgement_store hf hk hd hg,
    fun hf h hk _ hp => ?_,
    fun hn hq hl hr => execPinTimeout_due hn hq hl hr, fun hf hs hd hl hk => execRemoteDeviceAccess_load hf hs hd hl hk⟩
  · exact (execHomeRequest_atHome hf h).trans (congrArg _ (hload h hk))
  · exact (execHomeRequest_atHome hf h).trans (congrArg _ (hstore h hk))
  · exact (execHomeRequest_atHome hf h).trans (congrArg _ (hatomic h hk))
  · exact (execRetry_wide hf (by simp [hk]) h).trans (congrArg _ (hload h hk))
  · exact (execRetry_wide hf (by simp [hk]) h).trans (congrArg _ (hstore h hk))
  · by_cases hw : 2 < a.scope
    · exact (execRetry_wide hf (fun _ _ => hw) h).trans (congrArg _ (hatomic h hk))
    · refine (execRetry_narrow hf hk (Nat.not_lt.1 hw)).trans (congrArg _ ?_)
      exact (State.takePin_held (State.access_self hf.2) h (hs.resolve_left hw)).trans (hatomic h hk)
  · exact (execRetry_narrow hf hk hs).trans (congrArg _ ((State.takePin_free (State.access_self hf.2) h hp).trans (hpinned h hk)))
  · exact (execTakingAPin_free hf h hp).trans (congrArg _ (hpinned h hk))

end Sys2Proof.Machine
end

section
/-!
PROOFS. Control transfers (R70 to R76, R89): each answers the state in which its lanes stand at their targets, and beside its group's entries
changes its link, its counter and its status alone.
-/
namespace Sys2Proof.Machine

/-- Settles O8, transfer by transfer: each issues as its own effect. -/
theorem transferResults : Obligations.TransferResults := by
  unfold Obligations.TransferResults exec
  intro s n g a d ofs st hint f64
  exact ⟨fun h => issue_eff h rfl, fun h => issue_done h rfl, fun h => issue_done h rfl, fun h => issue_done h rfl,
    fun h => issue_done h rfl, fun h => issue_done h rfl, fun h => issue_done h rfl, fun h => issue_done h rfl, fun h => issue_done h rfl⟩

/-! #### Moves of the entry -/

/-- A meaning that moves its entry itself, and whose effect is otherwise on the destinations w at most. -/
def MovesOnly (body : Ctx → State → Res) (w : Dests) : Prop :=
  ∀ (s : State) (n : Issuer) (gd : Guard), ∃ t, body (s.ctx n gd) s = .done t ∧ s.changesOnly t n w

theorem MovesOnly.issue {i : Instr} {gd : Guard} {body : Ctx → State → Res} {w : Dests} {s : State} {n : Issuer} (h : MovesOnly body w)
    (hr : s.runs n i) : ∃ t, issue i gd body s = .next t ∧ s.changesOnly t n w := by
  obtain ⟨t, ht, hc⟩ := h s n gd
  exact ⟨t, issue_done hr ht, hc⟩

section
variable {s t : State} {n : Issuer} {gd : Guard} {w : Dests}

/-- The parts of a split take the place of the issuing entry, and nothing else changes (R64). -/
theorem Ctx.split_eq (x : Ctx) (parts : List (DWord × Word)) (s : State) :
    ∃ es, x.split parts s = s.setGrp x.c x.p { s.grp x.c x.p with frontier := es } := ⟨_, rfl⟩

theorem State.changesOnly_frontier (es : List Entry) : t.changesOnly (t.setGrp n.core n.grp { t.grp n.core n.grp with frontier := es }) n w :=
  State.changesOnly_grp rfl (fun _ _ => rfl) (fun _ => rfl) (fun _ => rfl)

theorem Ctx.changesOnly_split (parts : List (DWord × Word)) : t.changesOnly ((s.ctx n gd).split parts t) n w := by
  obtain ⟨es, he⟩ := (s.ctx n gd).split_eq parts t
  rw [he]
  exact State.changesOnly_frontier es

theorem Ctx.changesOnly_branch (hint : Bool) (target : DWord) (taken : Word) : t.changesOnly ((s.ctx n gd).branch hint target taken t) n w :=
  Ctx.changesOnly_split _

theorem Ctx.changesOnly_scatter (dest : Nat → DWord) : t.changesOnly ((s.ctx n gd).scatter dest t) n w :=
  Ctx.changesOnly_split _

theorem State.changesOnly_nodes (h : s.changesOnly t n w) : t.nodes = s.nodes := by
  obtain ⟨ht, -⟩ := h
  rw [ht]

theorem State.setNode_setGrp_nodes (t : State) (k c p : Nat) (d : Node) (g : Group) :
    { (t.setNode k d).setGrp c p g with nodes := t.nodes } = t.setGrp c p g := by
  simp only [State.setGrp, State.setNode]

/-- Lanes that transfer once a node may have been marked: apart from the mark, their move changes their group's entries alone (R76). -/
theorem Ctx.changesOnly_branch_mark (h : s.changesOnly t n w) (c : Bool) (k : Nat) (d : Node) (hint : Bool) (target : DWord) (taken : Word) :
    s.changesOnly { (s.ctx n gd).branch hint target taken (if c then t.setNode k d else t) with nodes := s.nodes } n w := by
  refine State.changesOnly_trans h ?_
  rw [← State.changesOnly_nodes h]
  cases c with
  | false => exact Ctx.changesOnly_branch _ _ _
  | true =>
    obtain ⟨es, he⟩ := (s.ctx n gd).split_eq _ (t.setNode k d)
    rw [Ctx.branch, if_pos rfl, he, State.setNode_setGrp_nodes]
    exact State.changesOnly_frontier es

end

/-! #### The transfers with a result (R73, R75, R76) -/

theorem movesOnly_call (a : VS) (hint : Bool) (target : Ctx → DWord) (ret : Ctx → DWord) :
    MovesOnly (fun x s => .done (x.branch hint (target x) x.live (x.put64 a (fun _ => ret x) s))) (vsDest a true) :=
  fun _ _ _ => ⟨_, rfl, State.changesOnly_trans (Ctx.changesOnly_put64 _ (vsDest_two a)) (Ctx.changesOnly_branch _ _ _)⟩

theorem movesOnly_callx (d : VS) (dest : Ctx → State → Nat → DWord) (ret : Ctx → DWord) :
    MovesOnly (fun x s => .done (x.scatter (dest x s) (x.put64 d (fun _ => ret x) s))) (vsDest d true) :=
  fun _ _ _ => ⟨_, rfl, State.changesOnly_trans (Ctx.changesOnly_put64 _ (vsDest_two d)) (Ctx.changesOnly_scatter _)⟩

theorem movesOnly_loopBody (hint : Bool) (a : VS) (ofs : BitVec 32) : MovesOnly (loopBody hint a ofs) (vsDest a false) :=
  fun _ _ _ => ⟨_, rfl, State.changesOnly_trans (Ctx.changesOnly_put _ (vsDest_one a false)) (Ctx.changesOnly_branch _ _ _)⟩

/-- ITER writes its counter, its status and its flags, may mark its node, and then its lanes transfer (R76). -/
theorem iterBody_eq (hint f64 : Bool) (st : BitVec 3) (a : VS) (ofs : BitVec 32) (s : State) (n : Issuer) (gd : Guard) :
    ∃ (t : State) (taken : Word) (late : Bool) (k : Nat) (d : Node),
      iterBody hint f64 st.toNat a ofs (s.ctx n gd) s =
        .done ((s.ctx n gd).branch hint ((s.ctx n gd).target ofs) taken (if late then t.setNode k d else t)) ∧
      s.changesOnly t n { vsDest ⟨a.sc, a.n + (if f64 then 4#8 else 2#8)⟩ false with p := [st.toNat], fl := true } := by
  have counter : VS.mk a.sc (a.n + (if f64 then 4#8 else 2#8)) = ⟨a.sc, a.n + BitVec.ofNat 8 (if f64 then 4 else 2)⟩ := by cases f64 <;> rfl
  rw [counter]
  refine ⟨_, _, _, _, _, rfl, State.changesOnly_trans (State.changesOnly_trans (Ctx.changesOnly_put _ ?_) (State.changesOnly_setP _ ?_))
    (State.changesOnly_orFlags _ rfl)⟩
  · exact vsDest_one _ false
  · exact List.mem_singleton.2 rfl

/-! #### EXIT (R74) -/

/-- Lanes that exit from a group in whose block nothing waits for them leave their group's end, at most. -/
theorem State.afterExit_quiet {s : State} {c p : Nat} (hj : ∀ k, (s.jreg c p k).armed = false) (hr : ∀ q, (s.grp c q).regrp = none)
    (hb : (s.blockOf c p).regroups = []) (m : Word) :
    s.afterExit c p m = if (s.grp c p).liveMask == 0#32 then s.post .groupEnd [c, p] else s := by
  have hdrop : ∀ ks : List Nat, ks.foldl (fun s k => s.dropJ c p k m) s = s := by
    intro ks
    induction ks with
    | nil => rfl
    | cons k ks ih => rw [List.foldl_cons, State.dropJ, hj k]; exact ih
  have hb : (s.blkAt c (s.grp c p).slot).regroups = [] := hb
  have hnone : ((s.residents c).filter fun q => (s.grp c q).slot == (s.grp c p).slot && (s.grp c q).regrp.isSome) = [] :=
    List.filter_eq_nil_iff.2 fun q _ => by simp only [hr q, Option.isSome_none, Bool.and_false, Bool.false_eq_true, not_false_eq_true]
  simp only [State.afterExit, hdrop, hnone, hb, List.foldl_nil]

theorem State.setGrp_sameData (s : State) (c p : Nat) (h : Group) : s.sameData (s.setGrp c p h) := ⟨rfl, rfl, rfl, rfl, rfl, rfl, rfl⟩

/-- A group that is written and then split keeps what no split touches. -/
theorem Ctx.split_setGrp (x : Ctx) (parts : List (DWord × Word)) (s : State) (h : Group) :
    ∃ k : Group, x.split parts (s.setGrp x.c x.p h) = s.setGrp x.c x.p k ∧ k.jregs = h.jregs ∧ k.regrp = h.regrp ∧ k.slot = h.slot := by
  obtain ⟨es, he⟩ := x.split_eq parts (s.setGrp x.c x.p h)
  exact ⟨{ h with frontier := es }, by rw [he, State.setGrp_setGrp, State.grp_setGrp_self], rfl, rfl, rfl⟩

/-- Nor does their exit change data, whatever entries and live lanes the group is left with. -/
theorem State.afterExit_setGrp_sameData {s : State} {c p : Nat} {h : Group} (hj : ∀ k, (s.jreg c p k).armed = false)
    (hr : ∀ q, (s.grp c q).regrp = none) (hb : (s.blockOf c p).regroups = [])
    (ej : h.jregs = (s.grp c p).jregs) (er : h.regrp = (s.grp c p).regrp) (eb : h.slot = (s.grp c p).slot) (m : Word) :
    s.sameData ((s.setGrp c p h).afterExit c p m) := by
  rw [State.afterExit_quiet ?joins ?regroups ?block m]
  case joins =>
    intro k
    rw [State.jreg, State.grp_setGrp_self, ej]
    exact hj k
  case regroups =>
    intro q
    rw [State.grp_setGrp]
    split
    · rw [er]
      exact hr p
    · exact hr q
  case block =>
    rw [State.blockOf, State.grp_setGrp_self, eb]
    exact hb
  split
  · exact State.sameData_trans (s.setGrp_sameData c p h) (State.sameData_post _ _ _)
  · exact s.setGrp_sameData c p h

/-- EXIT then changes no data (R74). -/
theorem exitBody_sameData {s : State} {n : Issuer} (gd : Guard) (hj : ∀ k, (s.jreg n.core n.grp k).armed = false)
    (hr : ∀ q, (s.grp n.core q).regrp = none) (hb : (s.blockOf n.core n.grp).regroups = []) :
    ∃ t, exitBody (s.ctx n gd) s = .done t ∧ s.sameData t := by
  refine ⟨_, rfl, ?_⟩
  obtain ⟨k, hk, ej, er, eb⟩ := (s.ctx n gd).split_setGrp [((s.ctx n gd).fall, (s.ctx n gd).e.mask &&& ~~~(s.ctx n gd).live)] s
    { s.grp (s.ctx n gd).c (s.ctx n gd).p with liveMask := (s.grp (s.ctx n gd).c (s.ctx n gd).p).liveMask &&& ~~~(s.ctx n gd).live }
  rw [hk]
  split
  · exact s.setGrp_sameData _ _ k
  · exact State.afterExit_setGrp_sameData hj hr hb ej er eb _

/-- Settles O51: the transfers move their entry and write their destinations, and EXIT, with nothing waiting for its lanes, only its group. -/
theorem transferFrame : Obligations.TransferFrame := by
  unfold Obligations.TransferFrame exec
  intro s n g hint f64 d a st ofs leaves count
  refine ⟨WritesOnly.issue fun s n _ => ⟨s, rfl, s.changesOnly_refl n {}⟩, MovesOnly.issue fun _ _ _ => ⟨_, rfl, Ctx.changesOnly_branch _ _ _⟩,
    MovesOnly.issue fun _ _ _ => ⟨_, rfl, Ctx.changesOnly_scatter _⟩, MovesOnly.issue fun _ _ _ => ⟨_, rfl, Ctx.changesOnly_scatter _⟩,
    (movesOnly_call _ _ _ _).issue, (movesOnly_callx _ _ _).issue, (movesOnly_loopBody _ _ _).issue, fun hr => ?iter, fun hr hj hg hb => ?exit⟩
  case iter =>
    obtain ⟨t, taken, late, k, d, ht, hc⟩ := iterBody_eq hint f64 st a ofs s n g
    exact ⟨_, issue_done hr ht, Ctx.changesOnly_branch_mark hc _ _ _ _ _ _⟩
  case exit =>
    obtain ⟨t, ht, hs⟩ := exitBody_sameData g hj hg hb
    have hbyte := State.sameData_byte hs
    obtain ⟨-, -, hpool, hv, hsr, hp, hq⟩ := hs
    exact ⟨t, issue_done hr ht, hv, hsr, hp, hq, hpool, hbyte⟩

end Sys2Proof.Machine
end

section
/-!
PROOFS. Rejoin registers, regrouping, YIELD and SLEEP (R77 to R88): what each body comes to once nothing stands against it.
-/
namespace Sys2Proof.Machine

section
variable {x : Ctx} {s : State}

/-! #### Rejoin registers (R77 to R82) -/

/-- JARM arms a rejoin register in which no lane has arrived (R78). -/
theorem jarmBody_idle {j : Nat} (mask : Word) (tmo : Nat) (ns : Bool) (h : (s.jreg x.c x.p j).arr = 0#32) :
    jarmBody j mask tmo ns x s = .ok (s.setJreg x.c x.p j
      { armed := mask &&& x.g.liveMask != 0#32, exp := mask &&& x.g.liveMask, arr := 0#32, tmo := tmo, ns := ns }) := by
  simp [jarmBody, h]

/-- The lanes of Active that a JWAIT parks: those that an armed register expects (R79). -/
def Ctx.parks (x : Ctx) (j : Nat) (s : State) : Word := if (s.jreg x.c x.p j).armed then x.live &&& (s.jreg x.c x.p j).exp else 0#32

/-- A JWAIT that parks none sets their flags, and its entry goes on. -/
theorem jwaitBody_passes {j : Nat} (pd : Nat) (h : x.parks j s = 0#32) :
    jwaitBody pd j x s = .ok (s.setP x.c x.p pd (s.p x.c x.p pd ||| (x.active &&& ~~~x.parks j s))) := by
  have h' : (x.parks j s == 0#32) = true := by simp [h]
  exact if_pos h'

/-- One that parks lanes takes them out of its entry, and they have arrived (R79). -/
theorem jwaitBody_parks {j : Nat} (pd : Nat) (h : x.parks j s ≠ 0#32) :
    jwaitBody pd j x s =
      .done (let r := s.jreg x.c x.p j
             let t := s.setP x.c x.p pd (s.p x.c x.p pd ||| (x.active &&& ~~~x.parks j s))
             let g := t.grp x.c x.p
             let pos := nextPos x.e.hdr x.e.idx x.n.count
             let rest := { x.e with mask := x.e.mask &&& ~~~x.parks j s }
             let u := t.setGrp x.c x.p { g with
               frontier := replaceAt g.frontier x.n.ent (if rest.mask == 0#32 then [] else [t.stepEntry x.c x.p x.n.count rest]),
               parked := addPark g.parked { kind := .jwait, mask := x.parks j s, hdr := pos.1, idx := pos.2, j := j, pd := pd, src := x.pc } }
             (u.setJreg x.c x.p j { r with
               arr := r.arr ||| x.parks j s, timing := true, left := if r.timing then r.left else r.tmo }).checkJ x.c x.p j) := by
  have h' : ¬ (x.parks j s == 0#32) = true := by simpa using h
  exact if_neg h'

/-! #### Regrouping (R84, R85) -/

/-- No fault is owed to a group that no failed regrouping of its block names (R84). -/
theorem State.takeOwed_none {c p : Nat} (h : ∀ o ∈ (s.blkAt c (s.grp c p).slot).owed, o.1.getLsbD (s.grp c p).bgrp = false) :
    s.takeOwed c p = (none, s) := by
  have hn : ((s.blkAt c (s.grp c p).slot).owed.find? fun o => o.1.getLsbD (s.grp c p).bgrp) = none := by simpa using h
  simp only [State.takeOwed, hn]

/-- The group parked at its REGRP, its lanes to go on after it (R84). -/
def Ctx.parkAll (x : Ctx) (sa : BitVec 8) (pb : Nat) (s : State) : State :=
  s.setGrp x.c x.p { s.grp x.c x.p with
    frontier := [], regrp := some (x.e.hdr, x.e.idx, x.sreg s sa, pb),
    parked := [{ kind := .regrp, mask := x.e.mask, hdr := (nextPos x.e.hdr x.e.idx x.n.count).1,
                 idx := (nextPos x.e.hdr x.e.idx x.n.count).2, src := x.pc }] }

theorem Ctx.takeOwed_parkAll {sa : BitVec 8} {pb : Nat}
    (h : ∀ o ∈ (s.blkAt x.c (s.grp x.c x.p).slot).owed, o.1.getLsbD (s.grp x.c x.p).bgrp = false) :
    (x.parkAll sa pb s).takeOwed x.c x.p = (none, x.parkAll sa pb s) := by
  refine State.takeOwed_none ?_
  rw [Ctx.parkAll, State.grp_setGrp_self]
  exact h

/-- A REGRP parks its group when that is whole and has no register write to come, and takes what is owed to it. -/
theorem regrpBody_whole {t : State} {o : Option Nat} {sa : BitVec 8} {pb : Nat} (hf : x.g.frontier.length = 1) (hp : x.g.parked = [])
    (hs : s.scoreboardEmpty x.c x.p = true) (ho : (x.parkAll sa pb s).takeOwed x.c x.p = (o, t)) :
    regrpBody sa pb x s = .done (match o with
      | none => t.regrpCheck x.c x.p
      | some code => t.regrpFault x.c x.p code) := by
  unfold Ctx.parkAll at ho
  cases o <;> simp [regrpBody, hf, hp, hs, ho]

/-- UNGRP parks the live lanes of Active, where its mask is of a regrouping of the block that names the group (R85). -/
theorem ungrpBody_named {sa : BitVec 8} (hm : (s.blkAt x.c x.g.slot).regroups.contains (x.sreg s sa) = true)
    (hb : (x.sreg s sa).getLsbD x.g.bgrp = true) :
    ungrpBody sa x s =
      .done (let g := s.grp x.c x.p
             let pos := nextPos x.e.hdr x.e.idx x.n.count
             let rest := { x.e with mask := x.e.mask &&& ~~~x.live }
             (s.setGrp x.c x.p { g with
               frontier := replaceAt g.frontier x.n.ent (if rest.mask == 0#32 then [] else [s.stepEntry x.c x.p x.n.count rest]),
               parked := addPark g.parked { kind := .ungrp, mask := x.live, hdr := pos.1, idx := pos.2, src := x.pc } }).ungrpCheck
                 x.c x.g.slot (x.sreg s sa)) := by
  simp only [ungrpBody, hm, hb, Bool.and_self, Bool.not_true, Bool.false_eq_true, if_false]

/-! #### SLEEP (R88) -/

/-- A live entry sleeps for at most 2^24 - 1 cycles or nanoseconds, and not for a count of 0. -/
theorem sleepBody_live {n : Nat} {ns : Bool} (h : x.live ≠ 0#32) :
    sleepBody n ns x s =
      .ok (let k := min n (2 ^ 24 - 1)
           if k = 0 then s
           else if ns then (x.hold [.sleepUntil (s.dtime + k)] s).timer false (s.dtime + k) .sleepExpiry [x.c, x.p]
           else x.hold [.sleepCycles k] s) := by
  rw [sleepBody, once_live h]
  dsimp only
  split
  · rfl
  · cases ns <;> rfl

end

/-- Settles O9, instruction by instruction. -/
theorem rejoinAndRegroupResults : Obligations.RejoinAndRegroupResults := by
  unfold Obligations.RejoinAndRegroupResults exec
  refine ⟨fun s n g j sa sb sd pd mask k sel ns => ?joins, fun s n g sa pb num ns => ?regroups⟩
  case joins =>
    extract_lets x r park flagged arm
    exact ⟨fun hr hx h => issue_eff hr ((once_live hx).trans (jarmBody_idle _ _ _ h)),
      fun hr hx h => issue_eff hr ((once_live hx).trans (jarmBody_idle _ _ _ h)),
      fun hr h => issue_eff hr (jwaitBody_passes _ h), fun hr h => issue_done hr (jwaitBody_parks _ h),
      fun hr => issue_done hr rfl, fun hr hx => issue_eff hr (once_live hx)⟩
  case regroups =>
    extract_lets x h pos freed gone due sleep
    exact ⟨fun hr hf hp hs ho => issue_done hr (regrpBody_whole hf hp hs (Ctx.takeOwed_parkAll ho)),
      fun hr hm hb => issue_done hr (ungrpBody_named hm hb), fun hr hx => issue_eff hr (once_live hx),
      fun hr hx => issue_eff hr (sleepBody_live hx), fun hr hx => issue_eff hr (sleepBody_live hx),
      fun code hr hf hp hs ho => issue_done hr (regrpBody_whole hf hp hs (Prod.ext ho rfl))⟩

end Sys2Proof.Machine
end

section
/-!
PROOFS. A step and the instruction that it runs (R65 to R67, R91): what a fetch depends on, the state in which an entry has been named the issuer, and
that an attempt runs an instruction only there.
-/
namespace Sys2Proof.Machine

/-! #### What a fetch depends on (R178 to R180) -/

/-- Two states that agree in all that a core's fetches read: memory and what is kept of the tables, the routes to peers, the launches, and of the core's
groups their launch, their mode and their save slots. -/
structure State.SameFetch (s t : State) (c : Nat) : Prop where
  data : s.sameData t
  tlb : t.tlb = s.tlb
  freeCount : t.freeCount = s.freeCount
  ctl : t.ctl = s.ctl
  linksDown : t.linksDown = s.linksDown
  launches : t.launches = s.launches
  node : ∀ q, (t.grp c q).node = (s.grp c q).node
  handler : ∀ q, (t.grp c q).handler = (s.grp c q).handler
  reserved : ∀ q, (t.grp c q).reserved = (s.grp c q).reserved
  lastSlot : ∀ q, (t.grp c q).lastSlot = (s.grp c q).lastSlot

namespace State.SameFetch
variable {s t : State} {c : Nat}

theorem dword (h : s.SameFetch t c) (pa : Nat) : t.dword pa = s.dword pa := by
  simp only [State.dword, State.bytes, State.sameData_byte h.data]

theorem contLeaf (h : s.SameFetch t c) (table va : Nat) : t.contLeaf table va = s.contLeaf table va := by
  simp only [State.contLeaf, h.dword, h.freeCount]

theorem walk (h : s.SameFetch t c) (va level table : Nat) : t.walk va level table = s.walk va level table := by
  induction level generalizing table with
  | zero => rfl
  | succ level ih => simp only [State.walk, h.dword, h.contLeaf, ih]

theorem leaf (h : s.SameFetch t c) (core : Nat) (x : Context) (va : Nat) : t.leaf core x va = s.leaf core x va := by
  simp only [State.leaf, h.tlb, h.freeCount, h.walk]

theorem portTo (h : s.SameFetch t c) (f : Nat) : t.portTo f = s.portTo f := by
  unfold State.portTo State.proute
  rw [h.ctl, h.linksDown]

theorem reservedAt (h : s.SameFetch t c) (va : Nat) : t.reservedAt c va = s.reservedAt c va := by
  simp only [State.reservedAt, h.reserved, h.lastSlot]

theorem translate (h : s.SameFetch t c) (x : Context) (m : Mode) (a : DWord) : t.translate c x m a = s.translate c x m a := by
  simp only [State.translate, h.reservedAt, h.leaf, h.portTo]

theorem fetchWord (h : s.SameFetch t c) (p : Nat) (a : DWord) : t.fetchWord c p a = s.fetchWord c p a := by
  simp only [State.fetchWord, State.launchOf, State.launch, h.launches, h.node, h.handler, h.translate, h.dword]

theorem headerAt (h : s.SameFetch t c) (p : Nat) (e : Entry) : t.headerAt c p e = s.headerAt c p e := by
  simp only [State.headerAt, h.fetchWord]

end State.SameFetch

/-! #### The state in which an instruction runs (R59, R66) -/

/-- An entry whose instruction issues: it holds its clause's port, waits for nothing, and has its clause. -/
def Entry.issuing (e : Entry) (takes : Bool) (h : Header) (i : Instr) : Entry :=
  { e with holding := e.holding || !e.underWay, holds := [], why := none, waited := false, slot := e.slot || takes, issued := some (h, i) }

/-- Whether an entry takes a slot of its clause as it issues (R391). -/
def Launch.takesSlot (l : Launch) (e : Entry) : Bool := l.split && e.idx == 0 && !e.slot

/-- The state in which an entry has been named the issuer of an instruction. -/
def State.named (s : State) (c p k : Nat) (e : Entry) (h : Header) (i : Instr) : State :=
  let g := s.grp c p
  let l := s.launch g.node
  let t := s.setGrp c p { g with frontier := g.frontier.set k (e.issuing (l.takesSlot e) h i) }
  { (if l.takesSlot e then t.takeSlot c (g.node, e.hdr.toNat)
     else if l.split then t else t.useKeys c (fetchKeys l g.node e.hdr h.count.toNat)) with
    issuer := some { core := c, grp := p, ent := k, count := h.count.toNat } }

section
variable {s t : State} {c p k cls : Nat} {e : Entry} {h : Header} {i : Instr} {b : Bool}

/-- Naming the issuer changes its entry, the order of the core's fetched clauses, and nothing else. -/
theorem State.named_eq (s : State) (c p k : Nat) (e : Entry) (h : Header) (i : Instr) : ∃ cores takes,
    s.named c p k e h i =
      { s.setGrp c p { s.grp c p with frontier := (s.grp c p).frontier.set k (e.issuing takes h i) } with
        cores := cores, issuer := some { core := c, grp := p, ent := k, count := h.count.toNat } } := by
  unfold State.named
  dsimp only
  split
  · exact ⟨_, _, rfl⟩
  · split <;> exact ⟨_, _, rfl⟩

theorem State.named_issuer (s : State) (c p k : Nat) (e : Entry) (h : Header) (i : Instr) :
    (s.named c p k e h i).issuer = some { core := c, grp := p, ent := k, count := h.count.toNat } := rfl

theorem State.named_grp (s : State) (c p k : Nat) (e : Entry) (h : Header) (i : Instr) : ∃ takes, ∀ q,
    (s.named c p k e h i).grp c q =
      if q = p then { s.grp c p with frontier := (s.grp c p).frontier.set k (e.issuing takes h i) } else s.grp c q := by
  obtain ⟨cores, takes, hn⟩ := s.named_eq c p k e h i
  refine ⟨takes, fun q => ?_⟩
  rw [hn]
  show (s.setGrp c p _).grp c q = _
  rw [State.grp_setGrp]
  have hk : gid c q = gid c p ↔ q = p := by unfold gid; omega
  simp only [hk]

theorem State.named_sameFetch (s : State) (c p k : Nat) (e : Entry) (h : Header) (i : Instr) : s.SameFetch (s.named c p k e h i) c := by
  obtain ⟨_, _, hn⟩ := s.named_eq c p k e h i
  obtain ⟨_, hg⟩ := s.named_grp c p k e h i
  constructor
  case node | handler | reserved | lastSlot =>
    intro q
    rw [hg]
    split
    · next hq => rw [hq]
    · rfl
  all_goals rw [hn]
  case data => exact ⟨rfl, rfl, rfl, rfl, rfl, rfl, rfl⟩
  all_goals rfl

/-- The issuer stands where it stood, with its instruction. -/
theorem State.named_entry (he : (s.grp c p).frontier[k]? = some e) (h : Header) (i : Instr) :
    ∃ takes, ((s.named c p k e h i).grp c p).frontier[k]? = some (e.issuing takes h i) := by
  obtain ⟨takes, hg⟩ := s.named_grp c p k e h i
  have hk : k < (s.grp c p).frontier.length := (List.getElem?_eq_some_iff.1 he).1
  exact ⟨takes, by rw [hg, if_pos rfl]; exact List.getElem?_set_self hk⟩

/-- An entry comes to its instruction, and runs it, when nothing stands against it (R59). -/
theorem State.comeToIssue_runs (he : (s.grp c p).frontier[k]? = some e) (hh : s.headerAt c p e = .ok h)
    (hc : e.underWay = false → s.comparator c p e = none) (hi : s.instrAt c p e h = .ok i) :
    s.comeToIssue c p k cls = .run i (s.counts c p k cls) (s.named c p k e h i) := by
  have hc : (if e.underWay then none else s.comparator c p e) = none := by
    cases hu : e.underWay with
    | true => rfl
    | false => exact hc hu
  simp only [State.comeToIssue, he, hh, hc, hi]
  rfl

/-- An attempt at an entry runs an instruction only so. -/
theorem State.comeToIssue_run (hr : s.comeToIssue c p k cls = .run i b t) : ∃ e h,
    (s.grp c p).frontier[k]? = some e ∧ s.headerAt c p e = .ok h ∧ s.instrAt c p e h = .ok i ∧ t = s.named c p k e h i := by
  cases he : (s.grp c p).frontier[k]? with
  | none => simp [State.comeToIssue, he] at hr
  | some e =>
    cases hh : s.headerAt c p e with
    | error code => simp [State.comeToIssue, he, hh] at hr
    | ok h =>
      cases hc : (if e.underWay then none else s.comparator c p e) with
      | some n => simp only [State.comeToIssue, he, hh, hc] at hr; cases hr
      | none =>
        cases hi : s.instrAt c p e h with
        | error code => simp only [State.comeToIssue, he, hh, hc, hi] at hr; cases hr
        | ok j =>
          have hu : e.underWay = false → s.comparator c p e = none := fun hu => by simpa [hu] using hc
          rw [State.comeToIssue_runs he hh hu hi] at hr
          cases hr
          exact ⟨e, h, rfl, hh, hi, rfl⟩

/-- An attempt of a group runs an instruction only at an entry that comes to issue. -/
theorem State.attempt_run (hr : s.attempt c p cls = .run i b t) : ∃ (r : State) (k : Nat), r.comeToIssue c p k cls = .run i b t := by
  unfold State.attempt at hr
  dsimp only at hr
  split at hr
  · cases hr
  split at hr
  · split at hr
    · exact ⟨_, _, hr⟩
    · cases hr
  split at hr
  · cases hr
  split at hr
  · cases hr
  split at hr
  · cases hr
  split at hr
  · exact ⟨_, _, hr⟩
  · split at hr <;> cases hr

/-! #### The word of an entry (R45, R58) -/

/-- An entry stands at a word of its clause that decodes to an instruction of the clause's class, and a transfer only at the last word. -/
def State.standsAt (s : State) (c p k : Nat) (e : Entry) (h : Header) (w : DWord) (i : Instr) : Prop :=
  (s.grp c p).frontier[k]? = some e ∧ s.headerAt c p e = .ok h ∧ e.idx ≤ h.count.toNat ∧
  s.fetchWord c p (wordAddr e.hdr e.idx) = .ok w ∧ decodeWord w = .ok i ∧ (classOf (opcodeOf w)).code = h.cls.toNat ∧
  (i.isTransfer = true → e.idx = h.count.toNat)

theorem State.instrAt_underWay (hu : e.underWay = true) (hi : e.issued = some (h, i)) : s.instrAt c p e h = .ok i := by
  simp [State.instrAt, Entry.running, hu, hi]

theorem State.headerAt_underWay (hu : e.underWay = true) (hi : e.issued = some (h, i)) : s.headerAt c p e = .ok h := by
  simp [State.headerAt, Entry.running, hu, hi]

/-- An entry that is not under way comes to its word's instruction, and comes to none where no word is one. -/
theorem State.instrAt_placed {w : DWord} (hu : e.underWay = false) (hs : s.standsAt c p k e h w i) : s.instrAt c p e h = .ok i := by
  obtain ⟨-, -, hx, hf, hd, hc, ht⟩ := hs
  have hb : (i.isTransfer && e.idx != h.count.toNat) = false := by simpa using ht
  simp [State.instrAt, Entry.running_eq_none hu, Nat.not_lt.2 hx, hf, hd, hc, hb]

theorem State.standsAt_of_instrAt (he : (s.grp c p).frontier[k]? = some e) (hu : e.underWay = false) (hh : s.headerAt c p e = .ok h)
    (hi : s.instrAt c p e h = .ok i) : ∃ w, s.standsAt c p k e h w i := by
  by_cases hx : h.count.toNat < e.idx
  · simp [State.instrAt, Entry.running_eq_none hu, hx] at hi
  cases hf : s.fetchWord c p (wordAddr e.hdr e.idx) with
  | error code => simp [State.instrAt, Entry.running_eq_none hu, hx, hf] at hi
  | ok w =>
    cases hd : decodeWord w with
    | error err => simp [State.instrAt, Entry.running_eq_none hu, hx, hf, hd] at hi
    | ok j =>
      by_cases hb : (classOf (opcodeOf w)).code ≠ h.cls.toNat ∨ (j.isTransfer = true ∧ e.idx ≠ h.count.toNat)
      · rw [State.instrAt_misplaced hu (Nat.not_lt.1 hx) hf hd hb] at hi
        cases hi
      · obtain ⟨hc, ht⟩ := not_or.1 hb
        have hs : s.standsAt c p k e h w j := ⟨he, hh, Nat.not_lt.1 hx, hf, hd, Decidable.not_not.1 hc, fun hj => Decidable.not_not.1 fun hne => ht ⟨hj, hne⟩⟩
        rw [State.instrAt_placed hu hs] at hi
        cases hi
        exact ⟨w, hs⟩

/-- The issuer's position and lanes, and the word there, are those of the entry that has been named. -/
theorem State.standsAt_named {w : DWord} (hu : e.underWay = false) (hs : s.standsAt c p k e h w i) : ∃ e' : Entry,
    (s.named c p k e h i).standsAt c p k e' h w i ∧ e'.hdr = e.hdr ∧ e'.idx = e.idx ∧ e'.mask = e.mask := by
  obtain ⟨he, hh, hx, hf, hd, hc, ht⟩ := hs
  obtain ⟨takes, he'⟩ := State.named_entry he h i
  have same := s.named_sameFetch c p k e h i
  refine ⟨e.issuing takes h i, ⟨he', ?_, hx, ?_, hd, hc, ht⟩, rfl, rfl, rfl⟩
  · rw [same.headerAt, ← hh]
    simp only [State.headerAt, Entry.running_eq_none hu, Entry.running_eq_none (e := e.issuing takes h i) hu]
    rfl
  · rw [same.fetchWord]
    exact hf

/-- What an attempt runs is the instruction at the issuer's place, or the one that it has under way. -/
theorem State.comeToIssue_issuer (hr : s.comeToIssue c p k cls = .run i b t) : ∃ e h,
    t.issuer = some { core := c, grp := p, ent := k, count := h.count.toNat } ∧ ((∃ w, t.standsAt c p k e h w i) ∨
      ((t.grp c p).frontier[k]? = some e ∧ e.underWay = true ∧ e.issued = some (h, i))) := by
  obtain ⟨e, h, he, hh, hi, rfl⟩ := State.comeToIssue_run hr
  cases hu : e.underWay with
  | true =>
    obtain ⟨takes, he'⟩ := State.named_entry he h i
    exact ⟨e.issuing takes h i, h, rfl, .inr ⟨he', hu, rfl⟩⟩
  | false =>
    obtain ⟨w, hs⟩ := State.standsAt_of_instrAt he hu hh hi
    obtain ⟨e', hs', -⟩ := State.standsAt_named hu hs
    exact ⟨e', h, rfl, .inl ⟨w, hs'⟩⟩

end

/-! #### The step (R16) -/

section
variable {s r t : State} {c p cls : Nat}

theorem step_run {i : Instr} {counted : Bool} {v : State} (hm : s.nextMove = (some (.issue c p cls), r))
    (ha : ({ r with freeCount := r.freeCount + 1 } : State).attempt c p cls = .run i counted t) (hx : exec i t = .next v) :
    step s = .next (v.countIssue cls counted) := by
  simp only [step, hm, ha, hx, afterIssue]

theorem step_idle (hm : s.nextMove = (some (.issue c p cls), r))
    (ha : ({ r with freeCount := r.freeCount + 1 } : State).attempt c p cls = .idle t) : step s = .next t := by
  simp only [step, hm, ha]

theorem step_event {ev : Event} (hm : s.nextMove = (some (.event ev), r))
    (hk : ({ r with freeCount := r.freeCount + 1 } : State).makes ev.what = true) :
    step s = exec ev.what (({ r with freeCount := r.freeCount + 1 } : State).takeEvent ev) := by
  simp only [step, hm, hk, if_true]

end

/-- Settles O38: by what the step calls, and by the state in which the issuer is named. -/
theorem stepRunsTheDecodedInstruction : Obligations.StepRunsTheDecodedInstruction := by
  unfold Obligations.StepRunsTheDecodedInstruction
  intro s r t v c p cls k e h w i ev counted
  refine ⟨step_run, step_idle, fun ha => ?attempt, fun he hu hi => ?again, fun hs hu hc => ?first, step_event⟩
  case attempt =>
    obtain ⟨r, k, hr⟩ := State.attempt_run ha
    exact ⟨k, State.comeToIssue_issuer hr⟩
  case again =>
    exact ⟨_, _, State.comeToIssue_runs he (State.headerAt_underWay hu hi) (by simp [hu]) (State.instrAt_underWay hu hi), rfl⟩
  case first =>
    obtain ⟨e', hs', hhdr, hidx, hmask⟩ := State.standsAt_named hu hs
    have hi := State.instrAt_placed hu hs
    obtain ⟨he, hh, -⟩ := hs
    exact ⟨_, _, e', State.comeToIssue_runs he hh (fun _ => hc) hi, hs', hhdr, hidx, hmask, rfl⟩

end Sys2Proof.Machine
end

section
/-!
PROOFS. The steps of a core's groups (R67, R79, R88, R157, R202, R224, R356, R391): each by what it comes to once it is due.
-/
namespace Sys2Proof.Machine

section
variable {s : State} {c p k : Nat}

/-! #### Joins and rotations (R67, R79) -/

/-- Whether a rejoin register's time has run out: its cycle is over, and its group neither is in its handler nor about to enter it (R80, R83). -/
def State.joinRunOut (s : State) (c p k : Nat) : Prop :=
  (s.jreg c p k).armed = true ∧ (s.jreg c p k).timing = true ∧ (s.jreg c p k).ripe = true ∧ (s.jreg c p k).left = 0 ∧
  (s.grp c p).handler = false ∧ (s.grp c p).trap = none

theorem State.joinTimeout_due (h : s.joinRunOut c p k) : s.joinTimeout c p k = s.releaseJ c p k true := by
  obtain ⟨ha, ht, hr, hl, hh, hn⟩ := h
  simp [State.joinTimeout, State.joinDue, ha, ht, hr, hl, hh, hn]

theorem State.rotateFair_to {cls : Nat} (h : s.rotateTo c p cls = some k) : s.rotateFair c p cls =
    s.setGrp c p { s.grp c p with
      fair := aset 0 (s.grp c p).fair cls 0, rotate := (s.grp c p).rotate &&& (255 - 2 ^ cls),
      frontier := (s.grp c p).frontier.set k
        { (s.grp c p).frontier.getD k {} with quanta := ((s.grp c p).frontier.getD k {}).quanta ||| 2 ^ cls } } := by
  simp only [State.rotateFair, h]

/-! #### Fetch (R69, R391) -/

/-- Settling a core's slots changes that core alone. -/
theorem State.settleSlots_eq (s : State) (c : Nat) : ∃ cores, s.settleSlots c = { s with cores := cores } := by
  unfold State.settleSlots
  dsimp only
  split <;> exact ⟨_, rfl⟩

theorem State.settleSlots_grp (s : State) (c d q : Nat) : (s.settleSlots c).grp d q = s.grp d q := by
  obtain ⟨cores, h⟩ := s.settleSlots_eq c
  rw [h]
  rfl

theorem State.settleSlots_launch (s : State) (c n : Nat) : (s.settleSlots c).launch n = s.launch n := by
  obtain ⟨cores, h⟩ := s.settleSlots_eq c
  rw [h]
  rfl

theorem State.settleSlots_settled (h : s.slotsHeld c = (s.core c).held) : s.settleSlots c = s := by
  simp [State.settleSlots, h]

/-- A clause whose lines no other core pins is fetched where there is room for it (R391): new keys take the places of free ones, the lines come from
memory, the clause is code of the launch, and in SPLIT the entry has its slot. -/
theorem State.clauseFetch_fetches {now : State} {g : Group} {la : Launch} {at_ : DWord} {hdr : Nat} {h : Header} {keys free : Fetched}
    {pieces : List (Nat × Nat)} (hn : s.settleSlots c = now) (ha : BitVec.ofNat 64 hdr = at_) (hg : now.grp c p = g)
    (hla : now.launch g.node = la) (hk : firstIdx (fun e => e.hdr == at_ && e.idx == 0) g.frontier = some k)
    (hh : now.headerAt c p { hdr := at_ } = .ok h)
    (hkeys : ((fetchKeys la g.node at_ h.count.toNat).filter fun x => !(now.core c).fetched.contains x) = keys)
    (hfree : freeKeys la (now.fetchInUse c) (now.core c).fetched = free) (hpieces : now.clausePieces c p at_ h = pieces)
    (hroom : now.fetchExtra c la keys.length ≤ free.length) (hnew : now.fetchedClause c p (g.frontier.getD k {}) h = false)
    (hlines : now.linesFull c (linesIn pieces) = false) (hpins : now.pinnedBy c pieces = []) :
    s.clauseFetch c p hdr =
      let lines := pieces.foldl (fun t q => (List.range ((q.1 + q.2 + 127) / 128 - q.1 / 128)).foldl
        (fun t i => t.fetchLine c (128 * (q.1 / 128 + i))) t) (now.enterKeys c la (free.take (now.fetchExtra c la keys.length)) keys)
      let coded := lines.setLaunch g.node
        { la with codes := la.codes ++ pieces.filter fun q => !la.codes.any fun r => r.1 ≤ q.1 && q.1 + q.2 ≤ r.1 + r.2 }
      if la.split then coded.setGrp c p { g with
        frontier := updateWhere (fun e => e.hdr == at_ && e.idx == 0) (fun e => { e with slot := true }) g.frontier } else coded := by
  simp only [State.clauseFetch, hn, ha, hg, hla, hk, hh, hkeys, hfree, hpieces, Nat.not_lt.2 hroom, hnew, hlines, hpins, decide_false,
    Bool.or_self, Bool.false_eq_true, if_false]

/-! #### Ring slots and releases (R157, R202) -/

theorem State.commitRing_loading {l : Nat × Nat × List Byte} {rest : List (Nat × Nat × List Byte)}
    (h : (aget {} (s.core c).slots k).loading = l :: rest) :
    s.commitRing c k = s.setCore c { s.core c with
      slots := aset {} (s.core c).slots k { owner := some l.2.1, table := l.2.2, loading := rest } } := by
  simp only [State.commitRing, h]

theorem State.completeRelease_ready {r : Rel} (hf : s.rels.find? (·.id == k) = some r) (hr : s.relReady r = true) :
    s.completeRelease k =
      let u : State := { s with rels := s.rels.filter (·.id != k) }
      if r.scope < 4 then u else u.unpinBlock r.core r.slot := by
  simp [State.completeRelease, hf, hr]

/-! #### Trap entry (R356) -/

section
variable {t : Cause} (ht : (s.grp c p).trap = some t) (hf : (s.core c).frozen = false) (hl : s.loadsPending c p = false)
include ht hf hl

theorem State.trapEntry_enters (hc : t.code ≠ Code.RESUME) :
    s.trapEntry c p = s.enterTrap c p { t with fe := t.place (s.grp c p).frontier } := by
  simp [State.trapEntry, ht, hf, hl, hc]

theorem State.trapEntry_resumes (hc : t.code = Code.RESUME) : s.trapEntry c p = s.resumeGroup c p := by
  simp [State.trapEntry, ht, hf, hl, hc]

end

end

/-- Settles O26, step by step. -/
theorem groupStepResults : Obligations.GroupStepResults := by
  unfold Obligations.GroupStepResults exec
  intro s c p k hdr t h r l rest
  extract_lets ev g j slots la at_ here now core keys free extra pieces stay entered lines coded u
  have one : ev [k] → s.arg 0 = k := fun hs => State.arg_of_nums hs 0
  have two : ∀ {a b}, ev [a, b] → s.arg 0 = a ∧ s.arg 1 = b := fun hs => ⟨State.arg_of_nums hs 0, State.arg_of_nums hs 1⟩
  have three : ∀ {a}, ev [c, p, a] → s.arg 0 = c ∧ s.arg 1 = p ∧ s.arg 2 = a :=
    fun hs => ⟨State.arg_of_nums hs 0, State.arg_of_nums hs 1, State.arg_of_nums hs 2⟩
  refine ⟨?join, ?sleep, ?rotation, ?fetch, ?fwait, ?ring, ?release, ?enter, ?resume, State.settleSlots_settled⟩
  case join =>
    intro hs ha ht hr hl hh hn
    obtain ⟨hc, hp, hk⟩ := three hs
    rw [execJoinTimeout, hc, hp, hk, State.joinTimeout_due ⟨ha, ht, hr, hl, hh, hn⟩]
  case sleep =>
    intro hs
    obtain ⟨hc, hp⟩ := two hs
    rw [execSleepExpiry, hc, hp]
  case rotation =>
    intro hs hr
    obtain ⟨hc, hp, hk⟩ := three hs
    rw [execFairnessRotation, hc, hp, hk, State.rotateFair_to hr]
  case fetch =>
    intro hs hk hh hroom hnew hlines hpins
    obtain ⟨hc, hp, ha⟩ := three hs
    rw [execClauseFetch, hc, hp, ha, State.clauseFetch_fetches rfl rfl (s.settleSlots_grp c c p) (s.settleSlots_launch c _) hk hh rfl rfl rfl
      hroom hnew hlines hpins]
    rfl
  case fwait =>
    intro hs
    obtain ⟨hc, hp⟩ := two hs
    rw [execFwaitReread, hc, hp] <;> rfl
  case ring =>
    intro hs hl
    obtain ⟨hc, hk⟩ := two hs
    rw [execRingSlotCommit, hc, hk, State.commitRing_loading hl]
  case release =>
    intro hs hf hr
    rw [execReleaseCompletion, one hs, State.completeRelease_ready hf hr]
  case enter =>
    intro hs ht hc hf hl
    obtain ⟨hc', hp⟩ := two hs
    rw [execTrapEntry, hc', hp, State.trapEntry_enters ht hf hl hc]
    rfl
  case resume =>
    intro hs ht hc hf hl
    obtain ⟨hc', hp⟩ := two hs
    rw [execTrapEntry, hc', hp, State.trapEntry_resumes ht hf hl hc]

end Sys2Proof.Machine
end

section
/-!
PROOFS. The steps of tasks (R74, R338 to R347, R366): each by what it comes to once nothing holds it back.
-/
namespace Sys2Proof.Machine

section
variable {s : State} {n c p : Nat}

/-! #### Dispatch and placement (R338, R343, R344) -/

/-- Whether a node is the first that can be dispatched, with a body that no pin covers (R210, R343). -/
def State.dispatchesFirst (s : State) (n : Nat) : Prop :=
  s.dispatchable n = true ∧ s.bodyPins (s.node n).queue (s.node n).desc = [] ∧
  ∀ e ∈ s.nodes, e.1 ≠ n → readyBefore e.2 (s.node n) = true → s.dispatchable e.1 = false

theorem State.dispatchesFirst.alone (h : s.dispatchesFirst n) :
    (s.nodes.any fun e => e.1 != n && readyBefore e.2 (s.node n) && s.dispatchable e.1) = false := by
  obtain ⟨-, -, hf⟩ := h
  rw [List.any_eq_false]
  rintro e he
  simpa using hf e he

theorem State.nodeDispatch_kernel {l : Launch} (h : s.dispatchesFirst n) (hk : descKind (s.node n).desc = 0) (hl : s.launchFor n = .ok l) :
    s.nodeDispatch n = (s.startKernel n l).pokeTasks := by
  have hf := h.alone
  obtain ⟨hd, hp, -⟩ := h
  simp [State.nodeDispatch, hd, hp, hf, hk, hl]

/-- A unit of new blocks is placed where no saved one waits (R344). -/
theorem State.blockPlacement_new {u : Nat} (hm : s.mayPlace n = true) (hp : s.placeable n (s.launch n) c = true)
    (hs : s.savedUnit n (s.launch n) c = []) (hu : s.nextUnit n (s.launch n) c = some u) :
    s.blockPlacement n c =
      (let l := s.launch n
       let j := if l.det then c / max 1 l.cblk else u
       let t := s.setLaunch n { l with nextBlk := l.nextBlk + l.unit, perCore := aset 0 l.perCore j (aget 0 l.perCore j + 1) }
       ((List.range l.unit).foldl (fun t k => t.placeBlock n (c + k) (u * l.unit + k)) t).pokeTasks) := by
  simp [State.blockPlacement, hm, hp, hs, hu]

/-! #### Completion (R339, R345, R346) -/

/-- Whether all blocks of a launch have been placed and have ended. -/
def State.blocksOver (s : State) (n : Nat) : Prop :=
  (∀ e ∈ s.blocks, e.2.live = true → e.2.node ≠ n) ∧ (s.launch n).saved = [] ∧ (s.launch n).blocks ≤ (s.launch n).nextBlk

section
variable (hr : (s.node n).state = .running)
include hr

theorem State.nodeCompletion_kernel (hk : descKind (s.node n).desc = 0) (ho : s.blocksOver n)
    (hq : (s.endOfLaunch n).launchQuiet n = true) : s.nodeCompletion n = (s.endOfLaunch n).finishKernel n := by
  obtain ⟨hb, hs, hn⟩ := ho
  have hb : (s.blocks.any fun e => e.2.live && e.2.node == n) = false := by simpa using hb
  simp [State.nodeCompletion, hr, hk, hb, hs, hn, hq]

theorem State.nodeCompletion_copy (hk : descKind (s.node n).desc = 1) (hc : ∀ k ∈ s.cards, k.copy ≠ some n) (h0 : (s.node n).code = 0)
    (hm : (s.node n).missed = false) : s.nodeCompletion n = (s.endNode n .done 0).pokeTasks := by
  have hc : (s.cards.any fun k => k.copy == some n) = false := by simpa using hc
  simp [State.nodeCompletion, hr, hk, hc, h0, hm, Code.DEADLINE_MISS]

theorem State.nodeCompletion_burn (hk : descKind (s.node n).desc = 2) (hb : ∀ b ∈ (s.dropBurn n).burns, b.node ≠ n)
    (hw : ((s.dropBurn n).node n).wct ≤ (s.dropBurn n).dtime) (hj : ∀ r ∈ (s.dropBurn n).rjobs, r.burn ≠ some n)
    (h0 : ((s.dropBurn n).node n).code = 0) : s.nodeCompletion n = ((s.dropBurn n).endNode n .done 0).pokeTasks := by
  have hb : ((s.dropBurn n).burns.any fun b => b.node == n) = false := by simpa using hb
  have hj : ((s.dropBurn n).rjobs.any fun r => r.burn == some n) = false := by simpa using hj
  simp [State.nodeCompletion, hr, hk, hb, Nat.not_lt.2 hw, hj, h0, Code.DEADLINE_MISS]

theorem State.nodeCompletion_collective {e : Nat × Coll} (hk : descKind (s.node n).desc = 3)
    (hf : s.colls.find? (fun e => e.2.node == some n) = some e) (hd : e.2.state = .done) (hm : (s.node n).missed = false) :
    s.nodeCompletion n = ((s.setColl e.1 {}).endNode n .done 0).pokeTasks := by
  have he : SlotState.done.ended = true := rfl
  simp [State.nodeCompletion, hr, hk, hf, hd, hm, he]

end

/-! #### Deadlines (R347) -/

section
variable (hp : s.deadlinePassed n = true) (hm : (s.node n).missed = false)
include hp hm

theorem State.passDeadline_waiting (h : (s.node n).state = .built ∨ (s.node n).state = .waiting ∨ (s.node n).state = .ready) :
    s.passDeadline n = (s.endNode n .deadlineMiss Code.DEADLINE_MISS).pokeTasks := by
  rcases h with h | h | h <;> simp only [State.passDeadline, hp, hm, h] <;> rfl

theorem State.passDeadline_running (h : (s.node n).state = .running) (hc : ∀ e ∈ s.colls, e.2.node ≠ some n) :
    s.passDeadline n = ((s.setNode n { s.node n with missed := true }).post .nodeCompletion [n]).pokeTasks := by
  have hn : (s.colls.find? fun e => e.2.node == some n) = none := by simpa using hc
  have hc : ∀ d, ((s.setNode n d).colls.find? fun e => e.2.node == some n) = none := fun _ => hn
  simp only [State.passDeadline, hp, hm, h, hc]
  rfl

end

/-! #### The end of a group (R74, R366) -/

/-- The other group of a twin pair unbound from a group that leaves. -/
def State.untwin (s : State) (c : Nat) (g : Group) : State :=
  match g.twin with
  | none => s
  | some q => s.setGrp c q { s.grp c q with twin := none }

/-- A group that has left its core: its launch has its digest and its completion time, and its registers are free (R345). -/
def State.groupGone (s : State) (c p : Nat) (g : Group) : State :=
  let l := s.launch g.node
  let blk := (s.blkAt c g.slot).blk
  ((s.setLaunch g.node { l with
    wct := max l.wct g.wct
    digests := if l.det then aset 0#64 l.digests blk (aget 0#64 l.digests blk + g.digest) else l.digests }).removeGroup c p false).afterFree c

/-- The barriers and regroupings of a block tested without a group of it (R84, R221). -/
def State.testBlock (s : State) (c slot : Nat) : State :=
  let t := (List.range 16).foldl (fun t k => t.barCheck c slot k) s
  ((t.residents c).filter fun q => (t.grp c q).slot == slot && (t.grp c q).regrp.isSome).foldl (fun t q => t.regrpCheck c q) t

/-- A group whose lanes have ended leaves its core once it is not to be pre-empted and its last writes have been made. -/
theorem State.groupEnd_leaves (hg : (s.grp c p).live = true) (hm : (s.grp c p).liveMask = 0#32)
    (hp : (s.grp c p).places = none ∨ ((s.endTwin c p).launch (s.grp c p).node).preempt = false ∨
      ((s.endTwin c p).launch (s.grp c p).node).abort ≠ none)
    (hf : (s.core c).frozen = false) (hf' : ((s.endTwin c p).core c).frozen = false) (hd : (s.endTwin c p).groupDone c p = true) :
    s.groupEnd c p =
      ((((s.endTwin c p).untwin c (s.grp c p)).groupGone c p (s.grp c p)).testBlock c (s.grp c p).slot).leaveSlot c (s.grp c p).slot := by
  have hy : ((s.grp c p).places.isSome && ((s.endTwin c p).launch (s.grp c p).node).preempt &&
      ((s.endTwin c p).launch (s.grp c p).node).abort.isNone) = false := by
    rcases hp with hplaces | hpreempt | habort
    · simp [hplaces]
    · simp [hpreempt]
    · simp [Option.isSome_iff_ne_none.2 habort]
  simp only [State.groupEnd, hg, hm, hf, hf', hd, hy, Bool.not_true, Bool.not_false, Bool.and_self, Bool.false_and, Bool.or_self,
    bne_self_eq_false, BEq.rfl, Bool.false_eq_true, if_true, if_false]
  rfl

end

/-- Settles O31, step by step. -/
theorem taskStepResults : Obligations.TaskStepResults := by
  unfold Obligations.TaskStepResults exec
  intro s n c p u l e
  extract_lets ev d la ready j k begun allOver g parted apart dropped lp blk left tested
  have one : ev [n] → s.arg 0 = n := fun hs => State.arg_of_nums hs 0
  have two : ∀ {a b}, ev [a, b] → s.arg 0 = a ∧ s.arg 1 = b := fun hs => ⟨State.arg_of_nums hs 0, State.arg_of_nums hs 1⟩
  refine ⟨?dispatch, ?placement, ?kernel, ?copy, ?burn, ?collective, ?waiting, ?running, ?groupEnd⟩
  case dispatch =>
    intro hs hr hk hl
    rw [execNodeDispatch, one hs, State.nodeDispatch_kernel hr hk hl]
    rfl
  case placement =>
    intro hs hm hp hsv hu
    obtain ⟨hn, hc⟩ := two hs
    rw [execBlockPlacement, hn, hc, State.blockPlacement_new hm hp hsv hu]
  case kernel =>
    intro hs hr hk ho hq
    rw [execNodeCompletion, one hs, State.nodeCompletion_kernel hr hk ho hq]
  case copy =>
    intro hs hr hk hc h0 hm
    rw [execNodeCompletion, one hs, State.nodeCompletion_copy hr hk hc h0 hm]
  case burn =>
    intro hs hr hk hb hw hj h0
    rw [execNodeCompletion, one hs, State.nodeCompletion_burn hr hk hb hw hj h0]
  case collective =>
    intro hs hr hk hf hd hm
    rw [execNodeCompletion, one hs, State.nodeCompletion_collective hr hk hf hd hm]
  case waiting =>
    intro hs hp hm h
    rw [execDeadlinePassed, one hs, State.passDeadline_waiting hp hm h]
  case running =>
    intro hs hp hm h hc
    rw [execDeadlinePassed, one hs, State.passDeadline_running hp hm h hc]
  case groupEnd =>
    intro hs hg hm hp hf hf' hd
    obtain ⟨hc, hp'⟩ := two hs
    rw [execGroupEnd, hc, hp', State.groupEnd_leaves hg hm hp hf hf' hd]
    rfl

end Sys2Proof.Machine
end

section
/-!
PROOFS. Integer arithmetic and the bitwise and move instructions (R91, R97, R98, R100, R102): each writes one result, and the arithmetic of a
lane is exact arithmetic on the integers that its patterns stand for, bounded where the instruction saturates and then wrapped.
-/
namespace Sys2Proof.Machine

/-! #### Instructions that write one result (R91) -/

/-- An instruction that writes one result answers the state in which every lane holds what its function of a lane comes to. -/
theorem issue_put {i : Instr} {g : Guard} {d : VS} {F : Ctx → State → Nat → Word} {k : Nat → Word} {s : State} {n : Issuer} (hr : s.runs n i)
    (h : ∀ l, F (s.ctx n g) s l = k l) :
    issue i g (fun x s => .ok (x.put d (F x s) s)) s = .next (((s.ctx n g).put d k s).advance n) :=
  issue_eff hr (by rw [funext h])

theorem issue_put64 {i : Instr} {g : Guard} {d : VS} {F : Ctx → State → Nat → DWord} {k : Nat → DWord} {s : State} {n : Issuer}
    (hr : s.runs n i) (h : ∀ l, F (s.ctx n g) s l = k l) :
    issue i g (fun x s => .ok (x.put64 d (F x s) s)) s = .next (((s.ctx n g).put64 d k s).advance n) :=
  issue_eff hr (by rw [funext h])

theorem issue_putP {i : Instr} {g : Guard} {p : BitVec 8} {F : Ctx → State → Nat → Bool} {k : Nat → Bool} {s : State} {n : Issuer}
    (hr : s.runs n i) (h : ∀ l, F (s.ctx n g) s l = k l) :
    issue i g (fun x s => .ok (x.putP p (F x s) s)) s = .next (((s.ctx n g).putP p k s).advance n) :=
  issue_eff hr (by rw [funext h])

/-! #### Patterns and the integers that they stand for -/

theorem ofInt_intOf (u : Bool) (w : Word) : BitVec.ofInt 32 (intOf u w) = w := by
  cases u
  · exact BitVec.ofInt_toInt
  · exact (BitVec.ofInt_natCast 32 w.toNat).trans (by simp)

theorem ofInt_sub {w : Nat} (i j : Int) : BitVec.ofInt w (i - j) = BitVec.ofInt w i - BitVec.ofInt w j := by
  rw [Int.sub_eq_add_neg, BitVec.ofInt_add, BitVec.ofInt_neg, BitVec.sub_eq_add_neg]

/-- The integer nearest to v that a word can stand for, as the U bit says (R97). -/
def bounded (u : Bool) (v : Int) : Int := if u then max 0 (min 4294967295 v) else max (-2147483648) (min 2147483647 v)

theorem clamp32_eq (u : Bool) (v : Int) : clamp32 u v = BitVec.ofInt 32 (bounded u v) := by
  cases u with
  | false => exact congrArg (fun m => BitVec.ofInt 32 (max (-2147483648) m)) (Int.min_comm _ _)
  | true => exact congrArg (fun m => BitVec.ofInt 32 (max 0 m)) (Int.min_comm _ _)

theorem intOf_clamp32 (u : Bool) (v : Int) : intOf u (clamp32 u v) = bounded u v := by
  rw [clamp32_eq]
  cases u with
  | false =>
    have h : -2147483648 ≤ bounded false v ∧ bounded false v < 2147483648 := by simp only [bounded, Bool.false_eq_true, if_false]; omega
    exact BitVec.toInt_ofInt_eq_self (by decide) h.1 h.2
  | true =>
    have h : 0 ≤ bounded true v ∧ bounded true v < 4294967296 := by simp only [bounded, if_true]; omega
    show ((BitVec.ofInt 32 (bounded true v)).toNat : Int) = _
    rw [BitVec.toNat_ofInt]
    omega

/-! #### The arithmetic of one lane (R97, R98) -/

theorem iaddOf_eq (sat u : Bool) (a b : Word) : iaddOf sat u a b =
    if sat then BitVec.ofInt 32 (bounded u (intOf u a + intOf u b)) else BitVec.ofInt 32 (intOf u a + intOf u b) := by
  rw [iaddOf, clamp32_eq, BitVec.ofInt_add, ofInt_intOf, ofInt_intOf]

theorem isubOf_eq (sat u : Bool) (a b : Word) : isubOf sat u a b =
    if sat then BitVec.ofInt 32 (bounded u (intOf u a - intOf u b)) else BitVec.ofInt 32 (intOf u a - intOf u b) := by
  rw [isubOf, clamp32_eq, ofInt_sub, ofInt_intOf, ofInt_intOf]

theorem mul_eq_ofInt {w : Nat} (a b : BitVec w) : a * b = BitVec.ofInt w (a.toInt * b.toInt) := by simp [BitVec.ofInt_mul]

theorem mul_add_eq_ofInt {w : Nat} (a b c : BitVec w) : a * b + c = BitVec.ofInt w (a.toInt * b.toInt + c.toInt) := by
  simp [BitVec.ofInt_add, BitVec.ofInt_mul]

theorem sub_eq_ofInt {w : Nat} (a b : BitVec w) : a - b = BitVec.ofInt w (a.toInt - b.toInt) := by simp [ofInt_sub]

theorem iminOf_eq (u : Bool) (a b : Word) : iminOf u a b = BitVec.ofInt 32 (min (intOf u a) (intOf u b)) := by
  unfold iminOf
  split
  · rw [Int.min_eq_right (by omega), ofInt_intOf]
  · rw [Int.min_eq_left (by omega), ofInt_intOf]

theorem imaxOf_eq (u : Bool) (a b : Word) : imaxOf u a b = BitVec.ofInt 32 (max (intOf u a) (intOf u b)) := by
  unfold imaxOf
  split
  · rw [Int.max_eq_right (by omega), ofInt_intOf]
  · rw [Int.max_eq_left (by omega), ofInt_intOf]

theorem iaddminOf_eq (u : Bool) (a b c : Word) :
    iaddminOf u a b c = BitVec.ofInt 32 (min (bounded u (intOf u a + intOf u b)) (intOf u c)) := by
  rw [iaddminOf, iminOf_eq, intOf_clamp32]

theorem ofInt_natAbs {w : Nat} (a : BitVec w) : BitVec.ofInt w a.toInt.natAbs = if a.msb then -a else a := by
  rw [BitVec.msb_eq_toInt]
  by_cases h : a.toInt < 0
  · rw [Int.ofNat_natAbs_of_nonpos (Int.le_of_lt h), BitVec.ofInt_neg, BitVec.ofInt_toInt, if_pos (decide_eq_true h)]
  · rw [Int.natAbs_of_nonneg (Int.not_lt.1 h), BitVec.ofInt_toInt, if_neg (fun k => h (of_decide_eq_true k))]

theorem iabsOf_eq (sat : Bool) (a : Word) : iabsOf sat a =
    if a = 0x80000000#32 then (if sat then 0x7FFFFFFF#32 else 0x80000000#32) else BitVec.ofInt 32 a.toInt.natAbs := by
  simp only [iabsOf, beq_iff_eq, ofInt_natAbs]

theorem add_sext64_eq (a : DWord) (b : Word) : a + sext64 b = BitVec.ofInt 64 (a.toInt + b.toInt) := by
  simp [BitVec.ofInt_add, sext64, BitVec.signExtend]

theorem mul64Of_add_eq (u : Bool) (a b : Word) (c : DWord) : mul64Of u a b + c = BitVec.ofInt 64 (intOf u a * intOf u b + c.toInt) := by
  simp [mul64Of, BitVec.ofInt_add]

theorem add_eq_ofNat (a b : DWord) : a + b = BitVec.ofNat 64 (a.toNat + b.toNat) := by simp [BitVec.ofNat_add]

/-! #### The instructions -/

/-- Settles O42, form by form: what each writes in a lane is the lemma on its arithmetic. -/
theorem integerArithmeticMeaning : Obligations.IntegerArithmeticMeaning := by
  unfold Obligations.IntegerArithmeticMeaning exec
  intro s n g d a b c rd ra lit sc sat u x val A B La clamp wrap out gives gives2 dl
  exact ⟨fun h => issue_put h fun l => iaddOf_eq sat u _ _, fun h => issue_put h fun l => iaddOf_eq sat u _ _,
    fun h => issue_put h fun l => isubOf_eq sat u _ _, fun h => issue_put h fun l => isubOf_eq sat u _ _,
    fun h => issue_put h fun l => mul_eq_ofInt _ _, fun h => issue_put h fun l => mul_eq_ofInt _ _,
    fun h => issue_put h fun l => rfl, fun h => issue_put h fun l => mul_add_eq_ofInt _ _ _,
    fun h => issue_put h fun l => iminOf_eq u _ _, fun h => issue_put h fun l => iminOf_eq u _ _,
    fun h => issue_put h fun l => imaxOf_eq u _ _, fun h => issue_put h fun l => imaxOf_eq u _ _,
    fun h => issue_put h fun l => iabsOf_eq sat _, fun h => issue_put h fun l => iaddminOf_eq u _ _ _,
    fun h => issue_put64 h fun l => add_eq_ofNat _ _, fun h => issue_put64 h fun l => add_sext64_eq _ _,
    fun h => issue_put64 h fun l => sub_eq_ofInt _ _, fun h => issue_put64 h fun l => mul64Of_add_eq u _ _ _,
    Laws.Encoding.statement_of _ _ (by decide) (by decide)⟩

/-- Settles O1, form by form: each issues as its own effect. -/
theorem logicAndMoveResults : Obligations.LogicAndMoveResults := by
  unfold Obligations.LogicAndMoveResults exec
  intro s n g d a b rd ra pc lit sc
  exact ⟨fun h => issue_eff h rfl, fun h => issue_eff h rfl, fun h => issue_eff h rfl, fun h => issue_eff h rfl, fun h => issue_eff h rfl,
    fun h => issue_eff h rfl, fun h => issue_eff h rfl, fun h => issue_eff h rfl, fun h => issue_eff h rfl, fun h => issue_eff h rfl,
    fun h => issue_eff h rfl, fun h => issue_eff h rfl, fun h => issue_eff h rfl⟩

end Sys2Proof.Machine
end

section
/-!
PROOFS. Shifts and bit fields (R100, R101): the numbers that they give, and their masks bit by bit.
-/
namespace Sys2Proof.Machine

/-! #### Shifts (R100) -/

theorem shiftLeft_eq_ofNat {w : Nat} (a : BitVec w) (k : Nat) : a <<< k = if k < w then BitVec.ofNat w (a.toNat * 2 ^ k) else 0#w := by
  split
  · exact BitVec.eq_of_toNat_eq (by simp [Nat.shiftLeft_eq])
  · exact BitVec.shiftLeft_eq_zero (by omega)

theorem ushiftRight_eq_ofNat {w : Nat} (a : BitVec w) (k : Nat) : a >>> k = if k < w then BitVec.ofNat w (a.toNat / 2 ^ k) else 0#w := by
  split
  · rw [← Nat.shiftRight_eq_div_pow, ← BitVec.toNat_ushiftRight, BitVec.ofNat_toNat, BitVec.setWidth_eq]
  · exact BitVec.ushiftRight_eq_zero (by omega)

theorem sshiftRight_of_le (a : Word) {k : Nat} (h : 32 ≤ k) : a.sshiftRight k = if a.getLsbD 31 then 0xFFFFFFFF#32 else 0#32 := by
  refine BitVec.eq_of_getLsbD_eq fun i hi => ?_
  have hs : a.msb = a.getLsbD 31 := BitVec.msb_eq_getLsbD_last a
  rw [BitVec.getLsbD_sshiftRight, if_neg (by omega), hs]
  cases a.getLsbD 31 with
  | false => simp
  | true =>
    show (!decide (32 ≤ i) && true) = (BitVec.allOnes 32).getLsbD i
    rw [BitVec.getLsbD_allOnes, Bool.and_true, ← decide_not, decide_eq_decide, Nat.not_le]

theorem sarOf_eq (a : Word) (k : Nat) : a.sshiftRight k =
    if k < 32 then BitVec.ofInt 32 (a.toInt.fdiv (2 ^ k)) else if a.getLsbD 31 then 0xFFFFFFFF#32 else 0#32 := by
  split
  · have pow : ((2 ^ k : Nat) : Int) = 2 ^ k := by simp
    rw [BitVec.sshiftRight_eq, Int.shiftRight_eq_div_pow, ← pow, Int.fdiv_eq_ediv_of_nonneg _ (Int.natCast_nonneg _)]
  · exact sshiftRight_of_le a (by omega)

/-! #### Masks -/

theorem getLsbD_bitMask (l : Nat) {k : Nat} (hk : k < 32) : (bitMask l).getLsbD k = decide (k = l) := by
  show (BitVec.twoPow 32 l).getLsbD k = _
  rw [BitVec.getLsbD_twoPow]
  by_cases h : k = l
  · simp [h, h ▸ hk]
  · simp [h, Ne.symm h]

theorem getLsbD_maskWhere (f : Nat → Bool) {k : Nat} (hk : k < 32) : (maskWhere f).getLsbD k = f k := by
  have upTo : ∀ n, ((List.range n).foldl (fun m l => if f l then m ||| bitMask l else m) 0#32).getLsbD k = (decide (k < n) && f k) := by
    intro n
    induction n with
    | zero => simp
    | succ n ih =>
      rw [List.range_succ, List.foldl_append, List.foldl_cons, List.foldl_nil]
      by_cases hkn : k = n
      · subst hkn
        cases hf : f k <;> simp [ih, hf, getLsbD_bitMask _ hk]
      · have hlt : k < n + 1 ↔ k < n := by omega
        cases hf : f n <;> simp [ih, getLsbD_bitMask _ hk, hkn, hlt]
  exact (upTo 32).trans (by simp [hk])

/-! #### Bit fields (R101) -/

theorem toSigned_of_lt {w f : Nat} (h : f < 2 ^ w) : toSigned w f = if f < 2 ^ (w - 1) then (f : Int) else (f : Int) - 2 ^ w := by
  rw [toSigned, Nat.mod_eq_of_lt h]

theorem bfeOf_eq (u : Bool) (a b c : Word) : bfeOf u a b c =
    let o := b.toNat % 256
    let w := min (c.toNat % 256) 32
    let f := a.toNat / 2 ^ o % 2 ^ w
    if w = 0 then 0#32 else if u then BitVec.ofNat 32 f else BitVec.ofInt 32 (if f < 2 ^ (w - 1) then (f : Int) else (f : Int) - 2 ^ w) := by
  simp only [bfeOf, field, toSigned_of_lt (Nat.mod_lt _ (Nat.two_pow_pos _))]

/-- Bit by bit: bits o to o + w - 1 come from a, the others from b. -/
theorem bfiOf_eq (a b c : Word) : bfiOf a b c =
    maskWhere fun k =>
      let o := c.toNat % 256
      let w := min (c.toNat / 256 % 256) 32
      if o ≤ k && k < o + w then a.getLsbD (k - o) else b.getLsbD k := by
  refine BitVec.eq_of_getLsbD_eq fun k hk => ?_
  rw [getLsbD_maskWhere _ hk]
  simp only [bfiOf]
  generalize c.toNat % 256 = o
  generalize min (c.toNat / 256 % 256) 32 = w
  simp only [BitVec.getLsbD_or, BitVec.getLsbD_and, BitVec.getLsbD_not, BitVec.getLsbD_ofNat, Nat.testBit_mul_two_pow,
    Nat.testBit_two_pow_sub_one, Nat.testBit_mod_two_pow, BitVec.testBit_toNat, hk, decide_true, Bool.true_and]
  by_cases ho : o ≤ k
  · have hin : k - o < w ↔ k < o + w := by omega
    by_cases hw : k < o + w <;> simp [ho, hw, hin]
  · simp [ho]

theorem popcOf_eq (a : Word) : popcOf a = BitVec.ofNat 32 ((List.range 32).countP fun k => a.getLsbD k) := by
  rw [popcOf, popCount, List.countP_eq_length_filter]

/-- The highest one bit of a number stands at its logarithm, and the search for it from the top finds it there. -/
theorem clzOf_eq (a : Word) : clzOf a = BitVec.ofNat 32 (if a.toNat = 0 then 32 else 31 - Nat.log2 a.toNat) := by
  unfold clzOf
  split
  next h =>
    obtain rfl : a = 0#32 := BitVec.eq_of_toNat_eq h
    rfl
  next h =>
    have hlog : a.toNat.log2 < 32 := (Nat.log2_lt h).2 a.isLt
    have highest : ((List.range 32).find? fun k => a.getLsbD (31 - k)) = some (31 - a.toNat.log2) := by
      refine List.find?_range_eq_some.2 ⟨?_, List.mem_range.2 (by omega), fun j hj => ?_⟩
      · rw [← BitVec.testBit_toNat, show 31 - (31 - a.toNat.log2) = a.toNat.log2 by omega, Nat.testBit_log2 h]
      · have above := Nat.testBit_lt_two_pow (i := 31 - j) ((Nat.log2_lt h).1 (by omega))
        rw [← BitVec.testBit_toNat, above]; rfl
    rw [highest]; rfl

theorem brevOf_eq (a : Word) : brevOf a = a.reverse := by
  refine BitVec.eq_of_getLsbD_eq fun k hk => ?_
  rw [brevOf, getLsbD_maskWhere _ hk, BitVec.getLsbD_reverse, BitVec.getMsbD_eq_getLsbD]
  simp [hk]

/-- Settles O43, form by form: what each writes in a lane is the lemma on its shift or field. -/
theorem shiftAndFieldMeaning : Obligations.ShiftAndFieldMeaning := by
  unfold Obligations.ShiftAndFieldMeaning exec
  intro s n g d a b c rd ra lit sc u x dl A B C La sar gives gives2
  exact ⟨fun h => issue_put h fun l => shiftLeft_eq_ofNat _ _, fun h => issue_put h fun l => shiftLeft_eq_ofNat _ _,
    fun h => issue_put h fun l => ushiftRight_eq_ofNat _ _, fun h => issue_put h fun l => ushiftRight_eq_ofNat _ _,
    fun h => issue_put h fun l => sarOf_eq _ _, fun h => issue_put h fun l => sarOf_eq _ _,
    fun h => issue_put64 h fun l => shiftLeft_eq_ofNat _ _, fun h => issue_put64 h fun l => ushiftRight_eq_ofNat _ _,
    fun h => issue_put64 h fun l => shiftLeft_eq_ofNat _ _, fun h => issue_put64 h fun l => ushiftRight_eq_ofNat _ _,
    fun h => issue_put h fun l => bfeOf_eq u _ _ _, fun h => issue_put h fun l => bfiOf_eq _ _ _,
    fun h => issue_put h fun l => popcOf_eq _, fun h => issue_put h fun l => clzOf_eq _, fun h => issue_put h fun l => brevOf_eq _⟩

end Sys2Proof.Machine
end

section
/-!
PROOFS. Instructions that write a predicate (R95, R99, R102, R126, R165): the truth of each comparison code, and the tests.
-/
namespace Sys2Proof.Machine

section
variable {w : Nat} (a b : BitVec w)

/-! #### The comparison codes (R95) -/

theorem intCmp_eq : intCmp 0 a b = decide (a.toNat = b.toNat) := by
  rw [Bool.eq_iff_iff, decide_eq_true_iff, ← BitVec.toNat_eq]
  exact beq_iff_eq

theorem intCmp_ne : intCmp 1 a b = decide (a.toNat ≠ b.toNat) := by
  rw [decide_not, ← intCmp_eq]
  rfl

theorem intCmp_slt : intCmp 2 a b = decide (a.toInt < b.toInt) := rfl
theorem intCmp_sle : intCmp 3 a b = decide (a.toInt ≤ b.toInt) := rfl
theorem intCmp_sgt : intCmp 4 a b = decide (b.toInt < a.toInt) := rfl
theorem intCmp_sge : intCmp 5 a b = decide (b.toInt ≤ a.toInt) := rfl
theorem intCmp_ult : intCmp 6 a b = decide (a.toNat < b.toNat) := rfl
theorem intCmp_uge : intCmp 7 a b = decide (b.toNat ≤ a.toNat) := rfl
theorem intCmp_ule : intCmp 8 a b = decide (a.toNat ≤ b.toNat) := rfl
theorem intCmp_ugt (k : Nat) : intCmp (k + 9) a b = decide (b.toNat < a.toNat) := rfl

end

/-- Codes 10 to 15 name no comparison (R95). -/
theorem wellFormed_icmp {g : Guard} {p : BitVec 8} {a b : VS} {cc : BitVec 4} (h : 10 ≤ cc.toNat) :
    wellFormed (.icmp g p a b cc) = false ∧ wellFormed (.icmp64 g p a b cc) = false := by
  have reserved : ∀ t : Bool, (t && decide (cc.toNat < 10)) = false := by simp [h]
  exact ⟨reserved _, reserved _⟩

/-- Settles O44: each form tests its lanes with the comparison that its code names. -/
theorem comparisonMeaning : Obligations.ComparisonMeaning := by
  unfold Obligations.ComparisonMeaning exec
  intro s n g p ra a b cc c3 sc lit x truth narrow wide sets
  have cmp : ∀ {w : Nat} (k : Nat) (i j : BitVec w), intCmp k i j = truth k i.toInt j.toInt i.toNat j.toNat := by
    intro w k i j
    match k with
    | 0 => exact intCmp_eq i j
    | 1 => exact intCmp_ne i j
    | 2 => exact intCmp_slt i j
    | 3 => exact intCmp_sle i j
    | 4 => exact intCmp_sgt i j
    | 5 => exact intCmp_sge i j
    | 6 => exact intCmp_ult i j
    | 7 => exact intCmp_uge i j
    | 8 => exact intCmp_ule i j
    | k + 9 => exact intCmp_ugt i j k
  exact ⟨fun h => issue_putP h fun l => cmp _ _ _, fun h => issue_putP h fun l => cmp _ _ _, fun h => issue_putP h fun l => cmp _ _ _,
    fun h => issue_putP h fun l => cmp _ _ _, wellFormed_icmp, Laws.Encoding.statement_of _ _ (by decide) (by decide)⟩

/-- Settles O2, form by form: each issues as its own effect. -/
theorem predicateResults : Obligations.PredicateResults := by
  unfold Obligations.PredicateResults exec
  intro s n g a b pd pa pb pc lut ra lit sc cl ty
  exact ⟨fun h => issue_eff h rfl, fun h => issue_eff h rfl, fun h => issue_eff h rfl, fun h => issue_eff h rfl⟩

end Sys2Proof.Machine
end

section
/-!
PROOFS. Lane exchanges, votes, folds and compaction (R103 to R113): what each body comes to, and BALLOT without a live lane.
-/
namespace Sys2Proof.Machine

/-- Settles O3, form by form: each issues as its own effect. -/
theorem laneExchangeResults : Obligations.LaneExchangeResults := by
  unfold Obligations.LaneExchangeResults exec
  intro s n g b c rd ra k w n5 n6 y f
  exact ⟨fun h => issue_eff h rfl, fun h => issue_eff h rfl, fun h => issue_eff h rfl, fun h => issue_eff h rfl, fun h => issue_eff h rfl,
    fun h => issue_eff h rfl, fun h => issue_eff h rfl, fun h => issue_eff h rfl, fun h => issue_eff h rfl, fun h => issue_eff h rfl⟩

/-! #### RDLANE, the folds and LCOMP (R109, R112, R113) -/

/-- With a live lane, RDLANE reads the lane that it names, or gives the fill value, and records a lane that did not supply. -/
theorem rdlaneBody_live {x : Ctx} {s : State} (sd a : BitVec 8) (k : Nat) (b64 f : Bool) (c : VS) (h : x.live ≠ 0#32) :
    rdlaneBody sd a k b64 f c x s =
      .ok (x.setXlane (if x.live.getLsbD (k % 32) then 0#32 else bitMask (k % 32))
        (if b64 then x.putS64 sd (if x.live.getLsbD (k % 32) then s.v64 x.c x.p (k % 32) a.toNat else if f then x.sreg64 s c.n else 0#64) s
         else x.putS sd (if x.live.getLsbD (k % 32) then s.v x.c x.p (k % 32) a.toNat else if f then x.sreg s c.n else 0#32) s)) :=
  once_live h

/-- In a group of one entry with nothing parked and nothing pending, LCOMP neither faults nor waits. -/
theorem lcompBody_whole {x : Ctx} {s : State} (sd pa : BitVec 8) (id : Bool) (hf : x.g.frontier.length = 1) (hp : x.g.parked = [])
    (hs : s.scoreboardEmpty x.c x.p = true) :
    lcompBody sd pa id x s =
      .ok (x.setXlane 0#32 (x.putS sd
        (BitVec.ofNat 32 (popCount (if id then x.g.liveMask else x.g.liveMask &&& s.p x.c x.p pa.toNat)))
        (x.renumber (if id then x.homeOrder.filterMap fun pl => ((List.range 32).map fun l => s.slotOf x.c x.p l).find? fun t => t.place == pl
          else (compactOrder x.g.liveMask (x.g.liveMask &&& s.p x.c x.p pa.toNat)).filterMap
            fun l => ((List.range 32).map fun l => s.slotOf x.c x.p l)[l]?) s))) := by
  simp [lcompBody, hf, hp, hs]

/-- Settles O4, form by form: a literal lane number is below 32, and the folds issue as their own effect. -/
theorem voteAndFoldResults : Obligations.VoteAndFoldResults := by
  unfold Obligations.VoteAndFoldResults exec
  intro s n g c sd sb rd ra pa n5 op excl y f id
  have literal : n5.toNat % 32 = n5.toNat := Nat.mod_eq_of_lt n5.isLt
  refine ⟨fun h hx => issue_eff h (rdlaneBody_live _ _ _ _ _ _ hx), fun h hx => issue_eff h (rdlaneBody_live _ _ _ _ _ _ hx), fun h hx => ?_,
    fun h => issue_eff h rfl, fun h => issue_eff h rfl, fun h hf hp hs => issue_eff h (lcompBody_whole sd pa id hf hp hs)⟩
  have e := rdlaneBody_live (s := s) sd ra n5.toNat false false ⟨true, 0#8⟩ hx
  rw [literal] at e
  exact issue_eff h e

/-! #### BALLOT without a live lane (R91, R105, R110) -/

/-- BALLOT acts only if Active holds a live lane (R91): otherwise sr.xlane, too, stays as it is. -/
theorem exec_ballot_dead {s : State} {n : Issuer} {g : Guard} {sd pa : BitVec 8} (h : s.runs n (.ballot g sd pa))
    (hx : (s.ctx n g).live = 0#32) : exec (.ballot g sd pa) s = .next (s.advance n) := issue_eff h (once_dead hx)

theorem State.xlane_advance (s : State) (n : Issuer) : ((s.advance n).grp n.core n.grp).xlane = (s.grp n.core n.grp).xlane := by
  rw [s.advance_grp n]

theorem Ctx.xlane_setXlane (x : Ctx) (m : Word) (s : State) : ((x.setXlane m s).grp x.c x.p).xlane = m := by
  rw [Ctx.setXlane, State.grp_setGrp_self]

/-- The first entry of the group in place 0 of core 0. -/
def firstEntry : Issuer := ⟨0, 0, 0, 0⟩

/-- That entry, of lane 0, is about to issue; an earlier exchange of its group named lane 0, which did not supply; every bit of p0 is zero. -/
def laneMissed : State :=
  { State.reset.setGrp 0 0 { live := true, frontier := [{ mask := 1#32 }], xlane := 1#32 } with issuer := some firstEntry }

/-- Refutes O45: under p0, which no lane has set, L is empty, and BALLOT leaves bit 0 of sr.xlane set where the statement has it cleared. -/
theorem not_voteAndMatchMeaning : ¬ Obligations.VoteAndMatchMeaning := by
  unfold Obligations.VoteAndMatchMeaning
  intro h
  obtain ⟨-, -, -, ballot, -⟩ := h laneMissed firstEntry ⟨false, 0#3⟩ 0#8 0#8 0#8 0#8 0#8
  have runs : laneMissed.runs firstEntry (.ballot ⟨false, 0#3⟩ 0#8 0#8) := by decide
  have dead : (laneMissed.ctx firstEntry ⟨false, 0#3⟩).live = 0#32 := by decide
  have same := Host.Outcome.next.inj ((exec_ballot_dead runs dead).symm.trans (ballot runs))
  have cleared : (1#32 : Word) = 0#32 := calc
    1#32 = (laneMissed.grp 0 0).xlane := by decide
    _ = ((laneMissed.advance firstEntry).grp 0 0).xlane := (State.xlane_advance _ firstEntry).symm
    _ = _ := congrArg (fun t : State => (t.grp 0 0).xlane) same
    _ = _ := State.xlane_advance _ firstEntry
    _ = 0#32 := Ctx.xlane_setXlane _ _ _
  exact absurd cleared (by decide)

end Sys2Proof.Machine
end

section
/-!
PROOFS. Floating point, special functions, conversions and residues (R122 to R142): the ways in which these instructions write their results and flags.
-/
namespace Sys2Proof.Machine

section
variable {i : Instr} {gd : Guard} {d a : VS} {s : State} {n : Issuer}

/-- An operation of any type writes its rounded results, an element each, and raises their flags (R117, R122, R124). -/
theorem issue_floatBody {ty : BitVec 2} {srcs : List (VS × Bool)} {op : Fmt → Bool → List FV → Nat × FFlags} (hr : s.runs n i) :
    issue i gd (floatBody ty d srcs op) s = .next (((s.ctx n gd).putFloat ty d srcs op s).advance n) :=
  issue_eff hr rfl

/-- A literal form is of type f32. -/
theorem issue_floatLit {lit : Word} {op : Fmt → Bool → List FV → Nat × FFlags} (hr : s.runs n i) :
    issue i gd (floatLit d a lit op) s =
      .next (((s.ctx n gd).putF d (fun l => toFW (elemOp .f32 ((s.ctx n gd).ftz s) (op .f32 ((s.ctx n gd).ftz s))
        [(((s.ctx n gd).src s a l).toNat, false), (lit.toNat, false)])) s).advance n) :=
  issue_eff hr rfl

theorem issue_putF {F : Ctx → State → Nat → FW} (hr : s.runs n i) :
    issue i gd (fun x s => .ok (x.putF d (F x s) s)) s = .next (((s.ctx n gd).putF d (F (s.ctx n gd) s) s).advance n) :=
  issue_eff hr rfl

/-- A special function is of the bits of an f32 (R131, R133). -/
theorem issue_sfuBody {f : Sfu} (hr : s.runs n i) :
    issue i gd (sfuBody f d a) s =
      .next (((s.ctx n gd).putF d (fun l => f.word ((s.ctx n gd).ftz s) ((s.ctx n gd).src s a l)) s).advance n) :=
  issue_putF hr

theorem issue_putField {code : BitVec 4} {pos : BitVec 2} {F : Ctx → State → Nat → Nat × FFlags} (hr : s.runs n i) :
    issue i gd (fun x s => .ok (x.putField d code pos (F x s) s)) s =
      .next (((s.ctx n gd).putField d code pos (F (s.ctx n gd) s) s).advance n) :=
  issue_eff hr rfl

/-- FSCALE writes a pair for f64 and a word for f32 (R129). -/
theorem issue_fscale {wide : Bool} {F : Ctx → State → Nat → DWord × FFlags} {K : Ctx → State → Nat → FW} (hr : s.runs n i) :
    issue i gd (fun x s => if wide then .ok (x.putF64 d (F x s) s) else .ok (x.putF d (K x s) s)) s =
      .next ((if wide then (s.ctx n gd).putF64 d (F (s.ctx n gd) s) s else (s.ctx n gd).putF d (K (s.ctx n gd) s) s).advance n) :=
  issue_eff hr (apply_ite Res.ok _ _ _).symm

end

/-- Settles O5, kind by kind: the forms of every type, the literal forms, FCLASS, FSCALE, FDOT2 and the special functions. -/
theorem floatResults : Obligations.FloatResults := by
  unfold Obligations.FloatResults exec
  intro s n g d a b c rd ra lit ty rm sc na nb nc x
  exact ⟨issue_floatBody, issue_floatBody, issue_floatBody, issue_floatBody, issue_floatBody, issue_floatBody,
    issue_floatLit, issue_floatLit, issue_floatLit, issue_floatLit,
    fun h => issue_put h fun _ => rfl, fun h => issue_put h fun _ => rfl, fun h => issue_put h fun _ => rfl, fun h => issue_put h fun _ => rfl,
    issue_fscale, issue_putF,
    issue_sfuBody, issue_sfuBody, issue_sfuBody, issue_sfuBody, issue_sfuBody, issue_sfuBody, issue_sfuBody, issue_sfuBody⟩

/-- Settles O6, instruction by instruction: CVN, QCLR and QMOV, which reach residue registers, issue as their own effect. -/
theorem conversionResults : Obligations.ConversionResults := by
  unfold Obligations.ConversionResults exec
  intro s n g d a b rd ra rq nn df sf rm sp dp sat x
  exact ⟨issue_putField, issue_putField, fun h => issue_eff h rfl, issue_putF, issue_putF, fun h => issue_eff h rfl,
    fun h => issue_eff h rfl, fun h => issue_eff h rfl⟩

end Sys2Proof.Machine
end

section
/-!
PROOFS. VCHAIN and HRING (R143, R146, R157, R161, R228): a descriptor read at issue, a chain put in flight, and a table handed to its slot's commit.
-/
namespace Sys2Proof.Machine

section
variable {x : Ctx} {s : State}

/-! #### VCHAIN (R143, R146) -/

/-- A descriptor that nothing keeps from being read is read at its home, and copies of its lines in L1 are made new (R198, R202, R210). -/
theorem Ctx.withDesc_reads {addr : DWord} {n : Nat} {body : List Byte → Ctx → State → Res} {b : List Byte} {ps : List (Nat × Nat)}
    (h : x.reads s addr n b ps) : x.withDesc addr n body s = body b x (s.freshenPieces x.c ps) := by
  obtain ⟨hloads, hlines, htr, hps, rfl⟩ := h
  have hown : (ps.any fun q => s.ownPending x.g.uid q.1 q.2) = false := by
    rw [List.any_eq_false]
    exact fun q hq => by simp [(hps q hq).1]
  have hpins : s.pinnedBy x.c ps = [] := List.flatMap_eq_nil_iff.2 fun q hq => (hps q hq).2
  simp [Ctx.withDesc, hloads, htr, hown, hlines, hpins]

/-- Whether a VCHAIN may take the chain of its partition: no other has it, and the group has a token left (R143, R228). -/
def Ctx.chainFree (x : Ctx) (s : State) : Prop :=
  x.g.tokens.length < 16 ∧ ∀ h ∈ s.chains, h.core ≠ x.c ∨ h.part ≠ partOf x.p

theorem Ctx.chainFree.not_stalled (h : x.chainFree s) (hf : s.engineFrozen x.c 1 = false) :
    (s.engineFrozen x.c 1 || decide (16 ≤ x.g.tokens.length) || s.chains.any fun h => h.core == x.c && h.part == partOf x.p) = false := by
  obtain ⟨htokens, hchains⟩ := h
  have hnone : (s.chains.any fun h => h.core == x.c && h.part == partOf x.p) = false := by
    simp only [List.any_eq_false, Bool.and_eq_true, beq_iff_eq]
    rintro h hmem ⟨hcore, hpart⟩
    exact (hchains h hmem).elim (· hcore) (· hpart)
  simp [hf, htokens, hnone]

section
variable {sd sa : BitVec 8} {b : List Byte} {ps : List (Nat × Nat)} (hx : x.live ≠ 0#32) (hc : x.chainFree s)
  (ha : (x.sreg64 s sa).toNat % 128 = 0) (hb : x.reads s (x.sreg64 s sa) 128 b ps) (hf : s.engineFrozen x.c 1 = false)
  (hd : (chainDesc b).bad b = false)
include hx hc ha hb hf hd

/-- A well-formed descriptor of at least one element, whose result overlaps no source, puts a chain in flight with its token pending. -/
theorem vchainBody_starts (hn : (chainDesc b).n ≠ 0) (ho : (chainDesc b).overlap = false) :
    vchainBody sd sa x s =
      .ok (let f := s.freshenPieces x.c ps
           let h : Chain := { toEng := x.engine (chainDesc b).foot f, part := partOf x.p, token := sd.toNat, desc := b }
           (x.countAsync (x.openToken sd { f with nextId := f.nextId + 1, chains := f.chains ++ [h] })).post .chainCompletion
             [x.c, partOf x.p]) := by
  rw [vchainBody, once_live hx, hc.not_stalled hf]
  simp [ha, Ctx.withDesc_reads hb, hd, hn, ho]

/-- One of no element writes a token of zero (R146). -/
theorem vchainBody_empty (hn : (chainDesc b).n = 0) : vchainBody sd sa x s = .ok (x.putS sd 0#32 (s.freshenPieces x.c ps)) := by
  rw [vchainBody, once_live hx, hc.not_stalled hf]
  simp [ha, Ctx.withDesc_reads hb, hd, hn]

end

/-! #### HRING (R161) -/

/-- Once the lines of its accesses have come, a table that forms a ring is handed to the commit of its slot, 16 cycles later. -/
theorem hringBody_arrived {sa : BitVec 8} {k : BitVec 2} {ofs : BitVec 25} {as : List Access} (hx : x.live ≠ 0#32)
    (hn : x.e.note = 0xA7 :: k.toNat :: as.map (·.id)) (ha : ∀ a ∈ as, s.access a.id = some a ∧ a.done = true)
    (hv : ringValid (as.flatMap (·.value)) = true) :
    hringBody sa k ofs x s =
      .ok (let q : State := { s with accesses := s.accesses.filter fun a => !(as.map (·.id)).contains a.id }
           let r := aget {} (s.core x.c).slots k.toNat
           let slots := aset {} (s.core x.c).slots k.toNat { r with loading := r.loading ++ [(x.g.uid, x.g.node, as.flatMap (·.value))] }
           (q.setCore x.c { s.core x.c with slots := slots }).timer true (s.cycle + 16) .ringSlotCommit [x.c, k.toNat]) := by
  rw [hringBody, once_live hx]
  simp only [hn, List.drop_succ_cons, List.drop_zero]
  rw [if_neg ?waits, List.flatMap_map, List.flatMap_def, List.map_congr_left (g := fun a => a.value) ?table, ← List.flatMap_def, hv]
  case waits =>
    rw [Bool.not_eq_true, List.any_eq_false, List.forall_mem_map]
    intro a hmem
    obtain ⟨hacc, hdone⟩ := ha a hmem
    simp [hacc, hdone]
  case table =>
    intro a hmem
    simp [(ha a hmem).1]
  rfl

end

/-- Settles O15, instruction by instruction. -/
theorem chainAndRingLoadResults : Obligations.ChainAndRingLoadResults := by
  unfold Obligations.ChainAndRingLoadResults exec
  intro s n g sd sa k ofs b as ps
  extract_lets x f d free addr ids t core r
  exact ⟨fun hr hx hfree ha hb hf hd hn ho => issue_eff hr (vchainBody_starts hx hfree ha hb hf hd hn ho),
    fun hr hx hfree ha hb hf hd hn => issue_eff hr (vchainBody_empty hx hfree ha hb hf hd hn),
    fun hr hx hn ha hv => issue_eff hr (hringBody_arrived hx hn ha hv)⟩

end Sys2Proof.Machine
end

section
/-!
PROOFS. The steps of the engines (R147, R230, R236, R245, R251, R266, R287, R307): what each comes to once its work is due and nothing holds it back.
-/
namespace Sys2Proof.Machine

section
variable {s : State}

/-- Whether work is neither of an aborted launch nor of a node that has missed its deadline (R347, R363). -/
def State.calm (s : State) (e : Eng) : Prop := (s.launch e.node).abort = none ∧ (s.node e.node).missed = false

/-! #### Chains (R147) -/

/-- A chain after the run that it makes now. -/
def Chain.ran (h : Chain) (s : State) : Chain :=
  let run := h.run (s.launch h.node).ftz s
  { h with next := run.done, flags := h.flags ||| run.flags.bits }

/-- The state after that run: the completion time is the group's, and the bytes stored are in the digest of a deterministic launch (R345). -/
def State.chainRan (s : State) (c : Nat) (h : Chain) : State :=
  let run := h.run (s.launch h.node).ftz s
  let d := chainDesc h.desc
  let v := run.s.foldWct c h.grp h.uid h.id run.t
  if (s.launch h.node).det then
    v.digestAsync h.toEng (bytesAt (d.za + BitVec.ofNat 64 (h.next * elemBytes d.zf)) (run.out.flatMap fun b => b)) else v

/-- A chain whose run meets no fault, and whose stores no peer has still to answer, ends with its token of all elements. -/
theorem State.chainCompletion_ends {c p : Nat} {h : Chain} (hf : (s.chains.find? fun h => h.core == c && h.part == p) = some h)
    (hz : s.engineFrozen c 1 = false) (ho : h.outcome = none) (hw : s.engineWaits h.toEng .chainCompletion [c, p] = none)
    (hk : s.askPeers h.toEng 0 (chainDesc h.desc).reads = none) (hp : s.awaitsPeer h.id = false)
    (hs : (h.run (s.launch h.node).ftz s).stop = none) (he : (s.chainRan c h).awaitsPeer h.id = false) :
    s.chainCompletion c p = (s.chainRan c h).endChain (h.ran s) (tokenOf 0 (chainDesc h.desc).n) := by
  unfold State.chainRan at he
  simp only [State.chainCompletion, hf, hz, ho, hw, hk, hp, hs, he, Bool.false_eq_true, if_false, Bool.not_false, if_true]
  rfl

/-! #### Copies and cards (R230, R236) -/

/-- A copy makes its next run, and the last writes its token. -/
theorem State.asyncCompletion_runs {id : Nat} {o : AsyncOp} (hf : s.ops.find? (·.id == id) = some o) (hz : s.engineFrozen o.core 3 = false)
    (ho : o.outcome = none) (hc : s.calm o.toEng) (hn : (s.ops.filter fun k => k.core == o.core && k.id < id).length < 64)
    (hw : s.engineWaits o.toEng .asyncCompletion [id] = none) (hk : o.ask o.toEng s = none) (hs : (o.step o.toEng s).stop = none) :
    s.asyncCompletion id =
      let q := o.step o.toEng s
      let o' := o.after (s.launch o.node).det q
      if o'.done = o'.total then q.s.settleOp o' (tokenOf 0 o'.done) else (q.s.setOp o').post .asyncCompletion [id] := by
  obtain ⟨habort, hmissed⟩ := hc
  simp [State.asyncCompletion, hf, hz, ho, habort, hmissed, Nat.not_le.2 hn, hw, hk, hs]

/-- A card after the run that it makes now: what it has stored is to be counted down, at once in scratchpad and at a peer once answered. -/
def CardJob.ran (j : CardJob) (s : State) : CardJob :=
  let y := j.op.step j.toEng s
  let due : Option Nat := if j.op.dst.scr then some 0 else if y.peer then none else some y.t
  { j with op := j.op.after (s.launch j.node).det y, due := if y.out.isEmpty then j.due else j.due ++ [(due, y.out.length)] }

/-- A card makes the next run of its copy, and ends with the last. -/
theorem State.cardCompletion_runs {id : Nat} {j : CardJob} (hf : s.cards.find? (·.id == id) = some j) (hz : s.engineFrozen j.core 3 = false)
    (ho : j.outcome = none) (hj : j.stop = none) (hl : s.lostAt id = none) (hd : s.dev ≠ .checkpoint) (hn : j.copy = none)
    (hc : s.calm j.toEng) (hw : s.engineWaits j.toEng .cardCompletion [id] = none) (hk : j.op.ask j.toEng s = none)
    (hs : (j.op.step j.toEng s).stop = none) :
    s.cardCompletion id =
      let y := j.op.step j.toEng s
      if (j.ran s).op.done = (j.ran s).op.total then y.s.settleCard { j.ran s with outcome := some 0#32 }
      else ((y.s.countDue (j.ran s)).1.setCard (y.s.countDue (j.ran s)).2).post .cardCompletion [id] := by
  obtain ⟨habort, -⟩ := hc
  have hid : j.id = id := by simpa using List.find?_some hf
  simp [State.cardCompletion, CardJob.ran, hf, hz, ho, hj, hid, hl, hd, hn, habort, hw, hk, hs]

/-! #### The matrix unit (R251, R266) -/

/-- A loop that is not shared steps alone. -/
theorem State.sharer_alone {m : MJob} (h : m.shared = false) : s.sharer m = none := by
  simp [State.sharer, h]

/-- A step whose rows have been read is added to its accumulator. -/
theorem State.stepWith_read {m : MJob} {ftz : Bool} {a b : List (List (FV × FFlags))} (hr : m.rows.all (!·) = false)
    (ha : s.stepA m ftz = .ok a) :
    s.stepWith m ftz b = s.applyStep m ftz (a.map (·.map (·.1))) (b.map (·.map (·.1)))
      ((rowFlags a m.rows).or (rowFlags b (List.replicate (accCols (s.acc m.core m.grp m.m).f64) true))) := by
  simp only [State.stepWith, hr, ha, Bool.false_eq_true, if_false]

/-- The first step of its accumulator, of a loop that is neither held nor shared, reads B and steps. -/
theorem State.kStep_alone {c id : Nat} {m : MJob} {b : List (List (FV × FFlags))} (hf : s.mjobs.find? (·.id == id) = some m)
    (hz : s.engineFrozen c 4 = false) (hh : m.held = false) (hs : m.shared = false) (hc : s.calm m.toEng)
    (hw : s.engineWaits m.toEng .kStep [c, id] = none) (hn : ∀ k ∈ s.mjobs, k.uid = m.uid → k.m = m.m → m.id ≤ k.id)
    (hb : s.stepB m (s.launch m.node).ftz = .ok b) : s.kStep c id = s.stepWith m (s.launch m.node).ftz b := by
  obtain ⟨habort, hmissed⟩ := hc
  have hfirst : (s.mjobs.any fun k => k.uid == m.uid && k.m == m.m && decide (k.id < m.id)) = false := by
    rw [List.any_eq_false]
    intro k hk
    simpa using hn k hk
  simp [State.kStep, hf, hz, hh, State.sharer_alone hs, habort, hmissed, hw, hfirst, hb]

/-- A hold of a twin pair that has lasted 4,096 cycles unbinds the pair. -/
theorem State.twinTimeout_due {c p : Nat} {m : MJob} (hm : m ∈ s.mjobs) (hc : m.core = c) (hp : m.grp = p) (hh : m.held = true)
    (ht : 4096 ≤ m.heldFor) : s.twinTimeout c p = s.unbindPair c p :=
  if_pos (List.any_eq_true.2 ⟨m, hm, by simp [hc, hp, hh, ht]⟩)

/-! #### The burnisher (R287, R307) -/

section
variable {c : Nat} {r : RJob} (hh : s.rankHead c = some r) (hz : s.engineFrozen c 5 = false) (hb : r.started = true)
include hh hz hb

/-- A job under way that is not abandoned passes a boundary. -/
theorem State.rankBoundary_passes (hl : r.left ≠ 0) (ha : s.abandons r = none) :
    s.rankBoundary c = (s.setRjob { r with left := r.left - 1 }).rankGoesOn { r with left := r.left - 1 } := by
  simp [State.rankBoundary, hh, hz, hb, hl, ha]

/-- A job past its last boundary that succeeds commits its result and flags, and the next one starts. -/
theorem State.rankCommit_done {t : State} {f : FFlags} {u : Nat} {w : List (Nat × Byte)} (hl : r.left = 0) (ho : r.outcome = none)
    (hw : s.engineWaits r.toEng .burnisherCommit [c] = none)
    (hk : s.askPeers r.toEng 0 ((r.foot.filter fun f => !f.1).map fun f => (f.2.2.1, f.2.2.2, f.2.2.1, 1)) = none)
    (hs : s.lostAt r.id = none) (hd : (s.freshenFoot r.toEng).runRank r = .done t f u w) (hp : t.awaitsPeer r.id = false) :
    s.rankCommit c = (t.settleRank { r with t := u, written := w, flags := f.bits }).startRank c := by
  simp [State.rankCommit, hh, hz, hb, hl, ho, hw, hk, hs, hd, hp]

end

end

/-- Settles O28, step by step. -/
theorem engineStepResults : Obligations.EngineStepResults := by
  unfold Obligations.EngineStepResults exec
  intro s t c p id h o j m a b r f u w
  extract_lets ev calm d run h' v ends q o' y z due j'
  have one : ∀ {k}, ev [k] → s.arg 0 = k := fun hs => State.arg_of_nums hs 0
  have two : ∀ {k l}, ev [k, l] → s.arg 0 = k ∧ s.arg 1 = l := fun hs => ⟨State.arg_of_nums hs 0, State.arg_of_nums hs 1⟩
  refine ⟨?chain, ?copy, ?card, ?gather, ?step, ?twin, ?boundary, ?commit⟩
  case chain =>
    intro hs hf hz ho hw hk hp hr he
    obtain ⟨hc, hp'⟩ := two hs
    rw [execChainCompletion, hc, hp', State.chainCompletion_ends hf hz ho hw hk hp hr he]
    rfl
  case copy =>
    intro hs hf hz ho hc hn hw hk hr
    rw [execAsyncCompletion, one hs, State.asyncCompletion_runs hf hz ho hc hn hw hk hr]
  case card =>
    intro hs hf hz ho hj hl hd hn hc hw hk hr
    rw [execCardCompletion, one hs, State.cardCompletion_runs hf hz ho hj hl hd hn hc hw hk hr]
    rfl
  case gather =>
    intro hs
    obtain ⟨hc, hp⟩ := two hs
    rw [execGathSettled, hc, hp]
  case step =>
    intro hs hf hz hh hsh hc hw hn hr ha hb
    obtain ⟨hc', hi⟩ := two hs
    rw [execKStep, hc', hi, State.kStep_alone hf hz hh hsh hc hw hn hb, State.stepWith_read hr ha]
  case twin =>
    intro hs hm hc hp hh ht
    obtain ⟨hc', hp'⟩ := two hs
    rw [execTwinHoldTimeout, hc', hp', State.twinTimeout_due hm hc hp hh ht]
  case boundary =>
    intro hs hh hz hb hl ha
    have hs' : s.subject.nums = [c] := hs
    simp only [execBurnisherPhaseBoundary, hs', one hs, State.rankBoundary_passes hh hz hb hl ha]
    rfl
  case commit =>
    intro hs hh hz hb hl ho hw hk hn hd hp
    rw [execBurnisherCommit, one hs, State.rankCommit_done hh hz hb hl ho hw hk hn hd hp]

end Sys2Proof.Machine
end

section
/-!
PROOFS. Set instructions (R162 to R167): those of a ring slot act on its table once it is the launch's own, and the others on their sources alone.
-/
namespace Sys2Proof.Machine

/-- An instruction of a ring slot that its launch owns, with no load of the slot pending, writes what it makes of the slot's table (R157). -/
theorem issue_ring {i : Instr} {g : Guard} {k : BitVec 2} {out : List Byte → Ctx → State → State} {s : State} {n : Issuer} (hr : s.runs n i)
    (hp : s.slotPending (s.ctx n g).c (s.ctx n g).p k.toNat = false)
    (ho : (aget {} (s.core (s.ctx n g).c).slots k.toNat).owner = some (s.ctx n g).g.node) :
    issue i g (withRing k fun t x s => .ok (out t x s)) s =
      .next ((out (aget {} (s.core (s.ctx n g).c).slots k.toNat).table (s.ctx n g) s).advance n) :=
  issue_eff hr (ring_ok hp ho)

/-- Settles O7, form by form: the ten that use a ring slot, the unions and intersections, the HATCH8 conversions, and the counts. -/
theorem hatchResults : Obligations.HatchResults := by
  unfold Obligations.HatchResults exec
  intro s n g d a b pd k f64 x
  exact ⟨issue_ring, issue_ring, issue_ring, issue_ring, issue_ring, issue_ring, issue_ring, issue_ring, issue_ring, issue_ring,
    fun h => issue_put h fun _ => rfl, fun h => issue_put h fun _ => rfl, fun h => issue_put h fun _ => rfl, issue_putF,
    fun h => issue_put h fun _ => rfl, fun h => issue_put h fun _ => rfl⟩

end Sys2Proof.Machine
end

section
/-!
PROOFS. What an access of memory leaves alone until it is performed (R181, R185 to R189, R201 to R214): the data of the device, and the
accumulators, tiles and handler mode of every group. One lemma for each function that an access goes through.
-/
namespace Sys2Proof.Machine

/-- Memory, pools, registers, accumulators, tiles and handler modes are those of another state. -/
structure State.KeepsData (s t : State) : Prop where
  data : s.sameData t
  accs : ∀ c p, (t.grp c p).accs = (s.grp c p).accs
  tiles : ∀ c p, (t.grp c p).tiles = (s.grp c p).tiles
  handler : ∀ c p, (t.grp c p).handler = (s.grp c p).handler

/-- The state of a pair that ends with it keeps the data. -/
inductive SndKeepsData (s : State) {α : Type} : α × State → Prop
  | mk {t : State} {a : α} (h : s.KeepsData t) : SndKeepsData s (a, t)

section
variable {s t u : State}

theorem State.KeepsData.refl (s : State) : s.KeepsData s := ⟨s.sameData_refl, fun _ _ => rfl, fun _ _ => rfl, fun _ _ => rfl⟩

theorem State.KeepsData.trans (h : s.KeepsData t) (k : t.KeepsData u) : s.KeepsData u :=
  ⟨State.sameData_trans h.data k.data, fun c p => (k.accs c p).trans (h.accs c p), fun c p => (k.tiles c p).trans (h.tiles c p),
    fun c p => (k.handler c p).trans (h.handler c p)⟩

/-- An update of other fields than the data and the groups. -/
theorem State.KeepsData.upd (h : s.KeepsData t) (hd : t.sameData u := by exact ⟨rfl, rfl, rfl, rfl, rfl, rfl, rfl⟩)
    (hg : u.groups = t.groups := by rfl) : s.KeepsData u := by
  have grp : ∀ c p, u.grp c p = t.grp c p := fun c p => by simp only [State.grp, hg]
  exact h.trans ⟨hd, fun c p => by rw [grp], fun c p => by rw [grp], fun c p => by rw [grp]⟩

theorem State.KeepsData.ite {c : Prop} [Decidable c] (ht : s.KeepsData t) (hu : s.KeepsData u) : s.KeepsData (if c then t else u) :=
  keeps_ite ht hu

theorem State.KeepsData.foldl {α : Type} {l : List α} {f : State → α → State} (h : s.KeepsData t)
    (hf : ∀ {b a}, s.KeepsData b → s.KeepsData (f b a)) : s.KeepsData (l.foldl f t) := keeps_foldl h hf

theorem State.KeepsData.snd {α : Type} {p : α × State} (h : SndKeepsData s p) : s.KeepsData p.2 := by cases h; assumption

theorem State.KeepsData.post {i ns} (h : s.KeepsData t) : s.KeepsData (t.post i ns) := h.upd (t.sameData_post i ns) (t.post_groups i ns)

/-- A group written with its accumulators, tiles and handler mode as they are. -/
theorem State.KeepsData.setGrp {c p : Nat} {g : Group} (h : s.KeepsData t) (ha : g.accs = (t.grp c p).accs := by rfl)
    (hi : g.tiles = (t.grp c p).tiles := by rfl) (hh : g.handler = (t.grp c p).handler := by rfl) : s.KeepsData (t.setGrp c p g) := by
  have grp : ∀ (α : Type) (f : Group → α), f g = f (t.grp c p) → ∀ d q, f ((t.setGrp c p g).grp d q) = f (t.grp d q) := by
    intro α f hf d q
    rw [State.grp_setGrp]
    split
    · rename_i hk
      rw [hf, State.grp, State.grp, hk]
    · rfl
  exact h.trans ⟨t.setGrp_sameData c p g, grp _ (·.accs) ha, grp _ (·.tiles) hi, grp _ (·.handler) hh⟩

/-! #### Faults, and code that is stored to -/

theorem State.KeepsData.faultAt {c p a} (h : s.KeepsData t) : s.KeepsData (t.faultAt c p a) := by
  unfold State.faultAt
  dsimp only
  split <;> exact h.setGrp

theorem State.KeepsData.freezeCore {c a} (h : s.KeepsData t) : s.KeepsData (t.freezeCore c a) := h.upd

theorem State.KeepsData.retryStep {ls i ns} (h : s.KeepsData t) : s.KeepsData (t.retryStep ls i ns) := h.upd

theorem State.KeepsData.wakeWaits (h : s.KeepsData t) : s.KeepsData t.wakeWaits := .foldl h fun hb => .ite hb.post hb

/-! #### Digests and numbered accesses -/

theorem State.KeepsData.digestLane {c p l addr bs kind} (h : s.KeepsData t) : s.KeepsData (t.digestLane c p l addr bs kind) :=
  .ite h h.setGrp.setGrp

theorem State.KeepsData.digestAccess {x l a} (h : s.KeepsData t) : s.KeepsData (t.digestAccess x l a) := by
  unfold State.digestAccess
  refine .ite h ?_
  split
  · exact h
  · exact h.digestLane
  · exact h.digestLane

theorem State.KeepsData.addAccesses {as} (h : s.KeepsData t) : s.KeepsData (t.addAccesses as) := .foldl h fun hb => hb.upd.post

theorem State.KeepsData.setAccess {a} (h : s.KeepsData t) : s.KeepsData (t.setAccess a) := h.upd

theorem State.KeepsData.allDone {x : Ctx} (h : s.KeepsData t) : s.KeepsData (x.allDone t) := .ite h h.setGrp

/-! #### Copies of lines -/

theorem State.KeepsData.freshenCopy {c line} (h : s.KeepsData t) : s.KeepsData (t.freshenCopy c line) := h.upd

theorem State.KeepsData.grantLease {c line} (h : s.KeepsData t) : s.KeepsData (t.grantLease c line) := by
  unfold State.grantLease
  split
  · exact h
  · exact .ite h.freshenCopy h.upd.freshenCopy

theorem State.KeepsData.grantStipple {c line} (h : s.KeepsData t) : s.KeepsData (t.grantStipple c line) := by
  unfold State.grantStipple
  split
  · exact h
  · exact h.upd.freshenCopy

theorem State.KeepsData.fetchLine {c pa} (h : s.KeepsData t) : s.KeepsData (t.fetchLine c pa) := .ite h (.ite h h.grantLease)

theorem State.KeepsData.takeLine {a} (h : s.KeepsData t) : s.KeepsData (t.takeLine a) :=
  .ite h (.ite h.grantStipple (.ite h.freshenCopy h.grantLease))

theorem SndKeepsData.readScale {a} (h : s.KeepsData t) : SndKeepsData s (t.readScale a) := by
  unfold State.readScale
  split
  · dsimp only
    split
    · exact .mk h.upd
    · exact .mk h.takeLine
  · exact .mk h

/-! #### Packets to peers -/

theorem State.KeepsData.sendPacket {q} (h : s.KeepsData t) : OptionEach s.KeepsData (t.sendPacket q) := by
  unfold State.sendPacket
  split
  · exact .none
  · exact .some (.ite h.upd h.upd)

theorem State.KeepsData.donePacket {id} (h : s.KeepsData t) : s.KeepsData (t.donePacket id) := by
  unfold State.donePacket
  split
  · exact h
  · exact .ite h.upd.post h.upd

theorem State.KeepsData.dropPacketOf {tag} (h : s.KeepsData t) : s.KeepsData (t.dropPacketOf tag) := by
  unfold State.dropPacketOf
  split
  · exact h
  · exact h.donePacket

theorem State.KeepsData.loseAccess {id} (h : s.KeepsData t) : s.KeepsData (t.loseAccess id) := by
  unfold State.loseAccess
  split
  · exact h
  · refine .ite h.dropPacketOf.setAccess.post ?_
    split <;> exact h.dropPacketOf.setAccess.post

theorem State.KeepsData.sendAccess {a} (h : s.KeepsData t) : s.KeepsData (t.sendAccess a) := by
  unfold State.sendAccess
  extract_lets kind
  split
  · exact h.loseAccess
  · rename_i e
    exact (h.sendPacket.get e).setAccess

theorem State.KeepsData.retryLater {a} (h : s.KeepsData t) : s.KeepsData (t.retryLater a) := h.setAccess.retryStep

end

/-! #### What an instruction's own effect comes to -/

/-- An answer of an instruction's effect that keeps the data, unless the effect is made; then the state after it has a property of its own. -/
inductive Res.Keeps (s : State) (P : State → Prop) : Res → Prop
  | ok {t : State} (h : P t) : Res.Keeps s P (.ok t)
  | done {t : State} (h : s.KeepsData t) : Res.Keeps s P (.done t)
  | fault {code : Nat} {d : DWord} {t : State} (h : s.KeepsData t) : Res.Keeps s P (.fault code d t)
  | wait {t : State} {why : Nat} (h : s.KeepsData t) : Res.Keeps s P (.wait t why)

/-- What no answer of an instruction changes, its exceptions included: registers, pools, accumulators and tiles; and memory, unless a fault has
taken the group into its handler. -/
structure State.FaultFrame (s : State) (n : Issuer) (t : State) : Prop where
  vreg : t.vreg = s.vreg
  sreg : t.sreg = s.sreg
  pred : t.pred = s.pred
  qreg : t.qreg = s.qreg
  pool : t.pool = s.pool
  accs : (t.grp n.core n.grp).accs = (s.grp n.core n.grp).accs
  tiles : (t.grp n.core n.grp).tiles = (s.grp n.core n.grp).tiles
  byte : (t.grp n.core n.grp).handler = (s.grp n.core n.grp).handler → ∀ a, t.byte a = s.byte a

theorem Res.Keeps.ite {s : State} {P : State → Prop} {c : Prop} [Decidable c] {a b : Res} (ha : a.Keeps s P) (hb : b.Keeps s P) :
    (if c then a else b).Keeps s P := keeps_ite ha hb

section
variable {s : State} {P : State → Prop} {x : Ctx}

theorem Res.Keeps.once {body : Ctx → State → Res} (h0 : P s) (h : (body x s).Keeps s P) : (once body x s).Keeps s P := .ite (.ok h0) h

theorem Res.Keeps.memRaise {t : State} {code : Nat} {a : DWord} (h : s.KeepsData t) : (x.memRaise code a t).Keeps s P :=
  .ite (.fault h) (.fault h.faultAt)

theorem Res.Keeps.scrRaise {t : State} {code : Nat} {ofs : Int} (h : s.KeepsData t) : (x.scrRaise code ofs t).Keeps s P := .fault h.faultAt

/-- An answer that keeps the data has the frame; one whose effect is made keeps it if the effect does. -/
theorem Res.Keeps.frame {r : Res} {n : Issuer} (h : r.Keeps s s.KeepsData) : s.FaultFrame n (r.settle n) := by
  obtain ⟨⟨hv, hs, hp, hq, hpool⟩, ha, ht, hb⟩ := Res.settle_frame (s := s) (n := n) (r := r) (by
    cases h with
    | ok h | done h | wait h => exact ⟨h.data, h.accs _ _, h.tiles _ _⟩
    | fault h => exact ⟨h.data, h.accs _ _, h.tiles _ _, h.handler _ _⟩)
  exact ⟨hv, hs, hp, hq, hpool, ha, ht, fun e => State.sameData_byte (hb e)⟩

end

theorem State.FaultFrame.raise (s : State) (n : Issuer) (code : Nat) (d : DWord) : s.FaultFrame n (s.raise n code d) :=
  Res.Keeps.frame (.fault (.refl s))

/-- What issuing an instruction comes to whose answers keep the data: the frame, or the state after its effect with its entry moved on. -/
theorem issue_frame {i : Instr} {gd : Guard} {body : Ctx → State → Res} {s t : State} {n : Issuer} {P : State → Prop} (hn : s.issuer = some n)
    (hb : (body (s.ctx n gd) s).Keeps s P) (h : issue i gd body s = .next t) :
    s.FaultFrame n t ∨ ∃ u, P u ∧ t = u.advance n := by
  rw [issue_next hn, Host.Outcome.next.injEq] at h
  subst h
  split
  · exact .inl (.raise s n _ _)
  · generalize body (s.ctx n gd) s = r at hb ⊢
    cases hb with
    | ok hu => exact .inr ⟨_, hu, rfl⟩
    | done h => exact .inl (Res.Keeps.frame (.done h))
    | fault h => exact .inl (Res.Keeps.frame (.fault h))
    | wait h => exact .inl (Res.Keeps.frame (.wait h))

/-- If the effect keeps the data as well, the frame holds whatever comes of the instruction. -/
theorem issue_keepsData {i : Instr} {gd : Guard} {body : Ctx → State → Res} {s t : State} {n : Issuer} (hn : s.issuer = some n)
    (hb : (body (s.ctx n gd) s).Keeps s s.KeepsData) (h : issue i gd body s = .next t) : s.FaultFrame n t := by
  rcases issue_frame hn hb h with h | ⟨u, hu, rfl⟩
  · exact h
  · exact Res.Keeps.frame (.ok hu)

/-! #### The instructions (R181, R185 to R189) -/

section
variable {s : State} {x : Ctx}

/-- An element-wise instruction sends its accesses on their way, and changes nothing else but digests, sr.emask and sr.faddr. -/
theorem Res.Keeps.elements {f : Nat → Except EngStop Access} : (x.elements f s).Keeps s s.KeepsData := by
  unfold Ctx.elements
  extract_lets r t done g
  have ht : s.KeepsData t := (State.KeepsData.foldl (.refl s) fun hb => hb.digestAccess).addAccesses
  refine .ite (.ok (.refl s)) (.ite (.fault (.refl s)) (.ite (.wait (.refl s)) ?_))
  split
  · exact .ok ht.allDone
  · exact .memRaise ht.setGrp
  · exact .done ht.setGrp.freezeCore

theorem Res.Keeps.ldkBody {data base : BitVec 8} {w : BitVec 4} {ofs : BitVec 14} : (ldkBody data base w ofs x s).Keeps s s.KeepsData := by
  unfold Machine.ldkBody
  refine .once (.refl s) ?_
  extract_lets addr
  split
  · exact .ite (.wait (.refl s)) (.ok (State.KeepsData.refl s).addAccesses)
  · exact .memRaise (.refl s)
  · exact .done (State.KeepsData.refl s).freezeCore

theorem Res.Keeps.prefBody {base idx : BitVec 8} {form : BitVec 2} {llc : Bool} {ofs : BitVec 14} :
    (prefBody base idx form llc ofs x s).Keeps s s.KeepsData :=
  .ite (.wait (.refl s)) (.ite (.ok (.refl s)) (.ok (.foldl (.refl s) fun hb => hb.fetchLine)))

end

/-- Settles O48: each effect keeps the data, and an exception has the frame. -/
theorem accessIssueFrame : Obligations.AccessIssueFrame := by
  unfold Obligations.AccessIssueFrame
  intro i s t n g data base idx opd cmp form llc sc2 w aop scope w64 ofs ofa hn hi h
  have hf : s.FaultFrame n t := by
    rcases hi with rfl | rfl | rfl | rfl | rfl
    · exact issue_keepsData hn .elements h
    · exact issue_keepsData hn .elements h
    · exact issue_keepsData hn .ldkBody h
    · exact issue_keepsData hn .elements h
    · exact issue_keepsData hn .prefBody h
  exact ⟨hf.vreg, hf.sreg, hf.pred, hf.qreg, fun c a => congrArg (aget 0#8 · (poolKey c a)) hf.pool, hf.accs, hf.tiles, hf.byte⟩

end Sys2Proof.Machine
end

section
/-!
PROOFS. An access at its home (R189, R204 to R208): the data that it changes are the bytes that it stores.
-/
namespace Sys2Proof.Machine

/-- How many bytes an access stores. -/
def Access.stored (a : Access) : Nat :=
  match a.kind with
  | .load => 0
  | .store => a.data.length
  | .atomic _ => a.n

/-- A state differs from another in its data at most by bytes that an access stores at its address. -/
def State.StoresOnly (s : State) (a : Access) (t : State) : Prop :=
  ∃ bs : List Byte, bs.length ≤ a.stored ∧ (s.setBytes a.pa bs).KeepsData t

section
variable {s t : State} {a : Access}

theorem State.StoresOnly.of_keepsData (h : s.KeepsData t) : s.StoresOnly a t := ⟨[], Nat.zero_le _, h⟩

/-- So its registers and pools are the same, and its memory beyond those bytes. -/
theorem State.StoresOnly.frame (h : s.StoresOnly a t) :
    t.vreg = s.vreg ∧ t.sreg = s.sreg ∧ t.pred = s.pred ∧ t.qreg = s.qreg ∧ t.pool = s.pool ∧
      ∀ k, k < a.pa ∨ a.pa + a.stored ≤ k → t.byte k = s.byte k := by
  obtain ⟨bs, hbs, hk⟩ := h
  have hbyte : ∀ k, k < a.pa ∨ a.pa + a.stored ≤ k → t.byte k = s.byte k := fun k h =>
    (State.sameData_byte hk.data k).trans (s.byte_setBytes_ne bs (by omega))
  obtain ⟨-, -, hpool, hv, hs, hp, hq⟩ := hk.data
  rw [s.setBytes_eq] at hpool hv hs hp hq
  exact ⟨hv, hs, hp, hq, hpool, hbyte⟩

/-- What is performed at the home, outside control space, stores the access's own bytes. -/
theorem State.performHome_storesOnly (hw : windowOf a.pa ≠ some .control) : s.StoresOnly a (s.performHome a) := by
  have hw : (windowOf a.pa == some .control) = false := by simpa using hw
  unfold State.performHome
  split
  · exact .of_keepsData (State.KeepsData.snd (.readScale (State.KeepsData.refl s).takeLine)).setAccess.post
  · rename_i hk
    simp only [hw, Bool.false_eq_true, if_false]
    exact ⟨a.data, by simp [Access.stored, hk], (State.KeepsData.refl _).setAccess.post.wakeWaits⟩
  · rename_i aop hk
    simp only [hw, Bool.false_eq_true, if_false]
    exact ⟨_, by simp [Access.stored, hk, leBytes_length], (State.KeepsData.refl _).setAccess.post.wakeWaits⟩

theorem State.homeRequest_storesOnly {id : Nat} (ha : s.access id = some a) (hw : windowOf a.pa ≠ some .control) :
    s.StoresOnly a (s.homeRequest id) := by
  simp only [State.homeRequest, ha]
  refine keeps_ite (.of_keepsData (.refl s)) (keeps_ite (.of_keepsData (State.KeepsData.refl s).post) ?_)
  split
  · exact .of_keepsData (State.KeepsData.refl s).sendAccess
  · exact keeps_ite (.of_keepsData (State.KeepsData.refl s).retryLater) (State.performHome_storesOnly hw)
  · exact State.performHome_storesOnly hw

end

/-- Settles O49: the bytes that a load, a store and an atomic store. -/
theorem homeRequestFrame : Obligations.HomeRequestFrame := by
  unfold Obligations.HomeRequestFrame
  intro s t id k aop a hs ha hw h
  have ht : execHomeRequest s = .next t := h
  rw [execHomeRequest, State.arg_zero hs, Host.Outcome.next.injEq] at ht
  subst ht
  obtain ⟨hv, hsr, hp, hq, hpool, hbyte⟩ := (State.homeRequest_storesOnly ha hw).frame
  refine ⟨hv, hsr, hp, hq, hpool, fun hk => hbyte k ?_, fun hk ho => hbyte k ?_, fun hk ho => hbyte k ?_⟩
  · simp only [Access.stored, hk]
    omega
  · simpa only [Access.stored, hk] using ho
  · simpa only [Access.stored, hk] using ho

end Sys2Proof.Machine
end

section
/-!
PROOFS. Accesses of the scratchpad slice (R187, R190): they change vector registers and, at their elements, the pool of their core.
-/
namespace Sys2Proof.Machine

/-- A state that differs from another at most in vector registers, pools and the agenda. -/
def State.SliceOnly (s t : State) : Prop := t = { s with vreg := t.vreg, pool := t.pool, agenda := t.agenda }

section
variable {s t : State}

theorem State.SliceOnly.refl (s : State) : s.SliceOnly s := rfl

theorem State.SliceOnly.foldl {α : Type} {l : List α} {f : State → α → State} (h : s.SliceOnly t)
    (hf : ∀ {b a}, s.SliceOnly b → s.SliceOnly (f b a)) : s.SliceOnly (l.foldl f t) := keeps_foldl h hf

theorem State.SliceOnly.post {i ns} (h : s.SliceOnly t) : s.SliceOnly (t.post i ns) := by
  rw [State.post_eq, h]
  rfl

theorem State.SliceOnly.wakeWaits (h : s.SliceOnly t) : s.SliceOnly t.wakeWaits := .foldl h fun hb => keeps_ite hb.post hb

theorem State.SliceOnly.setVs {c p l reg ws} (h : s.SliceOnly t) : s.SliceOnly (t.setVs c p l reg ws) :=
  .foldl h fun {b _} hb => by
    unfold State.setV
    rw [hb]
    rfl

theorem State.SliceOnly.setPoolBytes {c a bs} (h : s.SliceOnly t) : s.SliceOnly (t.setPoolBytes c a bs) := by
  rw [State.setPoolBytes_eq, h]
  rfl

end

/-! #### Which bytes of the pool they change -/

theorem State.wakeWaits_pool (s : State) : s.wakeWaits.pool = s.pool := by
  obtain ⟨-, -, hpool, -⟩ := (State.KeepsData.refl s).wakeWaits.data
  exact hpool

theorem State.wakeWaits_vreg (s : State) : s.wakeWaits.vreg = s.vreg := by
  obtain ⟨-, -, -, hvreg, -⟩ := (State.KeepsData.refl s).wakeWaits.data
  exact hvreg

theorem State.setVs_pool (s : State) (c p l reg : Nat) (ws : List Word) : (s.setVs c p l reg ws).pool = s.pool :=
  List.foldlRecOn (motive := fun t : State => t.pool = s.pool) _ _ rfl fun _ hb _ _ => hb

theorem State.setPoolBytes_vreg (s : State) (c a : Nat) (bs : List Byte) : (s.setPoolBytes c a bs).vreg = s.vreg := by
  rw [State.setPoolBytes_eq]

/-- The bytes that a lane stores are no more than its element. -/
theorem Ctx.laneBytes_length_le (x : Ctx) (s : State) (l n reg : Nat) : (x.laneBytes s l n reg).length ≤ n := by
  simp only [Ctx.laneBytes, storeBytes, List.length_take]
  omega

/-- A byte of the pool that lies in no element of m bytes of the live lanes (R187). -/
def Ctx.outside (x : Ctx) (s : State) (at_ : Nat → Int) (m c k : Nat) : Prop :=
  ∀ l ∈ lanesOf x.live, poolKey c k < poolKey x.c ((s.scrSlice x.c x.g.slot).1 + (at_ l).toNat) ∨
    poolKey x.c ((s.scrSlice x.c x.g.slot).1 + (at_ l).toNat) + m ≤ poolKey c k

section
variable {s : State} {x : Ctx} {data base opd cmp : BitVec 8} {form : BitVec 2} {w aop : BitVec 4} {ofs : BitVec 14}

/-- LDS writes vector registers. -/
theorem Res.Keeps.ldsBody :
    (ldsBody data base form w ofs x s).Keeps s fun u => s.SliceOnly u ∧ u.pool = s.pool := by
  unfold Machine.ldsBody
  extract_lets n at_
  split
  · exact .scrRaise (.refl s)
  · refine .ite (.wait (.refl s)) (.ite (.wait (.refl s)) (.ok ⟨.foldl (.refl s) fun hb => hb.setVs, ?_⟩))
    exact keeps_foldl (P := fun t : State => t.pool = s.pool) rfl fun hb => (State.setVs_pool ..).trans hb

/-- STS writes the elements of its lanes. -/
theorem Res.Keeps.stsBody :
    (stsBody data base form w ofs x s).Keeps s fun u => s.SliceOnly u ∧ u.vreg = s.vreg ∧
      ∀ c k, x.outside s (x.poolAddr s form base ofs) (widthBytes w) c k → u.poolByte c k = s.poolByte c k := by
  unfold Machine.stsBody
  extract_lets n at_
  split
  · exact .scrRaise (.refl s)
  · refine .ite (.wait (.refl s)) (.ite (.wait (.refl s)) (.ok ⟨(State.SliceOnly.foldl (.refl s) fun hb => hb.setPoolBytes).wakeWaits, ?_,
      fun c k ho => ?_⟩))
    · rw [State.wakeWaits_vreg]
      exact keeps_foldl (P := fun t : State => t.vreg = s.vreg) rfl fun hb => (State.setPoolBytes_vreg ..).trans hb
    · rw [State.poolByte, State.wakeWaits_pool]
      refine List.foldlRecOn (motive := fun t : State => t.poolByte c k = s.poolByte c k) _ _ rfl fun b hb l hl => ?_
      have hlen := x.laneBytes_length_le s l n data.toNat
      exact (b.poolByte_setPoolBytes_ne _ ((ho l hl).imp_right fun h => by omega)).trans hb

/-- ATOMS writes both: an element first, and then its lane's registers. -/
theorem Res.Keeps.atomsBody {w64 : Bool} {ofs : BitVec 10} :
    (atomsBody data base opd cmp form aop w64 ofs x s).Keeps s fun u => s.SliceOnly u ∧
      ∀ c k, x.outside s (x.poolAddr s form base ofs) (if w64 then 8 else 4) c k → u.poolByte c k = s.poolByte c k := by
  unfold Machine.atomsBody
  generalize (if w64 then 8 else 4 : Nat) = n
  extract_lets m at_
  split
  · exact .scrRaise (.refl s)
  · refine .ite (.wait (.refl s)) (.ite (.wait (.refl s)) (.ok ⟨(State.SliceOnly.foldl (.refl s) fun hb => hb.setPoolBytes.setVs).wakeWaits,
      fun c k ho => ?_⟩))
    rw [State.poolByte, State.wakeWaits_pool]
    refine List.foldlRecOn (motive := fun t : State => t.poolByte c k = s.poolByte c k) _ _ rfl fun b hb l hl => ?_
    dsimp only
    rw [State.poolByte, State.setVs_pool]
    exact (b.poolByte_setPoolBytes_ne _ (by rw [leBytes_length]; exact ho l hl)).trans hb

end

theorem State.advance_poolByte (s : State) (n : Issuer) (c k : Nat) : (s.advance n).poolByte c k = s.poolByte c k :=
  State.sameData_poolByte (s.advance_data n) c k

theorem State.advance_vreg (s : State) (n : Issuer) : (s.advance n).vreg = s.vreg := by
  obtain ⟨-, -, -, hv, -⟩ := s.advance_data n
  exact hv

/-- What an access of the slice leaves of registers and memory as it was, its entry moved on. -/
theorem State.SliceOnly.others {s u : State} {n : Issuer} {q : Prop} (h : s.SliceOnly u) :
    (u.advance n).sreg = s.sreg ∧ (u.advance n).pred = s.pred ∧ (u.advance n).qreg = s.qreg ∧
      (q → ∀ a, (u.advance n).byte a = s.byte a) := by
  obtain ⟨-, -, -, -, hs, hp, hq⟩ := u.advance_data n
  have hbyte : ∀ a, u.byte a = s.byte a := fun a => by rw [h]; rfl
  exact ⟨hs.trans (by rw [h]), hp.trans (by rw [h]), hq.trans (by rw [h]),
    fun _ a => (State.sameData_byte (u.advance_data n) a).trans (hbyte a)⟩

theorem State.FaultFrame.poolByte {s t : State} {n : Issuer} (h : s.FaultFrame n t) (c k : Nat) : t.poolByte c k = s.poolByte c k :=
  congrArg (aget 0#8 · (poolKey c k)) h.pool

/-- Settles O50: an exception has the frame of every fault, and each effect writes its elements alone. -/
theorem sliceAccessFrame : Obligations.SliceAccessFrame := by
  unfold Obligations.SliceAccessFrame
  intro s t n g data base opd cmp form w aop scope w64 ofs ofa c k hn
  extract_lets x b outside others
  have faulted : s.FaultFrame n t → others := fun h => ⟨h.sreg, h.pred, h.qreg, h.byte⟩
  refine ⟨fun h => ?_, fun h => ?_, fun h => ?_⟩
  · rcases issue_frame hn .ldsBody h with h | ⟨u, ⟨hu, hpool⟩, rfl⟩
    · exact ⟨faulted h, h.poolByte c k⟩
    · exact ⟨hu.others, (u.advance_poolByte n c k).trans (congrArg (aget 0#8 · (poolKey c k)) hpool)⟩
  · rcases issue_frame hn .stsBody h with h | ⟨u, ⟨hu, hv, hk⟩, rfl⟩
    · exact ⟨faulted h, h.vreg, fun _ => h.poolByte c k⟩
    · exact ⟨hu.others, (u.advance_vreg n).trans hv, fun ho => (u.advance_poolByte n c k).trans (hk c k ho)⟩
  · rcases issue_frame hn .atomsBody h with h | ⟨u, ⟨hu, hk⟩, rfl⟩
    · exact ⟨faulted h, fun _ => h.poolByte c k⟩
    · exact ⟨hu.others, fun ho => (u.advance_poolByte n c k).trans (hk c k ho)⟩

end Sys2Proof.Machine
end

section
/-!
PROOFS. Misaligned accesses (R181, R186, R361): the lowest element stops the instruction before any access is made, and its group takes the exception
at the instruction with the address in sr.faddr.
-/
namespace Sys2Proof.Machine

section
variable {s : State} {x : Ctx} {addr : DWord} {n : Nat}

/-- No access needs no line. -/
theorem State.linesFull_nil (s : State) (c : Nat) : s.linesFull c (linesOf []) = false := rfl

/-- An element-wise instruction whose lowest element faults makes no access. -/
theorem Ctx.elements_fault {f : Nat → Except EngStop Access} {l code : Nat} (hx : x.live ≠ 0#32) (hl : x.todo.head? = some l)
    (hf : f l = .error (.fault code addr)) (hc : code ≠ Code.PRIV) :
    x.elements f s = x.memRaise code addr (s.setGrp x.c x.p { s.grp x.c x.p with emask := x.g.emask }) := by
  obtain ⟨ls, hls⟩ := List.head?_eq_some_iff.1 hl
  have ht : takeElems f x.todo = ([], some (.fault code addr)) := by rw [hls, takeElems, hf]
  simp [Ctx.elements, hx, ht, hc, State.linesFull_nil, State.addAccesses]

/-- A group written as it is changes nothing of what a fault leaves. -/
theorem State.faultAt_setGrp_grp (s : State) (c p : Nat) (a : DWord) : (s.setGrp c p (s.grp c p)).faultAt c p a = s.faultAt c p a := by
  simp only [State.faultAt, State.grp_setGrp_self, State.setGrp_setGrp]

theorem Ctx.loadElem_misaligned {w : BitVec 4} {nl1 : Bool} {lane : Nat} {dest : Dest} (hw : w ≠ 7#4)
    (ha : addr.toNat % widthBytes w ≠ 0) : x.loadElem addr w nl1 lane dest s = .error (.fault Code.MISALIGN addr) := by
  simp [Ctx.loadElem, hw, ha]

theorem Ctx.memRaise_address {code : Nat} (hc : code ≠ Code.PRIV) :
    x.memRaise code addr s = .fault code 0#64 (s.faultAt x.c x.p (BitVec.ofNat 64 (addr.toNat % 2 ^ 57))) := by
  simp [Ctx.memRaise, hc]

end

/-- What a memory fault at an entry's instruction comes to in a group that keeps no other cause: sr.faddr has the address, and the group takes the
exception (R359, R361). -/
def State.memTrap (s : State) (n : Issuer) (e : Entry) (code : Nat) (addr : DWord) : State :=
  (s.setGrp n.core n.grp { s.grp n.core n.grp with
    faddr := BitVec.ofNat 64 (addr.toNat % 2 ^ 57)
    frontier := (s.grp n.core n.grp).frontier.set n.ent { e with note := [] } }).takeException n.core n.grp
      { code := code, detail := 0#64, tpc := wordAddr e.hdr e.idx, fe := n.ent }

section
variable {s : State} {n : Issuer} {e : Entry} {i : Instr} {g : Guard} {body : Ctx → State → Res} {addr : DWord} {code : Nat}
  (hr : s.runs n i) (he : (s.grp n.core n.grp).frontier[n.ent]? = some e) (ht : (s.grp n.core n.grp).trap = none)

include he ht in
theorem State.raise_faultAt :
    (s.faultAt n.core n.grp (BitVec.ofNat 64 (addr.toNat % 2 ^ 57))).raise n code 0#64 = s.memTrap n e code addr := by
  have hf : ∀ a, s.faultAt n.core n.grp a = s.setGrp n.core n.grp { s.grp n.core n.grp with faddr := a } := by
    intro a
    simp [State.faultAt, ht]
  rw [hf, State.raise_eq (e := e) _ _ (by rw [State.grp_setGrp_self]; exact he), State.setGrp_setGrp, State.grp_setGrp_self]
  rfl

include hr he ht

/-- An instruction whose effect is a memory fault takes it there. -/
theorem issue_memRaise (hc : code ≠ Code.PRIV) (hb : body (s.ctx n g) s = (s.ctx n g).memRaise code addr s) :
    issue i g body s = .next (s.memTrap n e code addr) :=
  (issue_fault hr (hb.trans (Ctx.memRaise_address hc))).trans (congrArg _ (State.raise_faultAt he ht))

/-- So does an element-wise one whose lowest element meets it. -/
theorem issue_elements_fault {f : Nat → Except EngStop Access} {l : Nat} (hc : code ≠ Code.PRIV) (hx : (s.ctx n g).live ≠ 0#32)
    (hl : (s.ctx n g).todo.head? = some l) (hf : f l = .error (.fault code addr))
    (hb : body (s.ctx n g) s = (s.ctx n g).elements f s) : issue i g body s = .next (s.memTrap n e code addr) := by
  have hm := (Ctx.elements_fault (s := s) hx hl hf hc).trans (Ctx.memRaise_address hc)
  have hs := s.faultAt_setGrp_grp n.core n.grp (BitVec.ofNat 64 (addr.toNat % 2 ^ 57))
  exact (issue_fault hr (hb.trans hm)).trans
    (congrArg _ ((congrArg (State.raise · n code 0#64) hs).trans (State.raise_faultAt he ht)))

end

/-- Settles O56: the element of the lowest lane stops a load and a store, and LDK is stopped whole. -/
theorem misalignedAccessTraps : Obligations.MisalignedAccessTraps := by
  unfold Obligations.MisalignedAccessTraps
  intro i s n e g data base idx form nl1 w ofs l
  extract_lets x p lane addr
  intro hr he ht hw ha hi hx hl
  have hw : w ≠ 7#4 := by rintro rfl; exact absurd hw (by decide)
  have hc : Code.MISALIGN ≠ Code.PRIV := by decide
  rcases hi with rfl | rfl | rfl
  case inl =>
    have haddr : x.addr s form base idx ofs l = addr := by simp [addr, lane]
    exact issue_elements_fault hr he ht hc hx (hl.resolve_left nofun) (haddr ▸ Ctx.loadElem_misaligned hw ha) rfl
  case inr.inl =>
    have haddr : x.addr s form base idx ofs l = addr := by simp [addr, lane]
    exact issue_elements_fault hr he ht hc hx (hl.resolve_left nofun) (haddr ▸ if_pos (bne_iff_ne.2 ha)) rfl
  case inr.inr =>
    have haddr : x.addr s 0#2 base 0#8 ofs 0 = addr := by simp [addr]
    refine issue_memRaise hr he ht hc ((once_live hx).trans ?_)
    simp only [← haddr] at ha ⊢
    rw [Ctx.loadElem_misaligned hw ha]

end Sys2Proof.Machine
end

section
/-!
PROOFS. XLAT and the extension registers (R172, R173, R182): a request of XACQ that is granted at once, and an XREL that waits for no write.
-/
namespace Sys2Proof.Machine

section
variable {x : Ctx} {s : State} {sd sa : BitVec 8} {tr : Bool}

/-- An entry that has asked for nothing yet is none of the requests that wait. -/
theorem Ctx.not_waiting (ws : List XWait) (h : x.e.note = []) : (ws.find? fun w => x.e.note == xacqNote w.seq) = none := by
  rw [List.find?_eq_none]
  intro w _
  rw [h]
  exact Bool.false_ne_true

/-- A request of 1 to 7 steps that the registers and the reserve allow is granted while there is space, at once if nothing waits before it. -/
theorem xacqBody_granted (hx : x.live ≠ 0#32) (hn : x.e.note = []) (hk : 1 ≤ (x.sreg s sa).toNat) (hk' : (x.sreg s sa).toNat ≤ 7)
    (hc : x.g.count + 32 * (x.sreg s sa).toNat ≤ 256) (hr : 4096 * (x.sreg s sa).toNat ≤ s.reserve x.c x.p)
    (hf : 4096 * (x.sreg s sa).toNat ≤ s.reserveFree x.c x.p) (hw : tr = true ∨ s.xwaiting x.c = []) :
    xacqBody sd sa tr x s = .ok (x.grant sd (x.sreg s sa).toNat s) := by
  have hsize : ¬ ((x.sreg s sa).toNat = 0 ∨ 7 < (x.sreg s sa).toNat ∨ 256 < x.g.count + 32 * (x.sreg s sa).toNat ∨
      s.reserve x.c x.p < 4096 * (x.sreg s sa).toNat) := by omega
  rw [xacqBody, once_live hx]
  rcases hw with rfl | hw
  · simp [Ctx.not_waiting _ hn, hsize, hf, or_assoc]
  · simp [Ctx.not_waiting _ hn, hsize, hf, hw, or_assoc]

/-- Steps that the group holds are given back once no write to their registers is pending. -/
theorem xrelBody_released (hx : x.live ≠ 0#32) (hk : 1 ≤ (x.sreg s sa).toNat) (hk' : (x.sreg s sa).toNat ≤ x.g.ext)
    (hp : ∀ r ∈ s.pendingV x.c x.p, r < x.g.count - 32 * (x.sreg s sa).toNat) :
    xrelBody sa x s = .done (((s.setGrp x.c x.p { s.grp x.c x.p with
      ext := (s.grp x.c x.p).ext - (x.sreg s sa).toNat }).advance x.n).afterFree x.c) := by
  have hsize : ¬ ((x.sreg s sa).toNat = 0 ∨ x.g.ext < (x.sreg s sa).toNat) := by omega
  have hfree : ((s.pendingV x.c x.p).any fun r => x.g.count - 32 * (x.sreg s sa).toNat ≤ r) = false := by
    simpa only [List.any_eq_false, decide_eq_true_eq, Nat.not_le] using hp
  rw [xrelBody, once_live hx]
  simp only [Bool.or_eq_true, decide_eq_true_eq, hsize, hfree, Bool.false_eq_true, if_false]

end

/-- Settles O12, instruction by instruction. -/
theorem translationAndExtensionResults : Obligations.TranslationAndExtensionResults := by
  unfold Obligations.TranslationAndExtensionResults exec
  intro s n g d a sd sa tr
  extract_lets x k
  exact ⟨fun hr => issue_eff hr rfl, fun hr hx hn hk hk' hc hres hf hw => issue_eff hr (xacqBody_granted hx hn hk hk' hc hres hf hw),
    fun hr hx hk hk' hp => issue_done hr (xrelBody_released hx hk hk' hp)⟩

end Sys2Proof.Machine
end

section
/-!
PROOFS. The commands of the host (R180, R364, R365, R375, R385 to R387, R389): each carries out its effect on the state in which it has been taken.
-/
namespace Sys2Proof.Machine

section
variable {s t u v : State} {q n : Nat} {k : Command}

/-- A step that takes a command of its queue carries it out, and the next command is looked for. -/
theorem State.command_taken {is : Nat → Bool} (effect : Command → State → State) (hq : s.arg 0 = q)
    (h : s.takeCommand q is = some (k, t)) : s.command is effect = .next (effect k t).pollQueues := by
  simp only [State.command, hq, h]

/-- SUBMIT (R386): a descriptor that is read and well formed becomes a node, which is submitted. -/
theorem State.submitCmd_submitted {b : List Byte} (hc : k.code = 1) (ho : k.only 1 = true)
    (ha : (BitVec.ofNat 64 (k.operand 0)).toNat % 128 = 0) (hr : t.cpRead k.queue (BitVec.ofNat 64 (k.operand 0)) 128 = .ok b)
    (hd : descBad b = false) (hn : t.buildNode b none k.queue (bitsOf (t.ctlReg (qBase k.queue + 8)) 5 4) = .ok (n, u))
    (hs : u.submitNode n = .ok v) : State.submitCmd k t = (v.completeCmd k 0 0).pokeTasks := by
  have hok : (k.code != 1 || !k.only 1) = false := by simp [hc, ho]
  have hal : ((BitVec.ofNat 64 (k.operand 0)).toNat % 128 != 0) = false := bne_eq_false_iff_eq.2 ha
  simp only [State.submitCmd, hok, hal, hr, hd, hn, hs, Bool.false_eq_true, if_false]

/-- WAIT (R386) of a node that has ended reads it, and the node is free again. -/
theorem State.waitCmd_ended (ho : k.only 1 = true) (hn : k.operand 0 < 4096) (he : (t.node (k.operand 0)).state.ended = true) :
    State.waitCmd k t =
      (t.completeCmd k (t.node (k.operand 0)).state.code (t.node (k.operand 0)).code).freeNode (k.operand 0) := by
  have hf : ((t.node (k.operand 0)).state == .free) = false := by
    cases h : (t.node (k.operand 0)).state with
    | free => rw [h] at he; cases he
    | _ => rfl
  simp [State.waitCmd, ho, Nat.not_le.2 hn, hf, he]

/-- PREEMPT (R365) of a running launch that is not pre-empted yet. -/
theorem State.preemptCmd_running (ho : k.only 3 = true) (hn : k.operand 0 < 4096) (hs : k.operand 2 < 2 ^ 32)
    (hl : (t.launch (k.operand 0)).running = true) (hd : (t.node (k.operand 0)).state = .running)
    (hp : (t.launch (k.operand 0)).preempt = false) :
    State.preemptCmd k t =
      (t.keepCmd k).preemptLaunch (k.operand 0) (some (BitVec.ofNat 64 (k.operand 1), k.operand 2)) := by
  have hs : ¬ 2 ^ 32 ≤ k.operand 2 := Nat.not_le.2 hs
  simp only [State.preemptCmd, ho, Nat.not_le.2 hn, hs, hl, hd, hp, bne_self_eq_false, decide_false, Bool.not_true, Bool.or_self,
    Bool.false_eq_true, if_false]

/-- INVAL (R180) of a range of the queue's context. -/
theorem State.invalCmd_range (ho : k.only 2 = true) (ha : k.operand 0 < 2 ^ 57) (hn : k.operand 1 ≤ 2 ^ 45) :
    State.invalCmd k t = ({ t with tlb := t.tlb.filter fun e => !(e.root == (t.queueCtx k.queue).root &&
      overlaps (e.page * 2 ^ e.bits) (2 ^ e.bits) (k.operand 0 / 4096 * 4096) (4096 * k.operand 1)) } : State).completeCmd k 0 0 := by
  have hb : ¬ (2 ^ 57 ≤ k.operand 0 ∨ 2 ^ 45 < k.operand 1) := by omega
  simp only [State.invalCmd, ho, Bool.not_true, Bool.false_or, Bool.or_eq_true, decide_eq_true_eq, hb, if_false]

/-- RELEASE (R364) of a frozen master: a core, or an engine of it. -/
theorem State.releaseCmd_frozen (ho : k.only 2 = true) (hc : k.operand 0 < 384) (he : engineClass (k.operand 1) = true)
    (hf : if k.operand 1 = 0 then (t.core (k.operand 0)).frozen = true
      else ∃ f ∈ t.frozenEng, f.1 = k.operand 0 ∧ f.2.1 = k.operand 1) :
    State.releaseCmd k t =
      (((if k.operand 1 = 0 then t.setCore (k.operand 0) { t.core (k.operand 0) with frozen := false, record := none }
         else { t with frozenEng := t.frozenEng.filter fun f => !(f.1 == k.operand 0 && f.2.1 == k.operand 1) }).resumeEngines
          (k.operand 0)).completeCmd k 0 0).pokeTasks := by
  have there : (if k.operand 1 = 0 then (t.core (k.operand 0)).frozen
      else t.frozenEng.any fun f => f.1 == k.operand 0 && f.2.1 == k.operand 1) = true := by
    split at hf
    · rename_i h
      rw [if_pos h, hf]
    · rename_i h
      rw [if_neg h, List.any_eq_true]
      simpa only [Bool.and_eq_true, beq_iff_eq] using hf
  simp only [State.releaseCmd, ho, he, there, Nat.not_le.2 hc, decide_false, Bool.not_true, Bool.or_self, Bool.false_eq_true, if_false]

/-- RESYNC (R387) of a queue with no command under way writes the summary, where no code runs. -/
theorem State.resyncCmd_now (ho : k.only 1 = true) (ha : k.operand 0 < 2 ^ 51) (hr : ∀ r ∈ t.cmds, r.queue ≠ k.queue)
    (hc : t.holdsCode (hostAddr (k.operand 0)) 4096 = false) :
    State.resyncCmd k t = ((t.setBytes (hostAddr (k.operand 0)) t.summary).wakeWaits).completeCmd k 0 0 := by
  have hn : (t.cmds.any fun r => r.queue == k.queue) = false := by simpa using hr
  have ha : ¬ 2 ^ 51 ≤ k.operand 0 := Nat.not_le.2 ha
  simp only [State.resyncCmd, State.resyncNow, ho, ha, hn, hc, decide_false, Bool.not_true, Bool.or_self, Bool.false_eq_true, if_false]

/-- TRACE (R375) of a core. -/
theorem State.traceCmd_core (ho : k.only 3 = true) (hc : k.operand 0 < 384) (hb : k.operand 1 < 2 ^ 52) :
    State.traceCmd k t = (t.setCore (k.operand 0) { t.core (k.operand 0) with
      ring := if k.operand 2 = 0 then none else some (k.operand 1, k.operand 2, 0) }).completeCmd k 0 0 := by
  have hb : ¬ (384 ≤ k.operand 0 ∨ 2 ^ 52 ≤ k.operand 1) := by omega
  simp only [State.traceCmd, ho, Bool.not_true, Bool.false_or, Bool.or_eq_true, decide_eq_true_eq, hb, if_false]

/-- The end of a checkpoint's stream (R389), with the device at rest. -/
theorem State.streamComplete_checkpoint (image : List Host.Cell) (hs : s.subject.nums = []) (hc : s.check = some (k, false))
    (hd : s.dev = .checkpoint) (hr : s.atRest = true) :
    s.streamComplete image = ({ s with check := none } : State).readyAgain.completeCmd k 0 0 := by
  simp only [State.streamComplete, hd, hc, hs, hr, bne_self_eq_false, Bool.not_true, Bool.false_eq_true, if_false]

end

/-- Settles O32, command by command. -/
theorem hostCommandResults : Obligations.HostCommandResults := by
  unfold Obligations.HostCommandResults
  intro s t u v q n node k b
  extract_lets ev takes a root base kept c cls thawed ring
  have arg : ∀ {ns : List Nat}, ev ns → ∀ k, s.arg k = (ns[k]?).getD 0 := State.arg_of_nums
  have taken : ∀ {is : Nat → Bool} (effect : Command → State → State) {w : State} {ns : List Nat},
      ev (q :: ns) → takes is → effect k t = w → s.command is effect = .next w.pollQueues :=
    fun effect w ns hs hk hw => (State.command_taken effect (arg hs 0) hk).trans (by rw [hw])
  refine ⟨?submit, ?wait, ?inval, ?preempt, ?release, ?resync, ?checkpoint, ?restore, ?trace, ?complete⟩
  case submit =>
    intro hs hp hk hc ho ha hr hd hn hv
    have hp : s.submitPins (s.arg 0) = [] := by rw [arg hs 0]; exact hp
    have he : execSubmit s = s.command submitCode State.submitCmd := by simp only [execSubmit, hp]
    exact he.trans (taken State.submitCmd hs hk (State.submitCmd_submitted hc ho ha hr hd hn hv))
  case wait =>
    rintro hs hk ho rfl hn he
    exact taken State.waitCmd hs hk (State.waitCmd_ended ho hn he)
  case inval =>
    intro hs hk ho ha hn
    exact taken State.invalCmd hs hk (State.invalCmd_range ho ha hn)
  case preempt =>
    rintro hs hk ho rfl hn hz hl hd hp
    exact taken State.preemptCmd hs hk (State.preemptCmd_running ho hn hz hl hd hp)
  case release =>
    intro hs hk ho hc hcls hf
    exact taken State.releaseCmd hs hk (State.releaseCmd_frozen ho hc hcls hf)
  case resync =>
    intro hs hk ho ha hr hc
    have he : execResync s = s.command (· == 6) State.resyncCmd := by simp only [execResync, arg hs 1]; rfl
    exact he.trans (taken State.resyncCmd hs hk (State.resyncCmd_now ho ha hr hc))
  case checkpoint =>
    intro hs hk ht
    exact taken State.checkpointCmd hs hk (if_pos ht)
  case restore =>
    intro hs hk ht
    exact taken State.restoreCmd hs hk (if_pos ht)
  case trace =>
    intro hs hk ho hc hb
    exact taken State.traceCmd hs hk (State.traceCmd_core ho hc hb)
  case complete =>
    intro hs hk hd hr
    exact congrArg Host.Outcome.next (State.streamComplete_checkpoint _ hs hk hd hr)

end Sys2Proof.Machine
end

section
/-!
PROOFS. Ordering instructions, barriers, and the reads of the two times (R202, R220, R221, R225): each body's effect once nothing holds it back.
-/
namespace Sys2Proof.Machine

section
variable {x : Ctx} {s : State}

/-- What waits for nothing acts at once, on the operand that it reads. -/
theorem afterOpen_nothing {ids : State → List Nat} {now : DWord} {body : DWord → Ctx → State → Res} (hn : x.e.note = []) (hi : ids s = []) :
    afterOpen ids now body x s = body now x s := by
  simp only [afterOpen, hn, hi, List.isEmpty_nil, if_true]

/-- An arrival that the open phase has not had, and that agrees on the count with those before it, joins them; with .sync its entry observes the
completion of the phase or waits for it. -/
theorem barLand_arrives {n : Nat} {cnt : Option Nat} {sync : Bool} {b : Bar} (hb : aget {} (s.blkAt x.c x.g.slot).bars n = b)
    (hnew : b.arr.getLsbD x.g.bgrp = false) (hcnt : b.arr = 0#32 ∨ b.explicit = cnt) :
    barLand n cnt sync x s =
      .ok (let b' : Bar := { b with arr := b.arr ||| bitMask x.g.bgrp, explicit := cnt }
           let k := s.blkAt x.c x.g.slot
           let t := s.setBlk x.c x.g.slot { k with bars := aset {} k.bars n b' }
           let h := t.grp x.c x.p
           let t := t.setGrp x.c x.p { h with arrivals := aset 0 h.arrivals n (b'.phases + 1) }
           let t := t.barCheck x.c x.g.slot n
           if sync = false then t
           else if b'.phases < (aget {} (t.blkAt x.c x.g.slot).bars n).phases then x.acquire 2 t
           else x.hold [.barrier n b'.phases] t) := by
  have hagree : (b.arr != 0#32 && b.explicit != cnt) = false := by
    rcases hcnt with h | h <;> simp [h]
  subst hb
  simp only [barLand, hnew, hagree, Bool.false_eq_true, if_false, Bool.not_eq_true']

section
variable (hx : x.live ≠ 0#32)
include hx

/-! #### FENCE and REL (R220) -/

/-- FENCE (R220): its entry waits for the release that it starts, and for the earlier loads if there are any. -/
theorem fenceBody_live (scope : Nat) :
    fenceBody scope x s =
      .ok (x.hold (if (s.earlierLoads x.g.uid).isEmpty then [.release (s.startRelease x.c x.p scope).1]
        else [.release (s.startRelease x.c x.p scope).1, .accesses (s.earlierLoads x.g.uid)]) (s.startRelease x.c x.p scope).2) :=
  once_live hx

/-- REL (R220): the release that it starts gates its lanes, beside the gates still closed. -/
theorem relBody_live (scope : Nat) :
    relBody scope x s =
      .ok (let t := (s.startRelease x.c x.p scope).2
           let h := t.grp x.c x.p
           t.setGrp x.c x.p { h with
             gates := (h.gates.filter fun q => t.relOpen q.2) ++ [(x.e.mask, (s.startRelease x.c x.p scope).1)] }) :=
  once_live hx

/-! #### BAR (R221) -/

section
variable {a : VS} {k : Nat} {sync cnt : Bool} (hh : x.g.handler = false)
include hh

/-- The first attempt starts a release at block scope and keeps its number and the count. -/
theorem barBody_first (hn : x.e.note = []) (hc : cnt = true → 1 ≤ (x.sreg s a.n).toNat ∧ (x.sreg s a.n).toNat ≤ 32) :
    barBody a k sync cnt x s =
      .wait (x.remember [0xF8, (s.startRelease x.c x.p 2).1, (x.sreg s a.n).toNat] (s.startRelease x.c x.p 2).2) 5 := by
  have hcount : ¬ (cnt = true ∧ ((x.sreg s a.n).toNat < 1 ∨ 32 < (x.sreg s a.n).toNat)) := by
    rintro ⟨hcnt, hout⟩
    have := hc hcnt
    omega
  rw [barBody, once_live hx]
  simp only [hh, hn, Bool.false_eq_true, if_false, Bool.and_eq_true, Bool.or_eq_true, decide_eq_true_eq, hcount]

/-- Once that release is done and no gate holds the entry's stores, the arrival lands with the count that was kept. -/
theorem barBody_released {id count : Nat} (hn : x.e.note = [0xF8, id, count]) (hr : s.relOpen id = false)
    (hs : s.storesFree x.c x.p x.e.mask = true) :
    barBody a k sync cnt x s = barLand k (if cnt then some count else none) sync x s := by
  rw [barBody, once_live hx]
  simp only [hh, hn, hr, hs, Bool.not_true, Bool.or_self, Bool.false_eq_true, if_false]

end

/-! #### DTIME and WCT (R225) -/

/-- DTIME reads device time, with .ord once no access of the group is open. -/
theorem dtimeBody_read {sd : BitVec 8} {ord : Bool} (ho : ord = true → x.e.note = [] ∧ s.openAll x.g.uid = []) :
    dtimeBody sd ord x s = .ok (x.putS64 sd (BitVec.ofNat 64 s.dtime) s) := by
  rw [dtimeBody, once_live hx]
  cases ord with
  | false => rfl
  | true =>
    obtain ⟨hn, hi⟩ := ho rfl
    exact (if_pos rfl).trans (afterOpen_nothing hn hi)

/-- WCT reads the group's time once no store of the group is open. -/
theorem wctBody_read {sd : BitVec 8} (hn : x.e.note = []) (hi : s.openStores x.g.uid = []) :
    wctBody sd x s = .ok (x.putS64 sd (BitVec.ofNat 64 (s.grp x.c x.p).wct) s) :=
  (once_live hx).trans (afterOpen_nothing hn hi)

end

end

/-- Settles O13, instruction by instruction: BAR in its first attempt and in the one that lands its arrival. -/
theorem orderingResults : Obligations.OrderingResults := by
  unfold Obligations.OrderingResults exec
  intro s n g a sd scope k sync cnt ord id count
  extract_lets x loads rel b want
  refine ⟨?fence, ?rel, ?acq, ?first, ?lands, ?dtime, ?wct⟩
  case fence => exact fun hr hx => issue_eff hr (fenceBody_live hx _)
  case rel => exact fun hr hx => issue_eff hr (relBody_live hx _)
  case acq => exact fun hr hx => issue_eff hr (once_live hx)
  case first => exact fun hr hx hh hn hc => (issue_ok hr).trans (by rw [barBody_first hx hh hn hc])
  case lands =>
    exact fun hr hx hh hn hrel hs hnew hcnt => issue_eff hr ((barBody_released hx hh hn hrel hs).trans (barLand_arrives rfl hnew hcnt))
  case dtime => exact fun hr hx ho => issue_eff hr (dtimeBody_read hx ho)
  case wct => exact fun hr hx hn hi => issue_eff hr (wctBody_read hx hn hi)

end Sys2Proof.Machine
end

section
/-!
PROOFS. Barrier objects and FWAIT (R222 to R224): each body's effect on the word that it reaches.
-/
namespace Sys2Proof.Machine

section
variable {x : Ctx} {s : State}

/-! #### Barrier objects (R222, R223) -/

/-- Whether an instruction reaches the word at an offset of its slice: the word is aligned and inside, and no engine work holds it (R187, R223). -/
def Ctx.reachesObject (x : Ctx) (s : State) (ofs : Nat) : Prop :=
  scrFault (s.scrSlice x.c x.g.slot).2 ofs 8 8 = none ∧
    s.engineHold x.g.uid s.nextId true true ((s.scrSlice x.c x.g.slot).1 + ofs) 8 = false

/-- An instruction that reaches its word, tagged if it needs an object there, acts on the word's place in the pool. -/
theorem withObject_reached {ofs : Nat} {needTag : Bool} {body : Nat → Ctx → State → Res} (h : x.reachesObject s ofs)
    (ht : needTag = false ∨ s.tagged x.c ((s.scrSlice x.c x.g.slot).1 + ofs) = true) :
    withObject ofs needTag body x s = body ((s.scrSlice x.c x.g.slot).1 + ofs) x s := by
  obtain ⟨hfault, hhold⟩ := h
  have htag : (needTag && !s.tagged x.c ((s.scrSlice x.c x.g.slot).1 + ofs)) = false := by
    rcases ht with h | h <;> simp [h]
  simp only [withObject, hfault, hhold, htag, Bool.false_eq_true, if_false]

section
variable {sa : BitVec 8} (hx : x.live ≠ 0#32) (hr : x.reachesObject s (x.sreg s sa).toNat)
include hx hr

section
variable {b : VS} (hs : s.storesFree x.c x.p x.e.mask = true)
  (hw : (s.tagged x.c ((s.scrSlice x.c x.g.slot).1 + (x.sreg s sa).toNat) &&
    s.objWaiters x.c x.g.slot ((s.scrSlice x.c x.g.slot).1 + (x.sreg s sa).toNat)) = false)
include hs hw

/-- BOINIT on a word that no entry waits on tags it, and sets an object with its whole count due. -/
theorem boinitBody_sets (h1 : 1 ≤ (x.sreg s b.n).toNat) (h2 : (x.sreg s b.n).toNat ≤ 32767) :
    boinitBody sa b false x s =
      .ok (let a := (s.scrSlice x.c x.g.slot).1 + (x.sreg s sa).toNat
           let count := BitVec.ofNat 15 (x.sreg s b.n).toNat
           ((if s.tagged x.c a then s else { s with tags := s.tags ++ [poolKey x.c a] }).setPoolBytes x.c a
             (BarObj.image { phase := false, expect := count, pend := count, bytes := 0 })).wakeWaits) := by
  rw [boinitBody, once_live hx]
  simp only [hs, Bool.not_true, Bool.false_eq_true, if_false, withObject_reached hr (.inl rfl), hw, h1, h2, decide_true, Bool.and_self, if_true]

/-- With .inv it removes the word's tag. -/
theorem boinitBody_removes :
    boinitBody sa b true x s =
      .ok { s with tags := s.tags.filter (· != poolKey x.c ((s.scrSlice x.c x.g.slot).1 + (x.sreg s sa).toNat)) } := by
  rw [boinitBody, once_live hx]
  simp only [hs, Bool.not_true, Bool.false_eq_true, if_false, withObject_reached hr (.inl rfl), hw, if_true]

end

section
variable {sd sb : BitVec 8} (hl : s.loadsFree x.c x.p x.e.mask = true)
  (ht : s.tagged x.c ((s.scrSlice x.c x.g.slot).1 + (x.sreg s sa).toNat) = true)
include hl ht

/-- BOWAIT goes on, with an acquire, where the phase differs from the parity, and otherwise holds its entry until it does. -/
theorem bowaitBody_tagged :
    bowaitBody sa sb x s =
      .ok (let a := (s.scrSlice x.c x.g.slot).1 + (x.sreg s sa).toNat
           if (s.barObj x.c a).phase != (x.sreg s sb).getLsbD 0 then x.acquire 2 s
           else x.hold [.object a ((x.sreg s sb).getLsbD 0)] s) := by
  rw [bowaitBody, once_live hx]
  simp only [hl, Bool.not_true, Bool.false_eq_true, if_false, withObject_reached hr (.inr ht), ← apply_ite Res.ok]

/-- BOTRY gives 1, with an acquire, where it differs, and otherwise 0. -/
theorem botryBody_tagged :
    botryBody sd sa sb x s =
      .ok (if (s.barObj x.c ((s.scrSlice x.c x.g.slot).1 + (x.sreg s sa).toNat)).phase != (x.sreg s sb).getLsbD 0 then
        x.putS sd 1#32 (x.acquire 2 s) else x.putS sd 0#32 s) := by
  rw [botryBody, once_live hx]
  simp only [hl, Bool.not_true, Bool.false_eq_true, if_false, withObject_reached hr (.inr ht), ← apply_ite Res.ok]

end

end

/-- BOARR whose release is done adds its bytes and arrives at the object whose offset it kept, and gives the phase that it found. -/
theorem boarrBody_arrives {sd sa : BitVec 8} {b : VS} {tx : Bool} {id ofs count : Nat} {o : BarObj} (hx : x.live ≠ 0#32)
    (hn : x.e.note = [0xA8, id, ofs, count]) (hrel : s.relOpen id = false) (hs : s.storesFree x.c x.p x.e.mask = true)
    (hr : x.reachesObject s ofs) (ht : s.tagged x.c ((s.scrSlice x.c x.g.slot).1 + ofs) = true)
    (ho : (s.barObj x.c ((s.scrSlice x.c x.g.slot).1 + ofs)).arrive (if tx then (count : Int) else 0) 1 = some o) :
    boarrBody sd sa b tx x s =
      .ok (let a := (s.scrSlice x.c x.g.slot).1 + ofs
           x.putS sd (BitVec.ofNat 32 (boolNat (s.barObj x.c a).phase)) (s.setBarObj x.c a o)) := by
  rw [boarrBody, once_live hx]
  simp only [hn, List.getD_cons_zero, List.getD_cons_succ, hrel, hs, Bool.not_true, Bool.or_self, Bool.false_eq_true, if_false,
    withObject_reached hr (.inr ht), ho]

/-! #### FWAIT (R224) -/

section
variable {sd sa sb sc : BitVec 8} {cc pa : Nat} {slice : Bool}

/-- A test that holds, or whose time has passed, gives the word; where it holds that is an acquire. -/
theorem fwaitTest_ends {deadline : Nat} {b : Word} (h : intCmp cc (fwaitWord slice x pa s) b = true ∨ deadline ≤ s.dtime) :
    fwaitTest sd cc slice deadline pa b x s =
      .ok (let fresh := if slice then s else s.freshenCopy x.c (lineOf pa)
           x.putS sd (fwaitWord slice x pa s) (if intCmp cc (fwaitWord slice x pa s) b then x.acquire 6 fresh else fresh)) := by
  have hd : (if slice then s else s.freshenCopy x.c (lineOf pa)).dtime = s.dtime := by cases slice <;> rfl
  unfold fwaitTest
  cases hv : intCmp cc (fwaitWord slice x pa s) b with
  | true => simp only [hv, if_true]
  | false =>
    have hpast : deadline ≤ s.dtime := h.resolve_left (by simp [hv])
    simp only [hv, hd, hpast, Bool.false_eq_true, if_false, if_true]

/-- The first attempt tests its word at once, unless an earlier access, the line requests, engine work or a pin holds it back. -/
theorem fwaitBody_first (hx : x.live ≠ 0#32) (hn : x.e.note = []) (ha : fwaitAddr sa slice x s = .ok pa)
    (hl : s.loadsFree x.c x.p x.e.mask = true)
    (hhome : slice = false → s.ownPending x.g.uid pa 4 = false ∧ s.linesFull x.c 1 = false ∧ s.pinnedLines x.c pa 4 = [])
    (hslice : slice = true → s.engineHold x.g.uid s.nextId true false pa 4 = false) :
    fwaitBody sd sa sb sc cc slice x s = fwaitTest sd cc slice (s.dtime + (x.sreg s sc).toNat) pa (x.sreg s sb) x s := by
  rw [fwaitBody, once_live hx]
  simp only [hn, ha, Except.map, hl, Nat.one_ne_zero, if_false]
  cases slice with
  | false =>
    obtain ⟨hown, hlines, hpins⟩ := hhome rfl
    simp only [hown, hlines, hpins, Bool.not_true, Bool.not_false, Bool.and_false, Bool.or_self, Bool.false_eq_true, if_false]
  | true => simp only [hslice rfl, Bool.not_true, Bool.false_and, Bool.or_self, Bool.false_eq_true, if_true, if_false]

end

end

/-- Settles O14, instruction by instruction: BOINIT in its two forms, and FWAIT at its first read. -/
theorem barrierObjectResults : Obligations.BarrierObjectResults := by
  unfold Obligations.BarrierObjectResults exec
  intro s n g b sd sa sb sc cc tx slice id ofs0 count0 pa v o
  extract_lets x ofs q a a0 reaches reach count fresh
  refine ⟨?sets, ?removes, ?boarr, ?bowait, ?botry, ?fwait⟩
  case sets => exact fun hr hx hs hreach hw h1 h2 => issue_eff hr (boinitBody_sets hx hreach hs hw h1 h2)
  case removes => exact fun hr hx hs hreach hw => issue_eff hr (boinitBody_removes hx hreach hs hw)
  case boarr => exact fun hr hx hn hrel hs hreach ht ho => issue_eff hr (boarrBody_arrives hx hn hrel hs hreach ht ho)
  case bowait => exact fun hr hx hl hreach ht => issue_eff hr (bowaitBody_tagged hx hreach hl ht)
  case botry => exact fun hr hx hl hreach ht => issue_eff hr (botryBody_tagged hx hreach hl ht)
  case fwait =>
    rintro hr hx hn ha hl hhome hslice rfl hend
    have htest : intCmp cc.toNat (fwaitWord slice x pa s) (x.sreg s sb) = true ∨ s.dtime + (x.sreg s sc).toNat ≤ s.dtime :=
      hend.imp_right fun h0 => Nat.le_of_eq (by rw [h0, Nat.add_zero])
    exact issue_eff hr ((fwaitBody_first hx hn ha hl hhome hslice).trans (fwaitTest_ends htest))

end Sys2Proof.Machine
end

section
/-!
PROOFS. Copies, register stores and job cards (R228 to R237): each body's effect once its arguments are legal and the request engine has room.
-/
namespace Sys2Proof.Machine

section
variable {x : Ctx} {s : State}

/-! #### Copies and register stores (R228 to R233) -/

/-- Whether a copy may go in flight: its group has a token left, and the core's request engine is not frozen (R228, R364). -/
def Ctx.copyFree (x : Ctx) (s : State) : Prop := x.g.tokens.length < 16 ∧ s.engineFrozen x.c 3 = false

theorem Ctx.copyFree.not_stalled (h : x.copyFree s) : (decide (16 ≤ x.g.tokens.length) || s.engineFrozen x.c 3) = false := by
  obtain ⟨htokens, hfrozen⟩ := h
  simp [hfrozen, htokens]

/-- A strided copy between ranges that R233 allows goes in flight, its ranges its footprint (R231). -/
theorem Ctx.strided_starts {sd sa sb : BitVec 8} {sp : BitVec 2} {rows width : Nat} {dstr sstr : Int} (hf : x.copyFree s)
    (hb : copyBad (s.scrSlice x.c x.g.slot).2 (sp.getLsbD 0) (sp.getLsbD 1) (x.copyOperand s (sp.getLsbD 0) sa)
      (x.copyOperand s (sp.getLsbD 1) sb) rows width dstr sstr = false) :
    x.strided sd sa sb sp rows width dstr sstr s =
      (let dscr := sp.getLsbD 0
       let sscr := sp.getLsbD 1
       let base := (s.scrSlice x.c x.g.slot).1
       let d := x.copyOperand s dscr sa
       let a := x.copyOperand s sscr sb
       x.startOp sd
        { toEng := x.engine [copyFoot false sscr base a rows width sstr, copyFoot true dscr base d rows width dstr] s, token := sd.toNat,
          dst := { scr := dscr, addr := (if dscr then base else 0) + d }, src := { scr := sscr, addr := (if sscr then base else 0) + a },
          rows := rows, width := width, dstr := dstr, sstr := sstr } s) := by
  simp only [Ctx.strided, hb, hf.not_stalled, Bool.false_eq_true, if_false]

section
variable (hx : x.live ≠ 0#32)
include hx

/-- ACOPYT takes its four numbers from registers, of which the second, the bytes of a row, is at most 65536 (R231). -/
theorem acopytBody_strided {sd sa sb sc : BitVec 8} {sp : BitVec 2} (hw : (s.sr x.c x.p (sc.toNat + 1)).toNat ≤ 65536) :
    acopytBody sd sa sb sc sp x s =
      (let r := fun (k : Nat) => s.sr x.c x.p (sc.toNat + k)
       x.strided sd sa sb sp (r 0).toNat (r 1).toNat (r 2).toInt (r 3).toInt s) := by
  rw [acopytBody, once_live hx]
  exact if_neg (Nat.not_lt.2 hw)

/-- ASTO of one to eight registers to an aligned address puts their words in flight, in order of register and lane (R232). -/
theorem astoBody_starts {sd sa vb sc : BitVec 8} (hf : x.copyFree s) (h0 : (x.sreg s sc).toNat ≠ 0) (h8 : (x.sreg s sc).toNat ≤ 8)
    (ha : (x.sreg64 s sa).toNat % 128 = 0) :
    astoBody sd sa vb sc x s =
      (let len := (x.sreg s sc).toNat
       let a := (x.sreg64 s sa).toNat % 2 ^ 57
       x.startOp sd
        { toEng := x.engine [(true, false, a, 128 * len)] s, token := sd.toNat, dst := { addr := a },
          words := (List.range len).flatMap fun k => (lanesOf x.live).map fun l => (128 * k + 4 * l, s.v x.c x.p l (vb.toNat + k)) } s) := by
  have hlen : (decide ((x.sreg s sc).toNat = 0) || decide (8 < (x.sreg s sc).toNat)) = false := by simp [h0, h8]
  rw [astoBody, once_live hx]
  simp only [hlen, ha, hf.not_stalled, bne_self_eq_false, Bool.false_eq_true, if_false]

end

/-! #### Job cards (R236, R237) -/

/-- Whether nothing holds KICK's cards back: no earlier load, no engine work on their bytes, and no frozen request engine (R187, R236, R364). -/
def Ctx.cardsFree (x : Ctx) (s : State) (a count : Nat) : Prop :=
  s.loadsFree x.c x.p x.e.mask = true ∧ s.engineHold x.g.uid s.nextId true false a (64 * count) = false ∧ s.engineFrozen x.c 3 = false

/-- The cards of KICK at a place of the pool. -/
def State.cardsAt (s : State) (c a count : Nat) : List (List Byte) := (List.range count).map fun k => s.poolBytes c (a + 64 * k) 64

/-- Among good cards that all stand in the slice there is no bad one. -/
theorem State.find_badCard_none {c slot ofs size count : Nat} {cards : List (List Byte)} (hn : cards.length = count)
    (hin : ofs + 64 * count ≤ size) (hgood : ∀ b ∈ cards, s.cardBad c slot b = false) :
    ((List.range count).find? fun k => decide (size < ofs + 64 * (k + 1)) || s.cardBad c slot (cards.getD k [])) = none := by
  rw [List.find?_eq_none]
  intro k hk
  have hk : k < cards.length := hn ▸ List.mem_range.1 hk
  have hend : ofs + 64 * (k + 1) ≤ size := by omega
  simp [hend, hk, hgood _ (List.getElem_mem hk)]

section
variable (hx : x.live ≠ 0#32)
include hx

/-- KICK of cards that stand in the slice, none of which is bad, queues them in order while the core has room for them. -/
theorem kickBody_queues {sa sb : BitVec 8} {ofs count base size : Nat} {cards : List (List Byte)} (hofs : (x.sreg s sa).toNat = ofs)
    (hcount : (x.sreg s sb).toNat = count) (hslice : s.scrSlice x.c x.g.slot = (base, size)) (hcards : s.cardsAt x.c (base + ofs) count = cards)
    (ha : ofs % 64 = 0 ∧ count ≠ 0 ∧ count ≤ 256) (hfree : x.cardsFree s (base + ofs) count) (hin : ofs + 64 * count ≤ size)
    (hgood : ∀ b ∈ cards, s.cardBad x.c x.g.slot b = false) (hroom : (s.cards.filter (·.core == x.c)).length + count ≤ 1024) :
    kickBody sa sb x s = .ok (x.queueCards base cards s) := by
  obtain ⟨hl, hh, hf⟩ := hfree
  have hargs : (ofs % 64 != 0 || decide (count = 0) || decide (256 < count)) = false := by simp [ha]
  have hlen : cards.length = count := by simp [← hcards, State.cardsAt]
  have hnone := State.find_badCard_none hlen hin hgood
  rw [State.cardsAt] at hcards
  rw [kickBody, once_live hx]
  simp only [hofs, hcount, hslice, hcards, hargs, hl, hh, hf, hnone, Nat.not_lt.2 hroom, Bool.not_true, Bool.or_self, Bool.false_eq_true,
    if_false]

/-- KSTAT reads the block's record of its first card fault and the number of its unfinished cards; with .clr it drops the record. -/
theorem kstatBody_reads {sd : BitVec 8} {clr : Bool} :
    kstatBody sd clr x s =
      .ok (let blk := s.blkAt x.c x.g.slot
           let left := (s.cards.filter fun k => k.node == x.g.node && k.blk == blk.blk && k.copy.isNone).length
           let v := match blk.cardFlt with
             | none => left
             | some f => 2 ^ 31 + f.1 * 2 ^ 24 + f.2 * 2 ^ 16 + left
           let t := x.putS sd (BitVec.ofNat 32 v) s
           if clr then t.setBlk x.c x.g.slot { blk with cardFlt := none } else t) := by
  rw [kstatBody, once_live hx]
  cases h : (s.blkAt x.c x.g.slot).cardFlt <;> simp only [h]

end

end

/-- Settles O16, instruction by instruction: a copy is the strided one of a single row. -/
theorem copyAndCardResults : Obligations.CopyAndCardResults := by
  unfold Obligations.CopyAndCardResults exec
  intro s n g sd sa sb sc vb sp clr
  extract_lets x start dscr sscr base size d a op c len addr ofs count cards blk left
  refine ⟨?acopy, ?acopyt, ?asto, ?kick, ?kstat⟩
  case acopy => exact fun hr hx hb ht hf => issue_eff hr ((once_live hx).trans (Ctx.strided_starts ⟨ht, hf⟩ hb))
  case acopyt => exact fun hr hx hw hb ht hf => issue_eff hr ((acopytBody_strided hx hw).trans (Ctx.strided_starts ⟨ht, hf⟩ hb))
  case asto => exact fun hr hx h0 h8 ha ht hf => issue_eff hr (astoBody_starts hx ⟨ht, hf⟩ h0 h8 ha)
  case kick =>
    intro hr hx ha h0 h256 hl hh hf hin hgood hroom
    exact issue_eff hr (kickBody_queues hx rfl rfl rfl rfl ⟨ha, h0, h256⟩ ⟨hl, hh, hf⟩ hin hgood hroom)
  case kstat => exact fun hr hx => issue_eff hr (kstatBody_reads hx)

end Sys2Proof.Machine
end

section
/-!
PROOFS. Handles, gathers and scatters (R239 to R245): what the instruction comes to when no element stops it, at its first attempt and once the elements
for which it waits have come.
-/
namespace Sys2Proof.Machine

section
variable {x : Ctx} {s : State}

/-! #### Handles (R239 to R242) -/

@[simp] theorem State.dropAccess_handle (s : State) (id c k : Nat) : (s.dropAccess id).handle c k = s.handle c k := rfl

/-- GHND whose descriptor has come and is well formed takes the lowest free handle (R241). -/
theorem ghndBody_takes {sd sa : BitVec 8} {a : Access} {k k1 k3 : Nat} (hx : x.live ≠ 0#32) (hn : x.e.note = [k1, a.id, k3])
    (ha : s.access a.id = some a) (hd : a.done = true) (hb : (descOf a.value).bad a.value = false) (hk : k < 64)
    (hfree : (s.handle x.c k).owner = none) (hleast : ∀ m < k, (s.handle x.c m).owner ≠ none) :
    ghndBody sd sa x s =
      .ok (x.putS sd (BitVec.ofNat 32 k) ((s.dropAccess a.id).setHandle x.c k { owner := some x.g.node, desc := a.value })) := by
  have hfind : ((List.range 64).find? fun m => (s.handle x.c m).owner.isNone) = some k := by
    rw [List.find?_range_eq_some]
    exact ⟨by simp [hfree], List.mem_range.2 hk, fun m hm => by simpa [Option.isSome_iff_ne_none] using hleast m hm⟩
  rw [ghndBody, once_live hx]
  simp only [hn, ha, hd, hb, State.dropAccess_handle, hfind, Bool.not_true, Bool.false_eq_true, if_false]

/-- GHND.free frees a handle of the group's launch (R241). -/
theorem ghndFreeBody_frees {sa : BitVec 8} (hx : x.live ≠ 0#32) (hn : (x.sreg s sa).toNat < 64)
    (ho : (s.handle x.c (x.sreg s sa).toNat).owner = some x.g.node) :
    ghndFreeBody sa x s = .ok (s.setHandle x.c (x.sreg s sa).toNat {}) := by
  rw [ghndFreeBody, once_live hx]
  simp [hn, ho]

/-- The descriptor of the handle that a register names. -/
def Ctx.descAt (x : Ctx) (s : State) (sa : BitVec 8) : Desc := descOf (s.handle x.c (x.sreg s sa).toNat).desc

/-- Whether GATH or SCAT may act through that handle: it is one of the group's launch, and no write to the odd register of its pair is pending (R242). -/
def Ctx.mayUse (x : Ctx) (s : State) (sa : BitVec 8) (reg : Nat) : Prop :=
  (x.sreg s sa).toNat < 64 ∧ (s.handle x.c (x.sreg s sa).toNat).owner = some x.g.node ∧
    ((x.descAt s sa).kind = 0 → (x.descAt s sa).esz = 3 → (s.pendingV x.c x.p).contains (reg + 1) = false)

/-- Through such a handle, which for a scatter is RAW, an instruction acts on its descriptor. -/
theorem withHandle_mayUse {sa : BitVec 8} {scat : Bool} {reg : Nat} {body : Desc → Ctx → State → Res}
    (h : x.mayUse s sa reg) (hraw : scat = true → (x.descAt s sa).kind = 0) :
    withHandle sa scat reg body x s = body (x.descAt s sa) x s := by
  obtain ⟨hnum, howner, hpair⟩ := h
  refine (if_neg ?valid).trans (if_neg ?free)
  case valid => simpa [hnum, howner, Ctx.descAt] using hraw
  case free =>
    simp only [Bool.and_eq_true, decide_eq_true_eq]
    rintro ⟨⟨hkind, hesz⟩, hpending⟩
    exact Bool.false_ne_true ((hpair hkind hesz).symm.trans hpending)

/-! #### Elements that stop nothing (R243) -/

theorem Ctx.gathTodo_lt {l : Nat} (h : l ∈ x.gathTodo) : l < 32 := lanesOf_lt h

/-- The address of an element of a RAW handle (R240). -/
def Desc.rawAddr (d : Desc) (i : Nat) : DWord := d.base + BitVec.ofNat 64 (i * 2 ^ d.esz)

/-- An aligned element of a RAW handle whose address is mapped is an access of the handle's width. -/
theorem Ctx.plainElem_raw {d : Desc} {i pa : Nat} {write : Bool} {base : Access} (hk : d.kind = 0)
    (ha : (d.rawAddr i).toNat % 2 ^ d.esz = 0) (ht : x.elemPhys write (d.rawAddr i) s (2 ^ d.esz) = .ok pa) :
    x.plainElem d i write base s =
      .access { base with pa := pa, n := 2 ^ d.esz, addr := d.rawAddr i, sext := d.sgn == 1 } := by
  rw [Desc.rawAddr] at ha ht
  simp only [Ctx.plainElem, Desc.rawAddr, hk, ha, ht, bne_self_eq_false, Bool.false_eq_true, if_true, if_false]

/-- Where no element is a fault, no lane stops the instruction. -/
theorem firstStop_none {es : List (Nat × Elem)} (h : ∀ e ∈ es, ∀ code a, e.2 ≠ .fault code a) : firstStop es = {} := by
  rw [firstStop, List.findSome?_eq_none_iff.2 ?nofault]
  case nofault =>
    intro e he
    split
    · next code a hfault => exact absurd hfault (h e he code a)
    · rfl
  rfl

/-- The state in which a gather or scatter ends once every lane has been performed: the mask of performed lanes is clear, and under .nf the code too. -/
def Ctx.closeGath (x : Ctx) (nf : Bool) (s : State) : State :=
  let h := s.grp x.c x.p
  s.setGrp x.c x.p { h with gmask := 0#32, gcode := if nf then 0 else h.gcode }

theorem Ctx.endGath_unstopped {nf : Bool} {done : Word} : x.endGath nf done {} s = .ok (x.closeGath nf s) := rfl

/-! #### Elements begun at once -/

/-- The state in which the accesses of a gather or scatter are under way, those of stores in the digest. -/
def Ctx.beginGath (x : Ctx) (s : State) (as : List Access) : State :=
  (as.foldl (fun t a => t.digestAccess x a.lane a) s).addAccesses as

/-- The elements of some lanes, each an access. -/
def accessElems (ls : List Nat) (acc : Nat → Access) : List (Nat × Elem) := ls.map fun l => (l, .access (acc l))

/-- A list of elements all of which are accesses. -/
theorem accessElems_eq {ls : List Nat} {elem : Nat → Elem} {acc : Nat → Access} (h : ∀ l ∈ ls, elem l = .access (acc l)) :
    (ls.map fun l => (l, elem l)) = accessElems ls acc := List.map_congr_left fun l hl => by rw [h l hl]

section
variable {ls : List Nat} {acc : Nat → Access}

theorem forall_mem_accessElems {p : Nat × Elem → Prop} : (∀ e ∈ accessElems ls acc, p e) ↔ ∀ l ∈ ls, p (l, .access (acc l)) :=
  List.forall_mem_map

theorem accessElems_accesses : (accessElems ls acc).filterMap elemAccess = ls.map acc := by
  simp [accessElems, List.filterMap_map, Function.comp_def, elemAccess]

theorem accessElems_unstopped : firstStop (accessElems ls acc) = {} := firstStop_none (forall_mem_accessElems.2 nofun)

theorem accessElems_below (hl : ∀ l ∈ ls, l < 32) : ((accessElems ls acc).filter fun e => decide (e.1 < 32)) = accessElems ls acc :=
  List.filter_eq_self.2 (forall_mem_accessElems.2 fun l h => decide_eq_true (hl l h))

/-- What passes over accesses finds none among them. -/
theorem accessElems_findSome {f : Nat × Elem → Option (Nat × DWord)} (h : ∀ l, f (l, .access (acc l)) = none) :
    (accessElems ls acc).findSome? f = none := List.findSome?_eq_none_iff.2 (forall_mem_accessElems.2 fun l _ => h l)

theorem accessElems_near (hnear : ∀ l ∈ ls, windowOf (acc l).pa ≠ some .remote) : ((accessElems ls acc).any fun e => e.2.far) = false :=
  List.any_eq_false.2 (forall_mem_accessElems.2 fun l h => by simpa [Elem.far] using hnear l h)

/-- Accesses of which none is at a peer begin together, and complete the instruction. -/
theorem Ctx.startGath_near {nf load : Bool} (hl : ∀ l ∈ ls, l < 32) (hnear : ∀ l ∈ ls, windowOf (acc l).pa ≠ some .remote)
    (hroom : s.linesFull x.c (linesOf (ls.map acc)) = false) :
    x.startGath nf load (accessElems ls acc) s = .ok (x.closeGath nf (x.beginGath s (ls.map acc))) := by
  have hpriv : ¬ ((0 : Nat) == Code.PRIV) = true := by decide
  simp only [Ctx.startGath, accessElems_unstopped, accessElems_below hl, accessElems_accesses, accessElems_near hnear, hroom, hpriv, if_false,
    Bool.and_false, Bool.false_eq_true]
  rw [accessElems_findSome fun _ => rfl]
  exact Ctx.endGath_unstopped

end

/-- The first attempt of GATH through a RAW or WIN handle that it may use starts the elements of the lanes that are left (R243). -/
theorem gathBody_first {vd sa vb : BitVec 8} {c : VS} {nf bs : Bool} (hn : x.e.note = []) (hx : x.live ≠ 0#32)
    (h : x.mayUse s sa vd.toNat) (hk : (x.descAt s sa).kind ≠ 2) :
    gathBody vd sa vb c nf bs x s =
      x.startGath nf true (x.gathTodo.map fun l => (l, x.gathElem (x.descAt s sa) vd.toNat
        ((s.v x.c x.p l vb.toNat).toNat + if bs then (x.sreg s c.n).toNat else 0) l s)) s := by
  simp only [gathBody, hn, withHandle_mayUse (scat := false) h nofun, beq_iff_eq, hx, hk, if_false]

/-- The first attempt of SCAT through a RAW handle that it may use does the same. -/
theorem scatBody_first {sa vb vc : BitVec 8} {nf : Bool} (hn : x.e.note = []) (hx : x.live ≠ 0#32)
    (h : x.mayUse s sa vc.toNat) (hk : (x.descAt s sa).kind = 0) :
    scatBody sa vb vc nf x s =
      x.startGath nf false (x.gathTodo.map fun l => (l, x.scatElem (x.descAt s sa) vc.toNat (s.v x.c x.p l vb.toNat).toNat l s)) s := by
  simp only [scatBody, hn, withHandle_mayUse h fun _ => hk, beq_iff_eq, hx, if_false]

/-- Elements of a first attempt that are all accesses, none of them at a peer, begin and complete the instruction. -/
theorem Ctx.startGath_todo {nf load : Bool} {elem : Nat → Elem} {acc : Nat → Access}
    (h : ∀ l ∈ x.gathTodo, elem l = .access (acc l) ∧ windowOf (acc l).pa ≠ some .remote)
    (hroom : s.linesFull x.c (linesOf (x.gathTodo.map acc)) = false) :
    x.startGath nf load (x.gathTodo.map fun l => (l, elem l)) s = .ok (x.closeGath nf (x.beginGath s (x.gathTodo.map acc))) := by
  rw [accessElems_eq fun l hl => (h l hl).1]
  exact Ctx.startGath_near (fun l => Ctx.gathTodo_lt) (fun l hl => (h l hl).2) hroom

/-- An element of GATH through a RAW handle whose index is in range (R240). -/
theorem Ctx.gathElem_raw {d : Desc} {vd i l pa : Nat} (hk : d.kind = 0) (hi : i < d.count)
    (ha : (d.rawAddr i).toNat % 2 ^ d.esz = 0) (ht : x.elemPhys false (d.rawAddr i) s (2 ^ d.esz) = .ok pa) :
    x.gathElem d vd i l s = .access { x.baseAccess s with
      lane := l, dest := .vec (x.g.placeOf x.p l) vd, stip := true, pa := pa, n := 2 ^ d.esz, addr := d.rawAddr i, sext := d.sgn == 1 } := by
  rw [Ctx.gathElem, if_neg (Nat.not_le.2 hi), Ctx.plainElem_raw hk ha ht]

/-- An element of SCAT whose index is in range. -/
theorem Ctx.scatElem_raw {d : Desc} {vc i l pa : Nat} (hk : d.kind = 0) (hi : i < d.count)
    (ha : (d.rawAddr i).toNat % 2 ^ d.esz = 0) (ht : x.elemPhys true (d.rawAddr i) s (2 ^ d.esz) = .ok pa) :
    x.scatElem d vc i l s = .access { x.baseAccess s with
      lane := l, kind := .store, data := x.laneBytes s l (2 ^ d.esz) vc, afterRel := s.gatesOf x.c x.p x.e.mask, pa := pa, n := 2 ^ d.esz,
      addr := d.rawAddr i, sext := d.sgn == 1 } := by
  rw [Ctx.scatElem, if_neg (Nat.not_le.2 hi), Ctx.plainElem_raw hk ha ht]

/-! #### Elements waited for (R240, R245) -/

/-- An instruction whose note says so waits for its elements. -/
theorem gathBody_resumes {vd sa vb : BitVec 8} {c : VS} {nf bs : Bool} (h : x.e.note.head? = some 0xA6) :
    gathBody vd sa vb c nf bs x s = x.resumeGath nf vd.toNat s := by
  obtain ⟨rest, hn⟩ := List.head?_eq_some_iff.1 h
  simp only [gathBody, hn]

theorem scatBody_resumes {sa vb vc : BitVec 8} {nf : Bool} (h : x.e.note.head? = some 0xA6) : scatBody sa vb vc nf x s = x.resumeGath nf 0 s := by
  obtain ⟨rest, hn⟩ := List.head?_eq_some_iff.1 h
  simp only [scatBody, hn]

/-- Accesses of which none has been lost, and elements of which none is, leave no lane lost. -/
theorem firstLost_none {es : List (Nat × Elem)} {as : List Access} (he : ∀ e ∈ es, ∀ a, e.2 ≠ .lost a) (ha : ∀ a ∈ as, a.lost = false) :
    firstLost es as = none := by
  have has : as.filter (·.lost) = [] := List.filter_eq_nil_iff.2 fun a h => by simp [ha a h]
  rw [firstLost, has, List.filterMap_eq_nil_iff.2 ?nolost]
  case nolost =>
    intro e h
    split
    · next a hlost => exact absurd hlost (he e h a)
    · rfl
  rfl

/-- What has become of an element that has been performed: a load is delivered, and a store is settled and enters the digest. -/
def Ctx.performed (x : Ctx) (s : State) (a : Access) : State :=
  if a.kind == .load then s.deliver a else (s.digestAccess x a.lane a).settleStore a

theorem Ctx.performed_load {a : Access} (h : a.kind = .load) : x.performed s a = s.deliver a := by simp [Ctx.performed, h]

theorem Ctx.performed_store {a : Access} (h : a.kind = .store) : x.performed s a = (s.digestAccess x a.lane a).settleStore a := by
  simp [Ctx.performed, h]

/-- Accesses that have all been performed, none of them lost, complete the instruction. -/
theorem Ctx.settleGath_performed {nf : Bool} {as : List Access} (h : ∀ a ∈ as, a.lost = false ∧ a.lane < 32) :
    x.settleGath nf {} none as s = .ok (x.closeGath nf (as.foldl x.performed s)) := by
  have hlost : firstLost [] as = none := firstLost_none (List.forall_mem_nil _) fun a ha => (h a ha).1
  have hfold : (as.foldl (fun s a => if a.lost || !(decide (a.lane < 32) || a.kind != .load) then s.dropAccess a.id
      else if a.kind == .load then s.deliver a else (s.digestAccess x a.lane a).settleStore a) s) = as.foldl x.performed s := by
    refine List.foldl_ext _ _ _ fun t a ha => ?_
    obtain ⟨hkept, hlane⟩ := h a ha
    simp [hkept, hlane, Ctx.performed]
  unfold Ctx.settleGath
  rw [hlost]
  exact (congrArg _ hfold).trans Ctx.endGath_unstopped

/-- An instruction that remembers no stop, and whose accesses have all been answered, settles them. -/
theorem Ctx.resumeGath_answered {nf : Bool} {vd : Nat} {ids : List Nat} (hn : x.e.note = gathNote {} none ids)
    (h : ∀ a ∈ ids.filterMap s.access, a.done = true ∧ a.lost = false ∧ a.lane < 32) :
    x.resumeGath nf vd s = .ok (x.closeGath nf ((ids.filterMap s.access).foldl x.performed s)) := by
  have hall : ((ids.filterMap s.access).any fun a => !a.done && !a.lost) = false := List.any_eq_false.2 fun a ha => by simp [(h a ha).1]
  have hresume : x.resumeGath nf vd s = if (ids.filterMap s.access).any fun a => !a.done && !a.lost then .wait s
      else x.settleGath nf {} none (ids.filterMap s.access) s := by
    rw [Ctx.resumeGath, hn]
    rfl
  rw [hresume, hall]
  exact Ctx.settleGath_performed fun a ha => (h a ha).2

/-! #### Elements of a DELTA handle (R240) -/

/-- The elements of some lanes, each a word. -/
def wordElems (is : List (Nat × Nat)) (word : Nat → Word) : List (Nat × Elem) := is.map fun q => (q.1, .word (word q.1))

section
variable {is : List (Nat × Nat)} {word : Nat → Word}

theorem forall_mem_wordElems {p : Nat × Elem → Prop} : (∀ e ∈ wordElems is word, p e) ↔ ∀ q ∈ is, p (q.1, .word (word q.1)) :=
  List.forall_mem_map

theorem wordElems_unstopped : firstStop (wordElems is word) = {} := firstStop_none (forall_mem_wordElems.2 nofun)

theorem wordElems_kept : firstLost (wordElems is word) [] = none := firstLost_none (forall_mem_wordElems.2 nofun) (List.forall_mem_nil _)

theorem wordElems_below (h : ∀ q ∈ is, q.1 < 32) : ((wordElems is word).filter fun e => decide (e.1 < 32)) = wordElems is word :=
  List.filter_eq_self.2 (forall_mem_wordElems.2 fun q hq => decide_eq_true (h q hq))

theorem wordElems_come : ((wordElems is word).any fun e => e.2 == .pending) = false :=
  List.any_eq_false.2 (forall_mem_wordElems.2 fun q _ => by simp)

/-- What takes every word takes each lane's. -/
theorem wordElems_filterMap {f : Nat × Elem → Option (Nat × Word)} (h : ∀ q ∈ is, f (q.1, .word (word q.1)) = some (q.1, word q.1)) :
    (wordElems is word).filterMap f = is.map fun q => (q.1, word q.1) := by
  rw [wordElems, List.filterMap_map, ← List.filterMap_eq_map]
  exact List.filterMap_congr h

/-- A gather through a DELTA handle whose blocks have all been read writes the lanes' words and is complete. -/
theorem Ctx.deltaGath_read {nf : Bool} {vd : Nat} {d : Desc} {ids : List Nat}
    (h : ∀ q ∈ is, q.1 < 32 ∧ x.deltaElem d (ids.filterMap s.access) q.2 s = .word (word q.1)) :
    x.deltaGath nf vd d is ids s =
      .ok (x.closeGath nf (is.foldl (fun t q => t.setV x.c x.p q.1 vd (word q.1))
        ((ids.filterMap s.access).foldl (fun t a => t.dropAccess a.id) s))) := by
  have helems : (is.map fun q => (q.1, x.deltaElem d (ids.filterMap s.access) q.2 s)) = wordElems is word :=
    List.map_congr_left fun q hq => by rw [(h q hq).2]
  have hlane : ∀ q ∈ is, q.1 < 32 := fun q hq => (h q hq).1
  have hpriv : ¬ ((0 : Nat) == Code.PRIV) = true := by decide
  simp only [Ctx.deltaGath, helems, wordElems_unstopped, wordElems_below hlane, ite_self, wordElems_kept, wordElems_come, hpriv]
  rw [List.flatMap_eq_nil_iff.2 ?needs, wordElems_filterMap ?words, List.foldl_map]
  · rfl
  case needs => exact forall_mem_wordElems.2 fun q _ => rfl
  case words => exact fun q hq => if_pos (hlane q hq)

end

/-- A gather that waited for blocks goes on with the handle, the lanes and the accesses of its note. -/
theorem Ctx.resumeGath_delta {nf : Bool} {vd : Nat} (h : x.e.note.getD 1 0 = 64) :
    x.resumeGath nf vd s = x.deltaGath nf vd (deltaOf x.e.note).1 (deltaOf x.e.note).2.1 (deltaOf x.e.note).2.2 s := if_pos h

end

/-- Settles O17, instruction by instruction: GATH and SCAT at a first attempt that begins everything at once, and when what they waited for has
come. -/
theorem handleGatherAndScatterResults : Obligations.HandleGatherAndScatterResults := by
  unfold Obligations.HandleGatherAndScatterResults exec
  intro s n g vd sd sa vb vc c nf bs code a k k1 k3 pa acc word ids
  extract_lets x num h d i j mine at_ base load store room begun closed blocks read came answered
  refine ⟨?ghnd, ?ghndFree, ?raw, ?win, ?delta, ?gathered, ?scat, ?scattered, ?gcmr, ?gcmw⟩
  case ghnd => exact fun hr hx hn ha hd hb hk hfree hleast => issue_eff hr (ghndBody_takes hx hn ha hd hb hk hfree hleast)
  case ghndFree => exact fun hr hx hn ho => issue_eff hr (ghndFreeBody_frees hx hn ho)
  case raw =>
    rintro hr ⟨hn, hx, huse⟩ hk helem hroom
    refine issue_eff hr ((gathBody_first hn hx huse (hk.trans_ne (by decide))).trans (Ctx.startGath_todo (fun l hl => ?_) hroom))
    obtain ⟨hi, ha, hnear, ht⟩ := helem l hl
    exact ⟨Ctx.gathElem_raw hk hi ha (Ctx.elemPhys_ok ht nofun), hnear⟩
  case win =>
    rintro hr ⟨hn, hx, huse⟩ hk helem hroom
    exact issue_eff hr ((gathBody_first hn hx huse (hk.trans_ne (by decide))).trans (Ctx.startGath_todo helem hroom))
  case delta =>
    exact fun hr hhead hdelta hword =>
      issue_eff hr ((gathBody_resumes hhead).trans ((Ctx.resumeGath_delta hdelta).trans (Ctx.deltaGath_read hword)))
  case gathered =>
    rintro hr ⟨hn, hcame⟩ hload
    have hfold := List.foldl_ext x.performed (fun t a => t.deliver a) s fun t a ha => Ctx.performed_load (hload a ha)
    rw [← hfold]
    exact issue_eff hr ((gathBody_resumes (by rw [hn]; rfl)).trans (Ctx.resumeGath_answered hn hcame))
  case scat =>
    rintro hr ⟨hn, hx, huse⟩ hk helem hroom
    refine issue_eff hr ((scatBody_first hn hx huse hk).trans (Ctx.startGath_todo (fun l hl => ?_) hroom))
    obtain ⟨hj, ha, hnear, hcode, ht⟩ := helem l hl
    exact ⟨Ctx.scatElem_raw hk hj ha (Ctx.elemPhys_ok ht fun _ => hcode), hnear⟩
  case scattered =>
    rintro hr ⟨hn, hcame⟩ hstore
    have hfold := List.foldl_ext x.performed (fun t a => (t.digestAccess x a.lane a).settleStore a) s
      fun t a ha => Ctx.performed_store (hstore a ha)
    rw [← hfold]
    exact issue_eff hr ((scatBody_resumes (by rw [hn]; rfl)).trans (Ctx.resumeGath_answered hn hcame))
  case gcmr => exact fun hr hx => issue_eff hr (once_live hx)
  case gcmw => exact fun hr hx => issue_eff hr (once_live hx)

end Sys2Proof.Machine
end

section
/-!
PROOFS. What only a handler may do (R354, R361): the body of each privileged instruction faults outside one, and its entry's group takes PRIV there.
-/
namespace Sys2Proof.Machine

section
variable {x : Ctx} {s : State} (hx : x.live ≠ 0#32) (hh : x.g.handler = false)
include hx hh

theorem rteBody_unprivileged (yld : Bool) : rteBody yld x s = .fault Code.PRIV 0#64 s := by
  rw [rteBody, once_live hx, hh]
  rfl

theorem saveliveBody_unprivileged (sd sa : BitVec 8) : saveliveBody sd sa x s = .fault Code.PRIV 0#64 s := by
  rw [saveliveBody, once_live hx, hh]
  rfl

theorem restliveBody_unprivileged (sa : BitVec 8) : restliveBody sa x s = .fault Code.PRIV 0#64 s := by
  rw [restliveBody, once_live hx, hh]
  rfl

/-- The registers from 0x20 on are the trap registers. -/
theorem srdBody_unprivileged (d : VS) {n : Nat} (hn : 0x20 ≤ n) : srdBody d n x s = .fault Code.PRIV 0#64 s := by
  rw [srdBody, once_live hx, hh]
  simp [hn]

/-- sr.emask, sr.faddr and sr.faddrh are written by a handler alone. -/
theorem swrBody_unprivileged (sa : BitVec 8) {n : Nat} (hn : n = 0x1A ∨ n = 0x1C ∨ n = 0x1D) : swrBody n sa x s = .fault Code.PRIV 0#64 s := by
  rw [swrBody, once_live hx, hh]
  rcases hn with rfl | rfl | rfl <;> rfl

end

/-- Settles O55: each body faults, and what a fault of the issuing entry comes to is the exception at its instruction. -/
theorem privilegeTraps : Obligations.PrivilegeTraps := by
  unfold Obligations.PrivilegeTraps
  intro i s n e g yld sd sa d r hr hh he hx hi
  have traps : ∀ {body : Ctx → State → Res}, body (s.ctx n g) s = .fault Code.PRIV 0#64 s → issue i g body s = .next _ :=
    fun hb => (issue_fault hr hb).trans (congrArg _ (State.raise_eq _ _ he))
  rcases hi with rfl | rfl | rfl | ⟨rfl, hlo, -⟩ | ⟨rfl, hreg⟩
  case inl => exact traps (rteBody_unprivileged hx hh yld)
  case inr.inl => exact traps (saveliveBody_unprivileged hx hh sd sa)
  case inr.inr.inl => exact traps (restliveBody_unprivileged hx hh sa)
  case inr.inr.inr.inl => exact traps (srdBody_unprivileged hx hh d hlo)
  case inr.inr.inr.inr =>
    refine traps (swrBody_unprivileged hx hh sa ?_)
    rcases hreg with rfl | rfl | rfl
    · exact .inl rfl
    · exact .inr (.inl rfl)
    · exact .inr (.inr rfl)

end Sys2Proof.Machine
end

section
/-!
PROOFS. Taking an exception (R355, R356, R360, R363): which of its outcomes a group in a given state comes to, and what an abort leaves of a launch.
-/
namespace Sys2Proof.Machine

section
variable {s t : State} {c p node : Nat}

/-! #### The group that stops -/

/-- What is kept of a group that is written is kept of every group. -/
theorem State.grp_setGrp_field {α : Type} {g : Group} (f : Group → α) (h : f g = f (s.grp c p)) (d q : Nat) :
    f ((s.setGrp c p g).grp d q) = f (s.grp d q) := by
  rw [State.grp_setGrp]
  split
  · next hk => rw [h, State.grp, State.grp, hk]
  · rfl

/-- The state in which a group has stopped for a cause: it keeps the cause, and its entries give up what they had not begun (R356). -/
def State.stopGroup (s : State) (c p : Nat) (t : Cause) : State :=
  s.setGrp c p { s.grp c p with
    trap := some (t.noted s.cycle (s.grp c p).frontier), frontier := (s.grp c p).frontier.map Entry.stopped }

/-- An entry stops with its note if its instruction is under way, and so that instruction still is. -/
theorem Entry.stopped_underWay (e : Entry) : e.stopped.underWay = e.underWay := by
  have hnote : e.stopped.note = if e.underWay then e.note else [] := rfl
  cases hu : e.underWay with
  | true =>
    rw [Entry.underWay, hnote, hu]
    exact hu
  | false =>
    rw [Entry.underWay, hnote, hu]
    rfl

/-- Stopping changes nothing that a translation reads. -/
theorem State.stopGroup_sameFetch (s : State) (c p : Nat) (t : Cause) (d : Nat) : s.SameFetch (s.stopGroup c p t) d where
  data := s.setGrp_sameData c p _
  tlb := rfl
  freeCount := rfl
  ctl := rfl
  linksDown := rfl
  launches := rfl
  node := State.grp_setGrp_field (·.node) (by rfl) d
  handler := State.grp_setGrp_field (·.handler) (by rfl) d
  reserved := State.grp_setGrp_field (·.reserved) (by rfl) d
  lastSlot := State.grp_setGrp_field (·.lastSlot) (by rfl) d

theorem State.SameFetch.translateRange {s t : State} {c : Nat} (h : s.SameFetch t c) (x : Context) (m : Mode) (a : DWord) (n : Nat) :
    t.translateRange c x m a n = s.translateRange c x m a n := by
  simp only [State.translateRange, h.translate]

theorem State.stopGroup_launchOf (s : State) (c p : Nat) (t : Cause) : (s.stopGroup c p t).launchOf c p = s.launchOf c p := by
  rw [State.launchOf, State.stopGroup, State.grp_setGrp_self]
  rfl

theorem State.stopGroup_loadsPending (s : State) (c p : Nat) (t : Cause) : (s.stopGroup c p t).loadsPending c p = s.loadsPending c p := by
  simp only [State.loadsPending, State.stopGroup, State.grp_setGrp_self, List.any_map, Function.comp_def, Entry.stopped_underWay]
  rfl

/-! #### The outcomes of an exception -/

section
variable {k old : Cause}

theorem State.takeException_handler (hh : (s.grp c p).handler = true) :
    s.takeException c p k = s.abortLaunch (s.grp c p).node Code.DOUBLE_FAULT := by
  simp only [State.takeException, hh, if_true]

/-- A group that keeps a cause takes another only of an earlier entry in the same cycle (R360). -/
theorem State.takeException_later {h : Group} (hh : (s.grp c p).handler = false) (ht : (s.grp c p).trap = some old)
    (hl : (s.grp c p).laterCause k s.cycle = some h) : s.takeException c p k = s.setGrp c p h := by
  simp only [State.takeException, hh, ht, hl, Option.isSome_some, Bool.false_eq_true, if_true, if_false]

theorem State.takeException_ignored (hh : (s.grp c p).handler = false) (ht : (s.grp c p).trap = some old)
    (hl : (s.grp c p).laterCause k s.cycle = none) : s.takeException c p k = s := by
  simp only [State.takeException, hh, ht, hl, Option.isSome_some, Bool.false_eq_true, if_true, if_false]

section
variable (hh : (s.grp c p).handler = false) (ht : (s.grp c p).trap = none)
include hh ht

/-- A group that keeps no cause stops, and enters its handler unless a load of it or an instruction under way is still to end. -/
theorem State.takeException_stops : s.takeException c p k =
    if s.loadsPending c p then (s.stopGroup c p k).post .trapEntry [c, p] else (s.stopGroup c p k).enterTrap c p k := by
  have hh : ¬ (s.grp c p).handler = true := by simp [hh]
  have ht : ¬ (s.grp c p).trap.isSome = true := by simp [ht]
  rw [← s.stopGroup_loadsPending c p k]
  exact (if_neg hh).trans (if_neg ht)

theorem State.takeException_waits (hl : s.loadsPending c p = true) :
    s.takeException c p k = (s.stopGroup c p k).post .trapEntry [c, p] := (State.takeException_stops hh ht).trans (if_pos hl)

theorem State.takeException_enters (hl : s.loadsPending c p = false) : s.takeException c p k = (s.stopGroup c p k).enterTrap c p k :=
  (State.takeException_stops hh ht).trans (if_neg (by simp [hl]))

end

/-! #### Handlers that cannot be entered (R355, R363) -/

theorem State.enterTrap_noVector (hv : (s.launchOf c p).vector k.code = 0#64) :
    s.enterTrap c p k = s.abortLaunch (s.grp c p).node k.code := by
  simp only [State.enterTrap, hv, beq_self_eq_true, if_true]

section
variable (hv : (s.launchOf c p).vector k.code ≠ 0#64)
include hv

theorem State.enterTrap_unmapped {e : Nat × DWord}
    (ha : s.translateRange c (s.launchOf c p).context { write := true, handler := true } ((s.launchOf c p).area c p) 1280 = .error e) :
    s.enterTrap c p k = s.abortLaunch (s.grp c p).node Code.DOUBLE_FAULT := by
  simp only [State.enterTrap, beq_iff_eq, hv, if_false, ha]

/-- An area in a window which cannot hold one. -/
theorem State.enterTrap_misplaced {ps : List (Nat × Nat)}
    (ha : s.translateRange c (s.launchOf c p).context { write := true, handler := true } ((s.launchOf c p).area c p) 1280 = .ok ps)
    (hw : ∃ q ∈ ps, windowOf q.1 ≠ some .device ∧ windowOf q.1 ≠ some .host) :
    s.enterTrap c p k = s.abortLaunch (s.grp c p).node Code.DOUBLE_FAULT := by
  have hany : (ps.any fun q => windowOf q.1 != some .device && windowOf q.1 != some .host) = true := by
    simpa only [List.any_eq_true, Bool.and_eq_true, bne_iff_ne] using hw
  simp only [State.enterTrap, beq_iff_eq, hv, if_false, ha, hany, if_true]

end

end

/-! #### What an abort leaves -/

/-- A live group stands in the list of groups. -/
theorem State.grp_mem (h : (s.grp c p).live = true) : (gid c p, s.grp c p) ∈ s.groups := by
  have mem : ∀ (m : List (Nat × Group)) (k : Nat), (aget {} m k).live = true → (k, aget {} m k) ∈ m := by
    intro m k
    induction m with
    | nil => exact nofun
    | cons e m ih =>
      obtain ⟨a, g⟩ := e
      by_cases hk : a = k
      · simp [aget, hk]
      · simp only [aget, if_neg hk]
        exact fun hl => List.mem_cons_of_mem _ (ih hl)
  exact mem _ _ h

/-- A group at its end: no entry, no parked lane and no live lane. -/
def Group.atEnd (g : Group) : Prop := g.frontier = [] ∧ g.parked = [] ∧ g.liveMask = 0#32

theorem endOfGroup_grp_eq (s : State) (e : Nat × Group) (d q : Nat) :
    (endOfGroup s e).grp d q = (s.setGrp (e.1 / 64) (e.1 % 64) { s.grp (e.1 / 64) (e.1 % 64) with
      frontier := [], parked := [], liveMask := 0#32, trap := none, requests := [], jregs := [] }).grp d q := by
  rw [State.grp, endOfGroup, State.post_groups]
  rfl

theorem endOfGroup_keeps_atEnd (e : Nat × Group) {d q : Nat} (h : (s.grp d q).atEnd) : ((endOfGroup s e).grp d q).atEnd := by
  rw [endOfGroup_grp_eq, State.grp_setGrp]
  split
  · exact ⟨rfl, rfl, rfl⟩
  · exact h

theorem endOfGroup_atEnd (g : Group) (hp : p < 64) : ((endOfGroup s (gid c p, g)).grp c p).atEnd := by
  have hd : gid c p / 64 = c := by unfold gid; omega
  have hm : gid c p % 64 = p := by unfold gid; omega
  rw [endOfGroup_grp_eq, hd, hm, State.grp_setGrp_self]
  exact ⟨rfl, rfl, rfl⟩

/-- Of the groups that are put at their end, each is there afterwards. -/
theorem foldl_endOfGroup_atEnd {l : List (Nat × Group)} {g : Group} (hp : p < 64) (h : (gid c p, g) ∈ l) :
    ((l.foldl endOfGroup s).grp c p).atEnd := by
  have keeps : ∀ (l : List (Nat × Group)) (t : State), (t.grp c p).atEnd → ((l.foldl endOfGroup t).grp c p).atEnd := by
    intro l
    induction l with
    | nil => exact fun _ h => h
    | cons e l ih => exact fun t h => ih _ (endOfGroup_keeps_atEnd e h)
  induction l generalizing s with
  | nil => cases h
  | cons e l ih =>
    rcases List.mem_cons.1 h with rfl | h
    · exact keeps l _ (endOfGroup_atEnd g hp)
    · exact ih h

theorem State.abortLaunch_atEnd {code : Nat} (hp : p < 64) (hl : (s.grp c p).live = true) (hn : (s.grp c p).node = node) :
    ((s.abortLaunch node code).grp c p).atEnd := by
  rw [State.abortLaunch_eq]
  exact foldl_endOfGroup_atEnd hp (List.mem_filter.2 ⟨State.grp_mem hl, by simp [hl, hn]⟩)

end

/-- A launch has been aborted with a code, unless one was under way: each of its groups is at its end, and data are as they were (R363). -/
def State.aborted (s u : State) (node code : Nat) : Prop :=
  (u.launch node).abort = some (((s.launch node).abort).getD code) ∧
  (∀ c p, p < 64 → (s.grp c p).live = true → (s.grp c p).node = node → (u.grp c p).atEnd) ∧ s.sameData u

theorem State.abortLaunch_aborted (s : State) (node code : Nat) : s.aborted (s.abortLaunch node code) node code :=
  ⟨s.abortLaunch_code node code, fun _ _ => State.abortLaunch_atEnd, s.abortLaunch_data node code⟩

/-- So has one whose group had stopped before the abort. -/
theorem State.stopGroup_aborted (s : State) (c p : Nat) (t : Cause) (node code : Nat) :
    s.aborted ((s.stopGroup c p t).abortLaunch node code) node code := by
  refine ⟨(s.stopGroup c p t).abortLaunch_code node code, fun d q hq hl hn => State.abortLaunch_atEnd hq ?live ?node, ?data⟩
  case live => exact (State.grp_setGrp_field (·.live) (by rfl) d q).trans hl
  case node => exact (State.grp_setGrp_field (·.node) (by rfl) d q).trans hn
  case data => exact State.sameData_trans (s.setGrp_sameData c p _) ((s.stopGroup c p t).abortLaunch_data node code)

/-- Settles O54, outcome by outcome. -/
theorem exceptionsThatAbort : Obligations.ExceptionsThatAbort := by
  unfold Obligations.ExceptionsThatAbort
  intro s c p t old e ps
  extract_lets g l u aborts
  have ends : ∀ {code}, s.aborted u g.node code → aborts code := by
    rintro code ⟨hcode, hgroups, hmem, hundef, hpool, hv, hs, hp, hq⟩
    exact ⟨hcode, hgroups, hv, hs, hp, hq, hpool, hmem, hundef⟩
  have same := s.stopGroup_sameFetch c p t c
  have hlaunch : (s.stopGroup c p t).launchOf c p = l := s.stopGroup_launchOf c p t
  have hnode : ((s.stopGroup c p t).grp c p).node = g.node := State.grp_setGrp_field (·.node) (by rfl) c p
  have stopped : ∀ {code}, g.handler = false → g.trap = none → s.loadsPending c p = false →
      (s.stopGroup c p t).enterTrap c p t = (s.stopGroup c p t).abortLaunch ((s.stopGroup c p t).grp c p).node code → aborts code := by
    intro code hh ht hl he
    rw [hnode] at he
    refine ends ?_
    rw [show u = _ from (State.takeException_enters hh ht hl).trans he]
    exact s.stopGroup_aborted c p t g.node code
  refine ⟨?handler, ?noVector, ?unmapped, ?misplaced, ?waits, ?ignored, ?earlier⟩
  case handler =>
    intro hh
    refine ends ?_
    rw [show u = _ from State.takeException_handler hh]
    exact s.abortLaunch_aborted g.node Code.DOUBLE_FAULT
  case noVector => exact fun hh ht hl hv => stopped hh ht hl (State.enterTrap_noVector (by rw [hlaunch, hv]))
  case unmapped =>
    intro hh ht hl hv ha
    refine stopped hh ht hl (State.enterTrap_unmapped (by rwa [hlaunch]) (e := e) ?_)
    rw [same.translateRange, hlaunch]
    exact ha
  case misplaced =>
    intro hh ht hl hv ha hw
    refine stopped hh ht hl (State.enterTrap_misplaced (by rwa [hlaunch]) (ps := ps) ?_ hw)
    rw [same.translateRange, hlaunch]
    exact ha
  case waits =>
    intro hh ht hl
    have hu : u = _ := State.takeException_waits hh ht hl
    have hgrp : u.grp c p = (s.stopGroup c p t).grp c p := by rw [hu, State.grp, State.post_groups]; rfl
    have hdata := (s.stopGroup c p t).sameData_post .trapEntry [c, p]
    rw [← hu] at hdata
    obtain ⟨hmem, -, -, hv, -⟩ := hdata
    rw [hgrp, State.stopGroup, State.grp_setGrp_self]
    exact ⟨rfl, hh, hmem, hv⟩
  case ignored =>
    intro hh ht hy hn
    refine State.takeException_ignored hh ht ?_
    simp only [Group.laterCause, show (s.grp c p).trap = some old from ht, show (s.grp c p).nextFault = none from hn,
      show old.yields t s.cycle (s.grp c p).frontier = false from hy, Bool.false_eq_true, if_false, Option.map_none]
  case earlier =>
    intro hh ht ho htp hat hfe
    have hy : old.yields t s.cycle (s.grp c p).frontier = true := by
      simp only [Cause.yields, Bool.and_eq_true, bne_iff_ne, beq_iff_eq, decide_eq_true_eq]
      exact ⟨⟨⟨ho, htp⟩, hat⟩, hfe⟩
    have hlater : ∃ h, (s.grp c p).laterCause t s.cycle = some h ∧ h.trap = some (t.noted s.cycle g.frontier) ∧ h.handler = g.handler := by
      simp only [Group.laterCause, show (s.grp c p).trap = some old from ht, hy, if_true]
      exact ⟨_, rfl, rfl, rfl⟩
    obtain ⟨h, hlater, htrap, hhandler⟩ := hlater
    rw [show u = _ from State.takeException_later hh ht hlater, State.grp_setGrp_self]
    exact ⟨htrap, hhandler.trans hh, rfl, rfl⟩

end Sys2Proof.Machine
end

section
/-!
PROOFS. Entering a handler (R356 to R359): the frame, field by field, and the state in which the group stands at its vector.
-/
namespace Sys2Proof.Machine

/-! #### Fields of an image -/

/-- The bytes of numbers that stand one after another, each with its width. -/
def fieldBytes (fs : List (Nat × Nat)) : List Byte := fs.flatMap fun f => leBytes f.1 f.2

theorem fieldBytes_length (fs : List (Nat × Nat)) : (fieldBytes fs).length = (fs.map (·.1)).sum := by
  simp [fieldBytes, List.length_flatMap, leBytes_length]

/-- What stands behind the first bytes of an image. -/
theorem sliceNat_after {a b d : List Byte} {o n : Nat} (ha : a.length = o) (hb : b.length = n) :
    sliceNat (a ++ (b ++ d)) o n = leNat b := by
  subst ha hb
  rw [sliceNat, List.drop_left, List.take_left]

/-- A field read back from an image that begins with its fields. -/
theorem sliceNat_field (pre : List (Nat × Nat)) (n x : Nat) (post : List (Nat × Nat)) (rest : List Byte) :
    sliceNat (fieldBytes (pre ++ (n, x) :: post) ++ rest) (pre.map (·.1)).sum n = x % 256 ^ n := by
  have h : fieldBytes (pre ++ (n, x) :: post) ++ rest = fieldBytes pre ++ (leBytes n x ++ (fieldBytes post ++ rest)) := by
    simp [fieldBytes, List.flatMap_append]
  rw [h, sliceNat_after (fieldBytes_length pre) (leBytes_length n x), leNat_leBytes]

/-- A read within a piece of an image. -/
theorem sliceNat_within {bs piece : List Byte} {a w o n : Nat} (h : (bs.drop a).take w = piece) (hn : o + n ≤ w) :
    sliceNat bs (a + o) n = sliceNat piece o n := by
  rw [← h, sliceNat, sliceNat, List.drop_take, List.take_take, List.drop_drop, Nat.min_eq_left (by omega)]

/-- One of equally long pieces that follow one another. -/
theorem drop_take_flatMap_range {f : Nat → List Byte} {w : Nat} (hw : ∀ k, (f k).length = w) {n k : Nat} (hk : k < n) (rest : List Byte) :
    ((((List.range n).flatMap f) ++ rest).drop (w * k)).take w = f k := by
  obtain ⟨m, rfl⟩ := Nat.exists_eq_add_of_lt hk
  have hpre : ((List.range k).flatMap f).length = w * k := by simp [List.length_flatMap, hw, Nat.mul_comm]
  rw [Nat.add_assoc, List.range_add, List.range_succ_eq_map, List.map_cons, List.flatMap_append, List.flatMap_cons, List.append_assoc,
    List.append_assoc, ← hpre, List.drop_left, Nat.add_zero, ← hw k, List.take_left]

/-! #### The frame (R357) -/

/-- The fields with which a frame begins: the place and the cause, the saved registers, and the time. -/
def State.frameHead (s : State) (c p : Nat) (t : Cause) : List (Nat × Nat) :=
  let g := s.grp c p
  [(8, t.tpc.toNat), (4, t.code + t.fe * 2 ^ 16), (4, 0), (8, t.detail.toNat), (4, g.fflags.toNat), (4, g.emask.toNat), (4, g.gmask.toNat),
    (4, g.xlane.toNat), (8, g.faddr.toNat % 2 ^ 57), (8, s.dtime), (8, 0)]

/-- The piece of a frame for the entry at a place. -/
def framePiece (es : List Entry) (k : Nat) : List Byte :=
  match es[k]? with
  | some e => entryImage e
  | none => List.replicate 16 0#8

/-- What follows the entries in a frame: rejoin registers, parked lanes, barriers and the phase. -/
def State.frameTail (s : State) (c p : Nat) : List Byte :=
  let g := s.grp c p
  let b := s.blockOf c p
  ((List.range 16).flatMap fun k => jregImage (aget {} g.jregs k)) ++
  ((List.range 32).flatMap fun l => parkImage g.parked l) ++
  ((List.range 16).flatMap fun k => barImage (aget {} b.bars k) (s.barDefault c g.slot (aget {} b.bars k))) ++
  leBytes 4 b.phase ++ List.replicate 60 0#8

/-- The fields of an entry's piece, its priority in one byte of four. -/
theorem entryImage_eq (e : Entry) : entryImage e = fieldBytes
    [(8, e.hdr.toNat % 2 ^ 57 + e.idx * 2 ^ 57 + 2 ^ 63), (4, e.mask.toNat), (1, e.prio % 256), (3, e.prio % 256 / 256)] ++ [] := by
  have hprio : leBytes 4 (e.prio % 256) = leBytes 1 (e.prio % 256) ++ leBytes 3 (e.prio % 256 / 256) := rfl
  simp [entryImage, fieldBytes, hprio]

section
variable {e : Entry}

theorem entryImage_place (h : e.idx < 16) : sliceNat (entryImage e) 0 8 = e.hdr.toNat % 2 ^ 57 + 2 ^ 57 * e.idx + 2 ^ 63 := by
  rw [entryImage_eq]
  refine (sliceNat_field [] _ _ _ []).trans ?_
  omega

theorem entryImage_lanes (e : Entry) : sliceNat (entryImage e) 8 4 = e.mask.toNat := by
  rw [entryImage_eq]
  exact (sliceNat_field [(8, _)] _ _ _ []).trans (Nat.mod_eq_of_lt e.mask.isLt)

theorem entryImage_prio (e : Entry) : sliceNat (entryImage e) 12 1 = e.prio % 256 := by
  rw [entryImage_eq]
  exact (sliceNat_field [(8, _), (4, _)] _ _ _ []).trans (Nat.mod_mod _ _)

end

theorem framePiece_entry {es : List Entry} {k : Nat} {e : Entry} (h : es[k]? = some e) : framePiece es k = entryImage e := by
  simp only [framePiece, h]

theorem framePiece_length (es : List Entry) (k : Nat) : (framePiece es k).length = 16 := by
  unfold framePiece
  split
  · rw [entryImage_eq, List.append_nil, fieldBytes_length]
    rfl
  · rfl

/-- An entry that has stopped has the place, the lanes and the priority that it had. -/
theorem framePiece_stopped (es : List Entry) (k : Nat) : framePiece (es.map Entry.stopped) k = framePiece es k := by
  rw [framePiece, framePiece, List.getElem?_map]
  cases es[k]? <;> rfl

section
variable {s : State} {c p : Nat} {t : Cause}

theorem State.frame_eq (s : State) (c p : Nat) (t : Cause) : s.frame c p t =
    fieldBytes (s.frameHead c p t) ++ (((List.range 32).flatMap (framePiece (s.grp c p).frontier)) ++ s.frameTail c p) := by
  simp only [State.frame, State.frameHead, State.frameTail, fieldBytes, List.flatMap_cons, List.flatMap_nil, List.append_assoc, List.append_nil]
  rfl

theorem State.frame_length (s : State) (c p : Nat) (t : Cause) : (s.frame c p t).length = 1280 := by
  have hpark : ∀ (ps : List Park) (l : Nat), (parkImage ps l).length = 8 := by
    intro ps l
    unfold parkImage
    split <;> exact leBytes_length _ _
  simp [State.frame_eq, State.frameTail, fieldBytes_length, State.frameHead, List.length_flatMap, framePiece_length, jregImage, hpark, barImage,
    leBytes_length]

/-- A field of the frame's head, by its index. -/
theorem State.frame_field {k o n x : Nat} (ho : (((s.frameHead c p t).take k).map (·.1)).sum = o) (hk : (s.frameHead c p t)[k]? = some (n, x)) :
    sliceNat (s.frame c p t) o n = x % 256 ^ n := by
  obtain ⟨hlt, hx⟩ := List.getElem?_eq_some_iff.1 hk
  have hsplit : s.frameHead c p t = (s.frameHead c p t).take k ++ (n, x) :: (s.frameHead c p t).drop (k + 1) := by
    rw [← hx, ← List.drop_eq_getElem_cons, List.take_append_drop]
  have hfield := sliceNat_field ((s.frameHead c p t).take k) n x ((s.frameHead c p t).drop (k + 1))
    (((List.range 32).flatMap (framePiece (s.grp c p).frontier)) ++ s.frameTail c p)
  rwa [← hsplit, ← State.frame_eq, ho] at hfield

/-- The piece of the entry at a place. -/
theorem State.frame_piece {k : Nat} (hk : k < 32) :
    ((s.frame c p t).drop (64 + 16 * k)).take 16 = framePiece (s.grp c p).frontier k := by
  have hhead : (fieldBytes (s.frameHead c p t)).length = 64 := by rw [fieldBytes_length]; rfl
  rw [State.frame_eq, ← List.drop_drop, ← hhead, List.drop_left, drop_take_flatMap_range (framePiece_length _) hk]


/-! #### The state in the handler (R356, R358, R359) -/

/-- A group as it stands in its handler. -/
def State.inHandler (s : State) (c p : Nat) (t : Cause) : Group :=
  let g := s.grp c p
  let l := s.launchOf c p
  { g with
    handler := true, trap := none, parked := [],
    frontier := [{ prio := 255, hdr := l.vector t.code, idx := 0, mask := g.liveMask, src := t.tpc }],
    shadow := shadowAt (l.area c p) g.saveAddr g.saveSize t.code (t.code + t.fe * 2 ^ 16),
    tcode := BitVec.ofNat 32 (t.code + t.fe * 2 ^ 16), tcause := t.detail, tpc := t.tpc,
    kept := keepHolds g.frontier, skips := keepSkips g.frontier, srcs := g.frontier.map fun e => (e.hdr, e.src),
    fair := [], rotate := 0, engFlags := 0#6, skipLanes := 0#32, preempted := t.code == Code.PREEMPT }

/-- A group whose area is one piece of memory that it may write enters its handler. -/
theorem State.enterTrap_enters {pa : Nat} (hv : (s.launchOf c p).vector t.code ≠ 0#64)
    (ha : s.translateRange c (s.launchOf c p).context { write := true, handler := true } ((s.launchOf c p).area c p) 1280 = .ok [(pa, 1280)])
    (hc : s.holdsCode pa 1280 = false) (hp : s.pinnedLines c pa 1280 = []) (hw : windowOf pa = some .device ∨ windowOf pa = some .host) :
    s.enterTrap c p t = ((s.setBytes pa (s.frame c p t)).patchL1 c pa (s.frame c p t)).setGrp c p (s.inHandler c p t) := by
  have hwindow : (windowOf pa != some .device && windowOf pa != some .host) = false := by
    rcases hw with hw | hw <;> rw [hw] <;> rfl
  have hpins : s.pinnedBy c [(pa, 1280)] = [] := by simp [State.pinnedBy, hp]
  have hframe : (s.frame c p t).take 1280 = s.frame c p t := List.take_of_length_le (Nat.le_of_eq (s.frame_length c p t))
  simp only [State.enterTrap, beq_iff_eq, hv, if_false, ha, List.any_cons, List.any_nil, Bool.or_false, hwindow, hc, hpins, List.isEmpty_nil,
    Bool.not_true, Bool.false_eq_true, List.foldl_cons, List.foldl_nil, hframe, State.storeNow_fst]
  rfl

theorem State.stopGroup_frameHead (s : State) (c p : Nat) (t k : Cause) : (s.stopGroup c p k).frameHead c p t = s.frameHead c p t := by
  simp only [State.frameHead, State.stopGroup, State.grp_setGrp_self]
  rfl

theorem State.stopGroup_frontier (s : State) (c p : Nat) (k : Cause) :
    ((s.stopGroup c p k).grp c p).frontier = (s.grp c p).frontier.map Entry.stopped := by
  rw [State.stopGroup, State.grp_setGrp_self]

theorem Launch.vector_eq (l : Launch) (code : Nat) :
    l.vector code = if (code = Code.BREAK ∨ code = Code.STOP) ∧ l.dvec ≠ 0#64 then l.dvec else l.tvec := by
  simp [Launch.vector]

/-- The shadow registers of an entry (R358). -/
theorem shadowAt_reg (area save : DWord) (size code cause k : Nat) :
    aget 0#32 (shadowAt area save size code cause) k =
      if k = 5 then BitVec.ofNat 32 cause
      else if k = 4 then (if code = Code.PREEMPT ∨ code = Code.RESUME then BitVec.ofNat 32 size else 0#32)
      else if k = 3 then (if code = Code.PREEMPT ∨ code = Code.RESUME then hi32 save else 0#32)
      else if k = 2 then (if code = Code.PREEMPT ∨ code = Code.RESUME then lo32 save else 0#32)
      else if k = 1 then hi32 area
      else if k = 0 then lo32 area
      else 0#32 := by
  simp only [shadowAt, List.foldl_cons, List.foldl_nil, aget_aset, Bool.or_eq_true, beq_iff_eq]
  rfl

/-- Copies in L1 are no memory. -/
theorem State.patchL1_sameData (s : State) (c pa : Nat) (bs : List Byte) : s.sameData (s.patchL1 c pa bs) :=
  ⟨rfl, rfl, rfl, rfl, rfl, rfl, rfl⟩

/-- Bytes of what has been written, from an offset on. -/
theorem State.bytes_setBytes_at (s : State) (pa : Nat) (bs : List Byte) {o n : Nat} (h : o + n ≤ bs.length) :
    leNat ((s.setBytes pa bs).bytes (pa + o) n) = sliceNat bs o n := by
  have hread : (s.setBytes pa bs).bytes (pa + o) n = (bs.drop o).take n := by
    refine List.ext_getElem (by simp [State.bytes]; omega) fun k hk hk' => ?_
    simp only [State.bytes, List.getElem_map, List.getElem_range, List.getElem_take, List.getElem_drop]
    have hlt : o + k < bs.length := by simp at hk'; omega
    rw [Nat.add_assoc, State.byte_setBytes _ _ _ _ hlt, List.getD_eq_getElem?_getD, List.getElem?_eq_getElem hlt]
    rfl
  rw [hread, sliceNat]

end

/-- Settles O53: the state in the handler, register by register and field by field of the frame. -/
theorem exceptionEntry : Obligations.ExceptionEntry := by
  unfold Obligations.ExceptionEntry
  intro s c p pa t e
  extract_lets g l area vec slot u h shadow at_
  intro hh ht hl hv hcode hfe ha hcodes hpins hw
  let r := s.stopGroup c p t
  have hvec : l.vector t.code = vec := l.vector_eq t.code
  have hlaunch : r.launchOf c p = l := s.stopGroup_launchOf c p t
  have hu : u = ((r.setBytes pa (r.frame c p t)).patchL1 c pa (r.frame c p t)).setGrp c p (r.inHandler c p t) := by
    refine (State.takeException_enters hh ht hl).trans (State.enterTrap_enters ?_ ?_ hcodes hpins hw)
    · rw [hlaunch, hvec]
      exact hv
    · rw [(s.stopGroup_sameFetch c p t c).translateRange, hlaunch]
      exact ha
  have hgrp : h = r.inHandler c p t := by
    rw [show h = u.grp c p from rfl, hu, State.grp_setGrp_self]
  have hlive : (r.grp c p).liveMask = g.liveMask := State.grp_setGrp_field (·.liveMask) (by rfl) c p
  have hsave : (r.grp c p).saveAddr = g.saveAddr := State.grp_setGrp_field (·.saveAddr) (by rfl) c p
  have hsize : (r.grp c p).saveSize = g.saveSize := State.grp_setGrp_field (·.saveSize) (by rfl) c p
  have hcause : t.code + t.fe * 2 ^ 16 = t.code + 65536 * t.fe := by omega
  have hword : (BitVec.ofNat 32 (t.code + t.fe * 2 ^ 16)).toNat = t.code + 65536 * t.fe := by
    rw [hcause, BitVec.toNat_ofNat]
    omega
  have hshadow : ∀ k, shadow k = aget 0#32 (shadowAt area g.saveAddr g.saveSize t.code (t.code + t.fe * 2 ^ 16)) k := by
    intro k
    rw [show shadow k = aget 0#32 (r.inHandler c p t).shadow k from congrArg (fun h : Group => aget 0#32 h.shadow k) hgrp, State.inHandler,
      hlaunch, hsave, hsize]
    rfl
  have hdata : (r.setBytes pa (r.frame c p t)).sameData u := by
    rw [hu]
    exact State.sameData_trans (State.patchL1_sameData _ c pa _) (State.setGrp_sameData _ c p _)
  have hread : ∀ {o n}, o + n ≤ 1280 → at_ o n = sliceNat (r.frame c p t) o n := by
    intro o n hon
    rw [← r.bytes_setBytes_at pa (r.frame c p t) (by rwa [State.frame_length])]
    simp only [at_, State.bytes, State.sameData_byte hdata]
  have hfield : ∀ k {o n x}, (((s.frameHead c p t).take k).map (·.1)).sum = o → (s.frameHead c p t)[k]? = some (n, x) → o + n ≤ 1280 →
      x < 256 ^ n → at_ o n = x := by
    intro k o n x ho hk hon hlt
    rw [← s.stopGroup_frameHead c p t t] at ho hk
    rw [hread hon, State.frame_field ho hk, Nat.mod_eq_of_lt hlt]
  have hpiece : ∀ {k}, k < 32 → ((r.frame c p t).drop (64 + 16 * k)).take 16 = framePiece g.frontier k := by
    intro k hk
    rw [State.frame_piece hk, show (r.grp c p).frontier = _ from s.stopGroup_frontier c p t, framePiece_stopped]
  obtain ⟨hvreg, hsreg, hpred, hqreg, hpool⟩ := s.takeException_regs c p t
  refine ⟨?handler, ?frontier, ?parked, ?liveMask, ?wct, ?tcode, ?tcause, ?tpc, ?shadow0, ?shadow1, ?slot, ?noSlot, ?shadow5, ?shadow6, ?shadow7,
    ?place, ?cause, ?zero, ?detail, ?fflags, ?emask, ?gmask, ?xlane, ?faddr, ?time, ?zero', ?entry, ?empty, hvreg, hsreg, hpred, hqreg, hpool, ?rest⟩
  case handler | parked | tcause | tpc => rw [hgrp]; rfl
  case frontier =>
    rw [hgrp, State.inHandler, hlaunch, hvec, hlive]
  case liveMask =>
    rw [hgrp]
    exact hlive
  case wct =>
    rw [hgrp]
    exact State.grp_setGrp_field (·.wct) (by rfl) c p
  case tcode =>
    rw [hgrp]
    exact hword
  case shadow0 | shadow1 | shadow6 | shadow7 => rw [hshadow, shadowAt_reg]; rfl
  case slot =>
    intro hs
    refine ⟨?_, ?_, ?_⟩ <;> rw [hshadow, shadowAt_reg] <;> exact if_pos hs
  case noSlot =>
    intro hs
    refine ⟨?_, ?_, ?_⟩ <;> rw [hshadow, shadowAt_reg] <;> exact if_neg hs
  case shadow5 =>
    rw [hshadow, shadowAt_reg]
    exact hword
  case place => exact hfield 0 rfl rfl (by decide) t.tpc.isLt
  case cause => exact hcause ▸ hfield 1 rfl rfl (by decide) (by omega)
  case zero => exact hfield 2 rfl rfl (by decide) (by decide)
  case detail => exact hfield 3 rfl rfl (by decide) t.detail.isLt
  case fflags => exact hfield 4 rfl rfl (by decide) (Nat.lt_trans g.fflags.isLt (by decide))
  case emask => exact hfield 5 rfl rfl (by decide) g.emask.isLt
  case gmask => exact hfield 6 rfl rfl (by decide) g.gmask.isLt
  case xlane => exact hfield 7 rfl rfl (by decide) g.xlane.isLt
  case faddr => exact hfield 8 rfl rfl (by decide) (by omega)
  case time => exact fun hd => hfield 9 rfl rfl (by decide) hd
  case zero' => exact hfield 10 rfl rfl (by decide) (by decide)
  case entry =>
    intro _ he hidx
    have hentry : ∀ o {n}, o + n ≤ 16 → at_ (64 + 16 * t.fe + o) n = sliceNat (entryImage e) o n := by
      intro o n hon
      rw [hread (by omega), sliceNat_within ((hpiece hfe).trans (framePiece_entry he)) hon]
    have hlanes : 72 + 16 * t.fe = 64 + 16 * t.fe + 8 := by omega
    have hprio : 76 + 16 * t.fe = 64 + 16 * t.fe + 12 := by omega
    refine ⟨(hentry 0 (by decide)).trans (entryImage_place hidx), ?_, ?_⟩
    · rw [hlanes, hentry 8 (by decide), entryImage_lanes]
    · rw [hprio, hentry 12 (by decide), entryImage_prio]
  case empty =>
    intro k hk hk'
    rw [hread (by omega), sliceNat, hpiece hk', framePiece, List.getElem?_eq_none hk]
    rfl
  case rest =>
    intro a hout
    rw [State.sameData_byte hdata, State.byte_setBytes_ne _ _ (by rwa [State.frame_length])]
    exact State.sameData_byte (s.setGrp_sameData c p _) a

end Sys2Proof.Machine
end

section
/-!
PROOFS. Traps, stops and the return from a handler (R363, R365, R370, R371, R374): each body's effect once nothing holds it back.
-/
namespace Sys2Proof.Machine

/-- The state in which an instruction has been completed and its group then takes an exception, its return at the instruction (R361, kind A). -/
def Ctx.trapAfter (x : Ctx) (code : Nat) (detail : DWord) (s : State) : State :=
  (s.advance x.n).takeException x.n.core x.n.grp
    { code := code, detail := detail, tpc := wordAddr x.e.hdr x.e.idx,
      fe := (firstIdx (fun y => (y.mask &&& x.e.mask) != 0#32) ((s.advance x.n).grp x.n.core x.n.grp).frontier).getD 0, back := some x.e }

/-- An effect after which the group takes an exception. -/
theorem issue_trap {i : Instr} {g : Guard} {body : Ctx → State → Res} {s : State} {n : Issuer} {code : Nat} {detail : DWord} (hr : s.runs n i)
    (he : (s.ctx n g).g.frontier[n.ent]? = some (s.ctx n g).e) (hb : body (s.ctx n g) s = .trap code detail s) :
    issue i g body s = .next ((s.ctx n g).trapAfter code detail s) := by
  rw [issue_ok hr, hb]
  have he : (s.grp n.core n.grp).frontier[n.ent]? = some (s.ctx n g).e := he
  simp only [Res.settle, he]
  rfl

section
variable {x : Ctx} {s : State} (hx : x.live ≠ 0#32)
include hx

/-! #### BKPT (R374) -/

theorem bkptBody_breaks (hh : x.g.handler = false) (id : BitVec 16) : bkptBody id x s = .trap Code.BREAK (id.setWidth 64) s := by
  rw [bkptBody, once_live hx, hh]
  rfl

/-- A handler passes over it (R360). -/
theorem bkptBody_handler (hh : x.g.handler = true) (id : BitVec 16) : bkptBody id x s = .ok s := by
  rw [bkptBody, once_live hx, hh]
  rfl

/-! #### RTE (R365, R371) -/

section
variable (hh : x.g.handler = true) (hs : s.storesPending x.g.uid = false) (hl : s.linesFull x.c 10 = false) (hp : s.framePins x.c x.p = [])
include hh hs hl hp

/-- From every other entry than that of a pre-emption the group returns. -/
theorem rteBody_returns (hn : x.g.preempted = false) :
    rteBody false x s = .done (((s.leaveTrap x.c x.p x.pc).afterReturn x.c x.p).serveRequests x.c x.p) := by
  rw [rteBody, once_live hx]
  simp only [hh, hs, hl, hp, hn, List.isEmpty_nil, Bool.not_true, Bool.not_false, Bool.false_eq_true, if_true, if_false]

/-- From that of a pre-emption it yields once nothing of it is pending. -/
theorem rteBody_yields {f : List Byte} (hn : x.g.preempted = true) (hb : s.scoreboardEmpty x.c x.p = true) (ha : ∀ a ∈ s.accesses, a.uid ≠ x.g.uid)
    (hf : s.readFrame x.c x.p = some f) (yld : Bool) : rteBody yld x s = .done (s.yieldGroup x.c x.p f) := by
  have hnone : (s.accesses.any fun a => a.uid == x.g.uid) = false := List.any_eq_false.2 fun a h => by simpa using ha a h
  rw [rteBody, once_live hx]
  simp only [hh, hs, hl, hp, hn, hb, hnone, hf, List.isEmpty_nil, Bool.not_true, Bool.or_self, Bool.false_eq_true, if_false]

end

end

/-- Settles O24, instruction by instruction. -/
theorem trapAndReturnResults : Obligations.TrapAndReturnResults := by
  unfold Obligations.TrapAndReturnResults exec
  intro s n g a sa id yld f
  extract_lets x here t fe take blk stopped mine room
  refine ⟨?trap, ?breaks, ?passes, ?stops, ?aborts, ?returns, ?yields⟩
  case trap => exact fun hr ⟨hx, he⟩ => issue_trap hr he (once_live hx)
  case breaks => exact fun hr ⟨hx, he⟩ hh => issue_trap hr he (bkptBody_breaks hx hh id)
  case passes => exact fun hr hx hh => issue_eff hr (bkptBody_handler hx hh id)
  case stops => exact fun hr hx => issue_done hr (once_live hx)
  case aborts => exact fun hr hx => issue_done hr (once_live hx)
  case returns => exact fun hr hx hh hn hs ⟨hl, hp⟩ => issue_done hr (rteBody_returns hx hh hs hl hp hn)
  case yields => exact fun hr hx hh hn hb hs ⟨hl, hp⟩ ha hf => issue_done hr (rteBody_yields hx hh hs hl hp hn hb ha hf yld)

end Sys2Proof.Machine
end

section
/-!
PROOFS. Live registers, special registers, the trace ring and the barometer (R367, R368, R372, R375, R377): each body's effect, and images that are
stored line by line.
-/
namespace Sys2Proof.Machine

section
variable {x : Ctx} {s : State}

/-! #### Images stored line by line -/

/-- The stores of an image from an aligned address on, the line of each index at a physical address of its own. -/
def Ctx.imageStores (x : Ctx) (s : State) (addr : DWord) (bs : List Byte) (pa : Nat → Nat) : List Access :=
  ((chunksOf 128 bs.length bs).zipIdx).map fun q => { x.baseAccess s with
    lane := 32, kind := .store, pa := pa q.2, n := q.1.length, data := q.1, addr := addr + BitVec.ofNat 64 (128 * q.2),
    afterRel := s.gatesOf x.c x.p x.e.mask }

/-- An image every line of which may be stored. -/
theorem Ctx.lineStores_ok {addr : DWord} {bs : List Byte} {pa : Nat → Nat}
    (h : ∀ q ∈ (chunksOf 128 bs.length bs).zipIdx, s.holdsCode (pa q.2) q.1.length = false ∧
      s.translate x.c (s.launchOf x.c x.p).context { write := true, handler := x.g.handler } (addr + BitVec.ofNat 64 (128 * q.2)) = .ok (pa q.2)) :
    x.lineStores addr bs s = .ok (x.imageStores s addr bs pa) := by
  unfold Ctx.lineStores Ctx.imageStores
  generalize (chunksOf 128 bs.length bs).zipIdx = qs at h ⊢
  induction qs with
  | nil => rfl
  | cons q qs ih =>
    obtain ⟨⟨hcode, htr⟩, hqs⟩ := List.forall_mem_cons.1 h
    have hphys := Ctx.elemPhys_ok (m := q.1.length) htr fun _ => hcode
    rw [List.foldr_cons, ih hqs]
    simp only [hphys, List.map_cons]

/-! #### SAVELIVE and RESTLIVE (R368) -/

section
variable (hx : x.live ≠ 0#32)
include hx

section
variable {sa : BitVec 8} (hh : x.g.handler = true) (ha : (x.sreg64 s sa).toNat % 128 = 0)
include hh ha

/-- SAVELIVE stores the image of the live registers, and writes its length. -/
theorem saveliveBody_saves {sd : BitVec 8} {y : LiveSet} {as : List Access} (hl : s.loadsFree x.c x.p x.e.mask = true)
    (hs : s.storesPending x.g.uid = false) (hy : s.liveSet x.c x.p = .ok y) (hp : x.livePending s y = false)
    (hi : x.lineStores (x.sreg64 s sa) (s.liveImage x.c x.p y) s = .ok as) (hf : s.linesFull x.c (linesOf as) = false) :
    saveliveBody sd sa x s = .ok (x.putS sd (BitVec.ofNat 32 (s.liveImage x.c x.p y).length) (s.addAccesses as)) := by
  rw [saveliveBody, once_live hx]
  simp only [hh, ha, hl, hs, hy, hp, hi, hf, bne_self_eq_false, Bool.not_true, Bool.false_eq_true, if_false]

/-- RESTLIVE reads which registers an area holds, and then the area. -/
theorem restliveBody_restores {h b : List Byte} {ps qs : List (Nat × Nat)} (hd : x.reads s (x.sreg64 s sa) 64 h ps)
    (hr : ∀ r ∈ bitsUp 256 (LiveSet.of h 0 32 48 49).v, r < x.g.count)
    (hp : x.livePending (s.freshenPieces x.c ps) (LiveSet.of h 0 32 48 49) = false)
    (hb : x.reads (s.freshenPieces x.c ps) (x.sreg64 s sa) (LiveSet.of h 0 32 48 49).length b qs) :
    restliveBody sa x s =
      .ok (((s.freshenPieces x.c ps).freshenPieces x.c qs).restoreLive x.c x.p (LiveSet.of h 0 32 48 49) b) := by
  have hcount : ((bitsUp 256 (LiveSet.of h 0 32 48 49).v).any fun r => decide (x.g.count ≤ r)) = false :=
    List.any_eq_false.2 fun r hmem => by simpa using hr r hmem
  rw [restliveBody, once_live hx]
  simp only [hh, ha, bne_self_eq_false, Bool.not_true, Bool.false_eq_true, if_false, Ctx.withDesc_reads hd, hcount, hp, Ctx.withDesc_reads hb]

end

/-! #### SRD and SWR (R372) -/

theorem srdBody_reads {d : VS} {n : Nat} (hp : n < 0x20 ∨ x.g.handler = true) (hf : n = 0x18 → s.flagsPending x.g.uid = false) :
    srdBody d n x s = .ok (x.put d (x.special s n) s) := by
  have hpriv : (decide (0x20 ≤ n) && !x.g.handler) = false := by
    rcases hp with hp | hp
    · simp [Nat.not_le.2 hp]
    · simp [hp]
  have hflags : (decide (n = 0x18) && s.flagsPending x.g.uid) = false := by simpa using hf
  rw [srdBody, once_live hx]
  simp only [hpriv, hflags, Bool.false_eq_true, if_false]

/-- SWR writes one of the six registers 0x18 to 0x1D. -/
theorem swrBody_writes {sa : BitVec 8} {n : Nat} (hp : n = 0x1A ∨ n = 0x1C ∨ n = 0x1D → x.g.handler = true)
    (hf : n = 0x18 → s.flagsPending x.g.uid = false) (hlo : 0x18 ≤ n) (hhi : n ≤ 0x1D) :
    swrBody n sa x s =
      .ok (let g := s.grp x.c x.p
           let v := x.sreg s sa
           s.setGrp x.c x.p (
             if n = 0x18 then { g with fflags := v.setWidth 6 } else if n = 0x19 then { g with xlane := v }
             else if n = 0x1A then { g with emask := v, skipLanes := v } else if n = 0x1B then { g with gmask := v }
             else if n = 0x1C then { g with faddr := pair64 v (hi32 g.faddr) }
             else { g with faddr := pair64 (lo32 g.faddr) (v &&& 0x01FFFFFF#32) })) := by
  have hpriv : ((decide (n = 0x1A) || decide (n = 0x1C) || decide (n = 0x1D)) && !x.g.handler) = false := by
    cases hh : x.g.handler with
    | true => simp
    | false => simpa [hh, and_assoc] using hp
  have hflags : (decide (n = 0x18) && s.flagsPending x.g.uid) = false := by simpa using hf
  rw [swrBody, once_live hx]
  simp only [hpriv, hflags, Bool.false_eq_true, if_false]
  obtain rfl | rfl | rfl | rfl | rfl | rfl : n = 0x18 ∨ n = 0x19 ∨ n = 0x1A ∨ n = 0x1B ∨ n = 0x1C ∨ n = 0x1D := by omega
  all_goals rfl

/-! #### PMARK and RDBARO (R375, R377) -/

/-- While its ring has room PMARK stores a record there, and the ring counts it. -/
theorem pmarkBody_records {id : BitVec 16} {base size k : Nat} (hr : (s.core x.c).ring = some (base, size, k)) (hk : k < size)
    (hc : s.holdsCode (base + 32 * k) 32 = false)
    (hw : windowOf (base + 32 * k) = some .device ∨ windowOf (base + 32 * k) = some .host) (hl : s.linesFull x.c 1 = false)
    (hp : s.pinnedLines x.c (base + 32 * k) 32 = []) :
    pmarkBody id x s =
      .ok (let t := s.setCore x.c { s.core x.c with ring := some (base, size, k + 1) }
           t.setBytes (base + 32 * k) (x.traceRecord t id)) := by
  rw [pmarkBody, once_live hx]
  simp only [hr, Nat.not_le.2 hk, hc, hl, hp, List.isEmpty_nil, Bool.not_true, Bool.false_eq_true, if_false]
  rcases hw with hw | hw <;> simp only [hw]

/-- Without a ring, or with a full one, it records nothing. -/
theorem pmarkBody_drops {id : BitVec 16} {base size k : Nat}
    (hr : (s.core x.c).ring = none ∨ (s.core x.c).ring = some (base, size, k) ∧ size ≤ k) : pmarkBody id x s = .ok s := by
  rw [pmarkBody, once_live hx]
  rcases hr with hr | ⟨hr, hk⟩
  · simp only [hr]
  · simp only [hr, hk, if_true]

theorem rdbaroBody_reads {sd sa : BitVec 8} {clr : Bool} :
    rdbaroBody sd sa clr x s =
      .ok (let i := (x.sreg s sa).toNat
           let core := s.core x.c
           let v := if i ≤ 16 ∨ 32 ≤ i ∧ i ≤ 45 then aget 0#64 core.baro (64 * x.g.part + i) else 0#64
           let t := if clr then s.setCore x.c { core with baro := aclear core.baro (64 * x.g.part) (64 * x.g.part + 64) } else s
           x.putS64 sd v t) := by
  rw [rdbaroBody, once_live hx]
  simp only [Bool.or_eq_true, Bool.and_eq_true, decide_eq_true_eq]

end

end

/-- Settles O25, instruction by instruction; without a live lane each of them only goes on. -/
theorem specialRegisterResults : Obligations.SpecialRegisterResults := by
  unfold Obligations.SpecialRegisterResults exec
  intro s n g d sd sa num id clr y h b pa base size k ps qs
  extract_lets x addr img line lines z f gr v core ring i
  have num_eq : ∀ m : BitVec 8, num.toNat = m.toNat ↔ num = m := fun m => BitVec.toNat_inj
  refine ⟨?saves, ?savesNot, ?restores, ?restoresNot, ?reads, ?readsNot, ?writesNot, ?marksNot, ?countsNot, ?writes, ?marks, ?drops, ?counts⟩
  case saves =>
    exact fun hr hx hh ha hl hs hy hp hi hf => issue_eff hr (saveliveBody_saves hx hh ha hl hs hy hp (Ctx.lineStores_ok hi) hf)
  case restores => exact fun hr hx hh ha hd hcount hp hb => issue_eff hr (restliveBody_restores hx hh ha hd hcount hp hb)
  case reads => exact fun hr hx hp hf => issue_eff hr (srdBody_reads hx hp fun h18 => hf ((num_eq 0x18#8).1 h18))
  case savesNot | restoresNot | readsNot | writesNot | marksNot | countsNot => exact fun hr hx => issue_eff hr (once_dead hx)
  case writes =>
    intro hr hx hp hf hlo hhi
    simp only [← num_eq] at hp hf ⊢
    exact issue_eff hr (swrBody_writes hx hp hf hlo hhi)
  case marks => exact fun hr hx hring hk hc hw hl hp => issue_eff hr (pmarkBody_records hx hring hk hc hw hl hp)
  case drops => exact fun hr hx hring => issue_eff hr (pmarkBody_drops hx hring)
  case counts => exact fun hr hx => issue_eff hr (rdbaroBody_reads hx)

end Sys2Proof.Machine
end

section
/-!
PROOFS. The matrix unit at issue (R248, R256 to R263, R270): each body's effect once nothing holds it back.
-/
namespace Sys2Proof.Machine

section
variable {x : Ctx} {s : State}

/-! #### Accumulators (R248) -/

/-- The state in which an accumulator is bound: as it is, or with +0 in every element and its fault record kept. -/
def State.withAcc (s : State) (c p m : Nat) (f64 : Bool) : State :=
  if (s.acc c p m).bound then s else s.setAcc c p m { bound := true, f64 := f64, flt := (s.acc c p m).flt }

theorem State.bindAcc_room {c p m : Nat} (h : (s.acc c p m).bound = true ∨ s.freeBanks c ≠ 0) (f64 : Bool) :
    s.bindAcc c p m f64 = some (s.withAcc c p m f64) := by
  unfold State.bindAcc State.withAcc
  cases hb : (s.acc c p m).bound with
  | true => rfl
  | false =>
    have hfree : s.freeBanks c ≠ 0 := h.resolve_left (by simp [hb])
    simp only [Bool.false_eq_true, if_false, hfree]

/-! #### The set of an MMA (R258) -/

/-- What lets a group of a set take part in its step: it waits in its own MMA of the set with the same count and types, and its accumulator has no
fault, is not of the other type, and is free to be written. -/
structure State.MmaReady (s : State) (c : Nat) (mask : Word) (r : MmaReq) (p : Nat) (q : Nat × MmaReq) : Prop where
  waits : s.mmaOf c p = some q
  count : q.2.n = r.n
  ta : q.2.ta = r.ta
  tb : q.2.tb = r.tb
  set : (s.grp c p).mbq.map (·.2) = some mask
  type : (s.acc c p q.2.m).otherType (r.ta == 4) = false
  free : s.guideWaits c p q.2.m = false
  fault : (s.acc c p q.2.m).flt.f = false
  unstalled : s.mmaStalled c p = false

/-- When the last of a set has come, the steps of the whole set go in the sequencer, and every other entry of it moves on. -/
theorem Ctx.joinMma_ready {r : MmaReq} {mask : Word} {ps : List Nat} {req : Nat → Nat × MmaReq}
    (hs : (lanesOf mask).map (s.groupAt x.c x.g.slot) = ps.map some) (h : ∀ p ∈ ps, s.MmaReady x.c mask r p (req p))
    (hb : ((ps.map fun p => s.acc x.c p (req p).2.m).filter fun a => !a.bound).length ≤ s.freeBanks x.c) :
    x.joinMma r mask s = .ok (ps.foldl (fun u p => if p = x.p then u else u.advanceEntry x.c p (req p).1) (s.issueMma x.c ps)) := by
  have hzip : ∀ {α : Type} (f : Nat → α), ps.zip (ps.map f) = ps.map fun p => (p, f p) := fun f => by
    simpa using List.zip_map' (f := id) (g := f) (l := ps)
  have hreqs : (ps.map fun p => s.mmaOf x.c p) = (ps.map req).map some := by
    rw [List.map_map]
    exact List.map_congr_left fun p hp => (h p hp).waits
  have hcount : (((ps.map req).map some).all fun q => (q.map (·.2.n)) == some r.n) = true := by
    simpa [List.all_eq_true] using fun p hp => (h p hp).count
  have hstopped : ((ps.map fun p => (p, s.acc x.c p (req p).2.m)).filter fun q => q.2.flt.f) = [] := by
    simpa [List.filter_eq_nil_iff] using fun p hp => (h p hp).fault
  have hset : (ps.any fun p => ((s.grp x.c p).mbq.map (·.2)) != some mask) = false := by
    simpa [List.any_eq_false] using fun p hp => (h p hp).set
  have htypes : ((ps.map req).any fun q => q.2.ta != r.ta || q.2.tb != r.tb) = false := by
    simpa [List.any_eq_false] using fun p hp => ⟨(h p hp).ta, (h p hp).tb⟩
  have htype : ((ps.map fun p => s.acc x.c p (req p).2.m).any fun a => a.otherType (r.ta == 4)) = false := by
    simpa [List.any_eq_false] using fun p hp => (h p hp).type
  have hmixed : ((ps.map fun p => s.acc x.c p (req p).2.m).any (fun a => a.otherType true) &&
      (ps.map fun p => s.acc x.c p (req p).2.m).any fun a => a.otherType false) = false := by
    cases hta : r.ta == 4 with
    | true => rw [hta] at htype; rw [htype, Bool.false_and]
    | false => rw [hta] at htype; rw [htype, Bool.and_false]
  have hwrong : ((ps.map fun p => (p, s.acc x.c p (req p).2.m)).filter fun q => q.2.otherType (r.ta == 4)) = [] := by
    simpa [List.filter_eq_nil_iff] using fun p hp => (h p hp).type
  have hwaits : ((ps.map fun p => (p, req p)).any fun q => s.guideWaits x.c q.1 q.2.2.m) = false := by
    simpa [List.any_eq_false] using fun p hp => (h p hp).free
  have hstalled : ps.any (s.mmaStalled x.c) = false := by
    simpa [List.any_eq_false] using fun p hp => (h p hp).unstalled
  have haccs : (ps.map fun p => (p, req p)).map (fun q => s.acc x.c q.1 q.2.2.m) = ps.map fun p => s.acc x.c p (req p).2.m := List.map_map
  have hnone : (ps.map some).any Option.isNone = false := by simp
  have hsome : ∀ {α : Type} (l : List α), (l.map some).filterMap id = l := fun l => by simp
  simp only [Ctx.joinMma, hs, hnone, hsome, hreqs, hcount, hzip, haccs, hstopped, hset, htypes, hmixed, hwrong, hwaits,
    hstalled, Nat.not_lt.2 hb, List.map_nil, List.isEmpty_nil, List.foldl_map, Bool.not_true, Bool.or_self, Bool.false_eq_true, if_false]

section
variable (hx : x.live ≠ 0#32)
include hx

/-! #### MBQ and MZERO (R256, R257) -/

theorem mbqBody_names {vq sa : BitVec 8}
    (hk : popCount (x.sreg s sa) = 1 ∨ popCount (x.sreg s sa) = 2 ∨ popCount (x.sreg s sa) = 4) (hb : (x.sreg s sa).getLsbD x.g.bgrp = true) :
    mbqBody vq sa x s = .ok (s.setGrp x.c x.p { s.grp x.c x.p with mbq := some (vq.toNat, x.sreg s sa), mmaCount := 0 }) := by
  have hset : mmaSet (x.sreg s sa) x.g.bgrp = true := by simpa [mmaSet, hb, or_assoc] using hk
  rw [mbqBody, once_live hx]
  simp only [hset, Bool.not_true, Bool.false_eq_true, if_false]

theorem mzeroBody_binds {m : BitVec 8} {f64 : Bool} (hg : s.guideWaits x.c x.p m.toNat = false)
    (hr : (s.acc x.c x.p m.toNat).bound = true ∨ s.freeBanks x.c ≠ 0) :
    mzeroBody m f64 x s = .ok ((s.withAcc x.c x.p m.toNat f64).setAcc x.c x.p m.toNat { bound := true, f64 := f64 }) := by
  rw [mzeroBody, once_live hx]
  simp only [hg, State.bindAcc_room hr, Bool.false_eq_true, if_false]

/-! #### MMA (R258) -/

/-- MMA, at the first attempt of the last group of its set. -/
theorem mmaBody_issues {m va : BitVec 8} {ta tb : BitVec 3} {reg : Nat} {mask : Word} {t : State} (hn : x.e.note = [])
    (hq : x.g.mbq = some (reg, mask)) (hf : (s.acc x.c x.p m.toNat).flt.f = false) (hg : s.guideWaits x.c x.p m.toNat = false)
    (hw : s.mmaOf x.c x.p = none) (he : s.engineFrozen x.c 4 = false)
    (hj : x.joinMma { n := x.g.mmaCount + 1, m := m.toNat, va := va.toNat, ta := ta.toNat, tb := tb.toNat } mask
      (x.remember (MmaReq.note { n := x.g.mmaCount + 1, m := m.toNat, va := va.toNat, ta := ta.toNat, tb := tb.toNat }) s) = .ok t) :
    mmaBody m va ta tb x s = .ok t := by
  rw [mmaBody, once_live hx]
  simp only [hq, hf, hn, mmaReq, hg, hw, he, hj, Option.isSome_none, Bool.or_self, Bool.false_eq_true, if_false]

/-! #### MLOOP, MMASK and MSTAT (R259 to R263, R270) -/

/-- The loop that MLOOP puts in the sequencer of an accumulator that has been bound. -/
def Ctx.loopJob (x : Ctx) (s u : State) (m sa sb sc : BitVec 8) (ta tb : BitVec 3) (msk : Bool) : MJob :=
  let r := fun (k : Nat) => s.sr x.c x.p (sc.toNat + k)
  { toEng := x.engine [] u, m := m.toNat, loop := true, ta := ta.toNat, tb := tb.toNat, masked := msk,
    mask := if msk then x.g.mmask else [], mbits := if msk then x.g.mbits else 0, aAddr := x.sreg64 u sa, bAddr := x.sreg64 u sb,
    aRow := (r 1).toInt, aInc := (r 2).toInt, bRow := (r 3).toInt, bInc := (r 4).toInt, left := (r 0).toNat, pc := x.pc }

theorem mloopBody_starts {m sa sb sc : BitVec 8} {ta tb : BitVec 3} {msk : Bool} (h0 : (s.sr x.c x.p (sc.toNat + 0)).toNat ≠ 0)
    (hhi : (s.sr x.c x.p (sc.toNat + 0)).toNat ≤ 65535)
    (hm : msk = true → (s.sr x.c x.p (sc.toNat + 0)).toNat * stepDepth ta.toNat ≤ x.g.mbits) (hf : (s.acc x.c x.p m.toNat).flt.f = false)
    (ht : (s.acc x.c x.p m.toNat).otherType (ta == 4#3) = false) (he : s.engineFrozen x.c 4 = false)
    (hg : s.guideWaits x.c x.p m.toNat = false) (hr : (s.acc x.c x.p m.toNat).bound = true ∨ s.freeBanks x.c ≠ 0) :
    mloopBody m sa sb sc ta tb msk x s =
      .ok (let u := s.withAcc x.c x.p m.toNat (ta == 4#3)
           let u := u.setAcc x.c x.p m.toNat { u.acc x.c x.p m.toNat with flt := {} }
           let j := x.loopJob s u m sa sb sc ta tb msk
           u.startLoop { j with foot := j.footOf (ta == 4#3) }) := by
  have hargs : (decide ((s.sr x.c x.p (sc.toNat + 0)).toNat = 0) || decide (65535 < (s.sr x.c x.p (sc.toNat + 0)).toNat) ||
      (msk && decide (x.g.mbits < (s.sr x.c x.p (sc.toNat + 0)).toNat * stepDepth ta.toNat))) = false := by
    have hmask : (msk && decide (x.g.mbits < (s.sr x.c x.p (sc.toNat + 0)).toNat * stepDepth ta.toNat)) = false := by simpa using hm
    simp only [Bool.or_eq_false_iff, decide_eq_false_iff_not, Nat.not_lt]
    exact ⟨⟨h0, hhi⟩, hmask⟩
  rw [mloopBody, once_live hx]
  simp only [hargs, hf, ht, he, hg, State.bindAcc_room hr, Bool.or_self, Bool.false_eq_true, if_false]
  rfl

theorem mmaskBody_reads {sa sb : BitVec 8} (hlo : 32 ≤ (x.sreg s sb).toNat) (hhi : (x.sreg s sb).toNat ≤ 4096)
    (h32 : (x.sreg s sb).toNat % 32 = 0)
    (hs : scrFault (s.scrSlice x.c x.g.slot).2 (x.sreg s sa).toNat ((x.sreg s sb).toNat / 8) 4 = none)
    (hl : s.loadsFree x.c x.p x.e.mask = true)
    (he : s.engineHold x.g.uid s.nextId true false ((s.scrSlice x.c x.g.slot).1 + (x.sreg s sa).toNat) ((x.sreg s sb).toNat / 8) = false) :
    mmaskBody sa sb x s =
      .ok (s.setGrp x.c x.p { s.grp x.c x.p with
        mmask := s.poolBytes x.c ((s.scrSlice x.c x.g.slot).1 + (x.sreg s sa).toNat) ((x.sreg s sb).toNat / 8)
        mbits := (x.sreg s sb).toNat }) := by
  have hargs : (decide ((x.sreg s sb).toNat < 32) || decide (4096 < (x.sreg s sb).toNat) || (x.sreg s sb).toNat % 32 != 0) = false := by
    simp [Nat.not_lt.2 hlo, hhi, h32]
  rw [mmaskBody, once_live hx]
  simp only [hargs, hs, hl, he, Bool.not_true, Bool.false_eq_true, if_false]

end

end

/-- Settles O18, instruction by instruction: MMA at the first attempt of the last group to arrive. -/
theorem matrixStepResults : Obligations.MatrixStepResults := by
  unfold Obligations.MatrixStepResults exec
  intro s n g vq va sa sb sc sd m ta tb f64 msk clr ps reg mask req
  extract_lets x h a set k bound room free r ofs bits base size mma t
  refine ⟨?mbq, ?mzero, ?mma, ?mloop, ?mmask, ?mstat⟩
  case mbq => exact fun hr hx hk hb => issue_eff hr (mbqBody_names hx hk hb)
  case mzero => exact fun hr hx hfree hroom => issue_eff hr (mzeroBody_binds hx hfree hroom)
  case mma =>
    intro hr hx hn hq hf hfree hw he hs hready hb
    refine issue_eff hr (mmaBody_issues hx hn hq hf hfree hw he (Ctx.joinMma_ready hs (fun p hp => ?_) hb))
    obtain ⟨hwaits, hcount, hta, htb, hset, htype, hguide, hfault, hstall⟩ := hready p hp
    exact ⟨hwaits, hcount, hta, htb, hset, htype, hguide, hfault, hstall⟩
  case mloop => exact fun hr hx h0 hhi hmask hf ht he hfree hroom => issue_eff hr (mloopBody_starts hx h0 hhi hmask hf ht he hfree hroom)
  case mmask => exact fun hr hx hlo hhi h32 hs hl he => issue_eff hr (mmaskBody_reads hx hlo hhi h32 hs hl he)
  case mstat => exact fun hr hx => issue_eff hr (once_live hx)

end Sys2Proof.Machine
end

section
/-!
PROOFS. Drains, guidance, twins, sketches, and saved accumulators (R248, R262, R264, R267, R268, R271, R272): each body's effect.
-/
namespace Sys2Proof.Machine

section
variable {x : Ctx} {s : State}

/-! #### Drains (R264, R275) -/

/-- The state in which rows have been written to consecutive lanes' registers from a register on. -/
def Ctx.rowsToRegs (x : Ctx) (s : State) (d : Nat) (ws : List (List Word)) : State :=
  (ws.zipIdx).foldl (fun t r => t.setVs x.c x.p r.2 d r.1) s

/-- The bytes of rows of words. -/
def rowImage (ws : List (List Word)) : List Byte := ws.flatMap fun r => r.flatMap fun w => leBytes 4 w.toNat

/-- Whether rows may be written at an offset of the slice, by work of a number: they are inside, change no barrier object, and neither a gate nor
engine work holds their place. -/
def Ctx.sliceOpen (x : Ctx) (s : State) (seq ofs : Nat) (ws : List (List Word)) : Prop :=
  scrFault (s.scrSlice x.c x.g.slot).2 ofs (rowImage ws).length 4 = none ∧
    s.clobbers x.c ((s.scrSlice x.c x.g.slot).1 + ofs) (rowImage ws).length = false ∧ s.storesFree x.c x.p x.e.mask = true ∧
    s.engineHold x.g.uid seq true true ((s.scrSlice x.c x.g.slot).1 + ofs) (rowImage ws).length = false

theorem Ctx.drainOut_slice {seq ofs : Nat} {ws : List (List Word)} {fin : State → State} (h : x.sliceOpen s seq ofs ws) :
    x.drainOut seq (.slice ofs) ws fin s =
      .ok (fin (s.setPoolBytes x.c ((s.scrSlice x.c x.g.slot).1 + ofs) (rowImage ws)).wakeWaits) := by
  obtain ⟨hfault, hclobbers, hstores, hhold⟩ := h
  unfold rowImage at hfault hclobbers hhold ⊢
  simp only [Ctx.drainOut, hfault, hclobbers, hstores, hhold, Bool.not_true, Bool.false_eq_true, if_false]

/-- The rows of an accumulator's chunk as MDRAIN writes them, with their flags. -/
def Ctx.drainRows (x : Ctx) (s : State) (m c : Nat) (bf16 : Bool) : List (List Word × FFlags) :=
  let a := s.acc x.c x.p m
  (a.chunk c).map (drainRow a.f64 bf16 (x.ftz s))

/-- MDRAIN of a chunk that exists, from an accumulator without a fault whose type and release allow it. -/
theorem mdrainBody_drains {to_ : Ctx → State → DrainTo} {m sb : BitVec 8} {bf16 rel : Bool} (hx : x.live ≠ 0#32)
    (hc : (x.sreg s sb).toNat ≤ 7) (hf : (s.acc x.c x.p m.toNat).flt.f = false) (ht : bf16 = true → (s.acc x.c x.p m.toNat).f64 = false)
    (hg : rel = true → s.guideWaits x.c x.p m.toNat = false) :
    mdrainBody to_ m sb bf16 rel x s =
      (let rows := x.drainRows s m.toNat (x.sreg s sb).toNat bf16
       x.drainOut s.nextId (to_ x s) (rows.map (·.1)) (fun t => (x.release rel m.toNat t).orFlags x.c x.p
         (rows.foldl (fun f r => f.or r.2) ({} : FFlags)).bits) s) := by
  have htype : (bf16 && (s.acc x.c x.p m.toNat).f64) = false := by simpa using ht
  have hguide : (rel && s.guideWaits x.c x.p m.toNat) = false := by simpa using hg
  rw [mdrainBody, once_live hx]
  simp only [Nat.not_lt.2 hc, hf, htype, hguide, Bool.false_eq_true, if_false]
  rfl

/-! #### MGUIDE (R268) -/

theorem guideReq_note (r : GuideReq) : guideReq r.note = some r := rfl

/-- The accumulators of the conditional and of the unconditional twin of a pair. -/
def Ctx.condAcc (x : Ctx) (s : State) (m q : Nat) : Acc := s.acc x.c (s.conditional x.c x.p q) m

def Ctx.plainAcc (x : Ctx) (s : State) (m q : Nat) : Acc := s.acc x.c (if s.conditional x.c x.p q = q then x.p else q) m

/-- An accumulator that guidance can read: bound, of f32, and without a fault. -/
def Acc.guides (a : Acc) : Prop := a.bound = true ∧ a.f64 = false ∧ a.flt.f = false

/-- What an MGUIDE that has issued needs to drain: its partner, the steps issued before it completed, no older MGUIDE of the partner still to read
where the bank is released, and two accumulators that guidance can read. -/
structure Ctx.GuideReady (x : Ctx) (s : State) (r : GuideReq) (rel : Bool) (q : Nat) : Prop where
  note : x.e.note = r.note
  partner : s.partner x.c x.p = some q
  steps : ∀ j ∈ s.mjobs, (j.uid = x.g.uid ∨ j.uid = (s.grp x.c q).uid) → j.m = r.m → r.seq ≤ j.id
  release : rel = true → s.guideBefore x.c q r.m r.seq = false
  own : (s.acc x.c x.p r.m).flt.f = false
  cond : (x.condAcc s r.m q).guides
  plain : (x.plainAcc s r.m q).guides

/-- The rows of a guided chunk as MGUIDE writes them, and the flags of their values and of their conversion. -/
def Ctx.guideRows (x : Ctx) (s : State) (r : GuideReq) (q : Nat) (bf16 : Bool) : List (List Word × FFlags) :=
  (guidedRows (x.ftz s) (BitVec.ofNat 32 r.gain) (x.condAcc s r.m q) (x.plainAcc s r.m q) r.c).map fun row =>
    drainRow false bf16 (x.ftz s) (row.map (·.1.toNat))

def Ctx.guideFlags (x : Ctx) (s : State) (r : GuideReq) (q : Nat) (bf16 : Bool) : FFlags :=
  (x.guideRows s r q bf16).foldl (fun f r => f.or r.2)
    ((guidedRows (x.ftz s) (BitVec.ofNat 32 r.gain) (x.condAcc s r.m q) (x.plainAcc s r.m q) r.c).foldl
      (fun f r => r.foldl (fun f e => f.or e.2) f) ({} : FFlags))

theorem mguideBody_drains {o : VS} {m sb sc : BitVec 8} {bf16 rel : Bool} {r : GuideReq} {q : Nat} (hx : x.live ≠ 0#32)
    (h : x.GuideReady s r rel q) :
    mguideBody o m sb sc bf16 rel x s =
      x.drainOut r.seq (if o.sc then .slice r.ofs else .regs o.n.toNat) ((x.guideRows s r q bf16).map (·.1))
        (fun t => (x.release rel r.m t).orEngineFlags x.c x.p (x.guideFlags s r q bf16).bits) s := by
  obtain ⟨hnote, hpartner, hsteps, hrelease, hown, ⟨hcb, hct, hcf⟩, ⟨hpb, hpt, hpf⟩⟩ := h
  have hover : (s.mjobs.any fun j => [x.g.uid, (s.grp x.c q).uid].contains j.uid && j.m == r.m && decide (j.id < r.seq)) = false := by
    simp only [List.any_eq_false, Bool.and_eq_true, List.contains_iff_mem, List.mem_cons, List.not_mem_nil, or_false, beq_iff_eq,
      decide_eq_true_eq]
    rintro j hj ⟨⟨huid, hm⟩, hlt⟩
    exact absurd (hsteps j hj huid hm) (Nat.not_le.2 hlt)
  have hbefore : (rel && s.guideBefore x.c q r.m r.seq) = false := by simpa using hrelease
  unfold Ctx.condAcc at hcb hct hcf
  unfold Ctx.plainAcc at hpb hpt hpf
  rw [mguideBody, once_live hx]
  simp only [hnote, guideReq_note, hpartner, Option.map_some, Option.toList_some, Option.getD_some, hover, hbefore, Bool.or_self,
    Bool.false_eq_true, if_false, Ctx.guide, hown, hcb, hct, hcf, hpb, hpt, hpf, Bool.not_true]
  rfl

/-! #### MTWIN and MSKETCH (R262, R267) -/

section
variable (hx : x.live ≠ 0#32)
include hx

/-- The state in which two twins are bound, and no loop has been matched since. -/
def Ctx.bindTwins (x : Ctx) (s : State) (q : Nat) : State :=
  [x.p, q].foldl (fun (u : State) p => u.setGrp x.c p { u.grp x.c p with bound := true, loops := 0 }) (s.unbindPair x.c x.p)

theorem mtwinBody_binds {q k : Nat} (ht : s.twinned x.c x.p = true) (hp : s.partner x.c x.p = some q) (hw : s.twinWait x.c q = some k) :
    mtwinBody x s = .ok ((x.bindTwins s q).advanceEntry x.c q k) := by
  rw [mtwinBody, once_live hx]
  simp only [ht, hp, hw, Bool.not_true, Bool.false_eq_true, if_false]
  rfl

end

/-- The scores of a sketch that are above the threshold, with the flags: of a low-rank tile by its factors, and of a zero one by its zeros. -/
def Ctx.sketchOut (x : Ctx) (s : State) (d : TDesc) (sc : BitVec 8) (at_ : Nat) : List Bool × FFlags :=
  let job : RJob := { toEng := x.engine [] s, what := .tzero ⟨false, 7#3⟩ 0#8 }
  match s.tileVal job d with
  | .low l r => (sketch (x.ftz s) l r (elemLines 4 d.m 32 (s.poolBytes x.c at_ (128 * d.m))) (x.sreg s sc).toNat).run {}
  | _ => (let hit := (TEnv.exceeds { f := .f32, ftz := x.ftz s } 0 (x.sreg s sc).toNat).run {}
          (List.replicate d.n hit.1, hit.2))

section
variable (hx : x.live ≠ 0#32)
include hx

/-- MSKETCH of an allocated tile of f32 that is not dense, with no earlier rank-tile work, stores the mask of its columns. -/
theorem msketchBody_sketches {sd t sb sc : BitVec 8} {tl : Tile} {d : TDesc} {xo mo nb : Nat} (htl : s.tile x.c x.p t.toNat = tl)
    (hd : TDesc.of tl.img = d) (hxo : (x.sreg s sb).toNat = xo) (hmo : (x.sreg s sd).toNat = mo) (hnb : 4 * ceilDiv d.n 32 = nb)
    (hn : x.e.note = []) (hj : ∀ j ∈ s.rjobs, j.core ≠ x.c) (hk : d.kind ≠ 1) (he : d.et ≠ 1) (hc : tl.code = 0)
    (ha : d.allocated (s.jobMap { toEng := x.engine [] s, what := .tzero ⟨false, 7#3⟩ 0#8 }) = true)
    (hfx : scrFault (s.scrSlice x.c x.g.slot).2 xo (128 * d.m) 4 = none) (hfm : scrFault (s.scrSlice x.c x.g.slot).2 mo nb 4 = none)
    (hcl : s.clobbers x.c ((s.scrSlice x.c x.g.slot).1 + mo) nb = false) (hs : s.storesFree x.c x.p x.e.mask = true)
    (hex : s.engineHold x.g.uid s.nextId true false ((s.scrSlice x.c x.g.slot).1 + xo) (128 * d.m) = false)
    (hem : s.engineHold x.g.uid s.nextId true true ((s.scrSlice x.c x.g.slot).1 + mo) nb = false) :
    msketchBody sd t sb sc x s =
      .ok (let base := (s.scrSlice x.c x.g.slot).1
           let out := x.sketchOut s d sc (base + xo)
           (s.setPoolBytes x.c (base + mo) (maskWords out.1)).wakeWaits.orEngineFlags x.c x.p out.2.bits) := by
  subst htl hd hxo hmo hnb
  have hearlier : s.rjobs.filter (·.core == x.c) = [] := List.filter_eq_nil_iff.2 fun j h => by simpa using hj j h
  rw [msketchBody, once_live hx]
  simp only [hn, hearlier, List.map_nil, List.isEmpty_nil, Bool.not_true, Bool.false_eq_true, if_false, hk, he, decide_false, Bool.or_self, hc,
    bne_self_eq_false, ha, hfx, hfm, hcl, hs, hex, hem]
  rfl

end

end

/-! #### Saved accumulators (R271, R272) -/

/-- A list of whole chunks is cut into them. -/
theorem chunksOf_exact {α : Type} {n : Nat} (hn : 0 < n) (k : Nat) : ∀ {fuel : Nat} {xs : List α}, xs.length = n * k → k ≤ fuel →
    (chunksOf n fuel xs).length = k ∧ ∀ c ∈ chunksOf n fuel xs, c.length = n := by
  induction k with
  | zero =>
    intro fuel xs hlen _
    have hnil : xs = [] := List.eq_nil_of_length_eq_zero (by simpa using hlen)
    subst hnil
    cases fuel <;> exact ⟨rfl, nofun⟩
  | succ k ih =>
    intro fuel xs hlen hfuel
    obtain ⟨fuel, rfl⟩ : ∃ f, fuel = f + 1 := ⟨fuel - 1, by omega⟩
    rw [Nat.mul_succ] at hlen
    have hne : xs.isEmpty = false := by
      cases xs with
      | nil => simp at hlen; omega
      | cons x xs => rfl
    obtain ⟨hrest, hall⟩ := ih (fuel := fuel) (xs := xs.drop n) (by rw [List.length_drop]; omega) (by omega)
    simp only [chunksOf, hne, Bool.false_eq_true, if_false, List.length_cons, hrest, List.forall_mem_cons, List.length_take]
    exact ⟨trivial, by omega, hall⟩

theorem slice_length (bs : List Byte) (lo n : Nat) : (slice bs lo n).length = n := by
  simp only [slice, List.length_append, List.length_replicate, List.length_take]
  omega

theorem Acc.image_length (a : Acc) : a.image.length = 32768 := by
  simp only [Acc.image, accCols, List.length_flatMap, leBytes_length, List.map_const', List.length_range, List.sum_replicate_nat]
  cases a.f64 <;> rfl

theorem saveRecord_length (a : Acc) (j : Option MJob) (mbits : Nat) : (saveRecord a j mbits).length = 128 := by
  cases hb : a.bound <;> simp [saveRecord, hb, leBytes_length]

section
variable {x : Ctx} {s : State}

/-- The loop that MSAVE of an accumulator suspends. -/
def Ctx.savedLoop (x : Ctx) (s : State) (m : Nat) : Option MJob := (s.mjobs.filter fun j => j.uid == x.g.uid && j.m == m).head?

/-- The mask that it saves: that of a masked loop, or the group's. -/
def Ctx.savedMask (x : Ctx) : Option MJob → List Byte × Nat
  | some j => if j.masked then (j.mask, j.mbits) else (x.g.mmask, x.g.mbits)
  | none => (x.g.mmask, x.g.mbits)

/-- The image that it stores. -/
def Ctx.saveImage (x : Ctx) (s : State) (m : Nat) : List Byte :=
  let loop := x.savedLoop s m
  (s.acc x.c x.p m).image ++ saveRecord (s.acc x.c x.p m) loop (x.savedMask loop).2 ++ slice (x.savedMask loop).1 0 512

theorem Ctx.saveImage_length (x : Ctx) (s : State) (m : Nat) : (x.saveImage s m).length = 128 * 261 := by
  simp only [Ctx.saveImage, List.length_append, Acc.image_length, saveRecord_length, slice_length]

/-- An image has 261 lines. -/
theorem Ctx.saveImage_lines {m : Nat} {q : List Byte × Nat}
    (h : q ∈ (chunksOf 128 (x.saveImage s m).length (x.saveImage s m)).zipIdx) : q.1.length = 128 ∧ q.2 < 261 := by
  obtain ⟨hcount, hall⟩ := chunksOf_exact (n := 128) (by decide) 261 (x.saveImage_length s m)
    (show 261 ≤ (x.saveImage s m).length by rw [Ctx.saveImage_length]; decide)
  obtain ⟨-, hlt, hq⟩ := List.mem_zipIdx h
  refine ⟨hall q.1 (hq ▸ List.getElem_mem _), ?_⟩
  omega

section
variable (hx : x.live ≠ 0#32)
include hx

/-- MSAVE, when every step of the accumulator's that is left is of a loop which may be stopped. -/
theorem msaveBody_saves {sa m : BitVec 8} {rel : Bool} {as : List Access} (ha : (x.sreg64 s sa).toNat % 128 = 0)
    (hm : ∀ j ∈ s.mjobs, j.uid = x.g.uid → j.m = m.toNat → j.loop = true ∧ s.engineFrozen x.c 4 = false)
    (hg : rel = true → s.guideWaits x.c x.p m.toNat = false)
    (hi : x.lineStores (x.sreg64 s sa) (x.saveImage s m.toNat) s = .ok as) (hf : s.linesFull x.c (linesOf as) = false) :
    msaveBody sa m rel x s =
      .ok (x.releaseLater rel m.toNat s.nextId as.length ((s.suspend (x.savedLoop s m.toNat)).addAccesses as)) := by
  have hmine : ∀ j ∈ s.mjobs.filter fun j => j.uid == x.g.uid && j.m == m.toNat, j.loop = true ∧ s.engineFrozen x.c 4 = false := by
    intro j hj
    simp only [List.mem_filter, Bool.and_eq_true, beq_iff_eq] at hj
    exact hm j hj.1 hj.2.1 hj.2.2
  have hloops : ((s.mjobs.filter fun j => j.uid == x.g.uid && j.m == m.toNat).any fun j => !j.loop) = false :=
    List.any_eq_false.2 fun j hj => by simp [(hmine j hj).1]
  have hfrozen : (s.engineFrozen x.c 4 && !(s.mjobs.filter fun j => j.uid == x.g.uid && j.m == m.toNat).isEmpty) = false := by
    cases hl : s.mjobs.filter fun j => j.uid == x.g.uid && j.m == m.toNat with
    | nil => simp
    | cons j js => simp [(hmine j (by simp [hl])).2]
  have hguide : (rel && s.guideWaits x.c x.p m.toNat) = false := by simpa using hg
  unfold Ctx.saveImage Ctx.savedLoop at hi
  rw [msaveBody, once_live hx]
  simp only [ha, hfrozen, hloops, hguide, bne_self_eq_false, Bool.or_self, Bool.false_eq_true, if_false, Ctx.savedLoop]
  cases hl : (s.mjobs.filter fun j => j.uid == x.g.uid && j.m == m.toNat).head? <;>
    (simp only [hl, Ctx.savedMask] at hi
     simp only [hi, hf, Bool.false_eq_true, if_false])

/-- MRSTR of a valid image without a loop. -/
theorem mrstrBody_restores {m sa : BitVec 8} {b : List Byte} {ps : List (Nat × Nat)} {f : State} (ha : (x.sreg64 s sa).toNat % 128 = 0)
    (hg : s.guideWaits x.c x.p m.toNat = false) (hd : x.reads s (x.sreg64 s sa) 33408 b ps) (hs : s.freshenPieces x.c ps = f)
    (hi : imageBad b = false) (he : f.engineFrozen x.c 4 = false) (hz : sliceNat ((b.drop 32768).take 128) 16 4 = 0)
    (hr : (f.acc x.c x.p m.toNat).bound = true ∨ f.freeBanks x.c ≠ 0) :
    mrstrBody m sa x s =
      .ok (let r := (b.drop 32768).take 128
           let f64 := sliceNat r 38 1 / 2 % 2 == 1
           let failed := sliceNat r 38 1 / 8 % 2 == 1
           let u := f.withAcc x.c x.p m.toNat f64
           let rec_ : AccRecord := { f := failed, code := if failed then sliceNat r 39 1 % 128 else 0, done := sliceNat r 40 4,
                                     addr := if failed then pair64 (Config.freeWord u.freeCount 0) 0#32 else 0#64 }
           let u := u.setAcc x.c x.p m.toNat { bound := true, f64 := f64, elems := imageElems b f64, flt := rec_ }
           u.setGrp x.c x.p { u.grp x.c x.p with
             mmask := (b.drop 32896).take ((sliceNat r 44 4 + 7) / 8), mbits := sliceNat r 44 4 }) := by
  subst hs
  have haddr : ∀ (failed : Bool) (u v : DWord), (if !failed then u else v) = if failed then v else u := fun failed u v => by
    cases failed <;> rfl
  rw [mrstrBody, once_live hx]
  simp only [ha, bne_self_eq_false, hg, Ctx.withDesc_reads hd, hi, he, State.bindAcc_room hr, hz, haddr, Bool.false_eq_true, if_true,
    if_false]

end

end

/-- Settles O19, instruction by instruction: MGUIDE at the attempt that drains. -/
theorem drainTwinSketchSaveResults : Obligations.DrainTwinSketchSaveResults := by
  unfold Obligations.DrainTwinSketchSaveResults exec
  refine ⟨?drains, ?others⟩
  case drains =>
    intro s n g d m sb sc sd o bf16 rel q r
    extract_lets x a c base size able rows finish toRegs image toSlice open_ pc pu ac au allOver gr gf gw finishG
    have ready : allOver → x.GuideReady s r rel q :=
      fun ⟨hnote, hpartner, hsteps, hrelease, hown, hcb, hpb, hct, hpt, hcf, hpf⟩ =>
        ⟨hnote, hpartner, hsteps, hrelease, hown, ⟨hcb, hct, hcf⟩, ⟨hpb, hpt, hpf⟩⟩
    refine ⟨?drain, ?drainS, ?guide, ?guideS⟩
    case drain => exact fun hr hx ⟨hc, hf, ht, hg⟩ => issue_eff hr (mdrainBody_drains hx hc hf ht hg)
    case drainS =>
      exact fun hr hx ⟨hc, hf, ht, hg⟩ hopen => issue_eff hr ((mdrainBody_drains hx hc hf ht hg).trans (Ctx.drainOut_slice hopen))
    case guide =>
      intro hr hx hover ho
      refine issue_eff hr ((mguideBody_drains hx (ready hover)).trans ?_)
      rw [ho]
      rfl
    case guideS =>
      intro hr hx hover ho hopen
      refine issue_eff hr ((mguideBody_drains hx (ready hover)).trans ?_)
      rw [ho]
      exact Ctx.drainOut_slice hopen
  case others =>
    intro s n g sd t sa sb sc m rel q k b pa ps
    extract_lets x a addr base size d xo mo nb job rows out bind loop m0 img line lines r f64 failed f
    refine ⟨?twin, ?sketch, ?save, ?restore⟩
    case twin => exact fun hr hx ht hp hw => issue_eff hr (mtwinBody_binds hx ht hp hw)
    case sketch =>
      exact fun hr hx hn hj hk he hc ha hfx hfm hcl hs hex hem =>
        issue_eff hr (msketchBody_sketches hx rfl rfl rfl rfl rfl hn hj hk he hc ha hfx hfm hcl hs hex hem)
    case save =>
      intro hr hx ha hm hg hi hf
      refine issue_eff hr (msaveBody_saves hx ha hm hg (Ctx.lineStores_ok (pa := pa) fun q hq => ?_) hf)
      obtain ⟨hlen, hlt⟩ := Ctx.saveImage_lines hq
      rw [hlen]
      exact hi q.2 hlt
    case restore => exact fun hr hx ha hg hd hi he hz hroom => issue_eff hr (mrstrBody_restores hx ha hg hd rfl hi he hz hroom)

end Sys2Proof.Machine
end

section
/-!
PROOFS. Work entries and trigger counters at issue (R314 to R319, R331): each body's effect, once a release that it waits for is over.
-/
namespace Sys2Proof.Machine

section
variable {x : Ctx} {s : State}

/-! #### After a release (R202) -/

/-- An instruction has kept its operands, its release is over, and no gate holds its stores. -/
def Ctx.released (x : Ctx) (s : State) (id : Nat) (ops : List Word) : Prop :=
  x.e.note = 0xF8 :: id :: ops.map BitVec.toNat ∧ s.relOpen id = false ∧ s.storesFree x.c x.p x.e.mask = true

theorem Ctx.released.operands {id : Nat} {ops : List Word} (h : x.released s id ops) (now : List Word) : x.operands now = ops := by
  obtain ⟨hn, -, -⟩ := h
  simp [Ctx.operands, hn, List.map_map, Function.comp_def]

theorem afterRelease_released {scope id : Nat} {ops : List Word} {body : Ctx → State → Res} (h : x.released s id ops) (now : List Word) :
    afterRelease scope now body x s = body x s := by
  obtain ⟨hn, hr, hs⟩ := h
  simp only [afterRelease, hn, List.headD_cons, hr, hs, Bool.not_true, Bool.or_self, Bool.false_eq_true, if_false]

theorem Ctx.operands_now (hn : x.e.note = []) (now : List Word) : x.operands now = now := by simp only [Ctx.operands, hn]

section
variable (hx : x.live ≠ 0#32)
include hx

/-! #### PUT, PUTS, PUTR and GET (R314, R315) -/

/-- A good block builds a free entry. -/
theorem buildWork_builds {kind : WorkKind} {sd sa : BitVec 8} {k : Nat} (hb : s.blockBad kind (x.block8 s sa) = false)
    (hf : s.pickFree 2048 (fun e => (s.workAt e).state == .free) = some k) :
    buildWork kind sd sa x s =
      .ok (let l := s.launchOf x.c x.p
           let w : Work := { state := .built, kind := kind, id := s.nextId, owner := x.g.node, core := x.c, grp := x.p, uid := x.g.uid,
                             block := x.block8 s sa, root := l.root, rootV := l.rootV, handler := x.g.handler }
           x.putS sd (BitVec.ofNat 32 k) (({ s with nextId := s.nextId + 1 } : State).setWork k w)) := by
  rw [buildWork, once_live hx]
  simp only [hb, hf, Bool.false_eq_true, if_false]

/-! #### QARM, TCNT and QSTAT (R316, R319, R331) -/

/-- QARM arms an entry, which fires at once when its counter stands at the threshold. -/
theorem qarmBody_arms {sa sb sc : BitVec 8} {id : Nat} {o1 o2 o3 : Word} (hr : x.released s id [o1, o2, o3]) (he : o1.toNat < 2048)
    (hs : (s.workAt o1.toNat).state = .built) (ho : (s.workAt o1.toNat).owner = x.g.node) (hn : o2.toNat < 4096) :
    qarmBody sa sb sc x s =
      .ok (let t := s.setWork o1.toNat { s.workAt o1.toNat with state := .armed, ctr := o2.toNat, threshold := o3.toNat }
           if o3.toNat ≤ (t.ctr o2.toNat).toNat then t.fire o1.toNat else t) := by
  have hbuilt : (decide (2048 ≤ o1.toNat) || (s.workAt o1.toNat).state != .built || (s.workAt o1.toNat).owner != x.g.node) = false := by
    simp [he, hs, ho]
  rw [qarmBody, once_live hx]
  simp only [hr.operands, List.getD_cons_zero, List.getD_cons_succ, hbuilt, Nat.not_le.2 hn, afterRelease_released hr, Bool.false_eq_true,
    if_false]

theorem tcntBody_reads {sd sa : BitVec 8} {v : VS} (hn : x.e.note = []) (ha : (x.sreg s sa).toNat < 4096)
    (hl : s.loadsFree x.c x.p x.e.mask = true) :
    tcntBody sd sa v 0 x s = .ok (x.putS sd (s.ctr (x.sreg s sa).toNat) (x.acquire 6 s)) := by
  rw [tcntBody, once_live hx]
  simp only [Ctx.operands_now hn, List.getD_cons_zero, Nat.not_le.2 ha, hl, Bool.not_true, Bool.false_eq_true, if_true, if_false]

/-- After its release TCNT adds to the counter up to its greatest value, or sets it. -/
theorem tcntBody_writes {sd sa : BitVec 8} {v : VS} {op id : Nat} {o1 o2 : Word} (hop : op ≠ 0) (hr : x.released s id [o1, o2])
    (ha : o1.toNat < 4096) :
    tcntBody sd sa v op x s =
      .ok (let sum := BitVec.ofNat 32 (min ((s.ctr o1.toNat).toNat + o2.toNat) (2 ^ 32 - 1))
           if op = 1 then x.putS sd sum (s.setCtr o1.toNat sum) else x.putS sd (s.ctr o1.toNat) (s.setCtr o1.toNat o2)) := by
  rw [tcntBody, once_live hx]
  simp only [hr.operands, List.getD_cons_zero, List.getD_cons_succ, Nat.not_le.2 ha, hop, afterRelease_released hr, if_false, ← apply_ite Res.ok]

/-- QSTAT reads free slots and entries, a link's word, whether a queue pair is in ERROR, or the first failed entry. -/
theorem qstatBody_reads {sd sa : BitVec 8} {op : BitVec 2} {rst : Bool} (ha : op = 1#2 ∨ op = 2#2 → (x.sreg s sa).toNat < 256)
    (hr : rst = true → op = 2#2) :
    qstatBody sd sa op.toNat rst x s =
      .ok (let a := (x.sreg s sa).toNat
           if op = 0#2 then
             x.putS sd (BitVec.ofNat 32 (256 - (s.colls.filter fun e => e.2.state != .free).length +
               (2048 - (s.work.filter fun e => e.2.state != .free).length) * 2 ^ 16)) s
           else if op = 1#2 then x.putS sd (BitVec.ofNat 32 ((s.ctlSlot (0x10000 + 8 * a)).toNat % 2 ^ 15)) s
           else if op = 2#2 then
             x.putS sd (BitVec.ofNat 32 (boolNat (s.qperr.contains a))) (if rst then { s with qperr := s.qperr.filter (· != a) } else s)
           else match s.firstFailed with
             | none => x.putS sd 0#32 s
             | some e => x.putS sd (BitVec.ofNat 32 (2 ^ 31 + (s.workAt e).code * 2 ^ 24 + e)) (s.setWork e {})) := by
  rw [qstatBody, once_live hx]
  obtain rfl | rfl | rfl | rfl : op = 0#2 ∨ op = 1#2 ∨ op = 2#2 ∨ op = 3#2 := by bv_omega
  case inl =>
    have hrst : rst = false := by simpa using hr
    subst hrst
    rfl
  case inr.inl =>
    have hrst : rst = false := by simpa using hr
    have ha := Nat.not_le.2 (ha (.inl rfl))
    subst hrst
    simp only [BitVec.toNat_ofNat, ha]
    rfl
  case inr.inr.inl =>
    have ha := Nat.not_le.2 (ha (.inr rfl))
    simp only [BitVec.toNat_ofNat, ha]
    cases rst <;> rfl
  case inr.inr.inr =>
    have hrst : rst = false := by simpa using hr
    subst hrst
    cases s.firstFailed <;> simp

end

end

/-- Settles O21, instruction by instruction. -/
theorem workEntryResults : Obligations.WorkEntryResults := by
  unfold Obligations.WorkEntryResults exec
  intro s n g sd sa sb sc v op rst k id o1 o2 o3
  extract_lets x b l free built released a armed sum
  refine ⟨?put, ?puts, ?putr, ?get, ?qarm, ?reads, ?writes, ?qstat⟩
  case put | puts | putr | get => exact fun hr hx hb ⟨_, hf⟩ => issue_eff hr (buildWork_builds hx hb hf)
  case qarm => exact fun hr hx hrel he hs ho hn => issue_eff hr (qarmBody_arms hx hrel he hs ho hn)
  case reads => exact fun hr hx hn ha hl => issue_eff hr (tcntBody_reads hx hn ha hl)
  case writes =>
    intro hr hop hx hrel ha
    have h0 : op.toNat ≠ 0 := fun h => hop (BitVec.eq_of_toNat_eq h)
    have h1 : op = 1#2 ↔ op.toNat = 1 := BitVec.toNat_inj.symm
    simp only [h1]
    exact issue_eff hr (tcntBody_writes hx h0 hrel ha)
  case qstat => exact fun hr hx ha hrst => issue_eff hr (qstatBody_reads hx ha hrst)

end Sys2Proof.Machine
end

section
/-!
PROOFS. Posted collectives at issue (R265, R329 to R331): each body's effect on the slot that it names.
-/
namespace Sys2Proof.Machine

section
variable {x : Ctx} {s : State}

/-- An instruction names a slot that its node owns (R330). -/
def Ctx.ownsSlot (x : Ctx) (s : State) (a : Nat) : Prop :=
  x.live ≠ 0#32 ∧ a < 256 ∧ (s.coll a).state ≠ .free ∧ (s.coll a).owner = some x.g.node

theorem withSlot_owned {sa : BitVec 8} {body : Nat → Ctx → State → Res} (h : x.ownsSlot s (x.sreg s sa).toNat) :
    withSlot sa body x s = body (x.sreg s sa).toNat x s := by
  obtain ⟨hx, ha, hs, ho⟩ := h
  have hslot : (decide (256 ≤ (x.sreg s sa).toNat) || (s.coll (x.sreg s sa).toNat).state == .free ||
      (s.coll (x.sreg s sa).toNat).owner != some x.g.node) = false := by
    simp [ha, hs, ho]
  rw [withSlot, once_live hx]
  simp only [hslot, Bool.false_eq_true, if_false]

section
variable (hx : x.live ≠ 0#32)
include hx

/-- QPOST, after its release, posts the block that it read as it issued. -/
theorem qpostBody_posts {sd sa : BitVec 8} {id slot : Nat} {ops : List Word} {t : State} (hr : x.released s id ops)
    (hp : s.postSlot ops { owner := some x.g.node, core := x.c, grp := x.p, uid := x.g.uid, root := (s.launchOf x.c x.p).root,
                           rootV := (s.launchOf x.c x.p).rootV, handler := x.g.handler } = .ok (slot, t)) :
    qpostBody sd sa x s = .ok (x.putS sd (BitVec.ofNat 32 slot) t) := by
  rw [qpostBody, once_live hx]
  simp only [hr.operands, hp, afterRelease_released hr]

/-- MDRAINC adds a chunk of an f32 accumulator to a started contribution of FP32 that has room for it. -/
theorem mdraincBody_adds {m sb sc : BitVec 8} {rel : Bool} {a : Acc} {q : Coll} {c to_ : Nat} (ha : s.acc x.c x.p m.toNat = a)
    (hq : s.coll to_ = q) (hc : (x.sreg s sb).toNat = c) (ht : (x.sreg s sc).toNat = to_) (hc7 : c ≤ 7) (hf : a.flt.f = false)
    (h32 : a.f64 = false) (hto : to_ < 256) (hs : q.state = .started) (ho : q.owner = some x.g.node) (hty : q.ty = 0) (hop : q.op ≤ 1)
    (hd : blockDrain q.block = true) (hn : q.drain.length + 1024 ≤ q.count) (hg : rel = true → s.guideWaits x.c x.p m.toNat = false) :
    mdraincBody m sb sc rel x s =
      .ok ((x.release rel m.toNat (s.setColl to_ { q with
        drain := q.drain ++ (a.chunk c).flatMap fun r => r.map fun v => BitVec.ofNat 32 v })).progress to_) := by
  subst ha hq hc ht
  have hguide : (rel && s.guideWaits x.c x.p m.toNat) = false := by simpa using hg
  have hslot : (decide (256 ≤ (x.sreg s sc).toNat) || (s.coll (x.sreg s sc).toNat).state != .started ||
      (s.coll (x.sreg s sc).toNat).owner != some x.g.node || (s.coll (x.sreg s sc).toNat).ty != 0 ||
      decide (1 < (s.coll (x.sreg s sc).toNat).op) || !blockDrain (s.coll (x.sreg s sc).toNat).block ||
      decide ((s.coll (x.sreg s sc).toNat).count < (s.coll (x.sreg s sc).toNat).drain.length + 1024)) = false := by
    simp [hto, hs, ho, hty, hop, hd, hn]
  rw [mdraincBody, once_live hx]
  simp only [Nat.not_lt.2 hc7, hf, h32, hslot, hguide, Bool.false_eq_true, if_false]

end

end

/-- Settles O22, instruction by instruction. -/
theorem collectiveResults : Obligations.CollectiveResults := by
  unfold Obligations.CollectiveResults exec
  intro s t n g sd sa sb sc m nw fre rel tr slot id ops
  extract_lets x l mk a k mine put acc c to_ q
  refine ⟨?posts, ?ticket, ?noTicket, ?completes, ?status, ?cancels, ?ring, ?drains⟩
  case posts => exact fun hr hx hp hn hrel hs => issue_eff hr (qpostBody_posts hx ⟨hn, hrel, hs⟩ hp)
  case ticket => exact fun hr hm hk => issue_eff hr ((withSlot_owned hm).trans (if_pos hk))
  case noTicket => exact fun hr hm hk => issue_eff hr ((withSlot_owned hm).trans (if_neg (Nat.not_le.2 hk)))
  case completes => exact fun hr hm hk => issue_eff hr ((withSlot_owned hm).trans (if_pos hk))
  case status => exact fun hr hm hk => issue_eff hr ((withSlot_owned hm).trans (if_neg (Bool.eq_false_iff.1 hk)))
  case cancels =>
    intro hr hm
    refine issue_eff hr ((withSlot_owned hm).trans ?_)
    simp only [beq_iff_eq, ← apply_ite Res.ok]
    rfl
  case ring => exact fun hr hx => issue_eff hr (once_live hx)
  case drains =>
    exact fun hr hx hc7 hf h32 hto hs ho hty hop hd hn hg => issue_eff hr (mdraincBody_adds hx rfl rfl rfl rfl hc7 hf h32 hto hs ho hty hop hd hn hg)

end Sys2Proof.Machine
end

section
/-!
PROOFS. Rank tiles at issue (R278 to R306): an instruction whose checks hold enters the burnisher with what it takes along.
-/
namespace Sys2Proof.Machine

section
variable {x : Ctx} {s : State}

/-- When every check holds and no named descriptor has a recorded fault, an instruction takes along what it asks for. -/
theorem RankSrc.check_ok {e : RankSrc} {fs : List (Bool × Nat)} {ts : List (BitVec 8)} {r : RankReq} (hf : fs.Forall fun f => f.1 = true)
    (ht : ts.Forall fun t => (e.tile t.toNat).code = 0) : e.check fs ts r = .ok r := by
  rw [List.forall_iff_forall_mem] at hf ht
  have hchecks : fs.find? (!·.1) = none := List.find?_eq_none.2 fun f h => by simp [hf f h]
  have htiles : (ts.find? fun t => (e.tile t.toNat).code != 0) = none := List.find?_eq_none.2 fun t h => by simp [ht t h]
  simp only [RankSrc.check, hchecks, htiles]

/-- A heap form of an aligned image, while the block's heap has no recorded fault (R293). -/
theorem RankSrc.heapForm_ok {e : RankSrc} {sa : BitVec 8} (ha : (e.sr64 sa).toNat % 128 = 0) (hf : e.heapFlt.1 = 0) (write : Bool) :
    e.heapForm write sa =
      .ok { words := [e.sr64 sa], foot := rangesFoot write [((e.sr64 sa).toNat % 2 ^ 57, heapImageBytes e.heapsz)] } := by
  simp only [RankSrc.heapForm, ha, hf, bne_self_eq_false, Bool.false_eq_true, if_false]

/-- The state in which an instruction stands last in the core's burnisher, a store to memory counted. -/
def Ctx.enterRank (x : Ctx) (s : State) (i : Instr) (foot : List (Bool × Bool × Nat × Nat)) (words : List DWord) (xs vdst sdst : List Nat)
    (stores : Bool) : State :=
  let j : RJob := { toEng := x.engine foot s, what := i, words := words, xs := xs, vdst := vdst, sdst := sdst }
  let u : State := { s with nextId := s.nextId + 1, rjobs := s.rjobs ++ [j] }
  (if stores then x.countAsync u else u).post .burnisherPhaseBoundary [x.c]

theorem rankBody_enters {i : Instr} {foot : List (Bool × Bool × Nat × Nat)} {words : List DWord} {xs vdst sdst : List Nat} {stores : Bool}
    (hx : x.live ≠ 0#32) (hf : s.engineFrozen x.c 5 = false)
    (hr : rankReq i (x.rankSrc s) = .ok { words := words, xs := xs, vdst := vdst, sdst := sdst, foot := foot }) (hs : rankStores i = stores) :
    rankBody i x s = .ok (x.enterRank s i foot words xs vdst sdst stores) := by
  rw [rankBody, once_live hx]
  simp only [hr, hf, hs, Bool.false_eq_true, if_false]
  rfl

end

/-- Settles O20, instruction by instruction: the checks of each are those of its statement. -/
theorem rankTileIssueResults : Obligations.RankTileIssueResults := by
  unfold Obligations.RankTileIssueResults exec
  intro s n g t a b sa sb sd d vb o rcd st rgt tr up un
  extract_lets x de clean enter heapsz addr stride rcw factor w ny xs
  have enter_eq : enter = x.enterRank s := rfl
  have enters : ∀ {i : Instr} {foot words xs vdst sdst stores}, s.runs n i → x.live ≠ 0#32 → s.engineFrozen x.c 5 = false →
      rankReq i (x.rankSrc s) = .ok { words := words, xs := xs, vdst := vdst, sdst := sdst, foot := foot } → rankStores i = stores →
      issue i g (rankBody i) s = .next ((x.enterRank s i foot words xs vdst sdst stores).advance n) :=
    fun hr hx hf hreq hs => issue_eff hr (rankBody_enters hx hf hreq hs)
  have desc : ∀ t, (x.rankSrc s).d t = de t := fun _ => rfl
  have pair : (x.rankSrc s).sr64 sa = addr := rfl
  have word : (x.rankSrc s).sr sb = stride := rfl
  clear_value enter
  subst enter_eq
  refine ⟨?tdesc, ?tdescRd, ?tld, ?tldf, ?tstD, ?tstF, ?tldHeap, ?tstHeap, ?tzero, ?thalc, ?thfre, ?trank, ?tadd, ?tmul, ?tupd, ?tscl, ?trnd,
    ?ttod, ?ttol, ?tpotrf, ?ttrsm, ?tmulv⟩
  case tdesc =>
    intro hr hx hf hv hrec
    exact enters hr hx hf (RankSrc.check_ok (e := x.rankSrc s) (fs := [((TDesc.of addr).valid heapsz && recordOk rcw, Code.TILE_BAD)]) (ts := [])
      (Bool.and_eq_true_iff.2 ⟨hv, hrec⟩) trivial) rfl
  case tdescRd | tzero | thfre | trank => exact fun hr hx hf => enters hr hx hf rfl rfl
  case tld | tstD =>
    intro hr hx hf ha hs hc
    exact enters hr hx hf (RankSrc.check_ok (by simp [desc, pair, word, ha, hs]) hc) rfl
  case tldf =>
    intro hr hx hf ha hlo hhi hc
    exact enters hr hx hf (RankSrc.check_ok (by simp [desc, pair, word, ha, hlo, hhi]) hc) rfl
  case tstF =>
    intro hr hx hf ha hk hc
    exact enters hr hx hf (RankSrc.check_ok (by simp [desc, pair, ha, hk]) hc) rfl
  case tldHeap => exact fun hr hx hf ha hh => enters hr hx hf (RankSrc.heapForm_ok ha hh false) rfl
  case tstHeap => exact fun hr hx hf ha hh => enters hr hx hf (RankSrc.heapForm_ok ha hh true) rfl
  case thalc =>
    intro hr hx hf hs hc
    exact enters hr hx hf (RankSrc.check_ok (by simp [desc, hs]) hc) rfl
  case tadd =>
    intro hr hx hf ha hb ht hca hcb
    exact enters hr hx hf (RankSrc.check_ok (by simp [desc, ha, hb]) ⟨ht, hca, hcb⟩) rfl
  case tmul | tupd =>
    intro hr hx hf h1 h2 h3 h4 h5 ht hca hcb
    exact enters hr hx hf (RankSrc.check_ok (by simp [desc, h1, h2, h3, h4, h5]) ⟨ht, hca, hcb⟩) rfl
  case tscl | ttod =>
    intro hr hx hf hl ht hca
    exact enters hr hx hf (RankSrc.check_ok (by simp [desc, hl]) ⟨ht, hca⟩) rfl
  case trnd | ttol =>
    intro hr hx hf hk hl ht hca
    exact enters hr hx hf (RankSrc.check_ok (by simp [desc, hk, hl]) ⟨ht, hca⟩) rfl
  case tpotrf =>
    intro hr hx hf hk hsq hl ht hca
    exact enters hr hx hf (RankSrc.check_ok (by simp [desc, hk, hsq, hl]) ⟨ht, hca⟩) rfl
  case ttrsm =>
    intro hr hx hf hk hsq hsides het hl ht hca hcb
    have hsides := hsq ▸ hsides
    exact enters hr hx hf (RankSrc.check_ok (by simp [desc, hk, hsq, hsides, het, hl]) ⟨ht, hca, hcb⟩) rfl
  case tmulv =>
    intro hr hx hf hc
    exact enters hr hx hf (RankSrc.check_ok (e := x.rankSrc s) (fs := []) (ts := [a]) trivial hc) rfl

end Sys2Proof.Machine
end

section
/-!
PROOFS. Task-graph instructions (R348 to R352): GWAIT of a node that has ended, while another entry still waits for it.
-/
namespace Sys2Proof.Machine

/-- What GWAIT of an ended node reads, its acquire included (R350). -/
def Ctx.readEnded (x : Ctx) (sd : BitVec 8) (k : Nat) (s : State) : State :=
  x.acquire 7 ((x.remember [] s).putStatus x.c x.p sd.toNat k)

/-- GWAIT leaves an ended node that another entry still waits for in its place (R350). -/
theorem gwaitBody_awaited {x : Ctx} {s : State} {sd sa : BitVec 8} {tr : Bool} {k : Nat} (hx : x.live ≠ 0#32) (hn : x.e.note = [])
    (ha : (x.sreg s sa).toNat = k) (hk : k < 4096) (hf : (s.node k).state ≠ .free) (hm : (s.node k).nameable k x.g.node = true)
    (he : (s.node k).state.ended = true) (hw : (x.readEnded sd k s).awaited k = true) :
    gwaitBody sd sa tr x s = .ok (x.readEnded sd k s) := by
  have known : ¬ 4096 ≤ k := Nat.not_le.2 hk
  rw [gwaitBody, once_live hx]
  simp only [hn, ha, known, hm, he, beq_eq_false_iff_ne.2 hf, decide_false, Bool.or_self, Bool.not_true, Bool.and_false, Bool.false_and,
    Bool.false_eq_true, if_false, if_true]
  exact congrArg Res.ok (if_pos hw)

theorem State.node_freeNode (s : State) (k : Nat) : (s.freeNode k).node k = {} := State.node_setNode_self s k {}

theorem State.node_advance (s : State) (n : Issuer) (k : Nat) : (s.advance n).node k = s.node k := by
  unfold State.advance
  dsimp only
  split <;> rfl

/-- Lane 0 of the group in place 0 of core 0 is about to issue with 1 in s0, node 1 has ended, and lane 1's entry still waits for it. -/
def waitedFor : State :=
  { (State.reset.setGrp 0 0 { live := true, frontier := [{ mask := 1#32 }, { mask := 2#32, note := [0xF1, 1, 4] }] }).setSr 0 0 0 1#32 with
    nodes := [(1, { state := .done })], issuer := some firstEntry }

/-- Refutes O23: GWAIT reads the status of node 1, for which another entry waits, and does not free it, where the statement has it freed. -/
theorem not_taskGraphResults : ¬ Obligations.TaskGraphResults := by
  unfold Obligations.TaskGraphResults
  intro h
  obtain ⟨-, -, -, -, gwait, -⟩ := h waitedFor waitedFor waitedFor firstEntry ⟨false, 7#3⟩ 0#8 0#8 0#8 false 0 0 [] [] 0#32 0#32
  have runs : waitedFor.runs firstEntry (.gwait ⟨false, 7#3⟩ 0#8 0#8 false) := by decide
  have live : (waitedFor.ctx firstEntry ⟨false, 7#3⟩).live ≠ 0#32 := by decide
  have submitted : (waitedFor.node 1).state ≠ .free := by decide
  have named : (waitedFor.node 1).nameable 1 0 = true := by decide
  have ended : (waitedFor.node 1).state.ended = true := by decide
  have awaited : ((waitedFor.ctx firstEntry ⟨false, 7#3⟩).readEnded 0#8 1 waitedFor).awaited 1 = true := by decide
  have kept := issue_eff (gd := ⟨false, 7#3⟩) runs
    (gwaitBody_awaited (sa := 0#8) (tr := false) live rfl (by decide) (by decide) submitted named ended awaited)
  have same := Host.Outcome.next.inj (kept.symm.trans (gwait runs live rfl ⟨by decide, submitted, named⟩ ended))
  have freed : NodeState.done = .free := calc
    NodeState.done = (((waitedFor.ctx firstEntry ⟨false, 7#3⟩).readEnded 0#8 1 waitedFor).node 1).state := by decide
    _ = _ := congrArg Node.state (State.node_advance _ firstEntry 1).symm
    _ = _ := congrArg (fun t : State => (t.node 1).state) same
    _ = _ := congrArg Node.state (State.node_advance _ firstEntry 1)
    _ = .free := congrArg Node.state (State.node_freeNode _ 1)
  exact absurd freed (by decide)

end Sys2Proof.Machine
end

section
/-!
PROOFS. The steps of packets (R311 to R318): each by what it comes to once nothing puts it off and nothing is lost.
-/
namespace Sys2Proof.Machine

section
variable {s t : State} {e src tag a n port id : Nat} {q : Packet}

/-- A fired entry whose packets are answered and whose local writes are complete completes (R317). -/
theorem State.entryCompletion_answered (hs : (s.workAt e).state = .fired) (hf : s.engineFrozen (s.workAt e).core 6 = false)
    (hsent : (s.workAt e).sent = true) (hl : s.lostAt (s.workAt e).id = none) (ha : s.awaitsPeer (s.workAt e).id = false)
    (ht : (s.workAt e).t ≤ s.dtime) :
    s.entryCompletion e =
      ((s.foldWct (s.workAt e).core (s.workAt e).grp (s.workAt e).uid (s.workAt e).id (s.workAt e).t).setWork e {}).countUp
        (blockWord (s.workAt e).block 5) := by
  simp only [State.entryCompletion, hs, hf, hsent, hl, ha, Nat.not_lt.2 ht, bne_self_eq_false, Bool.or_self, Bool.not_true,
    Option.isSome_none, Bool.false_eq_true, if_false]

/-- A step for a source acts at once when no earlier packet of that source is put off and no pin holds its ranges (R210, R313). -/
theorem State.forSource_unpinned {rs : List (Nat × Nat)} {what : Instr} {body : State → State} (hb : s.sourceBehind src = false)
    (hp : s.pinnedIn rs = false) : s.forSource src rs what body = body s := by
  simp only [State.forSource, hb, hp, Bool.false_eq_true, if_false]

theorem State.pinnedIn_nil : s.pinnedIn [] = false := by
  simp only [State.pinnedIn, State.pinsIn, List.any_nil, List.filter_false, List.map_nil, List.isEmpty_nil, Bool.not_true]

/-- A packet whose answer comes leaves those sent; that of a PUT lets its entry complete (R313). -/
theorem State.acknowledge_put (hq : s.packets.find? (fun q => q.id == id && q.dst == src && q.waiting && !q.held) = some q)
    (hk : q.kind = .put) (he : (s.donePacket id).workOf q.owner = some e) :
    s.acknowledge src id false = (s.donePacket id).post .entryCompletion [e] := by
  simp only [State.acknowledge, hq, hk, he, Bool.false_eq_true, if_false]

/-- The bytes of a GET reach the pieces of its range, which neither a pin nor an earlier access of its group holds (R313, R317). -/
theorem State.getData_stores {bs : List Byte} {ps : List (Nat × Nat)}
    (hq : s.packets.find? (fun q => q.id == id && q.dst == src && q.kind == .getReq && q.waiting && !q.held) = some q)
    (he : s.workOf q.owner = some e)
    (hps : s.engPieces (s.workAt e).core (s.workAt e).ctx true (s.workAt e).handler ((s.workAt e).local_ + BitVec.ofNat 64 (q.nums.headD 0))
      (slice bs 0 (q.nums.getD 1 0)).length = .ok ps)
    (hp : s.pinnedIn ps = false) (hh : s.sequencerHeld (s.workAt e).uid (s.workAt e).id true ps = false) :
    s.getData src id bs =
      (let stored := s.storePieces (s.workAt e).core (s.workAt e).id (q.nums.headD 0) ps (slice bs 0 (q.nums.getD 1 0)) s.dtime
       let u := (stored.1.donePacket id).wakeWaits
       (u.setWork e { u.workAt e with t := max (s.workAt e).t stored.2 }).post .entryCompletion [e]) := by
  simp only [State.getData, hq, he, hps, hp, hh, Bool.or_self, Bool.false_eq_true, if_false]

/-- Held packets for a device leave by the port that leads there, once no other port has one of them to answer (R311). -/
theorem State.routeSwitch_to (hp : s.portTo a = some port) (hg : ∀ q ∈ s.packets, q.dst = a → q.gone = false)
    (hw : ∀ q ∈ s.packets, q.dst = a → q.held = false → q.waiting = true → q.port = port) :
    s.routeSwitch a =
      ((s.packets.filter fun q => q.held && q.dst == a).foldl
        (fun u q => if q.waiting then u.timer false (u.dtime + 50000) .packetTimeout [q.id] else u)
        ({ s with packets := s.packets.map fun q =>
          if q.held && q.dst == a then { q with held := false, port := port, sent := s.dtime } else q } : State)) := by
  have lost : (s.packets.filter fun q => q.gone && q.dst == a) = [] := List.filter_eq_nil_iff.2 fun q hq h => by
    obtain ⟨hgone, hdst⟩ := Bool.and_eq_true_iff.1 h
    simp [hg q hq (beq_iff_eq.1 hdst)] at hgone
  have elsewhere : (s.packets.any fun q => q.dst == a && !q.held && q.waiting && q.port != port) = false := List.any_eq_false.2 fun q hq h => by
    simp only [Bool.and_eq_true, beq_iff_eq, Bool.not_eq_true', bne_iff_ne] at h
    obtain ⟨⟨⟨hdst, hheld⟩, hwait⟩, hport⟩ := h
    exact hport (hw q hq hdst hheld hwait)
  simp only [State.routeSwitch, lost, List.foldl_nil, hp, elsewhere, Bool.false_eq_true, if_false]

end

/-- Settles O29, step by step. -/
theorem packetStepResults : Obligations.PacketStepResults := by
  unfold Obligations.PacketStepResults exec
  intro s t e src tag a n port id ofs q ps
  extract_lets ev w bs serves put new red sent asked data stored down gone held freed
  have one : ∀ {k}, ev [k] → s.arg 0 = k := fun hs => State.arg_of_nums hs 0
  have two : ∀ {j k}, ev [j, k] → s.arg 0 = j ∧ s.arg 1 = k := fun hs => ⟨State.arg_of_nums hs 0, State.arg_of_nums hs 1⟩
  have three : ev [src, tag, a] → s.arg 0 = src ∧ s.arg 1 = tag ∧ s.arg 2 = a :=
    fun hs => ⟨State.arg_of_nums hs 0, State.arg_of_nums hs 1, State.arg_of_nums hs 2⟩
  have four : ev [src, tag, a, n] → s.arg 0 = src ∧ s.arg 1 = tag ∧ s.arg 2 = a ∧ s.arg 3 = n :=
    fun hs => ⟨State.arg_of_nums hs 0, State.arg_of_nums hs 1, State.arg_of_nums hs 2, State.arg_of_nums hs 3⟩
  refine ⟨?complete, ?put, ?signal, ?reduce, ?get, ?ack, ?data, ?timeout, ?down, ?up, ?route, ?resend, ?forward⟩
  case complete =>
    intro hs hfired hf hsent hl ha ht
    rw [execEntryCompletion, one hs, State.entryCompletion_answered hfired hf hsent hl ha ht]
  case put =>
    intro hs hserves
    obtain ⟨h0, h1, h2⟩ := three hs
    obtain ⟨hin, hb, hp⟩ : serves s.subject.bytes.length := hserves
    simp only [execPutPacket, h0, h1, h2, hin, State.forSource_unpinned hb hp, Bool.not_true, Bool.false_eq_true, if_false]
    rfl
  case signal =>
    intro hs hd hb happ
    obtain ⟨h0, h1, h2, h3⟩ := four hs
    simp only [execPutWithSignal, h0, h1, h2, h3, Nat.not_lt.2 hd, if_false, State.forSource_unpinned hb State.pinnedIn_nil, happ]
  case reduce =>
    intro hs hserves
    obtain ⟨h0, h1, h2⟩ := three hs
    obtain ⟨hin, hb, hp⟩ : serves s.subject.bytes.length := hserves
    simp only [execWriteWithReduce, h0, h1, h2, hin, State.forSource_unpinned hb hp, Bool.not_true, Bool.false_eq_true, if_false]
    rfl
  case get =>
    rintro hs ⟨hin, hb, hp⟩ hsend
    obtain ⟨h0, h1, h2, h3⟩ := four hs
    simp only [execGetRequest, h0, h1, h2, h3, hin, Bool.not_true, Bool.false_eq_true, if_false, State.forSource_unpinned hb hp, hsend,
      Option.getD_some]
  case ack =>
    intro hs hflag hq hk he
    obtain ⟨h0, h1⟩ := two hs
    rw [execAcknowledgement, h0, h1, hflag, State.acknowledge_put hq hk he]
  case data =>
    intro hs hq he hps hp hh
    obtain ⟨h0, h1⟩ := two hs
    rw [execGetData, h0, h1, State.getData_stores hq he hps hp hh]
  case timeout =>
    intro hs hq hw hh ht
    simp only [execPacketTimeout, one hs, hq, hw, hh, ht, decide_true, Bool.not_false, Bool.and_self, if_true]
  case down =>
    intro hs
    rw [execLinkDown, one hs]
    rfl
  case up =>
    intro hs
    rw [execLinkUp, one hs]
  case route =>
    intro hs hp hg hw
    rw [execRouteSwitch, one hs, State.routeSwitch_to hp hg hw]
  case resend =>
    intro hs
    rw [execFlitResend, one hs]
  case forward =>
    intro hs hp
    obtain ⟨-, h1⟩ := two hs
    simp only [execPacketForwarding, h1, hp]

end Sys2Proof.Machine
end

section
/-!
PROOFS. The steps of a collective (R313, R321 to R327): each by what it comes to when its message finds its slot or record and nothing holds it back.
-/
namespace Sys2Proof.Machine

/-! #### Messages leave the step's own subject as it is -/

theorem State.sendPacket_subject {s t : State} {q : Packet} (h : s.sendPacket q = some t) : t.subject = s.subject := by
  unfold State.sendPacket at h
  split at h
  · cases h
  · cases h
    split <;> rfl

theorem State.message_subject (s : State) (f : Nat) (kind : PacketKind) (what : Instr) (nums : List Nat) :
    (s.message f kind what nums).subject = s.subject := by
  unfold State.message
  split
  · exact State.post_subject s what nums
  · cases h : s.sendPacket { kind := kind, dst := f, nums := nums } with
    | none => rfl
    | some t => exact State.sendPacket_subject h

theorem State.grant_subject (s : State) (k : Coll) (rank n : Nat) : (s.grant k rank n).subject = s.subject := State.message_subject s _ _ _ _

theorem State.grant_arg (s : State) (k : Coll) (rank n j : Nat) : (s.grant k rank n).arg j = s.arg j := by
  rw [State.arg, State.grant_subject, State.arg]

section
variable {s : State} {slot team rank num : Nat} {r : MatchRec}

/-! #### The coordinator (R321, R323) -/

section
variable (hb : s.memberBehind team rank = false)
include hb

/-- A post joins the record of its number, and the last of them completes it (R321). -/
theorem State.postMessage_joins (hr : s.recOf team num = some r) (hc : r.state ≠ .cancelled) (rest : Nat × Nat × Nat × Nat) :
    s.postMessage team rank num rest =
      if s.teamSize team ≤ (r.posts ++ [(rank, rest)]).length then s.matched { r with posts := r.posts ++ [(rank, rest)] }
      else s.setRec { r with posts := r.posts ++ [(rank, rest)] } := by
  simp only [State.postMessage, hb, hr, beq_eq_false_iff_ne.2 hc, Bool.false_eq_true, if_false]

/-- The first post of its number takes a free record (R321). -/
theorem State.postMessage_opens (hr : s.recOf team num = none) (hl : s.recs.length < 1024) (rest : Nat × Nat × Nat × Nat) :
    s.postMessage team rank num rest = s.setRec { team := team, number := num, posts := [(rank, rest)] } := by
  simp only [State.postMessage, hb, hr, Nat.not_le.2 hl, Bool.false_eq_true, if_false]

end

/-- No post that still waits for a record keeps its own cancel behind it (R313, R323). -/
theorem State.noPostWaits {ns : List Nat} (h : ∀ e ∈ s.agenda, e.what = .postMessage → e.sub.nums.take 3 ≠ ns) :
    (s.agenda.any fun e => e.what == .postMessage && e.sub.nums.take 3 == ns) = false :=
  List.any_eq_false.2 fun e he hboth => by
    obtain ⟨hwhat, hnums⟩ := Bool.and_eq_true_iff.1 hboth
    exact h e he (beq_iff_eq.1 hwhat) (beq_iff_eq.1 hnums)

/-! #### Slots (R322, R323, R327) -/

/-- A POSTED slot sends a cancel to its coordinator (R323). -/
theorem State.cancelSlot_posted (h : (s.coll slot).state = .posted) :
    s.cancelSlot slot = (s.setColl slot { s.coll slot with state := .cancelSent }).message (s.teamFid (s.coll slot).team 0) .cancel .cancelMessage
      [(s.coll slot).team, (s.coll slot).rank, (s.coll slot).number] := by
  simp only [State.cancelSlot, h, bne_self_eq_false, Bool.false_eq_true, if_false]

/-- A ticketed collective that has started, before it does what it can: its credits are granted and its timeouts set (R313, R322, R327). -/
def State.startedColl (s : State) (slot : Nat) : State :=
  let k := s.coll slot
  let n := s.teamSize k.team
  let before := (k.rank + n - 1) % n
  let k := { k with state := .started, start := s.dtime, port := (s.portTo (s.teamFid k.team ((k.rank + 1) % n))).getD 31 }
  let u := (s.setColl slot k).grant k before 64
  let u := if k.op = 1 && k.rank + 1 != n && before + 1 != n then u.grant k (n - 1) 64 else u
  if k.tmo = 0 then u
  else (u.timer false (u.dtime + k.tmo) .collectiveTimeout [slot]).timer false (u.dtime + 2 * k.tmo) .collectiveResultTimeout [slot]

/-- The least ticket starts once no member's clock can still give a lower one and its port has room (R322, R325). -/
theorem State.startColl_starts {next port : Nat}
    (hnext : s.teamFid (s.coll slot).team (((s.coll slot).rank + 1) % s.teamSize (s.coll slot).team) = next)
    (hport : (s.portTo next).getD 31 = port) (ht : (s.coll slot).state = .ticketed) (hd : s.dev ≠ .checkpoint)
    (hleast : ∀ e ∈ s.colls, e.2.state = .ticketed → (s.coll slot).ticket ≤ e.2.ticket)
    (hclear : ∀ e ∈ s.colls, e.2.state = .posted ∨ e.2.state = .cancelSent → (s.coll slot).ticket < (e.2.clk + 1) * 256)
    (hu : s.unstaged next = false) (hf : s.engineFrozen (s.coll slot).core 6 = false) (hroom : port = 31 ∨ s.stagingRoom port = true) :
    s.startColl slot = ((s.startedColl slot).progress slot).pokeColls := by
  have least : (s.colls.all fun e => e.2.state != .ticketed || (s.coll slot).ticket ≤ e.2.ticket) = true := List.all_eq_true.2 fun e he => by
    by_cases h : e.2.state = .ticketed
    · simp [hleast e he h]
    · simp [h]
  have clear : (s.colls.all fun e => !(e.2.state == .posted || e.2.state == .cancelSent) || (s.coll slot).ticket < (e.2.clk + 1) * 256) = true :=
    List.all_eq_true.2 fun e he => by
      by_cases h : e.2.state = .posted ∨ e.2.state = .cancelSent
      · simp [hclear e he h]
      · simp [not_or.1 h]
  have room : (port != 31 && !s.stagingRoom port) = false := by
    rcases hroom with h | h <;> simp [h]
  have awake : (s.dev == .checkpoint) = false := beq_eq_false_iff_ne.2 hd
  subst hnext hport
  simp only [State.startColl, ht, hf, awake, least, clear, hu, room, bne_self_eq_false, Bool.not_true, Bool.or_self, Bool.false_eq_true, if_false]
  rfl

/-- What is missing two timeouts after the start is given up (R327). -/
theorem State.giveUp_late (hs : (s.coll slot).state = .started) (hl : (s.coll slot).lateAt 2 s.dtime = true)
    (hf : s.engineFrozen (s.coll slot).core 6 = false) :
    s.giveUp slot =
      (s.setColl slot { ((s.coll slot).keys (s.teamSize (s.coll slot).team)).foldl (fun (k : Coll) key =>
        let c := k.chunk key
        let miss := !c.written && !c.missing && k.mine (s.teamSize (s.coll slot).team) k.rank key
        { k with chunks := aset {} k.chunks key { c with sent := true, missing := c.missing || miss, fold := none },
                 missing := if miss then min 65535 (k.missing + 1) else k.missing }) (s.coll slot) with
        late2 := true, out := [], inq := [] }).flushColl slot := by
  simp only [State.giveUp, hs, hl, hf, BEq.rfl, Bool.and_self, Bool.not_true, Bool.or_self, Bool.false_eq_true, if_false]

/-- A settled collective that met no fault ends well, or partly where something is missing (R327). -/
theorem State.endColl_settled (hs : (s.coll slot).state = .started) (ho : (s.coll slot).out = []) (hi : (s.coll slot).inq = [])
    (hk : ((s.coll slot).keys (s.teamSize (s.coll slot).team)).all ((s.coll slot).settledKey (s.teamSize (s.coll slot).team)) = true)
    (hf : s.engineFrozen (s.coll slot).core 6 = false) (hl : s.lostAt (s.coll slot).id = none) (ha : s.awaitsPeer (s.coll slot).id = false)
    (hp : (s.coll slot).pass ≤ s.dtime) (hc : (s.coll slot).code = 0) :
    s.endColl slot =
      ({ s with credits := s.credits.filter fun e => e.1 / 256 != (s.coll slot).ticket,
                engLost := s.engLost.filter (·.1 != (s.coll slot).id) } : State).endSlot slot
        (if (s.coll slot).missing = 0 && !(s.coll slot).anyPart then .done else .partl) 0 := by
  simp only [State.endColl, hs, ho, hi, hk, hf, hl, ha, Nat.not_lt.2 hp, hc, bne_self_eq_false, List.isEmpty_nil, Bool.not_true, Bool.or_self,
    Option.isSome_none, decide_true, Bool.and_false, Bool.false_eq_true, if_false]

/-! #### Chunks that arrive (R324, R326) -/

section
variable (ht : s.slotOfTicket (s.arg 0) = some slot) (hc : s.arg 1 < (s.coll slot).nchunks)
include ht hc

/-- A fold of a chunk that this rank has not sent is kept with it, and its sender has a credit more (R313, R324). -/
theorem execFoldChunk_keeps (hk : (s.coll slot).folds = true) (hs : ((s.coll slot).chunk (s.arg 1)).sent = false) :
    execFoldChunk s = .next (((s.grant (s.coll slot)
        (((s.coll slot).rank + s.teamSize (s.coll slot).team - 1) % s.teamSize (s.coll slot).team) 1).setColl
      slot { s.coll slot with chunks := aset {} (s.coll slot).chunks (s.arg 1) { (s.coll slot).chunk (s.arg 1) with
        fold := some (s.arg 2, s.arg 3, s.subject.flag, s.subject.elems.take ((s.coll slot).len (s.arg 1))) } }).progress slot) := by
  simp only [execFoldChunk, ht, hk, hs, Nat.not_le.2 hc, Bool.not_true, decide_false, Bool.or_self, Bool.false_eq_true, if_false,
    State.grant_subject, State.grant_arg]

/-- A result chunk joins those to take, and its sender has a credit more (R313, R326). -/
theorem execResultChunk_joins (hr : s.arg 2 < s.teamSize (s.coll slot).team) :
    execResultChunk s = .next (((s.grant (s.coll slot) (if (s.coll slot).op = 1 then s.teamSize (s.coll slot).team - 1
        else ((s.coll slot).rank + s.teamSize (s.coll slot).team - 1) % s.teamSize (s.coll slot).team) 1).setColl
      slot { s.coll slot with inq := (s.coll slot).inq ++ [({
        result := true, to_ := (s.coll slot).rank, chunk := s.arg 1, first := s.arg 2, count := s.arg 3, partl := s.subject.flag,
        elems := s.subject.elems.take ((s.coll slot).len (s.arg 1)) } : OutChunk)] }).progress slot) := by
  simp only [execResultChunk, ht, Nat.not_le.2 hc, Nat.not_le.2 hr, decide_false, Bool.or_self, Bool.false_eq_true, if_false,
    State.grant_subject, State.grant_arg]

end

end

/-- Settles O30, step by step. -/
theorem collectiveStepResults : Obligations.CollectiveStepResults := by
  unfold Obligations.CollectiveStepResults exec
  intro s slot team rank num op ty cnt clk tick c first count n r
  extract_lets ev k size before post r' rc next port begun granted both started x o credited given
  have arg : ∀ {ns : List Nat}, ev ns → ∀ j, s.arg j = (ns[j]?).getD 0 := State.arg_of_nums
  have one : ev [slot] → s.arg 0 = slot := fun hs => arg hs 0
  have two : ∀ {a b}, ev [a, b] → s.arg 0 = a ∧ s.arg 1 = b := fun hs => ⟨arg hs 0, arg hs 1⟩
  have three : ∀ {a b d}, ev [a, b, d] → s.arg 0 = a ∧ s.arg 1 = b ∧ s.arg 2 = d := fun hs => ⟨arg hs 0, arg hs 1, arg hs 2⟩
  have four : ev [tick, c, first, count] → s.arg 0 = tick ∧ s.arg 1 = c ∧ s.arg 2 = first ∧ s.arg 3 = count :=
    fun hs => ⟨arg hs 0, arg hs 1, arg hs 2, arg hs 3⟩
  have posted : ev [team, rank, num, op, ty, cnt, clk] → execPostMessage s = .next (s.postMessage team rank num (op, ty, cnt, clk)) := by
    intro hs
    rw [execPostMessage, arg hs 0, arg hs 1, arg hs 2, arg hs 3, arg hs 4, arg hs 5, arg hs 6]
    rfl
  refine ⟨?joins, ?opens, ?ticket, ?mismatch, ?cancelled, ?cancel, ?postTimeout, ?start, ?fold, ?result, ?credit, ?late, ?giveUp, ?ends⟩
  case joins =>
    intro hs hb hr hc
    rw [posted hs, State.postMessage_joins hb hr hc]
  case opens =>
    intro hs hb hr hl
    rw [posted hs, State.postMessage_opens hb hr hl]
  case ticket =>
    intro hs hslot
    obtain ⟨h0, h1, h2⟩ := three hs
    simp only [execTicketMessage, h0, h1, h2, hslot]
    rfl
  case mismatch =>
    intro hs hslot
    obtain ⟨h0, h1⟩ := two hs
    simp only [execMismatchMessage, h0, h1, hslot]
  case cancelled =>
    intro hs hslot
    obtain ⟨h0, h1⟩ := two hs
    simp only [execCancelledMessage, h0, h1, hslot]
  case cancel =>
    intro hs hw hb hr hc
    obtain ⟨h0, h1, h2⟩ := three hs
    simp only [execCancelMessage, h0, h1, h2, State.noPostWaits hw, hb, hr, hc, bne_self_eq_false, Bool.false_eq_true, if_false]
    rfl
  case postTimeout =>
    intro hs hp ht hd
    rw [execPostTimeout, one hs, State.cancelSlot_posted hp]
    exact congrArg Host.Outcome.next (if_pos (by simp [show (s.coll slot).state = .posted from hp, show (s.coll slot).tmo ≠ 0 from ht,
      show (s.coll slot).posted + (s.coll slot).tmo ≤ s.dtime from hd]))
  case start =>
    intro hs ht hd hleast hclear hu hf hroom
    rw [execCollectiveStart, one hs, State.startColl_starts rfl rfl ht hd hleast hclear hu hf hroom]
    rfl
  case fold =>
    intro hs hslot hk hc hsent
    obtain ⟨h0, h1, h2, h3⟩ := four hs
    rw [execFoldChunk_keeps (slot := slot) (h0 ▸ hslot) (h1 ▸ hc) hk (h1 ▸ hsent), h1, h2, h3]
  case result =>
    intro hs hslot hc hr
    obtain ⟨h0, h1, h2, h3⟩ := four hs
    rw [execResultChunk_joins (slot := slot) (h0 ▸ hslot) (h1 ▸ hc) (h2 ▸ hr), h1, h2, h3]
  case credit =>
    intro hs
    obtain ⟨h0, h1, h2⟩ := three hs
    simp only [execCredit, h0, h1, h2]
    rfl
  case late =>
    intro hs hstart hl
    rw [execCollectiveTimeout, one hs]
    exact congrArg Host.Outcome.next (if_pos (Bool.and_eq_true_iff.2 ⟨beq_iff_eq.2 hstart, hl⟩))
  case giveUp =>
    intro hs hstart hl hf
    rw [execCollectiveResultTimeout, one hs, State.giveUp_late hstart hl hf]
  case ends =>
    intro hs hstart ho hi hk hf hl ha hp hc
    rw [execCollectiveEnd, one hs, State.endColl_settled hstart ho hi hk hf hl ha hp hc]

end Sys2Proof.Machine
end
